-- ==== Sys2Proof/Word.lean ====
section
/-! DEFINITION. The word types of the JM-C9 and the canonical finite map in which memories and register files are held.

Word types: R2, R78. A finite map is a list of (key, value) pairs with strictly rising keys and no pair whose
value is the map's default, so that equal maps are equal data. -/

namespace Sys2Proof

/-- A byte of memory (R2). -/
abbrev Byte := BitVec 8

/-- A 64-bit scalar register or doubleword (R78). -/
abbrev Word := BitVec 64

/-- A predicate register of 128 bits (R78). -/
abbrev Pred := BitVec 128

/-- A vector register of 512 bytes, 4,096 bits (R78, R79). -/
abbrev Vec := BitVec 4096

/-- A finite map in canonical form; what an unlisted key reads as is the `d` given to its operations. -/
abbrev AMap (α : Type) := List (Nat × α)

/-- The value of a map at a key; an unlisted key reads as the default. -/
def mget {α : Type} (d : α) : AMap α → Nat → α
  | [], _ => d
  | (k', v') :: m, k => if k = k' then v' else if k < k' then d else mget d m k

/-- Is the key listed? -/
def mhas {α : Type} : AMap α → Nat → Bool
  | [], _ => false
  | (k', _) :: m, k => if k = k' then true else if k < k' then false else mhas m k

/-- Does every key of a canonical map lie above k? -/
def mabove {α : Type} (k : Nat) : AMap α → Bool
  | [] => true
  | (k', _) :: _ => decide (k < k')

/-- The map with one key given a value; giving the default removes the pair. -/
def mset {α : Type} [DecidableEq α] (d : α) : AMap α → Nat → α → AMap α
  | [], k, v => if v = d then [] else [(k, v)]
  | (k', v') :: m, k, v =>
    if k = k' then (if v = d ∧ mabove k m = true then m else (k, v) :: m)
    else if k < k' then (if v = d then (k', v') :: m else (k, v) :: (k', v') :: m)
    else (k', v') :: mset d m k v

/-- Keys strictly rising from a lower bound, no pair holding the default. -/
def mwfFrom {α : Type} [DecidableEq α] (d : α) : Nat → AMap α → Bool
  | _, [] => true
  | lo, (k, v) :: m => decide (lo ≤ k) && decide (v ≠ d) && mwfFrom d (k + 1) m

/-- The canonical form of a map. -/
def mwf {α : Type} [DecidableEq α] (d : α) (m : AMap α) : Bool := mwfFrom d 0 m

/-- The map with the value at a key changed by a function. -/
def mupd {α : Type} [DecidableEq α] (d : α) (m : AMap α) (k : Nat) (f : α → α) : AMap α :=
  mset d m k (f (mget d m k))

end Sys2Proof
end

