-- ==== Sys2Proof/Config.lean ====
section
/-! DEFINITION. What the spec leaves open for the machine as a whole. Each constant is opaque: no proof can see its value, and
every claim holds whatever it is. Each is named in notes/assumptions/2.md or in the log entry its docstring names. -/

namespace Sys2Proof.Config

/-- The free value with a given index: what the spec leaves undefined in a result after which the machine goes on. -/
opaque freeWord : Nat → Word

/-- The line that a stacked-cache bank evicts to make room: the lines that it holds, and the line that comes (R374; notes/assumptions/48.md). -/
opaque scVictim : List Nat → Nat → Nat

/-- The free byte with a given index and position. -/
opaque freeByte : Nat → Nat → Byte

/-- The stored bytes of a sector under a key: key material, sector number at its home, plaintext as a number of 1,024 bits, and the byte
(AES-256-XTS, R388; notes/assumptions/3.md). -/
opaque xtsEnc : Nat → Nat → Nat → Nat → Byte

/-- The plaintext of 128 stored bytes under a key: key material, sector number, stored bytes, and the byte (R388). -/
opaque xtsDec : Nat → Nat → Nat → Nat → Byte

/-- The 32-bit MAC of a sector: key material, physical address, key index and stored bytes (AES-CMAC, R388). -/
opaque sectorMac : Nat → Nat → Nat → Nat → BitVec 32

/-- AES-256-GCM (R346, R406, R414): the ciphertext, of which a byte each, and the tag of 128 bits, from key, nonce, authenticated data and plaintext. -/
opaque gcmCipher : List Byte → List Byte → List Byte → List Byte → Nat → Byte
opaque gcmTag : List Byte → List Byte → List Byte → List Byte → BitVec 128

/-- AES-256-GCM opening: does the tag verify, and the plaintext, of which a byte each, from key, nonce, authenticated data and ciphertext. -/
opaque gcmVerifies : List Byte → List Byte → List Byte → List Byte → List Byte → Bool
opaque gcmPlain : List Byte → List Byte → List Byte → List Byte → Nat → Byte

/-- SHA-512 (R385, R390, R391). -/
opaque sha512Bits : List Byte → BitVec 512

/-- SHA-512/256 (R122, R368). -/
opaque sha512tBits : List Byte → BitVec 256

/-- The RSASSA-PSS signature of a message under the device identity key of a generation (R391, R429). -/
opaque signature : Nat → List Byte → BitVec 4096

/-- The n bytes of a number, most significant first. -/
def bytesOf (n x : Nat) : List Byte := (List.range n).map fun i => BitVec.ofNat 8 (x / 256 ^ (n - 1 - i))

/-- Ciphertext, as long as the plaintext, and tag of 16 bytes. -/
def gcmSeal (key nonce aad plain : List Byte) : List Byte × List Byte :=
  ((List.range plain.length).map (gcmCipher key nonce aad plain), bytesOf 16 (gcmTag key nonce aad plain).toNat)

/-- The plaintext, as long as the ciphertext, when the tag verifies. -/
def gcmOpen (key nonce aad cipher tag : List Byte) : Option (List Byte) :=
  if gcmVerifies key nonce aad cipher tag then some ((List.range cipher.length).map (gcmPlain key nonce aad cipher)) else none

/-- SHA-512: 64 bytes. -/
def sha512 (bs : List Byte) : List Byte := bytesOf 64 (sha512Bits bs).toNat

/-- SHA-512/256: 32 bytes. -/
def sha512t (bs : List Byte) : List Byte := bytesOf 32 (sha512tBits bs).toNat

/-- A signature: 512 bytes, big-endian (R391). -/
def sign (gen : Nat) (bs : List Byte) : List Byte := bytesOf 512 (signature gen bs).toNat

/-- Does an RSASSA-PSS signature verify under the Jalmet firmware key (R390)? -/
opaque firmwareSigOk : List Byte → List Byte → Bool

/-- Does an RSASSA-PSS signature verify under the Jalmet service key (R396)? -/
opaque serviceSigOk : List Byte → List Byte → Bool

/-- The RSAES-OAEP plaintext of a blob under the key-import key of a generation (R386). -/
opaque oaepOpen : Nat → List Byte → Option (List Byte)

/-- The public key of the key-import key of a generation, modulus then exponent, big-endian (R391). -/
opaque kikPublic : Nat → List Byte

/-- Bytes 0 to 7 of the SHA-512 of the public modulus of the device identity key of a generation (R384). -/
opaque dikId : Nat → Word

/-- The random number that the key engine draws with a given index (R388, R414). -/
opaque random : Nat → Nat

/-- The code-word address of the .trapentry label of an image, by image id (R334); the spec places it nowhere in memory
(notes/assumptions/6.md). -/
opaque trapEntry : Nat → Option (BitVec 32)

/-- The dictionary of firmware: physical base and number of bundles, by security version; the spec does not place it within the image
(R444; notes/assumptions/7.md). -/
opaque fwDict : Nat → Nat × Nat

/-- The bytes of the whorl region of a bank image, in a layout that only the device reads (R348). -/
opaque whorlByte : Nat → Nat → Byte

/-- The model number of a flash drive (R328). -/
opaque driveModel : Nat → List Byte


end Sys2Proof.Config
end

