-- ==== Sys2Proof/Syntax.lean ====
section
/-! DEFINITION. The instructions and events of the JM-C9: one constructor for each row of spec/opcode_table.json.

Slot operations carry the raw fields of their slot format (R67 to R71) and micro-ops those of R253. The events of engines, of the
distaff, of the host and of the board carry no field: what accompanies an event (which die, which command, the bytes that arrived)
stands in `State.ev`. -/

namespace Sys2Proof

/-- The fields of an S slot (R67). -/
structure SF where
  xd : BitVec 6
  xa : BitVec 6
  xb : BitVec 6
  imm : BitVec 14
  deriving DecidableEq, Repr

/-- The fields of a V slot (R68); `ty` is the type half of its opcode (R93). -/
structure VF where
  ty : BitVec 4
  vd : BitVec 9
  va : BitVec 9
  vb : BitVec 9
  vc : BitVec 9
  g : BitVec 4
  bpsel : BitVec 2
  zero : Bool
  nan : Bool
  rnd : BitVec 2
  deriving DecidableEq, Repr

/-- The fields of an L slot (R69). -/
structure LF where
  reg : BitVec 9
  xbase : BitVec 6
  off : BitVec 16
  g : BitVec 4
  bpd : Bool
  opx : Bool
  scope : BitVec 3
  deriving DecidableEq, Repr

/-- The fields of a B slot (R70); XC is `pred ++ asm`. -/
structure BF where
  disp : BitVec 14
  pred : BitVec 3
  asm : Bool
  deriving DecidableEq, Repr

/-- The fields of an M slot (R71). -/
structure MF where
  rout : BitVec 10
  bpi : Bool
  flags : BitVec 5
  imm : BitVec 20
  deriving DecidableEq, Repr

/-- The fields of a micro-op (R253): the union of the fields of the table; a micro-op without a field holds zero there. -/
structure UF where
  sel : BitVec 5 := 0      -- TS or TD
  acc : BitVec 3 := 0      -- AS
  ta : BitVec 5 := 0       -- TA, or SRC of CVT
  tb : BitVec 5 := 0
  arg : BitVec 3 := 0      -- ARG, ARGA or ARGR
  argb : BitVec 3 := 0     -- ARGB, ARGC, or SRC of ADDR
  pitch : BitVec 16 := 0   -- PITCH, or COUNT of LOOP
  off : BitVec 16 := 0
  rows : BitVec 7 := 0     -- ROWSM1
  cols : BitVec 7 := 0     -- COLSM1
  en : Bool := false       -- ENA, SK, CS, RON or SENSE
  enb : Bool := false      -- CON
  mode : BitVec 2 := 0     -- MODE of ADDR
  imm : BitVec 32 := 0
  last : BitVec 14 := 0
  tlive : BitVec 16 := 0
  slive : BitVec 5 := 0
  amask : BitVec 4 := 0
  smask : BitVec 2 := 0
  bit : BitVec 3 := 0
  deriving DecidableEq, Repr

/-- One constructor for each row of spec/opcode_table.json. -/
inductive Instr where
  /-- S_NOP, S slot (R91). -/
  | sNop (f : SF)
  /-- ADD, S slot (R161). -/
  | add (f : SF)
  /-- SUB, S slot (R161). -/
  | sub (f : SF)
  /-- ADDI, S slot (R161). -/
  | addi (f : SF)
  /-- MUL, S slot (R161). -/
  | mul (f : SF)
  /-- MULHS, S slot (R161). -/
  | mulhs (f : SF)
  /-- MULHN, S slot (R161). -/
  | mulhn (f : SF)
  /-- DIVS, S slot (R162). -/
  | divs (f : SF)
  /-- DIVN, S slot (R162). -/
  | divn (f : SF)
  /-- REMS, S slot (R162). -/
  | rems (f : SF)
  /-- REMN, S slot (R162). -/
  | remn (f : SF)
  /-- ADDSHL, S slot (R161). -/
  | addshl (f : SF)
  /-- MINS, S slot (R161). -/
  | mins (f : SF)
  /-- MINN, S slot (R161). -/
  | minn (f : SF)
  /-- MAXS, S slot (R161). -/
  | maxs (f : SF)
  /-- MAXN, S slot (R161). -/
  | maxn (f : SF)
  /-- AND, S slot (R163). -/
  | and (f : SF)
  /-- OR, S slot (R163). -/
  | or (f : SF)
  /-- XOR, S slot (R163). -/
  | xor (f : SF)
  /-- ANDN, S slot (R163). -/
  | andn (f : SF)
  /-- ANDI, S slot (R163). -/
  | andi (f : SF)
  /-- ORI, S slot (R163). -/
  | ori (f : SF)
  /-- XORI, S slot (R163). -/
  | xori (f : SF)
  /-- SHL, S slot (R163). -/
  | shl (f : SF)
  /-- SHRL, S slot (R163). -/
  | shrl (f : SF)
  /-- SHRA, S slot (R163). -/
  | shra (f : SF)
  /-- SHLI, S slot (R163). -/
  | shli (f : SF)
  /-- SHRLI, S slot (R163). -/
  | shrli (f : SF)
  /-- SHRAI, S slot (R163). -/
  | shrai (f : SF)
  /-- ROTR, S slot (R163). -/
  | rotr (f : SF)
  /-- ROTRI, S slot (R163). -/
  | rotri (f : SF)
  /-- MOVI, S slot (R164). -/
  | movi (f : SF)
  /-- MOVHI, S slot (R164). -/
  | movhi (f : SF)
  /-- SEQ, S slot (R165). -/
  | seq (f : SF)
  /-- SNE, S slot (R165). -/
  | sne (f : SF)
  /-- SLTS, S slot (R165). -/
  | slts (f : SF)
  /-- SLTN, S slot (R165). -/
  | sltn (f : SF)
  /-- SLTIS, S slot (R165). -/
  | sltis (f : SF)
  /-- SLTIN, S slot (R165). -/
  | sltin (f : SF)
  /-- BFXS, S slot (R166). -/
  | bfxs (f : SF)
  /-- BFXN, S slot (R166). -/
  | bfxn (f : SF)
  /-- BFI, S slot (R166). -/
  | bfi (f : SF)
  /-- POPC, S slot (R167). -/
  | popc (f : SF)
  /-- CLZ, S slot (R167). -/
  | clz (f : SF)
  /-- CTZ, S slot (R167). -/
  | ctz (f : SF)
  /-- PSETX, S slot (R168). -/
  | psetx (f : SF)
  /-- PANY, S slot (R168). -/
  | pany (f : SF)
  /-- PALL, S slot (R168). -/
  | pall (f : SF)
  /-- PCNT, S slot (R168). -/
  | pcnt (f : SF)
  /-- CRR, S slot (R169). -/
  | crr (f : SF)
  /-- CRW, S slot (R169). -/
  | crw (f : SF)
  /-- SETFMT, S slot (R170). -/
  | setfmt (f : SF)
  /-- TSHAPE, S slot (R171). -/
  | tshape (f : SF)
  /-- MSETP, S slot (R172). -/
  | msetp (f : SF)
  /-- MGETP, S slot (R172). -/
  | mgetp (f : SF)
  /-- MPCSET, S slot (R173). -/
  | mpcset (f : SF)
  /-- DSET, S slot (R174). -/
  | dset (f : SF)
  /-- DGET, S slot (R174). -/
  | dget (f : SF)
  /-- VMOV, V slot (R197). -/
  | vmov (f : VF)
  /-- VADD, V slot (R196). -/
  | vadd (f : VF)
  /-- VSUB, V slot (R196). -/
  | vsub (f : VF)
  /-- VMUL, V slot (R196). -/
  | vmul (f : VF)
  /-- VFMA, V slot (R196). -/
  | vfma (f : VF)
  /-- VFMS, V slot (R196). -/
  | vfms (f : VF)
  /-- VFNMA, V slot (R196). -/
  | vfnma (f : VF)
  /-- VMULH, V slot (R197). -/
  | vmulh (f : VF)
  /-- VMIN, V slot (R197). -/
  | vmin (f : VF)
  /-- VMAX, V slot (R197). -/
  | vmax (f : VF)
  /-- VABS, V slot (R197). -/
  | vabs (f : VF)
  /-- VNEG, V slot (R197). -/
  | vneg (f : VF)
  /-- VADDSAT, V slot (R197). -/
  | vaddsat (f : VF)
  /-- VSUBSAT, V slot (R197). -/
  | vsubsat (f : VF)
  /-- VAVG, V slot (R197). -/
  | vavg (f : VF)
  /-- VAND, V slot (R198). -/
  | vand (f : VF)
  /-- VOR, V slot (R198). -/
  | vor (f : VF)
  /-- VXOR, V slot (R198). -/
  | vxor (f : VF)
  /-- VANDN, V slot (R198). -/
  | vandn (f : VF)
  /-- VSHL, V slot (R198). -/
  | vshl (f : VF)
  /-- VSHR, V slot (R198). -/
  | vshr (f : VF)
  /-- VPOPC, V slot (R198). -/
  | vpopc (f : VF)
  /-- VCLZ, V slot (R198). -/
  | vclz (f : VF)
  /-- VRCP, V slot (R199). -/
  | vrcp (f : VF)
  /-- VRSQRT, V slot (R199). -/
  | vrsqrt (f : VF)
  /-- VEXP2, V slot (R199). -/
  | vexp2 (f : VF)
  /-- VLOG2, V slot (R199). -/
  | vlog2 (f : VF)
  /-- VTANH, V slot (R199). -/
  | vtanh (f : VF)
  /-- VSIGM, V slot (R199). -/
  | vsigm (f : VF)
  /-- VCMPEQ, V slot (R200). -/
  | vcmpeq (f : VF)
  /-- VCMPNE, V slot (R200). -/
  | vcmpne (f : VF)
  /-- VCMPLT, V slot (R200). -/
  | vcmplt (f : VF)
  /-- VCMPLE, V slot (R200). -/
  | vcmple (f : VF)
  /-- VCLASS, V slot (R201). -/
  | vclass (f : VF)
  /-- VSEL, V slot (R202). -/
  | vsel (f : VF)
  /-- VPERM, V slot (R203). -/
  | vperm (f : VF)
  /-- VSLIDEUP, V slot (R203). -/
  | vslideup (f : VF)
  /-- VSLIDEDN, V slot (R203). -/
  | vslidedn (f : VF)
  /-- VBCAST, V slot (R203). -/
  | vbcast (f : VF)
  /-- VZIP, V slot (R203). -/
  | vzip (f : VF)
  /-- VUNZIP, V slot (R203). -/
  | vunzip (f : VF)
  /-- VREV, V slot (R203). -/
  | vrev (f : VF)
  /-- VREDADD, V slot (R204). -/
  | vredadd (f : VF)
  /-- VREDMIN, V slot (R204). -/
  | vredmin (f : VF)
  /-- VREDMAX, V slot (R204). -/
  | vredmax (f : VF)
  /-- VSCAN, V slot (R205). -/
  | vscan (f : VF)
  /-- VCVT, V slot (R206). -/
  | vcvt (f : VF)
  /-- VQUANT, V slot (R208). -/
  | vquant (f : VF)
  /-- VQUANT_SCALES, V slot (R208). -/
  | vquantScales (f : VF)
  /-- VDEQUANT, V slot (R209). -/
  | vdequant (f : VF)
  /-- VPACK, V slot (R210). -/
  | vpack (f : VF)
  /-- VUNPACK, V slot (R210). -/
  | vunpack (f : VF)
  /-- PAND, V slot (R211). -/
  | pand (f : VF)
  /-- POR, V slot (R211). -/
  | por (f : VF)
  /-- PXOR, V slot (R211). -/
  | pxor (f : VF)
  /-- PANDN, V slot (R211). -/
  | pandn (f : VF)
  /-- PNOT, V slot (R211). -/
  | pnot (f : VF)
  /-- PFIRST, V slot (R211). -/
  | pfirst (f : VF)
  /-- L_NOP, L slot (R91). -/
  | lNop (f : LF)
  /-- LDS_S8, L slot (R216). -/
  | ldsS8 (f : LF)
  /-- LDS_N8, L slot (R216). -/
  | ldsN8 (f : LF)
  /-- LDS_S16, L slot (R216). -/
  | ldsS16 (f : LF)
  /-- LDS_N16, L slot (R216). -/
  | ldsN16 (f : LF)
  /-- LDS_S32, L slot (R216). -/
  | ldsS32 (f : LF)
  /-- LDS_N32, L slot (R216). -/
  | ldsN32 (f : LF)
  /-- LDS_B64, L slot (R216). -/
  | ldsB64 (f : LF)
  /-- STS_B8, L slot (R216). -/
  | stsB8 (f : LF)
  /-- STS_B16, L slot (R216). -/
  | stsB16 (f : LF)
  /-- STS_B32, L slot (R216). -/
  | stsB32 (f : LF)
  /-- STS_B64, L slot (R216). -/
  | stsB64 (f : LF)
  /-- LDSV, L slot (R217). -/
  | ldsv (f : LF)
  /-- STSV, L slot (R217). -/
  | stsv (f : LF)
  /-- LDSVS, L slot (R218). -/
  | ldsvs (f : LF)
  /-- STSVS, L slot (R218). -/
  | stsvs (f : LF)
  /-- GATHER, L slot (R219). -/
  | gather (f : LF)
  /-- SCATTER, L slot (R219). -/
  | scatter (f : LF)
  /-- LDG_S8, L slot (R220). -/
  | ldgS8 (f : LF)
  /-- LDG_N8, L slot (R220). -/
  | ldgN8 (f : LF)
  /-- LDG_S16, L slot (R220). -/
  | ldgS16 (f : LF)
  /-- LDG_N16, L slot (R220). -/
  | ldgN16 (f : LF)
  /-- LDG_S32, L slot (R220). -/
  | ldgS32 (f : LF)
  /-- LDG_N32, L slot (R220). -/
  | ldgN32 (f : LF)
  /-- LDG_B64, L slot (R220). -/
  | ldgB64 (f : LF)
  /-- LDGV, L slot (R220). -/
  | ldgv (f : LF)
  /-- STG_B8, L slot (R221). -/
  | stgB8 (f : LF)
  /-- STG_B16, L slot (R221). -/
  | stgB16 (f : LF)
  /-- STG_B32, L slot (R221). -/
  | stgB32 (f : LF)
  /-- STG_B64, L slot (R221). -/
  | stgB64 (f : LF)
  /-- STGV, L slot (R221). -/
  | stgv (f : LF)
  /-- AADD, L slot (R222). -/
  | aadd (f : LF)
  /-- ASMIN, L slot (R222). -/
  | asmin (f : LF)
  /-- ANMIN, L slot (R222). -/
  | anmin (f : LF)
  /-- ASMAX, L slot (R222). -/
  | asmax (f : LF)
  /-- ANMAX, L slot (R222). -/
  | anmax (f : LF)
  /-- AAND, L slot (R222). -/
  | aand (f : LF)
  /-- AOR, L slot (R222). -/
  | aor (f : LF)
  /-- AXOR, L slot (R222). -/
  | axor (f : LF)
  /-- ASWAP, L slot (R222). -/
  | aswap (f : LF)
  /-- ACAS, L slot (R223). -/
  | acas (f : LF)
  /-- ACQ, L slot (R224). -/
  | acq (f : LF)
  /-- REL, L slot (R225). -/
  | rel (f : LF)
  /-- FENCE, L slot (R150). -/
  | fence (f : LF)
  /-- BARINIT, L slot (R227). -/
  | barinit (f : LF)
  /-- BARARV, L slot (R228). -/
  | bararv (f : LF)
  /-- BARWAIT, L slot (R228). -/
  | barwait (f : LF)
  /-- COPYLD, L slot (R229). -/
  | copyld (f : LF)
  /-- COPYGO, L slot (R230). -/
  | copygo (f : LF)
  /-- COPYGO_NOBAR, L slot (R230). -/
  | copygoNobar (f : LF)
  /-- DRAIN, L slot (R231). -/
  | drain (f : LF)
  /-- BOBPOP, L slot (R232). -/
  | bobpop (f : LF)
  /-- BOBREL, L slot (R232). -/
  | bobrel (f : LF)
  /-- BOBINIT, L slot (R232). -/
  | bobinit (f : LF)
  /-- BOBSTAT, L slot (R232). -/
  | bobstat (f : LF)
  /-- SPAWN, L slot (R234). -/
  | spawn (f : LF)
  /-- SPAWN_SC, L slot (R234). -/
  | spawnSc (f : LF)
  /-- RANGENEXT, L slot (R235). -/
  | rangenext (f : LF)
  /-- SKJOIN, L slot (R236). -/
  | skjoin (f : LF)
  /-- SKLEAVE, L slot (R236). -/
  | skleave (f : LF)
  /-- SKBAR, L slot (R236). -/
  | skbar (f : LF)
  /-- SCOPENEW, L slot (R237). -/
  | scopenew (f : LF)
  /-- CANCEL, L slot (R51). -/
  | cancel (f : LF)
  /-- CWAIT, L slot (R237). -/
  | cwait (f : LF)
  /-- BANKMODE, L slot (R238). -/
  | bankmode (f : LF)
  /-- RECV, L slot (R270). -/
  | recv (f : LF)
  /-- RECX, L slot (R270). -/
  | recx (f : LF)
  /-- RECP, L slot (R270). -/
  | recp (f : LF)
  /-- RMARK, L slot (R270). -/
  | rmark (f : LF)
  /-- RMARK_POP, L slot (R272). -/
  | rmarkPop (f : LF)
  /-- RPOPV, L slot (R272). -/
  | rpopv (f : LF)
  /-- RPOPX, L slot (R272). -/
  | rpopx (f : LF)
  /-- RPOPP, L slot (R272). -/
  | rpopp (f : LF)
  /-- RCHK, L slot (R272). -/
  | rchk (f : LF)
  /-- RCHK_V, L slot (R272). -/
  | rchkV (f : LF)
  /-- RSEAL, L slot (R274). -/
  | rseal (f : LF)
  /-- RECB, L slot (R270). -/
  | recb (f : LF)
  /-- MCXLD, L slot (R299). -/
  | mcxld (f : LF)
  /-- MCXST, L slot (R299). -/
  | mcxst (f : LF)
  /-- MCXST_EVICT, L slot (R299). -/
  | mcxstEvict (f : LF)
  /-- TLBINV, L slot (R300). -/
  | tlbinv (f : LF)
  /-- FQPOP, L slot (R301). -/
  | fqpop (f : LF)
  /-- FQDONE, L slot (R301). -/
  | fqdone (f : LF)
  /-- SNAPSAVE, L slot (R302). -/
  | snapsave (f : LF)
  /-- SNAPLOAD, L slot (R302). -/
  | snapload (f : LF)
  /-- WIPE, L slot (R303). -/
  | wipe (f : LF)
  /-- WIPE_SRAM, L slot (R303). -/
  | wipeSram (f : LF)
  /-- B_NOP, B slot (R91). -/
  | bNop (f : BF)
  /-- BRUT, B slot (R176). -/
  | brut (f : BF)
  /-- BRUF, B slot (R176). -/
  | bruf (f : BF)
  /-- JT, B slot (R177). -/
  | jt (f : BF)
  /-- CALL, B slot (R178). -/
  | call (f : BF)
  /-- RET, B slot (R178). -/
  | ret (f : BF)
  /-- LOOP, B slot (R179). -/
  | loop (f : BF)
  /-- LEAVET, B slot (R181). -/
  | leavet (f : BF)
  /-- LEAVEF, B slot (R181). -/
  | leavef (f : BF)
  /-- BRT, B slot (R275). -/
  | brt (f : BF)
  /-- BRK, B slot (R184). -/
  | brk (f : BF)
  /-- IPI, B slot (R296). -/
  | ipi (f : BF)
  /-- ERET, B slot (R294). -/
  | eret (f : BF)
  /-- HALT, B slot (R295). -/
  | halt (f : BF)
  /-- M_NOP, M slot (R91). -/
  | mNop (f : MF)
  /-- MCALL, M slot (R243). -/
  | mcall (f : MF)
  /-- MCALL_RPT, M slot (R244). -/
  | mcallRpt (f : MF)
  /-- MWAIT, M slot (R245). -/
  | mwait (f : MF)
  /-- UOP_NOP, micro-op (R255). -/
  | uopNop (f : UF)
  /-- TLOAD, micro-op (R255). -/
  | tload (f : UF)
  /-- TSTORE, micro-op (R255). -/
  | tstore (f : UF)
  /-- AZERO, micro-op (R255). -/
  | azero (f : UF)
  /-- ALOAD, micro-op (R255). -/
  | aload (f : UF)
  /-- ASTORE, micro-op (R255). -/
  | astore (f : UF)
  /-- CVT, micro-op (R255). -/
  | cvt (f : UF)
  /-- OPSTEP, micro-op (R256). -/
  | opstep (f : UF)
  /-- SPSTEP, micro-op (R258). -/
  | spstep (f : UF)
  /-- ZPC, micro-op (R258). -/
  | zpc (f : UF)
  /-- BSC, micro-op (R258). -/
  | bsc (f : UF)
  /-- SCALE, micro-op (R256). -/
  | scale (f : UF)
  /-- ADDR, micro-op (R255). -/
  | addr (f : UF)
  /-- ADDR_ADD, micro-op (R255). -/
  | addrAdd (f : UF)
  /-- ADDR_LO, micro-op (R255). -/
  | addrLo (f : UF)
  /-- ADDR_HI, micro-op (R255). -/
  | addrHi (f : UF)
  /-- UOP_LOOP, micro-op (R257). -/
  | uopLoop (f : UF)
  /-- MSTEP, micro-op (R259). -/
  | mstep (f : UF)
  /-- SHADOW, micro-op (R255). -/
  | shadow (f : UF)
  /-- SKIPF, micro-op (R255). -/
  | skipf (f : UF)
  /-- UOP_END, micro-op (R255). -/
  | uopEnd (f : UF)
  /-- BUNDLE_ISSUE, event (R25). -/
  | bundleIssue
  /-- STRAND_SELECT, event (R26). -/
  | strandSelect
  /-- RESULT_LAND, event (R75). -/
  | resultLand
  /-- FMT_TAKE_EFFECT, event (R118). -/
  | fmtTakeEffect
  /-- BLOCK_END, event (R25). -/
  | blockEnd
  /-- STALL_END, event (R76). -/
  | stallEnd
  /-- TASK_PLACE, event (R30). -/
  | taskPlace
  /-- STRAND_RETIRE, event (R29). -/
  | strandRetire
  /-- RANGE_STEAL, event (R46). -/
  | rangeSteal
  /-- KILL_ARRIVAL, event (R51). -/
  | killArrival
  /-- COPY_START, event (R135). -/
  | copyStart
  /-- TRANSFORM_PIN, event (R138). -/
  | transformPin
  /-- COPY_SECTOR_WRITE, event (R135). -/
  | copySectorWrite
  /-- COPY_ERROR, event (R139). -/
  | copyError
  /-- BOBBIN_SLOT_START, event (R129). -/
  | bobbinSlotStart
  /-- BANK_TRANSITION, event (R124). -/
  | bankTransition
  /-- CALL_START, event (R240). -/
  | callStart
  /-- REPEAT_ENQUEUE, event (R244). -/
  | repeatEnqueue
  /-- SHADOW_COMPARE, event (R120). -/
  | shadowCompare
  /-- FRAME_WRITE, event (R265). -/
  | frameWrite
  /-- FRAME_DECODE, event (R273). -/
  | frameDecode
  /-- IPI_DELIVER, event (R296). -/
  | ipiDeliver
  /-- MSPAWN, event (R291). -/
  | mspawn
  /-- NRP_REQUEST, event (R407). -/
  | nrpRequest
  /-- NRP_CANCEL, event (R408). -/
  | nrpCancel
  /-- CONTEXT_RECORD_LOAD, event (R306). -/
  | contextRecordLoad
  /-- SAVE_POST, event (R322). -/
  | savePost
  /-- DQACK, event (R322). -/
  | dqack
  /-- REQUEST_TIMEOUT, event (R311). -/
  | requestTimeout
  /-- SQTAIL, event (R418). -/
  | sqtail
  /-- CQHEAD, event (R418). -/
  | cqhead
  /-- SQCFG, event (R421). -/
  | sqcfg
  /-- COMMAND_ADMIT, event (R325). -/
  | commandAdmit
  /-- HOST_NOP, event (R324). -/
  | hostNop
  /-- INSTALL, event (R324). -/
  | install
  /-- REMOVE, event (R324). -/
  | remove
  /-- LAUNCH, event (R324). -/
  | launch
  /-- HOST_CANCEL, event (R324). -/
  | hostCancel
  /-- COPY, event (R324). -/
  | copy
  /-- MARK, event (R324). -/
  | mark
  /-- FLASHWRITE, event (R328). -/
  | flashwrite
  /-- FLASHREAD, event (R328). -/
  | flashread
  /-- FLASHFLUSH, event (R328). -/
  | flashflush
  /-- FLASHINFO, event (R328). -/
  | flashinfo
  /-- COMMAND_COMPLETION, event (R326). -/
  | commandCompletion
  /-- HQDONE, event (R327). -/
  | hqdone
  /-- WATCHDOG_WARNING, event (R329). -/
  | watchdogWarning
  /-- PARTITION_RESET, event (R330). -/
  | partitionReset
  /-- DBGCTL, event (R352). -/
  | dbgctl
  /-- DEBUG_STOP, event (R353). -/
  | debugStop
  /-- TLB_MISS_WALK, event (R361). -/
  | tlbMissWalk
  /-- FAULT_POST, event (R365). -/
  | faultPost
  /-- SHARED_FRAME_REFETCH, event (R368). -/
  | sharedFrameRefetch
  /-- PCTL, event (R372). -/
  | pctl
  /-- PCAP, event (R372). -/
  | pcap
  /-- SCMASK, event (R372). -/
  | scmask
  /-- PARTITION_FLOOR, event (R376). -/
  | partitionFloor
  /-- ARBITER_SLOT, event (R377). -/
  | arbiterSlot
  /-- CAP_WINDOW_END, event (R380). -/
  | capWindowEnd
  /-- FREQ_RELOCK, event (R379). -/
  | freqRelock
  /-- ISLAND_IDLE_ENTRY, event (R381). -/
  | islandIdleEntry
  /-- ISLAND_WAKE, event (R381). -/
  | islandWake
  /-- LOAD, event (R386). -/
  | load
  /-- CLEAR, event (R387). -/
  | clear
  /-- REPORT, event (R391). -/
  | report
  /-- EXTEND, event (R385). -/
  | extend
  /-- SETDBG, event (R395). -/
  | setdbg
  /-- LCREQ, event (R397). -/
  | lcreq
  /-- DBGTEN, event (R394). -/
  | dbgten
  /-- ETHERNET_FRAME, event (R402). -/
  | ethernetFrame
  /-- LINK_STATE_CHANGE, event (R401). -/
  | linkStateChange
  /-- REPLY_SEND, event (R410). -/
  | replySend
  /-- READ, event (R415). -/
  | read
  /-- WRITE, event (R415). -/
  | write
  /-- ATOMIC, event (R415). -/
  | atomic
  /-- READRSP, event (R415). -/
  | readrsp
  /-- WRITEACK, event (R415). -/
  | writeack
  /-- ATOMICRSP, event (R415). -/
  | atomicrsp
  /-- REACH_TIMEOUT, event (R415). -/
  | reachTimeout
  /-- FLR, event (R421). -/
  | flr
  /-- BAR2_ACCESS, event (R420). -/
  | bar2Access
  /-- HOST_LINK_RESET, event (R441). -/
  | hostLinkReset
  /-- RVTAIL, event (R424). -/
  | rvtail
  /-- UNIT_STREAM, event (R425). -/
  | unitStream
  /-- UNIT_DONE, event (R425). -/
  | unitDone
  /-- DRIVE_TIMEOUT, event (R422). -/
  | driveTimeout
  /-- LEA_FLUSH, event (R428). -/
  | leaFlush
  /-- LEA_REPORT, event (R430). -/
  | leaReport
  /-- COUNTER_FLUSH, event (R434). -/
  | counterFlush
  /-- COLD_RESET, event (R442). -/
  | coldReset
  /-- PLDM_FIRMWARE_UPDATE, event (R446). -/
  | pldmFirmwareUpdate
  /-- PLDM_RESET_EFFECTER, event (R446). -/
  | pldmResetEffecter
  /-- PLDM_SENSOR_READ, event (R446). -/
  | pldmSensorRead
  /-- SUPPLY_OUT_OF_RANGE, event (R447). -/
  | supplyOutOfRange
  /-- SUPPLY_RETURN, event (R447). -/
  | supplyReturn
  /-- THERMAL_THROTTLE, event (R448). -/
  | thermalThrottle
  /-- THERMAL_TRIP, event (R448). -/
  | thermalTrip
  /-- THERMAL_RECOVERY, event (R448). -/
  | thermalRecovery
  /-- REGISTER_WRITE, event (R4). -/
  | registerWrite
  /-- PERRATE_WINDOW, event (R409). -/
  | perrateWindow
  /-- LINK_ERROR, event (R438). -/
  | linkError
  deriving DecidableEq, Repr

/-- The eight slots of a bundle (R62), named as CAUSE.SLOT numbers them (R83). -/
inductive Slot where
  | s0 | s1 | v0 | v1 | m | l0 | l1 | b
  deriving DecidableEq, Repr

/-- The number of a slot in CAUSE.SLOT (R83). -/
def Slot.num : Slot → Nat
  | .s0 => 0 | .s1 => 1 | .v0 => 2 | .v1 => 3 | .m => 4 | .l0 => 5 | .l1 => 6 | .b => 7

/-- A decoded bundle: the header, the broadcast port and the valid slots in the order of R83 (R62). -/
structure Bundle where
  hdr : BitVec 16
  bp : BitVec 16
  ops : List (Slot × Instr)
  deriving DecidableEq, Repr

end Sys2Proof
end

