-- ==== Sys2Proof/WellFormed.lean ====
section
/-! DEFINITION. Which field values of an instruction are well formed: the static part of R64 for each operation, from
the field lists of R67 to R71, R91 to R96, R160 to R174, R195, R212 to R238, R243, R245, R253, R270 and R298. What concerns a whole
bundle (two slots with one destination, the broadcast port, the boost level) is in Sys2Proof/Machine/Ops.lean. -/

namespace Sys2Proof

/-- Class F of R191. -/
def VF.tyF (f : VF) : Bool := f.ty.toNat < 3
/-- Class S of R191. -/
def VF.tyS (f : VF) : Bool := f.ty == 3 || f.ty == 5 || f.ty == 7
/-- Class U of R191. -/
def VF.tyU (f : VF) : Bool := f.ty == 4 || f.ty == 6 || f.ty == 8
/-- Class B of R191. -/
def VF.tyB (f : VF) : Bool := f.ty == 9 || f.ty == 10 || f.ty == 11
/-- Class I of R191. -/
def VF.tyI (f : VF) : Bool := f.tyS || f.tyU
def VF.tyFI (f : VF) : Bool := f.tyF || f.tyI
def VF.tyAny (f : VF) : Bool := f.tyFI || f.tyB
/-- The lane width w of the type (R191). -/
def VF.width (f : VF) : Nat :=
  match f.ty.toNat with
  | 0 | 3 | 4 | 9 => 32
  | 7 | 8 | 11 => 8
  | _ => 16
/-- BPSEL names no operand or one the entry allows, and the field it replaces is zero (R68, R193). -/
def VF.bpIn (f : VF) (l : List Nat) : Bool :=
  match f.bpsel.toNat with
  | 0 => true
  | 1 => l.contains 1 && f.va == 0
  | 2 => l.contains 2 && f.vb == 0
  | _ => l.contains 3 && f.vc == 0
def VF.noVb (f : VF) : Bool := f.vb == 0
/-- NAN and RND are zero (R193). -/
def VF.plain (f : VF) : Bool := !f.nan && f.rnd == 0
/-- G, BPSEL, ZERO, NAN and RND are zero (R210, R211). -/
def VF.bare (f : VF) : Bool := f.g == 0 && f.bpsel == 0 && !f.zero && f.plain
/-- RND is used by the float types alone (R196). -/
def VF.rndF (f : VF) : Bool := f.tyF || f.rnd == 0
/-- The sub-lane field of R200 and R201. -/
def VF.subLane (f : VF) (x : BitVec 9) : Bool := x.toNat < 32 / f.width
/-- The format code held in VC[3:0]. -/
def VF.fmt (f : VF) : Nat := f.vc.toNat % 16
def VF.quantFmt (f : VF) : Bool := f.fmt == 9 || f.fmt == 11 || f.fmt == 12 || f.fmt == 13
/-- The part k in VC[8:5]: below 4 for 8-bit codes, below 8 for 4-bit codes (R208, R209). -/
def VF.quantPart (f : VF) : Bool :=
  f.vc.toNat / 32 < (if f.fmt == 9 || f.fmt == 12 then 4 else 8)
/-- The register width of a format of VCVT (R206): 6-bit formats stand in 8-bit containers. -/
def cvtWidth (fmt : Nat) : Nat :=
  match fmt with
  | 0 | 14 => 32
  | 1 | 2 => 16
  | 7 | 10 => 4
  | _ => 8
/-- A float format of the codes of R100. -/
def fmtIsFloat (fmt : Nat) : Bool := fmt < 8
/-- The fields of VCVT (R206, R207). -/
def VF.cvtOk (f : VF) : Bool :=
  let d := f.vc.getLsbD 4
  let k := f.vc.toNat / 32 % 8
  let wT := f.width
  let wF := cvtWidth f.fmt
  let tyFloat := f.tyF
  let srcFloat := if d then fmtIsFloat f.fmt else tyFloat
  let dstFloat := if d then tyFloat else fmtIsFloat f.fmt
  let nanDst := if d then f.ty == 1 || f.ty == 2 else f.fmt == 1 || f.fmt == 2 || f.fmt == 3 || f.fmt == 4
  (f.fmt < 9 || f.fmt == 10 || f.fmt == 14)
    && f.vc.toNat < 256
    && decide (k < max wT wF / min wT wF)
    && (!f.nan || nanDst)
    && (f.rnd == 0 || srcFloat || dstFloat)
    && f.bpIn (if d then [] else [1])

/-- REG names an x register (R212). -/
def LF.isX (f : LF) : Bool := f.reg.toNat < 64
/-- XBASE and OFF are zero. -/
def LF.noAddr (f : LF) : Bool := f.xbase == 0 && f.off == 0
/-- With BPD, REG is zero (R69). -/
def LF.bpdOk (f : LF) : Bool := !f.bpd || f.reg == 0

/-- The fields of an instruction hold values its entry allows. An event has no fields of an encoding. VQUANT's scales form counts as an operation that rounds, so any
RND is well formed there (DEDUCED; notes/assumptions/67.md). -/
def Instr.wf : Instr → Bool
  | .bundleIssue => true
  | .strandSelect => true
  | .resultLand => true
  | .fmtTakeEffect => true
  | .blockEnd => true
  | .stallEnd => true
  | .taskPlace => true
  | .strandRetire => true
  | .rangeSteal => true
  | .killArrival => true
  | .copyStart => true
  | .transformPin => true
  | .copySectorWrite => true
  | .copyError => true
  | .bobbinSlotStart => true
  | .bankTransition => true
  | .callStart => true
  | .repeatEnqueue => true
  | .shadowCompare => true
  | .frameWrite => true
  | .frameDecode => true
  | .sNop f => f.xd == 0 && f.xa == 0 && f.xb == 0 && f.imm == 0
  | .add f => f.imm == 0
  | .sub f => f.imm == 0
  | .addi f => f.xb == 0
  | .mul f => f.imm == 0
  | .mulhs f => f.imm == 0
  | .mulhn f => f.imm == 0
  | .divs f => f.imm == 0
  | .divn f => f.imm == 0
  | .rems f => f.imm == 0
  | .remn f => f.imm == 0
  | .addshl f => f.imm.toNat < 8
  | .mins f => f.imm == 0
  | .minn f => f.imm == 0
  | .maxs f => f.imm == 0
  | .maxn f => f.imm == 0
  | .and f => f.imm == 0
  | .or f => f.imm == 0
  | .xor f => f.imm == 0
  | .andn f => f.imm == 0
  | .andi f => f.xb == 0
  | .ori f => f.xb == 0
  | .xori f => f.xb == 0
  | .shl f => f.imm == 0
  | .shrl f => f.imm == 0
  | .shra f => f.imm == 0
  | .shli f => f.xb == 0 && f.imm.toNat < 64
  | .shrli f => f.xb == 0 && f.imm.toNat < 64
  | .shrai f => f.xb == 0 && f.imm.toNat < 64
  | .rotr f => f.imm == 0
  | .rotri f => f.xb == 0 && f.imm.toNat < 64
  | .movi _ => true
  | .movhi _ => true
  | .seq f => f.xd.toNat < 16 && f.imm == 0
  | .sne f => f.xd.toNat < 16 && f.imm == 0
  | .slts f => f.xd.toNat < 16 && f.imm == 0
  | .sltn f => f.xd.toNat < 16 && f.imm == 0
  | .sltis f => f.xd.toNat < 16 && f.xb == 0
  | .sltin f => f.xd.toNat < 16 && f.xb == 0
  | .bfxs f => f.xb == 0 && f.imm.toNat < 4096
  | .bfxn f => f.xb == 0 && f.imm.toNat < 4096
  | .bfi f => f.xb == 0 && f.imm.toNat < 4096
  | .popc f => f.xb == 0 && f.imm == 0
  | .clz f => f.xb == 0 && f.imm == 0
  | .ctz f => f.xb == 0 && f.imm == 0
  | .psetx f => f.xd.toNat < 16 && f.imm == 0
  | .pany f => f.xa.toNat < 16 && f.xb.toNat < 16 && f.imm == 0
  | .pall f => f.xa.toNat < 16 && f.xb.toNat < 16 && f.imm == 0
  | .pcnt f => f.xa.toNat < 16 && f.xb.toNat < 16 && f.imm == 0
  | .crr f => f.xa == 0 && f.xb == 0 && f.imm.toNat < 4096
  | .crw f => f.xd == 0 && f.xb == 0 && f.imm.toNat < 4096
  | .setfmt f => f.xd == 0 && f.xb.toNat < 8
  | .tshape f => f.xd.toNat < 16
  | .msetp f => f.xd.toNat < 8
  | .mgetp f => f.xa.toNat < 8 && f.xb == 0 && f.imm == 0
  | .mpcset f => f.xd == 0
  | .dset f => f.xd.toNat < 8 && f.xb == 0 && f.imm.toNat < 4
  | .dget f => f.xa.toNat < 8 && f.xb == 0 && f.imm.toNat < 4
  | .vmov f => f.tyAny && f.noVb && f.vc == 0 && f.bpIn [1] && f.plain
  | .vadd f => f.tyFI && f.vc == 0 && f.bpIn [1, 2] && !f.nan && f.rndF
  | .vsub f => f.tyFI && f.vc == 0 && f.bpIn [1, 2] && !f.nan && f.rndF
  | .vmul f => f.tyFI && f.vc == 0 && f.bpIn [1, 2] && !f.nan && f.rndF
  | .vfma f => f.tyFI && f.bpIn [1, 2, 3] && !f.nan && f.rndF
  | .vfms f => f.tyFI && f.bpIn [1, 2, 3] && !f.nan && f.rndF
  | .vfnma f => f.tyFI && f.bpIn [1, 2, 3] && !f.nan && f.rndF
  | .vmulh f => f.tyI && f.vc == 0 && f.bpIn [1, 2] && f.plain
  | .vmin f => f.tyFI && f.vc == 0 && f.bpIn [1, 2] && f.plain
  | .vmax f => f.tyFI && f.vc == 0 && f.bpIn [1, 2] && f.plain
  | .vabs f => (f.tyF || f.tyS) && f.noVb && f.vc == 0 && f.bpIn [1] && f.plain
  | .vneg f => (f.tyF || f.tyS) && f.noVb && f.vc == 0 && f.bpIn [1] && f.plain
  | .vaddsat f => f.tyI && f.vc == 0 && f.bpIn [1, 2] && f.plain
  | .vsubsat f => f.tyI && f.vc == 0 && f.bpIn [1, 2] && f.plain
  | .vavg f => f.tyI && f.vc == 0 && f.bpIn [1, 2] && f.plain
  | .vand f => f.tyB && f.vc == 0 && f.bpIn [1, 2] && f.plain
  | .vor f => f.tyB && f.vc == 0 && f.bpIn [1, 2] && f.plain
  | .vxor f => f.tyB && f.vc == 0 && f.bpIn [1, 2] && f.plain
  | .vandn f => f.tyB && f.vc == 0 && f.bpIn [1, 2] && f.plain
  | .vshl f => f.tyB && f.vc == 0 && f.bpIn [1, 2] && f.plain
  | .vshr f => (f.tyI || f.tyB) && f.vc == 0 && f.bpIn [1, 2] && f.plain
  | .vpopc f => f.tyB && f.noVb && f.vc == 0 && f.bpIn [1] && f.plain
  | .vclz f => f.tyB && f.noVb && f.vc == 0 && f.bpIn [1] && f.plain
  | .vrcp f => f.tyF && f.noVb && f.vc == 0 && f.bpIn [1] && !f.nan
  | .vrsqrt f => f.tyF && f.noVb && f.vc == 0 && f.bpIn [1] && !f.nan
  | .vexp2 f => f.tyF && f.noVb && f.vc == 0 && f.bpIn [1] && !f.nan
  | .vlog2 f => f.tyF && f.noVb && f.vc == 0 && f.bpIn [1] && !f.nan
  | .vtanh f => f.tyF && f.noVb && f.vc == 0 && f.bpIn [1] && !f.nan
  | .vsigm f => f.tyF && f.noVb && f.vc == 0 && f.bpIn [1] && !f.nan
  | .vcmpeq f => f.tyAny && f.vd.toNat < 16 && f.subLane f.vc && f.bpIn [1, 2] && f.plain
  | .vcmpne f => f.tyAny && f.vd.toNat < 16 && f.subLane f.vc && f.bpIn [1, 2] && f.plain
  | .vcmplt f => f.tyFI && f.vd.toNat < 16 && f.subLane f.vc && f.bpIn [1, 2] && f.plain
  | .vcmple f => f.tyFI && f.vd.toNat < 16 && f.subLane f.vc && f.bpIn [1, 2] && f.plain
  | .vclass f => f.tyF && f.vd.toNat < 16 && f.subLane f.vb && f.bpIn [1] && f.plain
  | .vsel f => f.ty == 9 && f.vc.toNat < 16 && f.bpIn [1, 2] && f.plain
  | .vperm f => (f.ty == 9 || f.ty == 10) && f.bpIn [2] && f.plain
  | .vslideup f => f.tyB && f.bpIn [3] && f.plain
  | .vslidedn f => f.tyB && f.bpIn [3] && f.plain
  | .vbcast f => f.tyB && f.noVb && f.bpIn [3] && f.plain
  | .vzip f => f.tyB && f.vc.toNat < 2 && f.bpIn [] && f.plain
  | .vunzip f => f.tyB && f.vc.toNat < 2 && f.bpIn [] && f.plain
  | .vrev f => f.tyB && f.noVb && f.vc == 0 && f.bpIn [] && f.plain
  | .vredadd f => f.tyFI && f.vc == 0 && f.bpIn [2] && !f.zero && !f.nan && f.rndF
  | .vredmin f => f.tyFI && f.vc == 0 && f.bpIn [2] && !f.zero && f.plain
  | .vredmax f => f.tyFI && f.vc == 0 && f.bpIn [2] && !f.zero && f.plain
  | .vscan f => f.tyFI && f.vc.toNat < 3 && f.bpIn [2] && !f.nan && (f.rnd == 0 || (f.tyF && f.vc == 0))
  | .vcvt f => f.tyFI && f.noVb && f.cvtOk
  | .vquant f => f.ty == 0 && f.quantFmt && !f.vc.getLsbD 4 && f.quantPart && f.bpIn [2] && !f.nan
  | .vquantScales f => f.ty == 0 && (f.fmt == 12 || f.fmt == 13) && f.vc.getLsbD 4 && f.noVb && f.bpIn [] && !f.zero && !f.nan
  | .vdequant f => f.ty == 0 && f.quantFmt && !f.vc.getLsbD 4 && f.quantPart && f.bpIn [2] && f.plain
  | .vpack f => f.ty == 11 && f.noVb && (f.fmt == 5 || f.fmt == 6) && !f.vc.getLsbD 4 && f.bare
  | .vunpack f => f.ty == 11 && f.noVb && (f.fmt == 5 || f.fmt == 6) && !f.vc.getLsbD 4 && f.bare
  | .pand f => f.ty == 9 && f.vd.toNat < 16 && f.va.toNat < 16 && f.vb.toNat < 16 && f.vc == 0 && f.bare
  | .por f => f.ty == 9 && f.vd.toNat < 16 && f.va.toNat < 16 && f.vb.toNat < 16 && f.vc == 0 && f.bare
  | .pxor f => f.ty == 9 && f.vd.toNat < 16 && f.va.toNat < 16 && f.vb.toNat < 16 && f.vc == 0 && f.bare
  | .pandn f => f.ty == 9 && f.vd.toNat < 16 && f.va.toNat < 16 && f.vb.toNat < 16 && f.vc == 0 && f.bare
  | .pnot f => f.ty == 9 && f.vd.toNat < 16 && f.va.toNat < 16 && f.noVb && f.vc == 0 && f.bare
  | .pfirst f => f.ty == 9 && f.vd.toNat < 16 && f.va.toNat < 16 && f.noVb && f.vc == 0 && f.bare
  | .lNop f => f.reg == 0 && f.noAddr && f.g == 0 && !f.bpd && !f.opx && f.scope == 0
  | .ldsS8 f => f.isX && !f.bpd && !f.opx && f.scope == 0
  | .ldsN8 f => f.isX && !f.bpd && !f.opx && f.scope == 0
  | .ldsS16 f => f.isX && !f.bpd && !f.opx && f.scope == 0
  | .ldsN16 f => f.isX && !f.bpd && !f.opx && f.scope == 0
  | .ldsS32 f => f.isX && !f.bpd && !f.opx && f.scope == 0
  | .ldsN32 f => f.isX && !f.bpd && !f.opx && f.scope == 0
  | .ldsB64 f => f.isX && !f.bpd && !f.opx && f.scope == 0
  | .stsB8 f => f.isX && f.bpdOk && !f.opx && f.scope == 0
  | .stsB16 f => f.isX && f.bpdOk && !f.opx && f.scope == 0
  | .stsB32 f => f.isX && f.bpdOk && !f.opx && f.scope == 0
  | .stsB64 f => f.isX && f.bpdOk && !f.opx && f.scope == 0
  | .ldsv f => !f.bpd && f.scope == 0
  | .stsv f => f.bpdOk && !f.opx && f.scope == 0
  | .ldsvs f => !f.bpd && f.scope == 0
  | .stsvs f => !f.bpd && !f.opx && f.scope == 0
  | .gather f => !f.bpd && f.scope == 0
  | .scatter f => !f.bpd && !f.opx && f.scope == 0
  | .ldgS8 f => f.isX && !f.bpd && !f.opx && f.scope == 0
  | .ldgN8 f => f.isX && !f.bpd && !f.opx && f.scope == 0
  | .ldgS16 f => f.isX && !f.bpd && !f.opx && f.scope == 0
  | .ldgN16 f => f.isX && !f.bpd && !f.opx && f.scope == 0
  | .ldgS32 f => f.isX && !f.bpd && !f.opx && f.scope == 0
  | .ldgN32 f => f.isX && !f.bpd && !f.opx && f.scope == 0
  | .ldgB64 f => f.isX && !f.bpd && !f.opx && f.scope == 0
  | .ldgv f => !f.bpd && f.scope == 0
  | .stgB8 f => f.isX && f.bpdOk && !f.opx && f.scope == 0
  | .stgB16 f => f.isX && f.bpdOk && !f.opx && f.scope == 0
  | .stgB32 f => f.isX && f.bpdOk && !f.opx && f.scope == 0
  | .stgB64 f => f.isX && f.bpdOk && !f.opx && f.scope == 0
  | .stgv f => f.bpdOk && !f.opx && f.scope == 0
  | .aadd f => f.isX && f.bpdOk && f.scope.toNat < 6
  | .asmin f => f.isX && f.bpdOk && f.scope.toNat < 6
  | .anmin f => f.isX && f.bpdOk && f.scope.toNat < 6
  | .asmax f => f.isX && f.bpdOk && f.scope.toNat < 6
  | .anmax f => f.isX && f.bpdOk && f.scope.toNat < 6
  | .aand f => f.isX && f.bpdOk && f.scope.toNat < 6
  | .aor f => f.isX && f.bpdOk && f.scope.toNat < 6
  | .axor f => f.isX && f.bpdOk && f.scope.toNat < 6
  | .aswap f => f.isX && f.bpdOk && f.scope.toNat < 6
  | .acas f => f.isX && !f.bpd && f.scope.toNat < 6
  | .acq f => f.isX && !f.bpd && !f.opx && f.scope.toNat < 6
  | .rel f => f.isX && f.bpdOk && !f.opx && f.scope.toNat < 6
  | .fence f => f.reg == 0 && f.noAddr && !f.bpd && !f.opx && f.scope.toNat < 6
  | .barinit f => f.isX && !f.bpd && !f.opx && f.scope == 0
  | .bararv f => f.reg == 0 && !f.bpd && !f.opx && f.scope == 0
  | .barwait f => f.isX && !f.bpd && f.scope == 0
  | .copyld f => f.reg.toNat < 8 && !f.bpd && f.scope == 0
  | .copygo f => f.reg.toNat < 256 && !f.bpd && !f.opx && f.scope == 0
  | .copygoNobar f => f.reg.toNat < 256 && f.noAddr && !f.bpd && f.opx && f.scope == 0
  | .drain f => f.reg.toNat < 4 && f.noAddr && !f.bpd && !f.opx && f.scope == 0
  | .bobpop f => f.isX && !f.bpd && !f.opx && f.scope == 0
  | .bobrel f => f.reg == 0 && !f.bpd && !f.opx && f.scope == 0
  | .bobinit f => f.isX && !f.bpd && !f.opx && f.scope == 0
  | .bobstat f => f.isX && !f.bpd && !f.opx && f.scope == 0
  | .spawn f => f.isX && f.off.toNat < 4096 && f.xbase.toNat < 63 && !f.bpd && !f.opx && f.scope == 0
  | .spawnSc f => f.isX && f.off.toNat < 4096 && f.xbase.toNat < 62 && !f.bpd && f.opx && f.scope == 0
  | .rangenext f => f.isX && f.reg.toNat % 2 == 0 && f.noAddr && !f.bpd && !f.opx && f.scope == 0
  | .skjoin f => f.reg == 0 && !f.bpd && !f.opx && f.scope == 0
  | .skleave f => f.reg == 0 && !f.bpd && !f.opx && f.scope == 0
  | .skbar f => f.reg == 0 && !f.bpd && !f.opx && f.scope == 0
  | .scopenew f => f.isX && f.noAddr && !f.bpd && !f.opx && f.scope == 0
  | .cancel f => f.isX && !f.bpd && f.scope == 0
  | .cwait f => f.isX && !f.bpd && f.scope == 0
  | .bankmode f => f.reg.toNat < 3 && !f.bpd && !f.opx && f.scope == 0
  | .recv f => f.noAddr && !f.bpd && !f.opx && f.scope == 0
  | .recx f => f.isX && f.noAddr && !f.bpd && !f.opx && f.scope == 0
  | .recp f => f.reg.toNat < 16 && f.noAddr && !f.bpd && !f.opx && f.scope == 0
  | .rmark f => f.reg == 0 && f.xbase == 0 && !f.bpd && !f.opx && f.scope == 0
  | .rmarkPop f => f.isX && f.noAddr && !f.bpd && f.opx && f.scope == 0
  | .rpopv f => f.noAddr && !f.bpd && !f.opx && f.scope == 0
  | .rpopx f => f.isX && f.noAddr && !f.bpd && !f.opx && f.scope == 0
  | .rpopp f => f.reg.toNat < 16 && f.noAddr && !f.bpd && !f.opx && f.scope == 0
  | .rchk f => f.isX && f.noAddr && !f.bpd && !f.opx && f.scope == 0
  | .rchkV f => f.noAddr && !f.bpd && f.opx && f.scope == 0
  | .rseal f => f.isX && f.noAddr && !f.bpd && !f.opx && f.scope == 0
  | .recb f => f.reg.toNat < 16 && f.noAddr && !f.bpd && !f.opx && f.scope == 0
  | .mcxld f => f.isX && !f.bpd && !f.opx && f.scope == 0
  | .mcxst f => f.isX && !f.bpd && !f.opx && f.scope == 0
  | .mcxstEvict f => f.isX && !f.bpd && f.opx && f.scope == 0
  | .tlbinv f => f.isX && !f.bpd && !f.opx && f.scope == 0
  | .fqpop f => f.isX && f.noAddr && !f.bpd && !f.opx && f.scope == 0
  | .fqdone f => f.isX && !f.bpd && !f.opx && f.scope == 0
  | .snapsave f => f.isX && !f.bpd && !f.opx && f.scope == 0
  | .snapload f => f.isX && !f.bpd && !f.opx && f.scope == 0
  | .wipe f => f.isX && !f.bpd && !f.opx && f.scope == 0
  | .wipeSram f => f.isX && !f.bpd && f.opx && f.scope == 0
  | .bNop f => f.disp == 0 && f.pred == 0 && !f.asm
  | .brut _ => true
  | .bruf _ => true
  | .jt f => f.disp == 0
  | .call f => f.pred == 0 && !f.asm
  | .ret f => f.disp == 0 && f.pred == 0 && !f.asm
  | .loop _ => true
  | .leavet f => f.disp == 0
  | .leavef f => f.disp == 0
  | .brt f => f.pred == 0
  | .brk f => f.pred == 0 && !f.asm
  | .ipi f => f.disp == 0
  | .eret f => f.disp == 0 && f.pred == 0 && !f.asm
  | .halt f => f.disp == 0 && f.pred == 0 && !f.asm
  | .mNop f => f.rout == 0 && !f.bpi && f.flags == 0 && f.imm == 0
  | .mcall f => !f.bpi || f.imm == 0
  | .mcallRpt f => !f.bpi || f.imm == 0
  | .mwait f => f.rout == 0 && !f.bpi && f.flags.toNat < 8
  | .uopNop f => (f == {})
  | .tload f => (f == { sel := f.sel, arg := f.arg, pitch := f.pitch, off := f.off }) && f.sel.toNat < 21
  | .tstore f => (f == { sel := f.sel, arg := f.arg, pitch := f.pitch, off := f.off }) && f.sel.toNat < 21
  | .azero f => (f == { acc := f.acc }) && f.acc.toNat < 6
  | .aload f => (f == { acc := f.acc, arg := f.arg, pitch := f.pitch, off := f.off, rows := f.rows, cols := f.cols }) && f.acc.toNat < 6
  | .astore f => (f == { acc := f.acc, arg := f.arg, pitch := f.pitch, off := f.off, rows := f.rows, cols := f.cols }) && f.acc.toNat < 6
  | .cvt f => (f == { sel := f.sel, ta := f.ta, en := f.en }) && f.sel.toNat < 21 && (if f.en then f.ta.toNat < 6 else f.ta.toNat < 21)
  | .opstep f => (f == { acc := f.acc, ta := f.ta, tb := f.tb }) && f.acc.toNat < 6 && f.ta.toNat < 21 && f.tb.toNat < 21
  | .spstep f => (f == { acc := f.acc, ta := f.ta, tb := f.tb }) && f.acc.toNat < 6 && f.ta.toNat < 21 && f.tb.toNat < 21
  | .zpc f => (f == { arg := f.arg, argb := f.argb, en := f.en })
  | .bsc f => (f == { arg := f.arg, argb := f.argb, en := f.en })
  | .scale f => (f == { acc := f.acc, arg := f.arg, argb := f.argb, en := f.en, enb := f.enb }) && f.acc.toNat < 6
  | .addr f => (f == { arg := f.arg, argb := f.argb, mode := f.mode, imm := f.imm }) && f.mode == 0
  | .addrAdd f => (f == { arg := f.arg, argb := f.argb, mode := f.mode, imm := f.imm }) && f.mode == 1
  | .addrLo f => (f == { arg := f.arg, argb := f.argb, mode := f.mode, imm := f.imm }) && f.mode == 2
  | .addrHi f => (f == { arg := f.arg, argb := f.argb, mode := f.mode, imm := f.imm }) && f.mode == 3
  | .uopLoop f => (f == { en := f.en, arg := f.arg, pitch := f.pitch, last := f.last })
  | .mstep f => (f == { tlive := f.tlive, slive := f.slive })
  | .shadow f => (f == { amask := f.amask, smask := f.smask })
  | .skipf f => (f == { bit := f.bit, en := f.en }) && f.bit.toNat < 5
  | .uopEnd f => (f == {})
  | .ipiDeliver => true
  | .mspawn => true
  | .nrpRequest => true
  | .nrpCancel => true
  | .contextRecordLoad => true
  | .savePost => true
  | .dqack => true
  | .requestTimeout => true
  | .sqtail => true
  | .cqhead => true
  | .sqcfg => true
  | .commandAdmit => true
  | .hostNop => true
  | .install => true
  | .remove => true
  | .launch => true
  | .hostCancel => true
  | .copy => true
  | .mark => true
  | .flashwrite => true
  | .flashread => true
  | .flashflush => true
  | .flashinfo => true
  | .commandCompletion => true
  | .hqdone => true
  | .watchdogWarning => true
  | .partitionReset => true
  | .dbgctl => true
  | .debugStop => true
  | .tlbMissWalk => true
  | .faultPost => true
  | .sharedFrameRefetch => true
  | .pctl => true
  | .pcap => true
  | .scmask => true
  | .partitionFloor => true
  | .arbiterSlot => true
  | .capWindowEnd => true
  | .freqRelock => true
  | .islandIdleEntry => true
  | .islandWake => true
  | .load => true
  | .clear => true
  | .report => true
  | .extend => true
  | .setdbg => true
  | .lcreq => true
  | .dbgten => true
  | .ethernetFrame => true
  | .linkStateChange => true
  | .replySend => true
  | .read => true
  | .write => true
  | .atomic => true
  | .readrsp => true
  | .writeack => true
  | .atomicrsp => true
  | .reachTimeout => true
  | .flr => true
  | .bar2Access => true
  | .hostLinkReset => true
  | .rvtail => true
  | .unitStream => true
  | .unitDone => true
  | .driveTimeout => true
  | .leaFlush => true
  | .leaReport => true
  | .counterFlush => true
  | .coldReset => true
  | .pldmFirmwareUpdate => true
  | .pldmResetEffecter => true
  | .pldmSensorRead => true
  | .supplyOutOfRange => true
  | .supplyReturn => true
  | .thermalThrottle => true
  | .thermalTrip => true
  | .thermalRecovery => true
  | .registerWrite => true
  | .perrateWindow => true
  | .linkError => true

end Sys2Proof
end

