-- ==== Sys2Proof/Decode.lean ====
section
/-! DEFINITION. Decoding of slots, bundles and micro-ops, total on any bits and refusing by name, and after it an encoder
written from the same encoding tables (R59, R62, R67 to R72, R91 to R96, R253). -/

namespace Sys2Proof

/-- Why a slot holds no instruction (R91). -/
inductive SlotRefusal where
  | illegal          -- never an instruction
  | reserved         -- not an instruction in this part
  | privUnassigned   -- a privileged code without an instruction
  deriving DecidableEq, Repr

/-- The bits [hi:lo] of a number (R2). -/
def bitsOf (x hi lo : Nat) : Nat := x / 2 ^ lo % 2 ^ (hi + 1 - lo)

/-- One bit of a number. -/
def bitOf (x i : Nat) : Bool := x / 2 ^ i % 2 == 1

/-- The fields of an S slot (R67). -/
def sFields (w : Nat) : SF :=
  { xd := BitVec.ofNat 6 (w / 2 ^ 26), xa := BitVec.ofNat 6 (w / 2 ^ 20),
    xb := BitVec.ofNat 6 (w / 2 ^ 14), imm := BitVec.ofNat 14 w }

/-- The fields of a V slot (R68). -/
def vFields (w : Nat) : VF :=
  { ty := BitVec.ofNat 4 (w / 2 ^ 46), vd := BitVec.ofNat 9 (w / 2 ^ 37), va := BitVec.ofNat 9 (w / 2 ^ 28),
    vb := BitVec.ofNat 9 (w / 2 ^ 19), vc := BitVec.ofNat 9 (w / 2 ^ 10), g := BitVec.ofNat 4 (w / 2 ^ 6),
    bpsel := BitVec.ofNat 2 (w / 2 ^ 4), zero := bitOf w 3, nan := bitOf w 2, rnd := BitVec.ofNat 2 w }

/-- The fields of an L slot (R69). -/
def lFields (w : Nat) : LF :=
  { reg := BitVec.ofNat 9 (w / 2 ^ 31), xbase := BitVec.ofNat 6 (w / 2 ^ 25), off := BitVec.ofNat 16 (w / 2 ^ 9),
    g := BitVec.ofNat 4 (w / 2 ^ 5), bpd := bitOf w 4, opx := bitOf w 3, scope := BitVec.ofNat 3 w }

/-- The fields of a B slot (R70). -/
def bFields (w : Nat) : BF :=
  { disp := BitVec.ofNat 14 (w / 2 ^ 4), pred := BitVec.ofNat 3 (w / 2), asm := bitOf w 0 }

/-- The fields of an M slot (R71). -/
def mFields (w : Nat) : MF :=
  { rout := BitVec.ofNat 10 (w / 2 ^ 26), bpi := bitOf w 25, flags := BitVec.ofNat 5 (w / 2 ^ 20), imm := BitVec.ofNat 20 w }

/-- The S-slot map (R92). Part 0. -/
def sTable0 : List (Nat × (SF → Instr)) :=
  [(0x00, .sNop), (0x01, .add), (0x02, .sub), (0x03, .addi), (0x04, .mul), (0x05, .mulhs), (0x06, .mulhn), (0x07, .divs), (0x08, .divn), (0x09, .rems), (0x0A, .remn), (0x0B, .addshl), (0x0C, .mins), (0x0D, .minn), (0x0E, .maxs), (0x0F, .maxn)]
/-- The S-slot map (R92). Part 1. -/
def sTable1 : List (Nat × (SF → Instr)) :=
  [(0x10, .and), (0x11, .or), (0x12, .xor), (0x13, .andn), (0x14, .andi), (0x15, .ori), (0x16, .xori), (0x17, .shl), (0x18, .shrl), (0x19, .shra), (0x1A, .shli), (0x1B, .shrli), (0x1C, .shrai), (0x1D, .rotr), (0x1E, .rotri), (0x20, .movi)]
/-- The S-slot map (R92). Part 2. -/
def sTable2 : List (Nat × (SF → Instr)) :=
  [(0x21, .movhi), (0x22, .seq), (0x23, .sne), (0x24, .slts), (0x25, .sltn), (0x26, .sltis), (0x27, .sltin), (0x30, .bfxs), (0x31, .bfxn), (0x32, .bfi), (0x33, .popc), (0x34, .clz), (0x35, .ctz), (0x40, .psetx), (0x41, .pany), (0x42, .pall)]
/-- The S-slot map (R92). Part 3. -/
def sTable3 : List (Nat × (SF → Instr)) :=
  [(0x43, .pcnt), (0x50, .crr), (0x51, .crw), (0x52, .setfmt), (0x53, .tshape), (0x54, .msetp), (0x55, .mgetp), (0x56, .mpcset), (0x57, .dset), (0x58, .dget)]
/-- The S-slot map (R92). -/
def sTable : List (Nat × (SF → Instr)) :=
  sTable0 ++ sTable1 ++ sTable2 ++ sTable3

/-- The V-slot map by OP6 (R93); VQUANT and its scales form share a code (R208). Part 0. -/
def vTable0 : List (Nat × (VF → Instr)) :=
  [(0x00, .vmov), (0x01, .vadd), (0x02, .vsub), (0x03, .vmul), (0x04, .vfma), (0x05, .vfms), (0x06, .vfnma), (0x07, .vmulh), (0x08, .vmin), (0x09, .vmax), (0x0A, .vabs), (0x0B, .vneg), (0x0C, .vaddsat), (0x0D, .vsubsat), (0x0E, .vavg), (0x10, .vand)]
/-- The V-slot map by OP6 (R93); VQUANT and its scales form share a code (R208). Part 1. -/
def vTable1 : List (Nat × (VF → Instr)) :=
  [(0x11, .vor), (0x12, .vxor), (0x13, .vandn), (0x14, .vshl), (0x15, .vshr), (0x16, .vpopc), (0x17, .vclz), (0x18, .vrcp), (0x19, .vrsqrt), (0x1A, .vexp2), (0x1B, .vlog2), (0x1C, .vtanh), (0x1D, .vsigm), (0x20, .vcmpeq), (0x21, .vcmpne), (0x22, .vcmplt)]
/-- The V-slot map by OP6 (R93); VQUANT and its scales form share a code (R208). Part 2. -/
def vTable2 : List (Nat × (VF → Instr)) :=
  [(0x23, .vcmple), (0x24, .vclass), (0x25, .vsel), (0x28, .vperm), (0x29, .vslideup), (0x2A, .vslidedn), (0x2B, .vbcast), (0x2C, .vzip), (0x2D, .vunzip), (0x2E, .vrev), (0x30, .vredadd), (0x31, .vredmin), (0x32, .vredmax), (0x33, .vscan), (0x34, .vcvt), (0x35, fun f => if f.vc.getLsbD 4 then .vquantScales f else .vquant f)]
/-- The V-slot map by OP6 (R93); VQUANT and its scales form share a code (R208). Part 3. -/
def vTable3 : List (Nat × (VF → Instr)) :=
  [(0x36, .vdequant), (0x37, .vpack), (0x38, .vunpack), (0x39, .pand), (0x3A, .por), (0x3B, .pxor), (0x3C, .pandn), (0x3D, .pnot), (0x3E, .pfirst)]
/-- The V-slot map by OP6 (R93); VQUANT and its scales form share a code (R208). -/
def vTable : List (Nat × (VF → Instr)) :=
  vTable0 ++ vTable1 ++ vTable2 ++ vTable3

/-- The L-slot map (R94); rows that share a code are told apart by OPX (R230, R234, R270, R298). Part 0. -/
def lTable0 : List (Nat × (LF → Instr)) :=
  [(0x00, .lNop), (0x01, .ldsS8), (0x02, .ldsN8), (0x03, .ldsS16), (0x04, .ldsN16), (0x05, .ldsS32), (0x06, .ldsN32), (0x07, .ldsB64), (0x08, .stsB8), (0x09, .stsB16), (0x0A, .stsB32), (0x0B, .stsB64), (0x0C, .ldsv), (0x0D, .stsv), (0x0E, .ldsvs), (0x0F, .stsvs)]
/-- The L-slot map (R94); rows that share a code are told apart by OPX (R230, R234, R270, R298). Part 1. -/
def lTable1 : List (Nat × (LF → Instr)) :=
  [(0x10, .gather), (0x11, .scatter), (0x18, .ldgS8), (0x19, .ldgN8), (0x1A, .ldgS16), (0x1B, .ldgN16), (0x1C, .ldgS32), (0x1D, .ldgN32), (0x1E, .ldgB64), (0x1F, .ldgv), (0x20, .stgB8), (0x21, .stgB16), (0x22, .stgB32), (0x23, .stgB64), (0x24, .stgv), (0x28, .aadd)]
/-- The L-slot map (R94); rows that share a code are told apart by OPX (R230, R234, R270, R298). Part 2. -/
def lTable2 : List (Nat × (LF → Instr)) :=
  [(0x29, .asmin), (0x2A, .anmin), (0x2B, .asmax), (0x2C, .anmax), (0x2D, .aand), (0x2E, .aor), (0x2F, .axor), (0x30, .aswap), (0x31, .acas), (0x38, .acq), (0x39, .rel), (0x3A, .fence), (0x3B, .barinit), (0x3C, .bararv), (0x3D, .barwait), (0x40, .copyld)]
/-- The L-slot map (R94); rows that share a code are told apart by OPX (R230, R234, R270, R298). Part 3. -/
def lTable3 : List (Nat × (LF → Instr)) :=
  [(0x41, fun f => if f.opx then .copygoNobar f else .copygo f), (0x42, .drain), (0x48, .bobpop), (0x49, .bobrel), (0x4A, .bobinit), (0x4B, .bobstat), (0x50, fun f => if f.opx then .spawnSc f else .spawn f), (0x51, .rangenext), (0x52, .skjoin), (0x53, .skleave), (0x54, .skbar), (0x55, .scopenew), (0x56, .cancel), (0x57, .cwait), (0x58, .bankmode), (0x60, .recv)]
/-- The L-slot map (R94); rows that share a code are told apart by OPX (R230, R234, R270, R298). Part 4. -/
def lTable4 : List (Nat × (LF → Instr)) :=
  [(0x61, .recx), (0x62, .recp), (0x63, fun f => if f.opx then .rmarkPop f else .rmark f), (0x64, .rpopv), (0x65, .rpopx), (0x66, .rpopp), (0x67, fun f => if f.opx then .rchkV f else .rchk f), (0x68, .rseal), (0x69, .recb), (0xC0, .mcxld), (0xC1, fun f => if f.opx then .mcxstEvict f else .mcxst f), (0xC2, .tlbinv), (0xC3, .fqpop), (0xC4, .fqdone), (0xC5, .snapsave), (0xC6, .snapload)]
/-- The L-slot map (R94); rows that share a code are told apart by OPX (R230, R234, R270, R298). Part 5. -/
def lTable5 : List (Nat × (LF → Instr)) :=
  [(0xC7, fun f => if f.opx then .wipeSram f else .wipe f)]
/-- The L-slot map (R94); rows that share a code are told apart by OPX (R230, R234, R270, R298). -/
def lTable : List (Nat × (LF → Instr)) :=
  lTable0 ++ lTable1 ++ lTable2 ++ lTable3 ++ lTable4 ++ lTable5

/-- The B-slot map (R95). Part 0. -/
def bTable0 : List (Nat × (BF → Instr)) :=
  [(0x00, .bNop), (0x01, .brut), (0x02, .bruf), (0x03, .jt), (0x04, .call), (0x05, .ret), (0x06, .loop), (0x07, .leavet), (0x08, .leavef), (0x09, .brt), (0x0A, .brk), (0x30, .ipi), (0x31, .eret), (0x32, .halt)]
/-- The B-slot map (R95). -/
def bTable : List (Nat × (BF → Instr)) :=
  bTable0

/-- The micro-op map (R253); ADDR is told apart by MODE (R255). Part 0. -/
def uTable0 : List (Nat × (UF → Instr)) :=
  [(0x00, .uopNop), (0x01, .tload), (0x02, .tstore), (0x03, .azero), (0x04, .aload), (0x05, .astore), (0x06, .cvt), (0x07, .opstep), (0x08, .spstep), (0x09, .zpc), (0x0A, .bsc), (0x0B, .scale), (0x0C, fun f => if f.mode == 0 then .addr f else if f.mode == 1 then .addrAdd f else if f.mode == 2 then .addrLo f else .addrHi f), (0x0D, .uopLoop), (0x0E, .mstep), (0x0F, .shadow)]
/-- The micro-op map (R253); ADDR is told apart by MODE (R255). Part 1. -/
def uTable1 : List (Nat × (UF → Instr)) :=
  [(0x10, .skipf), (0x11, .uopEnd)]
/-- The micro-op map (R253); ADDR is told apart by MODE (R255). -/
def uTable : List (Nat × (UF → Instr)) :=
  uTable0 ++ uTable1

/-- The entry of an opcode in a map. -/
def lookupOp {α : Type} : List (Nat × α) → Nat → Option α
  | [], _ => none
  | (k, v) :: t, c => if c = k then some v else lookupOp t c

/-- The S slot (R67, R92): codes 0x80 to 0xFF are ILLEGAL, other unlisted codes are reserved. -/
def decodeS (w : Nat) : Except SlotRefusal Instr :=
  match lookupOp sTable (bitsOf w 39 32) with
  | some c => .ok (c (sFields w))
  | none => if bitsOf w 39 32 < 0x80 then .error .reserved else .error .illegal

/-- The V slot (R68, R93): OP6 0x3F and TY 0xF are ILLEGAL; unlisted OP6 and TY 0xC to 0xE are reserved. A pair (OP6, TY)
that the index of R195 does not list is refused by well-formedness, with the same ILLEGAL trap. -/
def decodeV (w : Nat) : Except SlotRefusal Instr :=
  match lookupOp vTable (bitsOf w 55 50) with
  | some c =>
    if bitsOf w 49 46 = 15 then .error .illegal
    else if 12 ≤ bitsOf w 49 46 then .error .reserved
    else .ok (c (vFields w))
  | none => if bitsOf w 55 50 = 0x3F then .error .illegal else .error .reserved

/-- The L slot (R69, R94): codes 0xC8 to 0xDF are privileged and unassigned, 0xE0 to 0xFF are ILLEGAL. -/
def decodeL (w : Nat) : Except SlotRefusal Instr :=
  match lookupOp lTable (bitsOf w 47 40) with
  | some c => .ok (c (lFields w))
  | none =>
    if bitsOf w 47 40 < 0xC0 then .error .reserved
    else if bitsOf w 47 40 < 0xE0 then .error .privUnassigned
    else .error .illegal

/-- The B slot (R70, R95): codes 0x33 to 0x37 are privileged and unassigned, 0x38 to 0x3F are ILLEGAL. -/
def decodeB (w : Nat) : Except SlotRefusal Instr :=
  match lookupOp bTable (bitsOf w 23 18) with
  | some c => .ok (c (bFields w))
  | none =>
    if bitsOf w 23 18 < 0x33 then .error .reserved
    else if bitsOf w 23 18 < 0x38 then .error .privUnassigned
    else .error .illegal

/-- The M slot (R71, R96); in a bundle whose header sets MRPT, MCALL is the repeat form (R244). -/
def decodeM (mrpt : Bool) (w : Nat) : Except SlotRefusal Instr :=
  match bitsOf w 39 36 with
  | 0 => .ok (.mNop (mFields w))
  | 1 => .ok (if mrpt then .mcallRpt (mFields w) else .mcall (mFields w))
  | 2 => .ok (.mwait (mFields w))
  | 14 => .error .privUnassigned
  | 15 => .error .illegal
  | _ => .error .reserved

/-- The fields a micro-op of the given OP holds (R253); fields it does not name stay zero. -/
def uFields (w : Nat) : UF :=
  match bitsOf w 63 58 with
  | 0x01 | 0x02 => { sel := BitVec.ofNat 5 (w / 2 ^ 53), arg := BitVec.ofNat 3 (w / 2 ^ 50),
                     pitch := BitVec.ofNat 16 (w / 2 ^ 34), off := BitVec.ofNat 16 (w / 2 ^ 18) }
  | 0x03 => { acc := BitVec.ofNat 3 (w / 2 ^ 55) }
  | 0x04 | 0x05 => { acc := BitVec.ofNat 3 (w / 2 ^ 55), arg := BitVec.ofNat 3 (w / 2 ^ 52),
                     pitch := BitVec.ofNat 16 (w / 2 ^ 36), off := BitVec.ofNat 16 (w / 2 ^ 20),
                     rows := BitVec.ofNat 7 (w / 2 ^ 13), cols := BitVec.ofNat 7 (w / 2 ^ 6) }
  | 0x06 => { sel := BitVec.ofNat 5 (w / 2 ^ 53), en := bitOf w 52, ta := BitVec.ofNat 5 (w / 2 ^ 47) }
  | 0x07 | 0x08 => { acc := BitVec.ofNat 3 (w / 2 ^ 55), ta := BitVec.ofNat 5 (w / 2 ^ 50), tb := BitVec.ofNat 5 (w / 2 ^ 45) }
  | 0x09 | 0x0A => { arg := BitVec.ofNat 3 (w / 2 ^ 55), argb := BitVec.ofNat 3 (w / 2 ^ 52), en := bitOf w 51 }
  | 0x0B => { acc := BitVec.ofNat 3 (w / 2 ^ 55), arg := BitVec.ofNat 3 (w / 2 ^ 52), argb := BitVec.ofNat 3 (w / 2 ^ 49),
              en := bitOf w 48, enb := bitOf w 47 }
  | 0x0C => { arg := BitVec.ofNat 3 (w / 2 ^ 55), mode := BitVec.ofNat 2 (w / 2 ^ 53), argb := BitVec.ofNat 3 (w / 2 ^ 50),
              imm := BitVec.ofNat 32 (w / 2 ^ 18) }
  | 0x0D => { en := bitOf w 57, arg := BitVec.ofNat 3 (w / 2 ^ 54), pitch := BitVec.ofNat 16 (w / 2 ^ 38),
              last := BitVec.ofNat 14 (w / 2 ^ 24) }
  | 0x0E => { tlive := BitVec.ofNat 16 (w / 2 ^ 42), slive := BitVec.ofNat 5 (w / 2 ^ 37) }
  | 0x0F => { amask := BitVec.ofNat 4 (w / 2 ^ 54), smask := BitVec.ofNat 2 (w / 2 ^ 52) }
  | 0x10 => { bit := BitVec.ofNat 3 (w / 2 ^ 55), en := bitOf w 54 }
  | _ => {}

/-- The opcode and fields under which an instruction is encoded; an event has no encoding. -/
inductive SlotCode where
  | s (opc : Nat) (f : SF)
  | v (op6 : Nat) (f : VF)
  | l (opc : Nat) (f : LF)
  | b (opc : Nat) (f : BF)
  | m (mop : Nat) (mrpt : Bool) (f : MF)
  | u (op : Nat) (f : UF)
  | event
  deriving DecidableEq, Repr

/-- The opcode of each instruction (R92 to R96, R253). -/
def Instr.code : Instr → SlotCode
  | .bundleIssue => .event
  | .strandSelect => .event
  | .resultLand => .event
  | .fmtTakeEffect => .event
  | .blockEnd => .event
  | .stallEnd => .event
  | .taskPlace => .event
  | .strandRetire => .event
  | .rangeSteal => .event
  | .killArrival => .event
  | .copyStart => .event
  | .transformPin => .event
  | .copySectorWrite => .event
  | .copyError => .event
  | .bobbinSlotStart => .event
  | .bankTransition => .event
  | .callStart => .event
  | .repeatEnqueue => .event
  | .shadowCompare => .event
  | .frameWrite => .event
  | .frameDecode => .event
  | .sNop f => .s 0x00 f
  | .add f => .s 0x01 f
  | .sub f => .s 0x02 f
  | .addi f => .s 0x03 f
  | .mul f => .s 0x04 f
  | .mulhs f => .s 0x05 f
  | .mulhn f => .s 0x06 f
  | .divs f => .s 0x07 f
  | .divn f => .s 0x08 f
  | .rems f => .s 0x09 f
  | .remn f => .s 0x0A f
  | .addshl f => .s 0x0B f
  | .mins f => .s 0x0C f
  | .minn f => .s 0x0D f
  | .maxs f => .s 0x0E f
  | .maxn f => .s 0x0F f
  | .and f => .s 0x10 f
  | .or f => .s 0x11 f
  | .xor f => .s 0x12 f
  | .andn f => .s 0x13 f
  | .andi f => .s 0x14 f
  | .ori f => .s 0x15 f
  | .xori f => .s 0x16 f
  | .shl f => .s 0x17 f
  | .shrl f => .s 0x18 f
  | .shra f => .s 0x19 f
  | .shli f => .s 0x1A f
  | .shrli f => .s 0x1B f
  | .shrai f => .s 0x1C f
  | .rotr f => .s 0x1D f
  | .rotri f => .s 0x1E f
  | .movi f => .s 0x20 f
  | .movhi f => .s 0x21 f
  | .seq f => .s 0x22 f
  | .sne f => .s 0x23 f
  | .slts f => .s 0x24 f
  | .sltn f => .s 0x25 f
  | .sltis f => .s 0x26 f
  | .sltin f => .s 0x27 f
  | .bfxs f => .s 0x30 f
  | .bfxn f => .s 0x31 f
  | .bfi f => .s 0x32 f
  | .popc f => .s 0x33 f
  | .clz f => .s 0x34 f
  | .ctz f => .s 0x35 f
  | .psetx f => .s 0x40 f
  | .pany f => .s 0x41 f
  | .pall f => .s 0x42 f
  | .pcnt f => .s 0x43 f
  | .crr f => .s 0x50 f
  | .crw f => .s 0x51 f
  | .setfmt f => .s 0x52 f
  | .tshape f => .s 0x53 f
  | .msetp f => .s 0x54 f
  | .mgetp f => .s 0x55 f
  | .mpcset f => .s 0x56 f
  | .dset f => .s 0x57 f
  | .dget f => .s 0x58 f
  | .vmov f => .v 0x00 f
  | .vadd f => .v 0x01 f
  | .vsub f => .v 0x02 f
  | .vmul f => .v 0x03 f
  | .vfma f => .v 0x04 f
  | .vfms f => .v 0x05 f
  | .vfnma f => .v 0x06 f
  | .vmulh f => .v 0x07 f
  | .vmin f => .v 0x08 f
  | .vmax f => .v 0x09 f
  | .vabs f => .v 0x0A f
  | .vneg f => .v 0x0B f
  | .vaddsat f => .v 0x0C f
  | .vsubsat f => .v 0x0D f
  | .vavg f => .v 0x0E f
  | .vand f => .v 0x10 f
  | .vor f => .v 0x11 f
  | .vxor f => .v 0x12 f
  | .vandn f => .v 0x13 f
  | .vshl f => .v 0x14 f
  | .vshr f => .v 0x15 f
  | .vpopc f => .v 0x16 f
  | .vclz f => .v 0x17 f
  | .vrcp f => .v 0x18 f
  | .vrsqrt f => .v 0x19 f
  | .vexp2 f => .v 0x1A f
  | .vlog2 f => .v 0x1B f
  | .vtanh f => .v 0x1C f
  | .vsigm f => .v 0x1D f
  | .vcmpeq f => .v 0x20 f
  | .vcmpne f => .v 0x21 f
  | .vcmplt f => .v 0x22 f
  | .vcmple f => .v 0x23 f
  | .vclass f => .v 0x24 f
  | .vsel f => .v 0x25 f
  | .vperm f => .v 0x28 f
  | .vslideup f => .v 0x29 f
  | .vslidedn f => .v 0x2A f
  | .vbcast f => .v 0x2B f
  | .vzip f => .v 0x2C f
  | .vunzip f => .v 0x2D f
  | .vrev f => .v 0x2E f
  | .vredadd f => .v 0x30 f
  | .vredmin f => .v 0x31 f
  | .vredmax f => .v 0x32 f
  | .vscan f => .v 0x33 f
  | .vcvt f => .v 0x34 f
  | .vquant f => .v 0x35 f
  | .vquantScales f => .v 0x35 f
  | .vdequant f => .v 0x36 f
  | .vpack f => .v 0x37 f
  | .vunpack f => .v 0x38 f
  | .pand f => .v 0x39 f
  | .por f => .v 0x3A f
  | .pxor f => .v 0x3B f
  | .pandn f => .v 0x3C f
  | .pnot f => .v 0x3D f
  | .pfirst f => .v 0x3E f
  | .lNop f => .l 0x00 f
  | .ldsS8 f => .l 0x01 f
  | .ldsN8 f => .l 0x02 f
  | .ldsS16 f => .l 0x03 f
  | .ldsN16 f => .l 0x04 f
  | .ldsS32 f => .l 0x05 f
  | .ldsN32 f => .l 0x06 f
  | .ldsB64 f => .l 0x07 f
  | .stsB8 f => .l 0x08 f
  | .stsB16 f => .l 0x09 f
  | .stsB32 f => .l 0x0A f
  | .stsB64 f => .l 0x0B f
  | .ldsv f => .l 0x0C f
  | .stsv f => .l 0x0D f
  | .ldsvs f => .l 0x0E f
  | .stsvs f => .l 0x0F f
  | .gather f => .l 0x10 f
  | .scatter f => .l 0x11 f
  | .ldgS8 f => .l 0x18 f
  | .ldgN8 f => .l 0x19 f
  | .ldgS16 f => .l 0x1A f
  | .ldgN16 f => .l 0x1B f
  | .ldgS32 f => .l 0x1C f
  | .ldgN32 f => .l 0x1D f
  | .ldgB64 f => .l 0x1E f
  | .ldgv f => .l 0x1F f
  | .stgB8 f => .l 0x20 f
  | .stgB16 f => .l 0x21 f
  | .stgB32 f => .l 0x22 f
  | .stgB64 f => .l 0x23 f
  | .stgv f => .l 0x24 f
  | .aadd f => .l 0x28 f
  | .asmin f => .l 0x29 f
  | .anmin f => .l 0x2A f
  | .asmax f => .l 0x2B f
  | .anmax f => .l 0x2C f
  | .aand f => .l 0x2D f
  | .aor f => .l 0x2E f
  | .axor f => .l 0x2F f
  | .aswap f => .l 0x30 f
  | .acas f => .l 0x31 f
  | .acq f => .l 0x38 f
  | .rel f => .l 0x39 f
  | .fence f => .l 0x3A f
  | .barinit f => .l 0x3B f
  | .bararv f => .l 0x3C f
  | .barwait f => .l 0x3D f
  | .copyld f => .l 0x40 f
  | .copygo f => .l 0x41 f
  | .copygoNobar f => .l 0x41 f
  | .drain f => .l 0x42 f
  | .bobpop f => .l 0x48 f
  | .bobrel f => .l 0x49 f
  | .bobinit f => .l 0x4A f
  | .bobstat f => .l 0x4B f
  | .spawn f => .l 0x50 f
  | .spawnSc f => .l 0x50 f
  | .rangenext f => .l 0x51 f
  | .skjoin f => .l 0x52 f
  | .skleave f => .l 0x53 f
  | .skbar f => .l 0x54 f
  | .scopenew f => .l 0x55 f
  | .cancel f => .l 0x56 f
  | .cwait f => .l 0x57 f
  | .bankmode f => .l 0x58 f
  | .recv f => .l 0x60 f
  | .recx f => .l 0x61 f
  | .recp f => .l 0x62 f
  | .rmark f => .l 0x63 f
  | .rmarkPop f => .l 0x63 f
  | .rpopv f => .l 0x64 f
  | .rpopx f => .l 0x65 f
  | .rpopp f => .l 0x66 f
  | .rchk f => .l 0x67 f
  | .rchkV f => .l 0x67 f
  | .rseal f => .l 0x68 f
  | .recb f => .l 0x69 f
  | .mcxld f => .l 0xC0 f
  | .mcxst f => .l 0xC1 f
  | .mcxstEvict f => .l 0xC1 f
  | .tlbinv f => .l 0xC2 f
  | .fqpop f => .l 0xC3 f
  | .fqdone f => .l 0xC4 f
  | .snapsave f => .l 0xC5 f
  | .snapload f => .l 0xC6 f
  | .wipe f => .l 0xC7 f
  | .wipeSram f => .l 0xC7 f
  | .bNop f => .b 0x00 f
  | .brut f => .b 0x01 f
  | .bruf f => .b 0x02 f
  | .jt f => .b 0x03 f
  | .call f => .b 0x04 f
  | .ret f => .b 0x05 f
  | .loop f => .b 0x06 f
  | .leavet f => .b 0x07 f
  | .leavef f => .b 0x08 f
  | .brt f => .b 0x09 f
  | .brk f => .b 0x0A f
  | .ipi f => .b 0x30 f
  | .eret f => .b 0x31 f
  | .halt f => .b 0x32 f
  | .mNop f => .m 0x00 false f
  | .mcall f => .m 0x01 false f
  | .mcallRpt f => .m 0x01 true f
  | .mwait f => .m 0x02 false f
  | .uopNop f => .u 0x00 f
  | .tload f => .u 0x01 f
  | .tstore f => .u 0x02 f
  | .azero f => .u 0x03 f
  | .aload f => .u 0x04 f
  | .astore f => .u 0x05 f
  | .cvt f => .u 0x06 f
  | .opstep f => .u 0x07 f
  | .spstep f => .u 0x08 f
  | .zpc f => .u 0x09 f
  | .bsc f => .u 0x0A f
  | .scale f => .u 0x0B f
  | .addr f => .u 0x0C f
  | .addrAdd f => .u 0x0C f
  | .addrLo f => .u 0x0C f
  | .addrHi f => .u 0x0C f
  | .uopLoop f => .u 0x0D f
  | .mstep f => .u 0x0E f
  | .shadow f => .u 0x0F f
  | .skipf f => .u 0x10 f
  | .uopEnd f => .u 0x11 f
  | .ipiDeliver => .event
  | .mspawn => .event
  | .nrpRequest => .event
  | .nrpCancel => .event
  | .contextRecordLoad => .event
  | .savePost => .event
  | .dqack => .event
  | .requestTimeout => .event
  | .sqtail => .event
  | .cqhead => .event
  | .sqcfg => .event
  | .commandAdmit => .event
  | .hostNop => .event
  | .install => .event
  | .remove => .event
  | .launch => .event
  | .hostCancel => .event
  | .copy => .event
  | .mark => .event
  | .flashwrite => .event
  | .flashread => .event
  | .flashflush => .event
  | .flashinfo => .event
  | .commandCompletion => .event
  | .hqdone => .event
  | .watchdogWarning => .event
  | .partitionReset => .event
  | .dbgctl => .event
  | .debugStop => .event
  | .tlbMissWalk => .event
  | .faultPost => .event
  | .sharedFrameRefetch => .event
  | .pctl => .event
  | .pcap => .event
  | .scmask => .event
  | .partitionFloor => .event
  | .arbiterSlot => .event
  | .capWindowEnd => .event
  | .freqRelock => .event
  | .islandIdleEntry => .event
  | .islandWake => .event
  | .load => .event
  | .clear => .event
  | .report => .event
  | .extend => .event
  | .setdbg => .event
  | .lcreq => .event
  | .dbgten => .event
  | .ethernetFrame => .event
  | .linkStateChange => .event
  | .replySend => .event
  | .read => .event
  | .write => .event
  | .atomic => .event
  | .readrsp => .event
  | .writeack => .event
  | .atomicrsp => .event
  | .reachTimeout => .event
  | .flr => .event
  | .bar2Access => .event
  | .hostLinkReset => .event
  | .rvtail => .event
  | .unitStream => .event
  | .unitDone => .event
  | .driveTimeout => .event
  | .leaFlush => .event
  | .leaReport => .event
  | .counterFlush => .event
  | .coldReset => .event
  | .pldmFirmwareUpdate => .event
  | .pldmResetEffecter => .event
  | .pldmSensorRead => .event
  | .supplyOutOfRange => .event
  | .supplyReturn => .event
  | .thermalThrottle => .event
  | .thermalTrip => .event
  | .thermalRecovery => .event
  | .registerWrite => .event
  | .perrateWindow => .event
  | .linkError => .event

def encS (opc : Nat) (f : SF) : Nat :=
  opc * 2 ^ 32 + f.xd.toNat * 2 ^ 26 + f.xa.toNat * 2 ^ 20 + f.xb.toNat * 2 ^ 14 + f.imm.toNat
def encV (op6 : Nat) (f : VF) : Nat :=
  op6 * 2 ^ 50 + f.ty.toNat * 2 ^ 46 + f.vd.toNat * 2 ^ 37 + f.va.toNat * 2 ^ 28 + f.vb.toNat * 2 ^ 19
    + f.vc.toNat * 2 ^ 10 + f.g.toNat * 2 ^ 6 + f.bpsel.toNat * 2 ^ 4 + f.zero.toNat * 8 + f.nan.toNat * 4 + f.rnd.toNat
def encL (opc : Nat) (f : LF) : Nat :=
  opc * 2 ^ 40 + f.reg.toNat * 2 ^ 31 + f.xbase.toNat * 2 ^ 25 + f.off.toNat * 2 ^ 9 + f.g.toNat * 2 ^ 5
    + f.bpd.toNat * 16 + f.opx.toNat * 8 + f.scope.toNat
def encB (opc : Nat) (f : BF) : Nat :=
  opc * 2 ^ 18 + f.disp.toNat * 2 ^ 4 + f.pred.toNat * 2 + f.asm.toNat
def encM (mop : Nat) (f : MF) : Nat :=
  mop * 2 ^ 36 + f.rout.toNat * 2 ^ 26 + f.bpi.toNat * 2 ^ 25 + f.flags.toNat * 2 ^ 20 + f.imm.toNat
def encU (op : Nat) (f : UF) : Nat :=
  op * 2 ^ 58 +
  match op with
  | 0x01 | 0x02 => f.sel.toNat * 2 ^ 53 + f.arg.toNat * 2 ^ 50 + f.pitch.toNat * 2 ^ 34 + f.off.toNat * 2 ^ 18
  | 0x03 => f.acc.toNat * 2 ^ 55
  | 0x04 | 0x05 => f.acc.toNat * 2 ^ 55 + f.arg.toNat * 2 ^ 52 + f.pitch.toNat * 2 ^ 36 + f.off.toNat * 2 ^ 20
      + f.rows.toNat * 2 ^ 13 + f.cols.toNat * 2 ^ 6
  | 0x06 => f.sel.toNat * 2 ^ 53 + f.en.toNat * 2 ^ 52 + f.ta.toNat * 2 ^ 47
  | 0x07 | 0x08 => f.acc.toNat * 2 ^ 55 + f.ta.toNat * 2 ^ 50 + f.tb.toNat * 2 ^ 45
  | 0x09 | 0x0A => f.arg.toNat * 2 ^ 55 + f.argb.toNat * 2 ^ 52 + f.en.toNat * 2 ^ 51
  | 0x0B => f.acc.toNat * 2 ^ 55 + f.arg.toNat * 2 ^ 52 + f.argb.toNat * 2 ^ 49 + f.en.toNat * 2 ^ 48 + f.enb.toNat * 2 ^ 47
  | 0x0C => f.arg.toNat * 2 ^ 55 + f.mode.toNat * 2 ^ 53 + f.argb.toNat * 2 ^ 50 + f.imm.toNat * 2 ^ 18
  | 0x0D => f.en.toNat * 2 ^ 57 + f.arg.toNat * 2 ^ 54 + f.pitch.toNat * 2 ^ 38 + f.last.toNat * 2 ^ 24
  | 0x0E => f.tlive.toNat * 2 ^ 42 + f.slive.toNat * 2 ^ 37
  | 0x0F => f.amask.toNat * 2 ^ 54 + f.smask.toNat * 2 ^ 52
  | 0x10 => f.bit.toNat * 2 ^ 55 + f.en.toNat * 2 ^ 54
  | _ => 0

/-- A micro-op of 64 bits (R253): an unassigned OP is refused, and so is a word with a bit set that its entry does not name, or with a value that its
entry does not give (R250, R253). -/
def decodeU (w : Nat) : Option Instr :=
  match lookupOp uTable (bitsOf w 63 58) with
  | some c => if encU (bitsOf w 63 58) (uFields w) = w % 2 ^ 64 ∧ (c (uFields w)).wf then some (c (uFields w)) else none
  | none => none

/-- The bits of an instruction, with their number; an event has none. -/
def encode (i : Instr) : Nat × Nat :=
  match i.code with
  | .s c f => (40, encS c f)
  | .v c f => (56, encV c f)
  | .l c f => (48, encL c f)
  | .b c f => (24, encB c f)
  | .m c _ f => (40, encM c f)
  | .u c f => (64, encU c f)
  | .event => (0, 0)

/-- Bit `i` of a bundle header, numbered as R63 numbers it in the bundle (368 to 383). -/
def hdrBit (h : BitVec 16) (i : Nat) : Bool := h.getLsbD (i - 368)

/-- The low bit, width, header valid bit and decoder of each slot of a 384-bit bundle, in the order of CAUSE.SLOT (R62, R63, R83). -/
def slotLayout (mrpt : Bool) : List (Slot × Nat × Nat × Nat × (Nat → Except SlotRefusal Instr)) :=
  [(.s0, 328, 40, 381, decodeS), (.s1, 288, 40, 380, decodeS), (.v0, 232, 56, 379, decodeV), (.v1, 176, 56, 378, decodeV),
   (.m, 136, 40, 377, decodeM mrpt), (.l0, 88, 48, 376, decodeL), (.l1, 40, 48, 375, decodeL), (.b, 16, 24, 374, decodeB)]

/-- What the decoder finds in one slot of a bundle. -/
inductive SlotView where
  | empty                            -- invalid, all bits zero
  | dirty                            -- invalid with a bit set: malformed (R64)
  | op (i : Instr)
  | refused (r : SlotRefusal)
  deriving DecidableEq, Repr

/-- The eight slots of a bundle as decoded (R62 to R64). -/
def decodeSlots (w : Nat) : List (Slot × SlotView) :=
  let h := BitVec.ofNat 16 (w / 2 ^ 368)
  (slotLayout (hdrBit h 373)).map fun (sl, lo, n, vb, dec) =>
    let x := w / 2 ^ lo % 2 ^ n
    (sl, if hdrBit h vb then (match dec x with | .ok i => .op i | .error r => .refused r)
         else if x = 0 then .empty else .dirty)

/-- The header of a bundle that holds one slot alone, with the other header bits given. -/
def slotValidBit : Slot → BitVec 16
  | .s0 => 0x2000 | .s1 => 0x1000 | .v0 => 0x0800 | .v1 => 0x0400
  | .m => 0x0200 | .l0 => 0x0100 | .l1 => 0x0080 | .b => 0x0040

def slotLow : Slot → Nat
  | .s0 => 328 | .s1 => 288 | .v0 => 232 | .v1 => 176 | .m => 136 | .l0 => 88 | .l1 => 40 | .b => 16

/-- The 384 bits of a bundle (R62): its header, its slots and its broadcast port. -/
def encodeBundle (b : Bundle) : Nat :=
  b.hdr.toNat * 2 ^ 368 + b.bp.toNat + (b.ops.map fun (s, i) => (encode i).2 * 2 ^ slotLow s).sum

/-- The 25 code words of a literal bundle: the escape, then code word k with bits [399−16k : 384−16k] (R58, R59). -/
def literalWords (w : Nat) : List Nat :=
  0xFFFE :: (List.range 24).map fun j => w / 2 ^ (368 - 16 * j) % 2 ^ 16

/-- The bundle held by the 24 code words after an escape (R59). -/
def literalBundle (ws : List Nat) : Nat := ws.foldl (fun a x => a * 2 ^ 16 + x % 2 ^ 16) 0

/-- The instruction of an opcode-table word: the rows with match bits are the B slot's (24 bits). The word is laid out as the
hardware stores it, in the B slot of a literal bundle, read back from there and given to the decoder. -/
def decodeTableWord (nbits w : Nat) : Option Instr :=
  if nbits = 24 then
    let stored := literalWords (0x0040 * 2 ^ 368 + w % 2 ^ 24 * 2 ^ slotLow .b)
    match (decodeSlots (literalBundle (stored.drop 1))).filterMap fun p => match p.2 with
      | .op i => some i
      | _ => none with
    | [i] => if i.wf then some i else none
    | _ => none
  else none

end Sys2Proof
end

