-- ==== Sys2Proof/Machine/Numbers.lean ====
section
/-! DEFINITION. Element formats, exact values, rounding and conversion (R100 to R113), and the correctly rounded functions of
R199. Values are exact rationals; a result is rounded once. -/

namespace Sys2Proof.Machine

open Sys2Proof

/-- The sticky bits of STATUS[7:0] (R82). -/
abbrev Sticky := BitVec 8

def stInexact : Sticky := 0x01
def stUnderflow : Sticky := 0x02
def stOverflow : Sticky := 0x04
def stDivZero : Sticky := 0x08
def stNan : Sticky := 0x10
def stSaturate : Sticky := 0x20
def stScopeMiss : Sticky := 0x40
def stStoreCollide : Sticky := 0x80

/-- The rounding modes of RND (R68, R111). -/
inductive Rnd where
  | rne | rz | rup | rdn
  deriving DecidableEq, Repr

def Rnd.ofCode (n : Nat) : Rnd :=
  match n with
  | 0 => .rne | 1 => .rz | 2 => .rup | _ => .rdn

/-- A value read from a format: a NaN, an infinity, or an exact rational with the sign of its zero. -/
inductive XNum where
  | nan
  | inf (neg : Bool)
  | fin (neg : Bool) (num den : Nat)
  deriving DecidableEq, Repr

/-- What a floating-point format has beyond its numbers (R101). -/
inductive Special where
  | ieee    -- infinities and NaNs
  | nanOnly -- E4M3: NaN 0x7F and 0xFF, no infinity
  | sat     -- neither
  deriving DecidableEq, Repr

/-- A floating-point format (R101). -/
structure FFmt where
  ebits : Nat
  mbits : Nat
  bias : Nat
  special : Special
  deriving DecidableEq, Repr

def fp32 : FFmt := ⟨8, 23, 127, .ieee⟩
def bf16 : FFmt := ⟨8, 7, 127, .ieee⟩
def fp16 : FFmt := ⟨5, 10, 15, .ieee⟩
def e4m3 : FFmt := ⟨4, 3, 7, .nanOnly⟩
def e5m2 : FFmt := ⟨5, 2, 15, .ieee⟩
def e3m2 : FFmt := ⟨3, 2, 3, .sat⟩
def e2m3 : FFmt := ⟨2, 3, 1, .sat⟩
def e2m1 : FFmt := ⟨2, 1, 1, .sat⟩

/-- The floating-point format of a format code 0x0 to 0x7 (R100). -/
def ffmtOf (code : Nat) : FFmt :=
  match code with
  | 0 => fp32 | 1 => bf16 | 2 => fp16 | 3 => e4m3 | 4 => e5m2 | 5 => e3m2 | 6 => e2m3 | _ => e2m1

/-- The element bits of a format code (R100). -/
def fmtBits (code : Nat) : Nat :=
  match code with
  | 0 | 14 => 32
  | 1 | 2 => 16
  | 5 | 6 => 6
  | 7 | 10 | 11 | 13 => 4
  | _ => 8

def FFmt.width (f : FFmt) : Nat := 1 + f.ebits + f.mbits

/-- The encoding of the largest finite magnitude (R101). -/
def FFmt.maxEnc (f : FFmt) : Nat :=
  match f.special with
  | .ieee => (2 ^ f.ebits - 1) * 2 ^ f.mbits - 1
  | .nanOnly => 2 ^ (f.ebits + f.mbits) - 2
  | .sat => 2 ^ (f.ebits + f.mbits) - 1

def FFmt.signBit (f : FFmt) (neg : Bool) : Nat := if neg then 2 ^ (f.ebits + f.mbits) else 0

/-- The encoding of infinity without its sign; E4M3 has 0x7F there (R112). -/
def FFmt.infEnc (f : FFmt) : Nat :=
  match f.special with
  | .ieee => (2 ^ f.ebits - 1) * 2 ^ f.mbits
  | _ => f.maxEnc

/-- The canonical NaN (R101, R103). -/
def FFmt.nanEnc (f : FFmt) : Nat :=
  match f.special with
  | .ieee => (2 ^ f.ebits - 1) * 2 ^ f.mbits + 2 ^ (f.mbits - 1)
  | .nanOnly => 2 ^ (f.ebits + f.mbits) - 1
  | .sat => 0

/-- 2^e as a rational. -/
def pow2 (e : Int) : Nat × Nat :=
  match e with
  | .ofNat n => (2 ^ n, 1)
  | .negSucc n => (1, 2 ^ (n + 1))

/-- n × 2^e as a rational. -/
def scale2 (n : Nat) (e : Int) : Nat × Nat := (n * (pow2 e).1, (pow2 e).2)

/-- The value of an encoding (R101, R102). -/
def decodeF (f : FFmt) (bits : Nat) : XNum :=
  let x := bits % 2 ^ f.width
  let neg := bitOf x (f.ebits + f.mbits)
  let m := x % 2 ^ f.mbits
  let e := x / 2 ^ f.mbits % 2 ^ f.ebits
  let top := 2 ^ f.ebits - 1
  if f.special = .ieee ∧ e = top then (if m = 0 then .inf neg else .nan)
  else if f.special = .nanOnly ∧ e = top ∧ m = 2 ^ f.mbits - 1 then .nan
  else if e = 0 then
    let r := scale2 m ((1 : Int) - f.bias - f.mbits)
    .fin neg r.1 r.2
  else
    let r := scale2 (2 ^ f.mbits + m) ((e : Int) - f.bias - f.mbits)
    .fin neg r.1 r.2

/-- floor(log2(n/d)) for positive n and d. -/
def floorLog2 (n d : Nat) : Int :=
  let k : Int := (Nat.log2 n : Int) - Nat.log2 d
  let p := pow2 k
  if n * p.2 < d * p.1 then k - 1 else k

/-- The quotient n ÷ d rounded to an integer; `neg` is the sign of the value (R111). Second: was it inexact? -/
def roundNat (r : Rnd) (neg : Bool) (n d : Nat) : Nat × Bool :=
  let q := n / d
  let m := n % d
  let up := match r with
    | .rne => d < 2 * m || (2 * m == d && q % 2 == 1)
    | .rz => false
    | .rup => !neg && m != 0
    | .rdn => neg && m != 0
  (if up then q + 1 else q, m != 0)

/-- What a conversion does on overflow (R111, R112): IEEE 754's result for the mode, or the largest finite value. -/
inductive OnOverflow where
  | ieee | sat
  deriving DecidableEq, Repr

/-- The result that IEEE 754 gives for an overflow in a mode: infinity (true) or the largest finite value. -/
def overflowToInf (r : Rnd) (neg : Bool) : Bool :=
  match r with
  | .rne => true
  | .rz => false
  | .rup => !neg
  | .rdn => neg

/-- A finite exact value rounded once into a format (R111), with its sticky bits. -/
def roundF (f : FFmt) (r : Rnd) (o : OnOverflow) (neg : Bool) (n d : Nat) : Nat × Sticky :=
  if n = 0 then (f.signBit neg, 0)
  else
    let e := floorLog2 n d
    let emin : Int := 1 - (f.bias : Int)
    let ee := if e < emin then emin else e
    let p := pow2 (ee - f.mbits)
    let q := roundNat r neg (n * p.2) (d * p.1)
    let enc := (ee + f.bias - 1).toNat * 2 ^ f.mbits + q.1
    if f.maxEnc < enc then
      let toInf := match o with
        | .ieee => overflowToInf r neg
        | .sat => false
      if toInf then
        (match f.special with
          | .ieee => f.infEnc + f.signBit neg
          | .nanOnly => f.nanEnc
          | .sat => f.maxEnc + f.signBit neg, stOverflow ||| stInexact)
      else (f.maxEnc + f.signBit neg, stOverflow ||| stInexact)
    else
      (f.signBit neg + enc,
        if q.2 then (if e < emin then stInexact ||| stUnderflow else stInexact) else 0)

/-- An exact value rounded into a lane type: NaN gives the canonical NaN and an infinity stays (R103, R111). -/
def roundNum (f : FFmt) (r : Rnd) (x : XNum) : Nat × Sticky :=
  match x with
  | .nan => (f.nanEnc, 0)
  | .inf neg => (f.infEnc + f.signBit neg, 0)
  | .fin neg n d => roundF f r .ieee neg n d

/-- Is a conversion between two float formats narrowing (R112)? -/
def narrowing (src dst : FFmt) : Bool :=
  let big (f : FFmt) : XNum := decodeF f f.maxEnc
  let lt := match big dst, big src with
    | .fin _ n d, .fin _ n' d' => decide (n * d' < n' * d)
    | _, _ => false
  lt || (src.special == .ieee && dst.special != .ieee) || (src.special != .sat && dst.special == .sat)

/-- A value converted into a float format (R112); `narrow` says whether the conversion is narrowing and `nanForm` selects .nan. -/
def convertF (dst : FFmt) (r : Rnd) (narrow nanForm : Bool) (x : XNum) : Nat × Sticky :=
  match x with
  | .fin neg n d => roundF dst r (if narrow && !nanForm then .sat else .ieee) neg n d
  | .inf neg =>
    if !narrow then (dst.infEnc + dst.signBit neg, 0)
    else if nanForm then
      (match dst.special with
        | .ieee => (dst.infEnc + dst.signBit neg, 0)
        | _ => (dst.nanEnc, stNan))
    else (dst.maxEnc + dst.signBit neg, stOverflow)
  | .nan =>
    match dst.special with
    | .sat => (0, stNan)
    | _ => (dst.nanEnc, 0)

/-- RoundInt (R107): an exact value rounded to an integer. Second: was a fraction discarded? -/
def roundInt (r : Rnd) (neg : Bool) (n d : Nat) : Int × Bool :=
  let q := roundNat r neg n d
  (if neg then -(q.1 : Int) else q.1, q.2)

def clampInt (x lo hi : Int) : Int := if x < lo then lo else if hi < x then hi else x

/-- A float value converted into an integer range (R113): NaN gives 0 with NAN, infinities saturate. -/
def convertToInt (r : Rnd) (lo hi : Int) (x : XNum) : Int × Sticky :=
  match x with
  | .nan => (0, stNan)
  | .inf neg => (if neg then lo else hi, stSaturate)
  | .fin neg n d =>
    let q := roundInt r neg n d
    (clampInt q.1 lo hi,
      (if q.1 < lo || hi < q.1 then stSaturate else 0) ||| (if q.2 then stInexact else 0))

/-- An integer converted into an integer range (R207). -/
def satInt (lo hi x : Int) : Int × Sticky := (clampInt x lo hi, if x < lo || hi < x then stSaturate else 0)

/-- The two's-complement value of the low w bits. -/
def sext (w x : Nat) : Int :=
  let y := x % 2 ^ w
  if 2 ^ w ≤ 2 * y then (y : Int) - 2 ^ w else y

/-- The low w bits of an integer. -/
def toBits (w : Nat) (x : Int) : Nat := (x % (2 ^ w : Int)).toNat

def intNum (x : Int) : XNum := .fin (x < 0) x.natAbs 1

/-! Exact arithmetic on values. -/

def XNum.isNan : XNum → Bool
  | .nan => true
  | _ => false

def XNum.isZero : XNum → Bool
  | .fin _ 0 _ => true
  | _ => false

def XNum.isInf : XNum → Bool
  | .inf _ => true
  | _ => false

def XNum.isNeg : XNum → Bool
  | .inf n => n
  | .fin n _ _ => n
  | .nan => false

def XNum.negate : XNum → XNum
  | .nan => .nan
  | .inf n => .inf (!n)
  | .fin s n d => .fin (!s) n d

def XNum.abs : XNum → XNum
  | .nan => .nan
  | .inf _ => .inf false
  | .fin _ n d => .fin false n d

/-- The exact product; 0 × ∞ is invalid and gives a NaN, which `numInvalid` reports (R196). -/
def numMul : XNum → XNum → XNum
  | .nan, _ => .nan
  | _, .nan => .nan
  | .inf s, .inf t => .inf (s != t)
  | .inf s, .fin t n _ => if n = 0 then .nan else .inf (s != t)
  | .fin s n _, .inf t => if n = 0 then .nan else .inf (s != t)
  | .fin s n d, .fin t m e => .fin (s != t) (n * m) (d * e)

/-- The exact sum, with the sign of a zero sum as IEEE 754 gives it for the mode (R196). -/
def numAdd (r : Rnd) : XNum → XNum → XNum
  | .nan, _ => .nan
  | _, .nan => .nan
  | .inf s, .inf t => if s = t then .inf s else .nan
  | .inf s, .fin _ _ _ => .inf s
  | .fin _ _ _, .inf t => .inf t
  | .fin s n d, .fin t m e =>
    if s = t then .fin s (n * e + m * d) (d * e)
    else if n * e = m * d then .fin (r == .rdn) 0 1
    else if m * d < n * e then .fin s (n * e - m * d) (d * e)
    else .fin t (m * d - n * e) (d * e)

/-- Was a NaN result produced from operands that are not NaN (R103)? -/
def invalidBit (res : XNum) (ops : List XNum) : Sticky :=
  if res.isNan && !(ops.any XNum.isNan) then stNan else 0

/-- The exact rational of a finite value as an integer numerator over a natural denominator. -/
def finInt (s : Bool) (n : Nat) : Int := if s then -(n : Int) else n

/-- a < b, with −0 below +0 (R197); NaNs do not occur. -/
def rankLt : XNum → XNum → Bool
  | .inf s, .inf t => s && !t
  | .inf s, _ => s
  | _, .inf t => !t
  | .fin s n d, .fin t m e =>
    let x := finInt s n * e
    let y := finInt t m * d
    decide (x < y) || (decide (x = y) && s && !t)
  | _, _ => false

/-- a < b as real numbers, false with a NaN (R200). -/
def realLt : XNum → XNum → Bool
  | .nan, _ => false
  | _, .nan => false
  | .inf s, .inf t => s && !t
  | .inf s, _ => s
  | _, .inf t => !t
  | .fin s n d, .fin t m e => decide (finInt s n * e < finInt t m * d)

/-- a = b as real numbers, false with a NaN (R200). -/
def realEq : XNum → XNum → Bool
  | .inf s, .inf t => s == t
  | .fin s n d, .fin t m e => decide (finInt s n * e = finInt t m * d)
  | _, _ => false

/-! SC8 scales and the quantisers (R105 to R109). -/

/-- The value of an SC8 byte; `none` is NaN (R108). -/
def sc8Val (b : Nat) : Option (Nat × Nat) :=
  let e := b / 8 % 32
  if e = 31 then none
  else if e = 0 then some (0, 1)
  else some (scale2 (8 + b % 8) ((e : Int) - 18))

/-- The smallest SC8 code whose value is at least n/d, limited to [2^-14, 61440] (R109). -/
def sc8AtLeast (n d : Nat) : Nat :=
  match (List.range 240).find? (fun i =>
      match sc8Val (i + 8) with
      | some (m, e) => decide (n * e ≤ m * d)
      | none => false) with
  | some i => i + 8
  | none => 0xF7

/-- The value of an element under an SC8 scale (R108). DEDUCED, notes/assumptions/13.md: a NaN element stays NaN under a zero scale too.
Under a zero scale the zero of a negative element is +0 (DESIGN CHOICE, notes/assumptions/62.md). -/
def blockElem (sc : Nat) (f : FFmt) (bits : Nat) : XNum :=
  match sc8Val sc with
  | none => .nan
  | some (0, _) => if (decodeF f bits).isNan then .nan else .fin false 0 1
  | some (n, d) => numMul (.fin false n d) (decodeF f bits)

/-- The value of a Q8 or Q4 code under a group parameter word (R105, R106). With a scale of zero and q other than z, the zero has the sign of the product
(DESIGN CHOICE, notes/assumptions/62.md). -/
def qElem (q4 : Bool) (word q : Nat) : XNum :=
  let z : Int := if q4 then bitsOf word 19 16 else bitsOf word 23 16
  let dq : Int := (q : Int) - z
  match decodeF fp16 word with
  | .nan => .nan
  | .inf s => if dq = 0 then .nan else .inf (s != decide (dq < 0))
  | .fin s n d => if dq = 0 then .fin false 0 1 else .fin (s != decide (dq < 0)) (n * dq.natAbs) d

/-- x ÷ s for a finite nonzero s. -/
def numDiv (x : XNum) (s : Bool) (n d : Nat) : XNum :=
  match x with
  | .nan => .nan
  | .inf t => .inf (s != t)
  | .fin t m e => .fin (s != t) (m * d) (e * n)

/-- Quantise (R107). -/
def quantise (x : XNum) (word : Nat) (q4 : Bool) (r : Rnd) : Nat × Sticky :=
  let z : Int := if q4 then bitsOf word 19 16 else bitsOf word 23 16
  let qmax : Int := if q4 then 15 else 255
  match decodeF fp16 word with
  | .nan => (z.toNat, stNan)
  | .inf _ => (z.toNat, stNan)
  | .fin s n d =>
    if n = 0 then (z.toNat, stNan)
    else match x with
      | .nan => (z.toNat, stNan)
      | .inf t =>
        -- R107: q := qmax if x > 0, otherwise 0; neither lies outside the range
        (if t then 0 else qmax.toNat, 0)
      | .fin t m e =>
        let q := roundInt r (s != t) (m * d) (e * n)
        let v := q.1 + z
        if v < 0 || qmax < v then ((clampInt v 0 qmax).toNat, stSaturate)
        else (v.toNat, if q.2 then stInexact else 0)

/-- BlockConvert (R109): the SC8 scale and the four elements. -/
def blockConvert (f : FFmt) (r : Rnd) (xs : List XNum) : Nat × List Nat × Sticky :=
  if xs.any XNum.isNan then (0xF8, xs.map fun _ => 0, 0)
  else
    let emax : Nat := if f = e4m3 then 448 else 6
    let anyInf := xs.any XNum.isInf
    let amax := xs.foldl (fun a x => if rankLt a x.abs then x.abs else a) (.fin false 0 1)
    match amax with
    | .fin _ 0 _ => (0, xs.map fun _ => 0, 0)
    | _ =>
      let sc := if anyInf then 0xF7
        else match amax with
          | .fin _ n d => sc8AtLeast n (d * emax)
          | _ => 0xF7
      let v := (sc8Val sc).getD (1, 1)
      let es := xs.map fun x => convertF f r true false (numDiv x false v.1 v.2)
      (sc, es.map Prod.fst, (es.foldl (fun a y => a ||| y.2) 0) ||| (if anyInf then stOverflow else 0))

/-! The functions of R199, each the exact value rounded once. The irrational ones are formed from an integer enclosure of 640
fraction bits; DEDUCED, notes/assumptions/12.md: no argument of 32 bits brings an irrational value within 2^-600 of a rounding
boundary, so that the rounding of the approximation is the rounding of the value. -/

def fracBits : Nat := 640

/-- atanh(n/d) scaled by 2^640, by its series. -/
def atanhSeries (n2 d2 : Nat) : Nat → Nat → Nat → Nat → Nat
  | 0, _, _, acc => acc
  | fuel + 1, k, t, acc => atanhSeries n2 d2 fuel (k + 2) (t * n2 / d2) (acc + t / k)

def atanhFix (n d : Nat) : Nat := atanhSeries (n * n) (d * d) 260 1 (n * 2 ^ fracBits / d) 0

/-- ln 2 scaled by 2^640. -/
def ln2Fix : Nat := 2 * atanhFix 1 3

/-- exp(t) scaled by 2^640, for t scaled by 2^640 and below 1. -/
def expSeries (t : Nat) : Nat → Nat → Nat → Nat → Nat
  | 0, _, _, acc => acc
  | fuel + 1, k, term, acc => expSeries t fuel (k + 1) (term * t / 2 ^ fracBits / k) (acc + term)

def expFix (t : Nat) : Nat := expSeries t 160 1 (2 ^ fracBits) 0

/-- e^(n/d) as a rational, for n/d from 0 to 512. -/
def expPos (n d : Nat) : Nat × Nat :=
  let x := n * 2 ^ fracBits / d
  let k := x / ln2Fix
  (expFix (x % ln2Fix) * 2 ^ k, 2 ^ fracBits)

/-- An approximation made to lie strictly between representable values, as an irrational value does. -/
def offGrid (x : Nat × Nat) : XNum := .fin false (2 ^ 8 * x.1 * 2 ^ fracBits + 1) (2 ^ 8 * x.2 * 2 ^ fracBits)

def numOne : XNum := .fin false 1 1

/-- 2^a (R199). -/
def exp2Num (neg : Bool) (n d : Nat) : XNum :=
  if n = 0 then numOne
  else if 256 * d ≤ n then (if neg then offGrid (pow2 (-300)) else .fin false (2 ^ 300) 1)
  else
    let v : Int := finInt neg n
    let k := v / (d : Int)
    let m := (v % (d : Int)).toNat
    let p := pow2 k
    if m = 0 then .fin false p.1 p.2
    else
      let f := expFix (m * ln2Fix / d)
      offGrid (f * p.1, 2 ^ fracBits * p.2)

/-- log2 a for a positive a (R199). -/
def log2Num (n d : Nat) : XNum :=
  let k := floorLog2 n d
  let p := pow2 k
  -- m = a ÷ 2^k, from 1 to below 2
  let mn := n * p.2
  let md := d * p.1
  if mn = md then intNum k
  else
    -- reduce to [3/4, 3/2)
    let up := 3 * md ≤ 2 * mn
    let k' := if up then k + 1 else k
    let md' := if up then 2 * md else md
    let below := mn < md'
    let y := atanhFix (if below then md' - mn else mn - md') (mn + md')
    let l : Int := 2 * (y : Int) * 2 ^ fracBits / (ln2Fix : Int)
    let v : Int := k' * 2 ^ fracBits + (if below then -l else l)
    match offGrid (v.natAbs, 2 ^ fracBits) with
    | .fin _ a b => .fin (v < 0) a b
    | x => x

/-- tanh |a| for a nonzero a (R199). -/
def tanhNum (n d : Nat) : XNum :=
  if 64 * d ≤ n then .fin false (2 ^ 200 - 1) (2 ^ 200)
  else
    let e := expPos (2 * n) d
    let one := 2 ^ fracBits
    offGrid ((e.1 - one) * 2 ^ fracBits / (e.1 + one), 2 ^ fracBits)

/-- The sigmoid of a nonzero a (R199). -/
def sigmNum (neg : Bool) (n d : Nat) : XNum :=
  if 256 * d ≤ n then (if neg then .fin false 1 (2 ^ 400) else .fin false (2 ^ 400 - 1) (2 ^ 400))
  else
    let e := expPos n d
    let one := 2 ^ fracBits
    let v := if neg then one * one / (e.1 + one) else e.1 * one / (e.1 + one)
    offGrid (v, one)

/-- floor(sqrt n), one bit at a time. -/
def isqrtAux (n : Nat) : Nat → Nat → Nat
  | 0, acc => acc
  | k + 1, acc => let t := acc + 2 ^ k
    isqrtAux n k (if t * t ≤ n then t else acc)

def isqrt (n : Nat) : Nat := isqrtAux n (Nat.log2 n / 2 + 1) 0

/-- 1 ÷ sqrt(n/d) (R199). -/
def rsqrtNum (n d : Nat) : XNum :=
  let x := d * 4 ^ fracBits
  let s := isqrt (x / n)
  if s * s * n = x then .fin false s (2 ^ fracBits) else .fin false (2 * s + 1) (2 * 2 ^ fracBits)

end Sys2Proof.Machine
end

