-- ==== Sys2Proof/Machine/State.lean ====
section
/-! DEFINITION. The state of the module as plain data: strands, spindles and matrix units, clusters, tile groups, copies, memory,
and the units of dies and package; the reasons to stop; and the state after reset. -/

namespace Sys2Proof.Machine

open Sys2Proof

/-- Why the machine stops with a fault. -/
inductive Fault where
  /-- Raised by the fetch of a bundle (BUNDLE_ISSUE, and a slot operation executed alone) when a boot-ROM byte that nothing
  has placed is read: the spec gives no boot-ROM bytes (R285, R443). Safe: the hardware goes on. -/
  | romUnwritten (addr : Nat)
  deriving DecidableEq, Repr

/-- Why an instruction has no meaning. -/
inductive Refusal where
  /-- Raised by the dispatch for an instruction that is not modelled yet. Safe: the hardware goes on. -/
  | notModelled (mnemonic : String)
  deriving DecidableEq, Repr

/-! ## Strands -/

/-- The register files that a slot operation writes (R78). -/
inductive RFile where
  | x | p | v
  /-- The d registers of copy descriptors, which COPYLD writes (R229). -/
  | d
  deriving DecidableEq, Repr

/-- A register write of an operation, before it lands: the file, the number, the value as bits, the latency of R75, the sticky
bits that reach STATUS with it (R194), and the poison of a boosted result (R189). -/
structure RW where
  file : RFile
  reg : Nat
  val : Nat
  lat : Nat := 1
  sticky : BitVec 8 := 0
  poison : Option (Nat × Nat) := none
  /-- The shadow entry that a boosted result goes to, once it has one (R186). -/
  shadow : Option Nat := none
  deriving DecidableEq, Repr

/-- A result in flight (R75): its destination, and the cycles until it lands, counted as R342 counts d. `shadow` names the
shadow entry it lands in (R186). -/
structure Flight where
  file : RFile
  reg : Nat
  shadow : Option Nat := none
  val : Nat
  d : Nat
  sticky : BitVec 8 := 0
  deriving DecidableEq, Repr

/-- A boost shadow entry (R186): entries 0 to 15 are vector, 16 to 31 scalar, 32 to 35 predicate (R292). -/
structure Shadow where
  live : Bool := false
  reg : Nat := 0
  level : Nat := 0
  ready : Bool := false
  val : Nat := 0
  poison : Option (Nat × Nat) := none
  sticky : BitVec 8 := 0
  order : Nat := 0
  deriving DecidableEq, Repr

/-- An entry of the loop stack (R179). -/
structure LoopEnt where
  start : Nat
  last : Nat
  count : Nat
  deriving DecidableEq, Repr

/-- An entry of the return stack (R178). -/
structure RetEnt where
  addr : Nat
  depth : Nat
  deriving DecidableEq, Repr

/-- A record of the reel (R267). -/
structure ReelRec where
  tag : Nat
  val : Nat := 0
  deriving DecidableEq, Repr

/-- A reel channel (R262 to R265, R278). -/
structure Reel where
  /-- The stack holds a frame. -/
  live : Bool := false
  /-- INDEX of the top frame. -/
  top : Nat := 0
  /-- Records of the top frame, first pushed first. -/
  recs : List ReelRec := []
  /-- The top frame is held only in coded form (R273). -/
  coded : Bool := false
  /-- Writes not yet made, in order (R265): a closed frame's number and bytes; 2^40 + n for the spill of frame n; 2^41 + n for the write-back of a
  refilled frame n. -/
  waiting : List (Nat × List Byte) := []
  /-- The replay buffer: the frames decoded for the instruction that waits for them, with their records, or none for a faulty one (R273). An instruction
  that takes its records from two frames needs both. -/
  replay : List (Nat × Option (List ReelRec)) := []
  /-- Which frame each ring slot holds, plus one; 0 for none (R265). -/
  held : AMap Nat := []
  /-- SEALED, and the frame count that RSEAL returns (R274). -/
  shut : Bool := false
  count : Nat := 0
  /-- The cause of the error state (R278). -/
  err : Option Nat := none
  /-- The fault entry on which the channel is suspended (R278): die and key. -/
  susp : Option (Nat × Nat) := none
  deriving DecidableEq, Repr

/-- The architectural state of a strand that a rollback restores (R338). -/
structure Core where
  x : AMap Word := []
  p : AMap Pred := []
  v : AMap Vec := []
  pc : BitVec 32 := 0
  mpc : BitVec 32 := 0
  status : BitVec 8 := 0
  cause : Word := 0
  epc : Word := 0
  fmt : BitVec 17 := 0
  /-- Pending FMT writes with the bundles still to count (R118). -/
  fmtPend : List (BitVec 17 × Nat) := []
  mrc : BitVec 32 := 0
  mstride : AMap (BitVec 32) := []
  tshape : AMap (BitVec 21) := []
  m : AMap Word := []
  d : AMap (BitVec 256) := []
  reelPolicy : BitVec 2 := 0
  reel : Reel := {}
  shadown : BitVec 17 := 0
  /-- The shadow counter (R119). -/
  shcount : BitVec 32 := 0
  loops : List LoopEnt := []
  rets : List RetEnt := []
  shadows : AMap Shadow := []
  shOrder : Nat := 0
  flight : List Flight := []
  mtvec : BitVec 32 := 0
  intrap : Bool := false
  mldepth : Nat := 0
  mrdepth : Nat := 0
  mtval : BitVec 48 := 0
  evmask : BitVec 13 := 0
  mscratch : AMap Word := []
  deriving DecidableEq, Repr

/-- The states of a strand slot (R21). -/
inductive SlotState where
  | free | ready | running | blocked | halted | saved
  deriving DecidableEq, Repr

/-- Where a byte of memory stands: scratchpad of a cluster, HBM under a key index, a page of another module, or control space. -/
inductive Loc where
  | spad (cl off : Nat)
  | hbm (pa key : Nat)
  /-- A physical address of a mill strand or of BAR2, with the bytes as stored (R286). -/
  | phys (pa : Nat)
  | remote (home pa key : Nat)
  | ctrl (addr : Nat)
  deriving DecidableEq, Repr

/-- The scope of a release or an acquire as its issue evaluates it (R144): the scope, the context, the skeins that its strand is a member of, and the
strands that share one of them. -/
structure ScopeAt where
  scope : Nat := 0
  mcx : Nat := 0
  skeins : List Nat := []
  mates : List Nat := []
  deriving DecidableEq, Repr

/-- A condition that a blocked strand waits for (R25). -/
inductive Wait where
  /-- An engine or memory response: it may come at any time. -/
  | resp
  /-- An ACQ: its word with the virtual address, threshold and register, and its scope at issue (R144, R224). -/
  | acq (loc : Loc) (ea : Nat) (thr : Nat) (reg : Nat) (sc : ScopeAt)
  | drain (ch : Nat)
  | bankmode (cl bank mode : Nat)
  | seal
  | halt
  | barrier (cl off : Nat) (ph : Bool)
  | skein (k : Nat)
  /-- A CWAIT: its word and register (R237). -/
  | cwait (loc : Loc) (reg : Nat)
  | bobbin (cl bank : Nat) (ahead : Nat)
  | granule (cl g : Nat)
  | queue
  | rpt
  | mwait (n tmask amask : Nat)
  | chan (ch : Nat)
  | reel
  /-- The decode of a frame of the reel (R273). -/
  | reelFrame (n : Nat)
  | fault (die key : Nat)
  /-- Responses of the reach domain, by die and tag (R415). -/
  | reach (die tag : Nat)
  /-- A refetch of the shared unit that holds this 64 KiB frame (R368). -/
  | refetch (frame : Nat)
  /-- A REL whose write follows the strand's unanswered remote writes: its word with the virtual address, the value, its scope at issue (R144, R225), and
  whether a TLBINV has invalidated the entry that it was translated through (R300). -/
  | rel (loc : Loc) (ea : Nat) (val : Nat) (sc : ScopeAt) (inval : Bool)
  /-- A FENCE: the strand's remote writes are answered (R150). -/
  | fence
  /-- A SNAPSAVE: its target, if the operand names a strand, its address, its register, and whether the snapshot engine meets an uncorrectable error (R298,
  R302). -/
  | snapsave (tgt : Option Nat) (ea reg : Nat) (err : Bool)
  /-- A SNAPLOAD, with the same operands. -/
  | snapload (tgt : Option Nat) (ea reg : Nat) (err : Bool)
  /-- A TLBINV: the accesses translated through what it invalidated have been performed (R300). -/
  | inval
  deriving DecidableEq, Repr

/-- A line of 512 bytes in the stacked cache or in a cluster's cache ways (R12, R374, R377, R389): its bank, the key index under which it was filled, which
of its four sectors it holds, and which of them have been written since. -/
structure ScLine where
  bank : Nat
  key : Nat
  held : Nat := 0
  dirty : Nat := 0
  deriving DecidableEq, Repr

/-- A withheld store (R221, R337): its place and its bytes. `pend` holds the virtual address while its translation has not
completed, and `loc` is then not used (R337). -/
structure PStore where
  loc : Loc
  bytes : List Byte
  pend : Option Nat := none
  /-- The slot of the store, as CAUSE.SLOT numbers it (R333). -/
  slot : Nat := 5
  /-- The virtual address of a global store (R364), and the CACHE field of its leaf (R358). -/
  ea : Nat := 0
  cache : Nat := 2
  /-- It was translated through an entry that a TLBINV has invalidated (R300). -/
  inval : Bool := false
  deriving DecidableEq, Repr

/-- A strand slot. -/
structure Strand where
  st : SlotState := .free
  core : Core := {}
  /-- The rollback point P when the region holds a bundle (R337). -/
  ckpt : Core := {}
  /-- Arrivals of BARARV that wait for unanswered remote writes (R228): cluster and offset. -/
  arvPend : List (Nat × Nat) := []
  /-- Sectors of remote reel frames that have arrived, by their physical sector (R265, R415). -/
  reelIn : AMap (List Byte) := []
  /-- Bundles of the current region; its undo registers; its withheld stores, oldest first; its held copies (R339). -/
  nBund : Nat := 0
  /-- The channel as it stands at P, once the write-back of a refill has been queued with no bundle issued since (R279). -/
  reelAt : Option Reel := none
  undo : List Nat := []
  stores : List PStore := []
  heldCopies : List Nat := []
  /-- After a rollback the delays of results in flight count from the first replayed issue (R338). -/
  frozen : Bool := false
  /-- What a BLOCKED strand waits for; `after` tells an after-issue block, with the results its end delivers. -/
  waits : List Wait := []
  after : Bool := false
  resp : List RW := []
  /-- The bundle whose after-issue block runs holds an atomic, REL, BARARV, BANKMODE or a privileged instruction (R341). -/
  firm : Bool := false
  /-- The bundle whose after-issue block runs is a checkpoint: its end commits and moves P (R337). -/
  ckptDue : Bool := false
  /-- The code of a BRK beside an after-issue block: BREAK is taken once the block has ended (R184). -/
  brk : Option Nat := none
  /-- An engine trap pending from a call error (R247). -/
  engTrap : Option Nat := none
  /-- The pending-arrival marks of SKBAR (R236), and those whose phase has completed. -/
  skPend : List Nat := []
  skGo : List Nat := []
  /-- A kill has reached the strand (R52). -/
  killed : Bool := false
  /-- The task: context, node, activation, dynamic; scope and its depth; identity word GSP. -/
  mcx : Nat := 0
  node : Nat := 0
  act : Nat := 0
  dyn : Bool := false
  scope : Nat := 0
  depth : Nat := 0
  /-- The shares bound to the slot (R80): vector bank, first physical tile and count, first accumulator and count. -/
  bank : Nat := 0
  tile0 : Nat := 0
  ntile : Nat := 0
  acc0 : Nat := 0
  nacc : Nat := 0
  /-- The live mask of the last CKPT bundle, as its PC, and the v registers written since (R343). -/
  livePc : Option (BitVec 32) := none
  written : List Nat := []
  /-- The save state of a SAVED slot (R347 SSTATE), and whether the slot was already saved to its image. -/
  sstate : Nat := 0
  imaged : Bool := false
  deriving DecidableEq, Repr

/-! ## The matrix unit -/

/-- A call of the matrix unit with what it captured (R241) and its progress (R255 to R259). -/
structure Call where
  id : Nat
  sid : Nat
  rout : Nat
  imm : BitVec 20
  flags : BitVec 5
  fmt : BitVec 17
  tshape : AMap (BitVec 21)
  m : AMap Word
  mpc : BitVec 32
  pc : BitVec 32
  /-- The window: first granule and number of granules (R242). -/
  win : Option (Nat × Nat)
  started : Bool := false
  idx : Nat := 0
  /-- The loop stack: count left, first and last micro-op (R257). -/
  loops : List (Nat × Nat × Nat) := []
  zpc : Option (Nat × Nat) := none
  bsc : Option (Nat × Nat) := none
  maskCur : Nat := 0
  placement : Option (BitVec 32) := none
  skipNext : Bool := false
  sticky : BitVec 8 := 0
  /-- The call is shadowed, with the counter value that selected it and the start copy of the accumulators (R119). -/
  shadowed : Option Nat := none
  skipped : Bool := false
  startAcc : AMap (BitVec 32) := []
  /-- The shadow's own accumulators (R119): an FP32 value in the low bits, or a signed integer of 64 bits. -/
  shAcc : AMap Word := []
  wrote : List Nat := []
  /-- A kill of the call's strand is pending: the call stops at its next MSTEP (R259). -/
  killed : Bool := false
  shList : Option (List Nat) := none
  /-- The call has stopped at an MSTEP for a pre-emption, and the tiles whose contents it does not keep (R259). -/
  halted : Bool := false
  dead : List Nat := []
  /-- The fault entry on which the call's read of its placement word waits (R258, R363). -/
  susp : Option (Nat × Nat) := none
  deriving DecidableEq, Repr

/-- A repeat sequence of an MRPT bundle (R244): next repeat, number, the captured call and the strides. -/
structure Repeat where
  k : Nat
  n : Nat
  call : Call
  strides : AMap (BitVec 32)
  deriving DecidableEq, Repr

/-- A finished shadowed call waiting for its comparison (R120). -/
structure ShadowJob where
  call : Call
  result : AMap (BitVec 32)
  deriving DecidableEq, Repr

/-- A spindle: its running slot, its stall, its matrix unit with the physical tiles (16 KiB each, as a bit string) and
accumulators (element 128·i + j of accumulator a at 16384·a + 128·i + j), and its resident dictionary entries (R12, R60, R240). -/
structure Spindle where
  running : Option Nat := none
  last : Option Nat := none
  stalled : Bool := false
  queue : List Call := []
  rpts : AMap (Option Repeat) := []
  tiles : AMap Nat := []
  accs : AMap (BitVec 32) := []
  dict : List (Nat × Nat) := []
  /-- The image routines of the microprogram store, by 1024 × image + routine (R251). -/
  routines : AMap (List Word) := []
  shadowBusy : Option ShadowJob := none
  /-- The context whose tile group holds the spindle (R314). -/
  mcx : Option Nat := none
  /-- Issue is gated: a stop or a restore (R341, R350). -/
  gate : Bool := false
  /-- The group is stopped, or not yet restored: no latency advances (R341, R350). -/
  asleep : Bool := false
  /-- Only this slot may issue, one bundle: a debug step (R355). -/
  stepSlot : Option Nat := none
  /-- The first identity that the bundle of a debug step gives its copies and calls (R355). -/
  since : Nat := 0
  deriving DecidableEq, Repr

/-! ## Clusters -/

/-- The mode of a cluster SRAM bank (R124). -/
inductive BankMode where
  | cache | scratch | fifo
  deriving DecidableEq, Repr

/-- Who owns a bank: nobody, the mill (R285), or the tile group of a context (R123). -/
inductive BankOwner where
  | none | mill | ctx (mcx : Nat)
  deriving DecidableEq, Repr

structure Bank where
  mode : BankMode := .cache
  owner : BankOwner := .none
  deriving DecidableEq, Repr

/-- What owns an ENGINE granule (R126, R242). -/
inductive EngOwner where
  | copy (cid : Nat)
  | call (id : Nat)
  deriving DecidableEq, Repr

/-- A granule of 1 KiB (R126): its engine owner if ENGINE, and its flags. -/
structure Gran where
  eng : Option EngOwner := none
  err : Bool := false
  abandon : Bool := false
  deriving DecidableEq, Repr

/-- The hidden marks of an armed barrier block (R131, R132): armed, and the marks gathered during the phase. -/
structure BarMark where
  armed : Bool := false
  err : Bool := false
  abandon : Bool := false
  ecause : Nat := 0
  deriving DecidableEq, Repr

inductive SlotTag where
  | empty | filling | full | draining
  deriving DecidableEq, Repr

/-- A bobbin (R128, R129): its geometry, its pointers, the tag of each slot, the strand that claimed a DRAINING slot, and the
copy that fills a FILLING one with its bytes so far. -/
structure Bobbin where
  slotsm1 : Nat := 0
  slotlog : Nat := 0
  banksm1 : Nat := 0
  head : Nat := 0
  tail : Nat := 0
  tags : List SlotTag := []
  owner : AMap Nat := []
  filled : AMap Nat := []
  /-- The copy that fills a FILLING slot. -/
  filler : AMap Nat := []
  deriving DecidableEq, Repr

/-- A cluster: its banks, the bytes of its SRAM by 23-bit offset (zero when unlisted), granules, barrier marks by block, the
release tags of scratchpad sync words, and its bobbins by first bank. -/
structure Cluster where
  banks : AMap Bank := []
  bytes : AMap Byte := []
  grans : AMap Gran := []
  marks : AMap BarMark := []
  bobbins : AMap (Option Bobbin) := []
  /-- Poisoned 128-byte sectors (R440). -/
  poison : AMap Bool := []
  /-- Bank transitions waiting their turn, in arrival order (R238): strand, bank, mode. -/
  trans : List (Nat × Nat × Nat) := []
  deriving DecidableEq, Repr

/-! ## Copies -/

inductive CopyPhase where
  | held | waiting | started
  deriving DecidableEq, Repr

/-- A translation held by a TLB (R362): context, virtual page base and size, and the leaf. -/
structure TlbEnt where
  mcx : Nat
  base : Nat
  size : Nat
  leaf : Word
  deriving DecidableEq, Repr

/-- A copy (R133 to R140): its strand, channel, descriptors and records, its barrier, and the destination sectors it has not
written. `dense` is the decoded stream of a transforming copy once it is pinned (R138). -/
structure CopyJob where
  id : Nat
  sid : Nat
  mcx : Nat
  mill : Bool
  cl : Nat
  ch : Nat
  src : BitVec 256
  dst : BitVec 256
  srec : List Word
  drec : List Word
  bar : Option Nat
  phase : CopyPhase := .held
  /-- Destination sectors still to write, each the index of a 128-byte sector of the destination space; for a bobbin the slot chunks. -/
  todo : List Nat := []
  pinned : Bool := false
  dense : Option Nat := none
  /-- The translations that a transforming copy has pinned (R138, R367). -/
  pins : List TlbEnt := []
  /-- The fault entry on which a leg is suspended (R138). -/
  susp : Option (Nat × Nat) := none
  /-- Bobbin destination: chunks started, bytes of the current slot, slots made FULL by this copy. -/
  chunks : Nat := 0
  /-- Slots that a bobbin copy had made FULL before it was redirected (R348). -/
  base : Nat := 0
  /-- The slot of each chunk started, plus one (R130). -/
  slots : AMap Nat := []
  /-- Source sectors read, each in one piece (R127), and remote ones asked for. -/
  cache : AMap (List Byte) := []
  asked : List Nat := []
  /-- Remote destination sectors of which some bytes are written in part, as they stood before (R136). -/
  olds : AMap (List Byte) := []
  /-- Sectors written to a remote page and not yet answered. -/
  acks : Nat := 0
  /-- Redirected into a bank image (R344). -/
  redirected : Bool := false
  /-- It has met an error with this cause, and ends once the withheld stores to its granules have been performed or discarded (R126, R139). -/
  fail : Option Nat := none
  /-- What the destination granules held before the COPYGO, restored when a rollback discards the copy (R230). -/
  before : List (Nat × Gran) := []
  deriving DecidableEq, Repr

/-! ## Tile groups (R30 to R57) -/

/-- A task that waits in the ready queue (R30): its node with the ENTRY, MPC0 and BANK that it gives (R36), its activation and scope. -/
structure Task where
  node : Nat
  act : Nat
  inst : Nat := 0
  dyn : Bool := false
  scope : Nat
  args : List Word := []
  entry : BitVec 32 := 0
  mpc0 : BitVec 32 := 0
  /-- Vector registers needed. -/
  bank : Nat := 64
  deriving DecidableEq, Repr

/-- A live activation of a node (R42): how many of its tasks are live, and for a RANGE the ranges its tasks hold (R46), by the
strand that runs the task, or the range of a task not yet placed. `words` holds the node's doublewords. -/
structure Activation where
  node : Nat
  words : List Word := []
  live : Nat
  ranges : AMap (Option (Nat × Nat)) := []
  queued : Option (Nat × Nat) := none
  deriving DecidableEq, Repr

inductive ScopeState where
  | opened | cancelling
  deriving DecidableEq, Repr

/-- An acknowledgement word of CANCEL (R51, R237): its place and its address, and the scope that CANCEL named. -/
structure Ack where
  loc : Loc
  ea : Nat
  named : Nat
  deriving DecidableEq, Repr

/-- A live cancel scope (R47 to R54). -/
structure Scope where
  st : ScopeState := .opened
  parent : Nat := 0
  depth : Nat := 1
  /-- The strand whose task created it, until that task retires; a root scope has none. -/
  creator : Option Nat := none
  killed : Nat := 0
  removed : Nat := 0
  refused : Nat := 0
  /-- Acknowledgement words not yet written. -/
  acks : List Ack := []
  deriving DecidableEq, Repr

/-- A skein (R32, R33): its members, those of them that joined in a phase already begun, and the arrivals of the phase. -/
structure Skein where
  members : List Nat := []
  late : List Nat := []
  arrived : List Nat := []
  /-- Arrivals of members that joined in this phase: they count from the next. -/
  early : List Nat := []
  deriving DecidableEq, Repr

/-- A request of a context: what the parser or the LAUNCH gave with it (R311, R312, R404 to R410), and the order of its enqueue. -/
structure Req where
  id : Nat := 0
  nonce : Nat := 0
  len : Nat := 0
  port : Nat := 0
  host : Bool := false
  /-- The command that launched it, for HOST = 1. -/
  cmd : Nat := 0
  src : Nat := 0
  slot : Nat := 0
  dead : Bool := false
  order : Nat := 0
  deriving DecidableEq, Repr

/-- A tile group serving one request (R30, R31). -/
structure Group where
  spindles : List Nat
  root : Nat
  /-- The ready queue; its dynamic tasks, in order, are the dynamic queue of R45. -/
  ready : List Task := []
  acts : AMap (Option Activation) := []
  /-- Nodes made ready while 256 activations were live, in order (R42). -/
  waiting : List Nat := []
  joins : AMap Nat := []
  scopes : AMap (Option Scope) := []
  skeins : AMap Skein := []
  /-- The completion code once END is ready (R44), and the status once the root is cancelling. -/
  ended : Option Nat := none
  cancelled : Option Nat := none
  /-- Kills sent and not yet arrived: the scope, the spindles still to reach (R51), and the barriers that this cancel has flipped (R53). -/
  kills : List (Nat × List Nat × List Nat) := []
  /-- Nodes whose read or whose condition read is under way: the fault entry that it waits on, die and key, or none while a remote word is read
  (R37, R366). Each counts among the live activations (R42). -/
  conds : List (Nat × Option (Nat × Nat)) := []
  /-- Acknowledgement words whose write has faulted: the word, its value, and the fault entry (R366). -/
  words : List (Ack × Nat × Nat × Nat) := []
  /-- The image's sync table as it was bound (R146, R314); none while it is not held. -/
  sync : Option (List Word) := none
  req : Req := {}
  deriving DecidableEq, Repr

/-! ## Memory, contexts, translation -/

/-- The sideband of an HBM sector of 128 bytes (R388, R440): `live` is CLR = 0; the key index, the KXTS and the KMAC under which it was written, from which
its stored bytes and its MAC are computed (`State.physRead`, `State.macOf`); the poison mark. -/
structure Sector where
  live : Bool := false
  key : Nat := 0
  kxts : Nat := 0
  kmac : Nat := 0
  poison : Bool := false
  deriving DecidableEq, Repr

/-- The release tag of a sync object word (R149): the party that wrote it, and its scope with its skeins at the write. -/
structure RelTag where
  sid : Nat
  sc : ScopeAt
  /-- The value that the release wrote. -/
  val : Nat := 0
  deriving DecidableEq, Repr

/-- A fault in the miss table of a die, or posted to its queue (R363 to R366). `waiters` counts the accesses merged on it. -/
structure FaultEnt where
  key : Nat
  mcx : Nat
  addr : Nat
  access : Nat
  cause : Nat
  level : Nat := 1
  badpte : Bool := false
  remote : Bool := false
  nowalk : Bool := false
  who : Nat
  engine : Bool := false
  pteaddr : Nat := 0
  waiters : Nat := 1
  /-- The physical address of its queue entry once posted, and whether it is in service. -/
  posted : Option Nat := none
  popped : Bool := false
  /-- The number of its post among the die's posts (R365). -/
  seq : Nat := 0
  deriving DecidableEq, Repr

/-! ## Top level -/

/-- What accompanies an event (the die, the command, the bytes that arrived): each event's meaning says which fields it reads. -/
structure EvIn where
  n : Nat := 0
  m : Nat := 0
  v : Word := 0
  flag : Bool := false
  bytes : List Byte := []
  deriving DecidableEq, Repr

/-- What the rest of the bundle holds when a slot operation is executed alone: the other header bits, the broadcast port, and
whether the operation stands in the second slot of its class. -/
structure Frame where
  hdr : BitVec 16 := 0
  bp : BitVec 16 := 0
  second : Bool := false
  deriving DecidableEq, Repr

/-- One entry of the agenda: the strand or unit that acts next, what accompanies it, and the row that runs. -/
structure Act where
  who : Nat := 0
  frame : Frame := {}
  ev : EvIn := {}
  i : Instr
  deriving DecidableEq, Repr

/-! ## Requests, contexts and the distaff -/

/-- The states of a micro-context (R308). -/
inductive CtxState where
  | empty | idle | bound | saved | broken
  deriving DecidableEq, Repr

/-- A record held in a distaff cache: its host line H0 to H63, the fields of its device line, and its requests (R305, R307, R310). -/
structure Ctx where
  die : Nat
  host : List Word
  st : CtxState := .idle
  root : Nat := 0
  bcause : Nat := 0
  qhead : Nat := 0
  qtail : Nat := 0
  qcount : Nat := 0
  savectr : Word := 0
  nreq : Word := 0
  spn0 : Nat := 0
  gn : Nat := 0
  lea : AMap Word := []
  lastBound : Nat := 0
  /-- The pinned translations of the bind block and the rings (R306, R367). -/
  pins : List TlbEnt := []
  deriving DecidableEq, Repr

/-- A completed request whose answer has not left its port yet (R410, R411): its END code, or the error code and cause of its ERROR packet. -/
structure Reply where
  mcx : Nat
  req : Req
  done : Nat ⊕ (Nat × Nat)
  /-- The bytes of the reply (R410, R412). -/
  body : List Byte := []
  deriving DecidableEq, Repr

/-- A datagram that left a port (R402, R409, R410, R413): where it goes (`srcCode`: address family, UDP port, DSCP, tag and address), the port's own address
and UDP port, its hop limit, and its UDP payload. A frame that a port makes itself has the destination 2^168 and its own bytes. -/
structure Packet where
  port : Nat
  dst : Nat
  bytes : List Byte
  own : Nat := 0
  sport : Nat := 0
  hop : Nat := 64
  deriving DecidableEq, Repr

/-- A selection that stays latched until it is bound (R317): the context, and its victim while that is being saved. -/
structure Latch where
  mcx : Nat
  /-- The order of the request's enqueue. -/
  order : Nat := 0
  victim : Option Nat := none
  deriving DecidableEq, Repr

/-- A pre-emption or debug stop under way (R341 to R353): the save is posted once every slot is in a save state. -/
structure Stop where
  /-- Debug stop: its reason and NOISSUE; none for a pre-emption. -/
  debug : Option (Nat × Bool) := none
  posted : Bool := false
  /-- A debug step OVER waits for what the bundle launched (R355): its strand, and its first identity. -/
  stepOver : Bool := false
  target : Nat := 0
  since : Nat := 0
  deriving DecidableEq, Repr

/-- A unit that the roving engine is fetching (R425): the descriptor's ring index, the address of its DSTAT, its destination, and the record's key index,
locator and hash. -/
structure RvUnit where
  idx : Nat
  dstat : Nat
  dest : Nat
  key : Nat
  loc : Nat
  hash : List Byte
  deriving DecidableEq, Repr

/-- The registers and queues of one die's distaff, event bits, translation unit, debug unit, error log, roving engine and reach
requester (R290, R318, R322, R331, R352, R361 to R365, R416, R424, R437). -/
structure Die where
  evpend : BitVec 13 := 0
  mctbase : BitVec 48 := 0
  installed : Bool := false
  quant : BitVec 32 := 65536
  dq : List Word := []
  hqent : Option (Nat × Nat) := none
  hqbuf : List Byte := []
  weight : AMap (BitVec 16) := []
  deficit : AMap Int := []
  /-- The pointer of each priority (R318); on die 0, entry 4 is the function that the next command is looked for from (R325). -/
  ptr : AMap Nat := []
  latched : AMap (Option Latch) := []
  wdogLimit : AMap (BitVec 32) := []
  wdogCount : AMap Nat := []
  -- translation (R361, R365)
  fqbase : BitVec 48 := 0
  fqlog : BitVec 4 := 6
  fqposted : BitVec 32 := 0
  faults : List FaultEnt := []
  shdir : BitVec 48 := 0
  modnum : BitVec 6 := 0
  -- debug (R352)
  dbgMcx : BitVec 14 := 0
  dbgHold : Bool := false
  dbgBrk : Bool := false
  dbgStep : BitVec 2 := 0
  dbgTarget : BitVec 11 := 0
  dbgStopped : Bool := false
  dbgReason : BitVec 8 := 0
  dbgNoissue : Bool := false
  /-- The step in progress when DBGCTL was last reset: its context, its kind, or 0 when it has been abandoned, and its target (R394). -/
  dbgRun : Option (Nat × Nat × Nat) := none
  -- error log (R437)
  elbase : BitVec 48 := 0
  ellog : BitVec 4 := 6
  elidx : BitVec 32 := 0
  cecnt : BitVec 48 := 0
  cethr : BitVec 16 := 1024
  -- roving engine (R424)
  rvbase : BitVec 48 := 0
  rvlog : BitVec 4 := 6
  rvtail : BitVec 16 := 0
  rvhead : BitVec 16 := 0
  /-- Units in flight. -/
  rvfly : List RvUnit := []
  /-- Shared frames waiting for a refetch (R368). -/
  refetch : List Nat := []
  -- reach domain (R414 to R416)
  reachTmo : BitVec 32 := 0x100000
  reachMsgs : BitVec 48 := 0
  reachTag : BitVec 16 := 0
  /-- The mill strands run firmware, no longer the boot ROM (R443). -/
  fw : Bool := false
  /-- IPIs sent and not yet delivered: event bits of this die (R296). -/
  ipis : List Nat := []
  /-- The junction temperature has been 100 °C or more and not yet below 95 °C (R448). -/
  hot : Bool := false
  deriving DecidableEq, Repr

/-! ## Partitions, channels, keys, ports, host, flash, board -/

/-- A partition (R370). -/
structure Part where
  enable : Bool := false
  die : BitVec 2 := 0
  clusters : BitVec 12 := 0
  freq : BitVec 6 := 36
  pstate : BitVec 2 := 0
  cap : BitVec 12 := 0
  idlewait : BitVec 32 := 65536
  curfreq : BitVec 6 := 36
  istate : BitVec 2 := 0
  throttle : Bool := false
  avg : BitVec 20 := 0
  scmask : AMap Word := []
  vfmask : Word := 0
  /-- A frequency change waits for its relock (R379). -/
  relock : Option (BitVec 6) := none
  deriving DecidableEq, Repr

/-- A transfer waiting at a channel arbiter (R377): the partition it is charged to, or none for the system party, and its cost. -/
structure Xfer where
  part : Option Nat
  cost : Nat
  deriving DecidableEq, Repr

/-- A memory channel: floors and bursts and tokens of the partitions, the waiting transfers oldest first, and whether the next slot is
taken by the second half of an atomic (R376, R377). -/
structure Chan where
  floor : AMap (BitVec 10) := []
  burst : AMap (BitVec 8) := []
  tok : AMap Int := []
  waiting : List Xfer := []
  second : Bool := false
  /-- Tenths of a slot that refresh, row turnaround and ECC scrub may still take: 1 for each slot, at most 10 (R375). -/
  spare : Nat := 0
  deriving DecidableEq, Repr

/-- A key slot that holds a key (R382). -/
structure KeySlot where
  model : Bool
  tenant : BitVec 16
  kxts : List Byte
  kmac : List Byte
  kgcm : List Byte
  deriving DecidableEq, Repr

/-- The key engine, fuses and measurement (R384, R390), the lea report unit (R429) and the package registers of R371. -/
structure KeyEng where
  slots : AMap (Option KeySlot) := []
  cmd : Option (Nat × Nat) := none
  kaddr : BitVec 48 := 0
  karg : Word := 0
  result : BitVec 8 := 0
  lcs : BitVec 3 := 0
  dbg : BitVec 2 := 0
  dbgten : BitVec 16 := 0
  svnmin : BitVec 16 := 0
  devid : Word := 0
  bootid : BitVec 40 := 0
  kdev : Nat := 0
  mreg : AMap (List Byte) := []
  /-- Generations of the device identity key and of the key-import key; 0 for none. -/
  dik : Nat := 0
  kik : Nat := 0
  svn : BitVec 16 := 0
  lrcmd : Option Nat := none
  lraddr : BitVec 48 := 0
  lrresult : BitVec 8 := 0
  rseq : Word := 0
  deriving DecidableEq, Repr

/-- An Ethernet port (R401 to R409). -/
structure Port where
  mac : BitVec 48 := 0
  ip4 : BitVec 32 := 0
  ip6lo : Word := 0
  ip6hi : Word := 0
  cfg : BitVec 61 := 0x090000004E534E52
  rate : BitVec 16 := 256
  used : Nat := 0
  drops : AMap (BitVec 48) := []
  dropRate : BitVec 48 := 0
  up : Bool := true
  deriving DecidableEq, Repr

/-- A message of the reach domain that awaits its answer (R414, R415): its type, its place, the party it serves, how often it was
sent, and which bytes of the answer go where: byte offset in the sector, bytes, bit offset in the pending result `slot`. -/
structure ReachReq where
  kind : Nat
  home : Nat
  key : Nat
  pa : Nat
  mcx : Nat := 0
  who : Nat := 0
  ea : Nat := 0
  slot : Nat := 0
  fill : List (Nat × Nat × Nat) := []
  /-- The answer of a load is sign-extended from this many bytes; 0 for none. -/
  sx : Nat := 0
  /-- The slot of the access, as CAUSE.SLOT numbers it (R333), and whether its load was boosted (R189). -/
  lslot : Nat := 5
  boost : Bool := false
  /-- An atomic: its code and operands; and its scope at issue when its word is a sync object's (R144, R148). -/
  atom : Nat × Nat × Nat := (0, 0, 0)
  sync : Option ScopeAt := none
  /-- It was translated through an entry that a TLBINV has invalidated (R300). -/
  inval : Bool := false
  /-- The copy that asked, or 0, with the number of its sector. -/
  cid : Nat := 0
  sector : Nat := 0
  sent : Nat := 1
  msg : List Byte := []
  /-- The bytes of a strand's write, and the fault entry on which it waits to be made again: die and key (R366, R369). -/
  data : List Byte := []
  susp : Option (Nat × Nat) := none
  deriving DecidableEq, Repr

/-- A host command in the interval table (R323 to R327): the function, its submission index, its eight doublewords; started; firmware's;
completed with status and result. `idx` counts the commands of its queue since it was enabled. -/
structure Cmd where
  fn : Nat
  idx : Nat
  ws : List Word
  order : Nat
  started : Bool := false
  done : Option (Nat × Nat) := none
  /-- The fault entry on which its copy waits: die and key (R363, R366). -/
  susp : Option (Nat × Nat) := none
  deriving DecidableEq, Repr

/-- The queue pair and counter session of a host function (R418, R431). -/
structure HostFn where
  sqbase : Word := 0
  sqlog : BitVec 4 := 0
  en : Bool := false
  cqbase : Word := 0
  vec : BitVec 6 := 0
  markaddr : Word := 0
  sqtail : BitVec 16 := 0
  sqhead : BitVec 16 := 0
  cqhead : BitVec 16 := 0
  cqtail : BitVec 16 := 0
  ferr : Bool := false
  phase : Bool := true
  hbmwin : BitVec 16 := 0
  /-- Commands fetched since the queue was enabled, the mark, and the completed submission numbers above the mark. -/
  fetched : Nat := 0
  mark : Nat := 0
  above : List Nat := []
  cntsel : AMap (BitVec 8) := []
  cntvec : BitVec 6 := 0
  cnt : AMap (BitVec 48) := []
  /-- The MSI-X table, two doublewords for each vector: address, then data with the mask bit in bit 32; and the pending bits (R417). -/
  mtab : AMap Word := []
  pba : BitVec 64 := 0
  /-- An FLR or a clear of EN waits for the admitted commands (R421): full reset of the function's registers if the flag is set. -/
  draining : Option Bool := none
  deriving DecidableEq, Repr

/-- A sealed save image (R346 to R348): where it was written, the bytes written there by their offsets, and what they open to. -/
structure Image where
  addr : Nat
  parts : List (Nat × List Byte)
  mcx : Nat
  ctr : Word
  devid : Word
  key : List Byte
  gsp : Nat
  slot : Nat
  /-- The cluster that a bank image was saved from. -/
  cl : Nat := 0
  strand : Option Strand := none
  calls : List Call := []
  rpt : Option Repeat := none
  tiles : AMap Nat := []
  accs : AMap (BitVec 32) := []
  cluster : Option Cluster := none
  /-- Where a bank image holds its banks, and which; the release tags of their words; and the HBM sectors that redirected copies have written (R149, R344). -/
  bankAt : Nat := 0
  banks : List Nat := []
  tags : AMap (Option RelTag) := []
  redir : List Nat := []
  deriving DecidableEq, Repr

/-- A redirect record appended to a bank image (R348): first granule or bank, count, bobbin, the copy's end, its barrier and bytes. -/
structure Redirect where
  grans : List Nat
  bobbin : Option (Nat × Nat)
  err : Bool
  abandon : Bool
  ecause : Nat
  bar : Option Nat
  bytes : Nat
  /-- A kill has had it act on the image already (R53, R56). -/
  applied : Bool := false
  deriving DecidableEq, Repr

/-- The state of the module. -/
structure State where
  /-- The schedule of what acts next, and what accompanies the row that runs now (notes/assumptions/1.md). -/
  agenda : List Act := []
  ev : EvIn := {}
  frame : Frame := {}
  focus : Nat := 0
  turn : Nat := 0
  /-- The counter of free values (notes/assumptions/2.md), and of identities of copies, calls and commands. -/
  free : Nat := 0
  nextId : Nat := 1
  strands : AMap Strand := []
  spindles : AMap Spindle := []
  clusters : AMap Cluster := []
  copies : AMap (Option CopyJob) := []
  groups : AMap (Option Group) := []
  hbm : List Host.Cell := []
  sects : AMap Sector := []
  reltags : AMap (Option RelTag) := []
  rom : List Host.Cell := []
  tlb : List TlbEnt := []
  dies : AMap Die := []
  ctxs : AMap (Option Ctx) := []
  /-- The key index of R309: function key, context, die. -/
  keyIndex : List (Nat × Nat × Nat) := []
  /-- Requests that wait, oldest first, by context (R311), and answers that wait to leave. -/
  waiting : AMap (List Req) := []
  replies : List Reply := []
  stops : AMap (Option Stop) := []
  images : List Image := []
  redirects : AMap (List Redirect) := []
  restoring : AMap (List Nat) := []
  parts : AMap Part := []
  chans : AMap Chan := []
  modcap : BitVec 12 := 3000
  perr : BitVec 5 := 0
  keng : KeyEng := {}
  ports : AMap Port := []
  reach : AMap (BitVec 128 × Bool) := []
  reachReqs : AMap (Option ReachReq) := []
  reachIn : AMap (List Byte) := []
  fns : AMap HostFn := []
  cmds : AMap (Option Cmd) := []
  hostMem : List Host.Cell := []
  /-- The 512-byte lines that the stacked cache holds, by line number (R374). -/
  sclines : AMap (Option ScLine) := []
  /-- The lines that the cache ways of the clusters hold, by 2^40 × cluster + line number (R124, R358). -/
  ways : AMap (Option ScLine) := []
  /-- Stacked-cache hits and misses not yet flushed, by 2 × (33 × party + owner of the bank), plus 1 for a miss (R433, R434). -/
  hitAcc : AMap Nat := []
  flash : List Host.Cell := []
  /-- Namespace sizes in blocks of the four drives (R328, R422). -/
  drives : AMap Nat := []
  /-- The slot that the running firmware came from: 0 for A, 1 for B (R443, R446). -/
  fwSlot : Option Nat := none
  /-- What left the module: packets by port, MSI-X messages by function and vector, management answers; an answer to a read through BAR2 stands
  among them under 65,536 + its offset. -/
  sent : List Packet := []
  /-- NRP packets of ports that could not send when they were made, oldest first, each with the context that it counts to (R401, R426). -/
  outbox : List (Option Nat × Packet) := []
  msix : List (Nat × Nat) := []
  mgmt : List (Nat × Nat) := []
  /-- Lea increments not yet flushed, by 8 × context + counter (R428), and event counts not yet flushed, by 16 × party + event (R434). -/
  leaAcc : AMap Nat := []
  evAcc : AMap Nat := []
  /-- The dies are held in reset (R447, R448); the module is down after a thermal trip. -/
  held : Bool := false
  tripped : Bool := false
  deriving DecidableEq, Repr

/-- A slot of a mill spindle at cold reset: a bank of 256 vector registers, tiles 4s to 4s + 3 and accumulator s (R285). -/
def Strand.mill (slot : Nat) : Strand := { bank := 256, tile0 := 4 * slot, ntile := 4, acc0 := slot, nacc := 1 }

/-- The four slots of the mill spindle of one die, with their strand identities (R9, R285): slot 0 has started at boot-ROM address 0. -/
def State.millSlots (die : Nat) : AMap Strand :=
  [(384 * die, { Strand.mill 0 with st := .running }), (384 * die + 1, Strand.mill 1), (384 * die + 2, Strand.mill 2),
   (384 * die + 3, Strand.mill 3)]

/-- Cluster 0 of a die at cold reset: banks 0 and 1 are the mill banks, in SCRATCH mode (R285). -/
def Cluster.mill : Cluster :=
  { banks := [(0, { mode := .scratch, owner := .mill }), (1, { mode := .scratch, owner := .mill })] }

/-- The module right after a cold reset, before the first bundle of the boot ROM (R442 step 5). Slot 0 of each mill spindle is the
selected slot (notes/assumptions/5.md); the fuses and the drawn keys read zero (notes/assumptions/4.md). -/
def State.reset : State :=
  { strands := State.millSlots 0 ++ State.millSlots 1 ++ State.millSlots 2 ++ State.millSlots 3
    spindles := [(0, { running := some 0, last := some 0 }), (96, { running := some 0, last := some 0 }),
      (192, { running := some 0, last := some 0 }), (288, { running := some 0, last := some 0 })]
    clusters := [(0, Cluster.mill), (12, Cluster.mill), (24, Cluster.mill), (36, Cluster.mill)] }

end Sys2Proof.Machine
end

