-- ==== Sys2Proof/Machine/Base.lean ====
section
/-! DEFINITION. Named reads and updates of the parts of the state, identities of strands and spindles, and byte lists. -/

namespace Sys2Proof.Machine

open Sys2Proof

/-! ## Identities (R8, R9, R23, R302): a strand is numbered slot + 4 × (spindle + 8 × (cluster + 12 × die)). -/

def dieOf (sid : Nat) : Nat := sid / 384
def gnumOf (sid : Nat) : Nat := sid / 4
/-- The die of a spindle. -/
def dieOfSp (g : Nat) : Nat := g / 96
def slotOf (sid : Nat) : Nat := sid % 4
def clusterOf (sid : Nat) : Nat := sid / 32
/-- Spindle 0 of cluster 0 of each die is its mill spindle (R9, R285). -/
def isMill (sid : Nat) : Bool := sid / 4 % 96 == 0
/-- The strand identity in the layout of R302. -/
def whoOf (sid : Nat) : Nat := sid % 4 + sid / 4 % 8 * 4 + sid / 32 % 12 * 32 + sid / 384 * 512
/-- The strand that an identity of R302 names. -/
def sidOfWho (w : Nat) : Nat := w % 4 + 4 * (w / 4 % 8 + 8 * (w / 32 % 16 + 12 * (w / 512 % 4)))
/-- A cluster number of 12 or more in an identity names nothing. -/
def whoOk (w : Nat) : Bool := decide (w / 32 % 16 < 12)

/-! ## Reads and updates -/

def State.strand (s : State) (sid : Nat) : Strand := mget {} s.strands sid
def State.setStrand (s : State) (sid : Nat) (t : Strand) : State := { s with strands := mset {} s.strands sid t }
def State.updStrand (s : State) (sid : Nat) (f : Strand → Strand) : State := s.setStrand sid (f (s.strand sid))
def State.core (s : State) (sid : Nat) : Core := (s.strand sid).core
def State.updCore (s : State) (sid : Nat) (f : Core → Core) : State :=
  s.updStrand sid fun t => { t with core := f t.core }

def State.spindle (s : State) (g : Nat) : Spindle := mget {} s.spindles g
def State.setSpindle (s : State) (g : Nat) (x : Spindle) : State := { s with spindles := mset {} s.spindles g x }
def State.updSpindle (s : State) (g : Nat) (f : Spindle → Spindle) : State := s.setSpindle g (f (s.spindle g))

def State.cluster (s : State) (c : Nat) : Cluster := mget {} s.clusters c
def State.setCluster (s : State) (c : Nat) (x : Cluster) : State := { s with clusters := mset {} s.clusters c x }
def State.updCluster (s : State) (c : Nat) (f : Cluster → Cluster) : State := s.setCluster c (f (s.cluster c))

def State.copyJob (s : State) (cid : Nat) : Option CopyJob := mget none s.copies cid
def State.setCopy (s : State) (cid : Nat) (j : Option CopyJob) : State := { s with copies := mset none s.copies cid j }
def State.updCopy (s : State) (cid : Nat) (f : CopyJob → CopyJob) : State := s.setCopy cid ((s.copyJob cid).map f)
/-- The copies that live. -/
def State.copyList (s : State) : List CopyJob := s.copies.filterMap fun p => p.2

def State.group (s : State) (mcx : Nat) : Option Group := mget none s.groups mcx
def State.setGroup (s : State) (mcx : Nat) (g : Option Group) : State := { s with groups := mset none s.groups mcx g }
def State.updGroup (s : State) (mcx : Nat) (f : Group → Group) : State := s.setGroup mcx ((s.group mcx).map f)

def State.die (s : State) (d : Nat) : Die := mget {} s.dies d
def State.setDie (s : State) (d : Nat) (x : Die) : State := { s with dies := mset {} s.dies d x }
def State.updDie (s : State) (d : Nat) (f : Die → Die) : State := s.setDie d (f (s.die d))

def State.ctx (s : State) (mcx : Nat) : Option Ctx := mget none s.ctxs mcx
def State.setCtx (s : State) (mcx : Nat) (c : Option Ctx) : State := { s with ctxs := mset none s.ctxs mcx c }
def State.updCtx (s : State) (mcx : Nat) (f : Ctx → Ctx) : State := s.setCtx mcx ((s.ctx mcx).map f)

def State.part (s : State) (q : Nat) : Part := mget {} s.parts q
def State.setPart (s : State) (q : Nat) (x : Part) : State := { s with parts := mset {} s.parts q x }
def State.updPart (s : State) (q : Nat) (f : Part → Part) : State := s.setPart q (f (s.part q))

def State.chan (s : State) (k : Nat) : Chan := mget {} s.chans k
def State.setChan (s : State) (k : Nat) (x : Chan) : State := { s with chans := mset {} s.chans k x }

def State.port (s : State) (p : Nat) : Port := mget {} s.ports p
def State.setPort (s : State) (p : Nat) (x : Port) : State := { s with ports := mset {} s.ports p x }
def State.updPort (s : State) (p : Nat) (f : Port → Port) : State := s.setPort p (f (s.port p))

def State.fn (s : State) (f : Nat) : HostFn := mget {} s.fns f
def State.setFn (s : State) (f : Nat) (x : HostFn) : State := { s with fns := mset {} s.fns f x }
def State.updFn (s : State) (f : Nat) (g : HostFn → HostFn) : State := s.setFn f (g (s.fn f))

def State.cmd (s : State) (c : Nat) : Option Cmd := mget none s.cmds c
def State.setCmd (s : State) (c : Nat) (x : Option Cmd) : State := { s with cmds := mset none s.cmds c x }

def State.stop (s : State) (mcx : Nat) : Option Stop := mget none s.stops mcx
def State.setStop (s : State) (mcx : Nat) (x : Option Stop) : State := { s with stops := mset none s.stops mcx x }

def State.sect (s : State) (n : Nat) : Sector := mget {} s.sects n
def State.setSect (s : State) (n : Nat) (x : Sector) : State := { s with sects := mset {} s.sects n x }

def State.keySlot (s : State) (k : Nat) : Option KeySlot := mget none s.keng.slots k

/-- A fresh identity for a copy, a call or a command. -/
def State.fresh (s : State) : Nat × State := (s.nextId, { s with nextId := s.nextId + 1 })

/-- The next free value's index (notes/assumptions/2.md). -/
def State.tick (s : State) : Nat × State := (s.free, { s with free := s.free + 1 })

/-- A row that runs as the very next step. -/
def State.push (s : State) (a : Act) : State := { s with agenda := a :: s.agenda }

/-- A row that runs after those already scheduled. -/
def State.later (s : State) (a : Act) : State := { s with agenda := s.agenda ++ [a] }

/-- The address of a record (R304). -/
def State.recAddr (s : State) (mcx : Nat) : Nat := (s.die 0).mctbase.toNat + 1024 * mcx

/-- Doubleword k of a context's record in the table (R304): H0 to H63, then E0 to E63. -/
def State.recWord (s : State) (mcx k : Nat) : Nat :=
  ((List.range 8).map fun i => (mget 0 s.hbm ((s.die 0).mctbase.toNat + 1024 * mcx + 8 * k + i)).toNat * 256 ^ i).sum

/-- Word k of the host line of a context (R305): of its cached record, or of the table. -/
def State.hw (s : State) (mcx k : Nat) : Nat :=
  match s.ctx mcx with
  | some c => (c.host.getD k 0).toNat
  | none => s.recWord mcx k

/-- Count events of a party (R432). -/
def State.countEv (s : State) (party ev n : Nat) : State :=
  if n = 0 then s else { s with evAcc := mupd 0 s.evAcc (16 * party + ev) (· + n) }

/-- The partition of a context (R305). -/
def State.partOf (s : State) (mcx : Nat) : Nat := s.hw mcx 2 / 2 ^ 43 % 32

/-- A progress event of a partition restarts its watchdog (R329); 32 is the system party. -/
def State.progress (s : State) (party : Nat) : State :=
  if 32 ≤ party then s
  else s.updDie (s.part party).die.toNat fun x => { x with wdogCount := mset 0 x.wdogCount party 0 }

/-- The context that owns the tile group a strand belongs to. -/
def State.mcxOf (s : State) (sid : Nat) : Nat := (s.strand sid).mcx

/-- The strands of a spindle. -/
def strandsOf (g : Nat) : List Nat := [4 * g, 4 * g + 1, 4 * g + 2, 4 * g + 3]

/-- The strands of a tile group, in ascending GSP and then slot. -/
def Group.sids (g : Group) : List Nat := g.spindles.flatMap strandsOf

/-- The index of a spindle within its tile group (R23). -/
def Group.gsp (g : Group) (sp : Nat) : Nat := g.spindles.idxOf sp

/-- The cluster of the primary whorl of a group (R31). -/
def Group.primary (g : Group) : Nat := g.spindles.headD 0 / 8

/-- The clusters of a group, in ascending order. -/
def Group.clusters (g : Group) : List Nat := (g.spindles.map (· / 8)).dedup

/-! ## Bytes (R2: little-endian) -/

def leNat : List Byte → Nat
  | [] => 0
  | b :: bs => b.toNat + 256 * leNat bs

def leBytes : Nat → Nat → List Byte
  | 0, _ => []
  | n + 1, x => BitVec.ofNat 8 x :: leBytes n (x / 256)

def beNat (bs : List Byte) : Nat := bs.foldl (fun a b => a * 256 + b.toNat) 0

/-- n bytes of a byte map from an address. -/
def getBytes (m : AMap Byte) (a n : Nat) : List Byte := (List.range n).map fun i => mget 0 m (a + i)

/-- The bytes of a list put at rising addresses. -/
def putBytes : AMap Byte → Nat → List Byte → AMap Byte
  | m, _, [] => m
  | m, a, b :: bs => putBytes (mset 0 m a b) (a + 1) bs

/-- The bytes of a list put at rising addresses under a mask. -/
def putMasked : AMap Byte → Nat → List (Option Byte) → AMap Byte
  | m, _, [] => m
  | m, a, none :: bs => putMasked m (a + 1) bs
  | m, a, some b :: bs => putMasked (mset 0 m a b) (a + 1) bs

/-- The keys of a map below a bound and from a bound, removed. -/
def dropRange {α : Type} (m : AMap α) (lo n : Nat) : AMap α := m.filter fun p => p.1 < lo || lo + n ≤ p.1

/-- The list with its duplicates removed and in ascending order. -/
def sortNats (l : List Nat) : List Nat := l.dedup.insertionSort (· ≤ ·)

/-- The entries of a word written over a field (a store of bits lo up of width w). -/
def setField (x lo w v : Nat) : Nat := x - x / 2 ^ lo % 2 ^ w * 2 ^ lo + v % 2 ^ w * 2 ^ lo

end Sys2Proof.Machine
end

