-- ==== Sys2Proof/Machine/Memory.lean ====
section
/-! DEFINITION. Memory: HBM sectors with their keys and marks (R388, R389, R440), the table walk and the TLBs (R356 to R362), the
scratchpad with its granules and barrier marks (R123 to R131), release tags (R149), the error log (R437), and the reads and
writes of a place. -/

namespace Sys2Proof.Machine

open Sys2Proof

/-- HBM ends here (R286, R375). -/
def hbmEnd : Nat := 0xC000000000

/-- What a sector access may meet (R389, R439, R440). -/
inductive MemErr where
  | poison    -- the sector is poisoned
  | mac       -- the MAC does not match: an uncorrectable error
  | spoison   -- a poisoned scratchpad sector
  | ue        -- an uncorrectable error that the schedule reports
  deriving DecidableEq, Repr

/-! ## HBM -/

/-- The XTS key pair of an index; index 0 stores plaintext (R388). -/
def State.kxts (s : State) (key : Nat) : Nat := match s.keySlot key with
  | some k => if key = 0 then 0 else leNat k.kxts
  | none => 0

/-- The MAC key of an index: KDEV for index 0 (R388). Of no index it is that of an unloaded slot. -/
def State.kmac (s : State) (key : Nat) : Nat :=
  if key = 0 then s.keng.kdev
  else match s.keySlot key with
    | some k => 1 + leNat k.kmac
    | none => 0

/-- The lines of a line number in the cache ways of the clusters. -/
def State.waysOf (s : State) (l : Nat) : List ScLine := s.ways.filterMap fun p => if p.1 % 2 ^ 40 = l then p.2 else none

/-- Does a cache of the package hold the line of a sector under another key index (R389)? -/
def State.otherTag (s : State) (n key : Nat) : Bool :=
  ((mget none s.sclines (n / 4)).any fun x => x.key != key) || (s.waysOf (n / 4)).any fun x => x.key != key

/-- The check of one sector under a key index (R389). -/
def State.sectCheck (s : State) (n key : Nat) : Option MemErr :=
  let x := s.sect n
  if x.poison then some .poison
  else if s.otherTag n key then some .mac
  else if x.live && !(x.key == key && x.kmac == s.kmac key) then some .mac
  else none

/-- The sectors that n bytes from an address touch. -/
def sectorsOf (a n : Nat) : List Nat := if n = 0 then [] else (List.range ((a + n - 1) / 128 - a / 128 + 1)).map (a / 128 + ·)

/-- The stored byte at a physical address: ciphertext in a sector written under a key index other than 0 (R286). -/
def State.physByte (s : State) (a : Nat) : Byte :=
  let x := s.sect (a / 128)
  if x.live && x.key != 0 then Config.xtsEnc x.kxts (a / 128) (leNat (getBytes s.hbm (a / 128 * 128) 128)) (a % 128)
  else mget 0 s.hbm a

/-- A physical read (R286, R389): it checks nothing. -/
def State.physRead (s : State) (a n : Nat) : List Byte := (List.range n).map fun i => s.physByte (a + i)

/-- The MAC of a sector, over what it was stored under (R388). -/
def State.macOf (s : State) (n : Nat) : BitVec 32 :=
  Config.sectorMac (s.sect n).kmac (128 * n) (s.sect n).key (leNat (s.physRead (128 * n) 128))

/-- Was a sector enciphered with another KXTS than the one that its key index has now (R388)? Its stored bytes then open to others. -/
def State.rekeyed (s : State) (key n : Nat) : Bool := (s.sect n).live && key != 0 && (s.sect n).kxts != s.kxts key

/-- A byte of a sector that passes its check, as it opens under a key index (R388, R389). -/
def State.plainByte (s : State) (key a : Nat) : Byte :=
  if s.rekeyed key (a / 128) then Config.xtsDec (s.kxts key) (a / 128) (leNat (s.physRead (a / 128 * 128) 128)) (a % 128) else mget 0 s.hbm a

/-- A read of HBM through a key index (R389). -/
def State.hbmRead (s : State) (pa key n : Nat) : Except MemErr (List Byte) :=
  match (sectorsOf pa n).findSome? fun k => s.sectCheck k key with
  | some e => .error e
  | none =>
    if (sectorsOf pa n).any (s.rekeyed key) then .ok ((List.range n).map fun i => s.plainByte key (pa + i)) else .ok (getBytes s.hbm pa n)

/-- Bytes cut at sector boundaries. -/
def cutSectors : Nat → Nat → List Byte → List (Nat × List Byte)
  | 0, _, _ => []
  | fuel + 1, a, bs =>
    match bs with
    | [] => []
    | _ =>
      let n := 128 - a % 128
      (a, bs.take n) :: cutSectors fuel (a + n) (bs.drop n)

def cutAt (a : Nat) (bs : List Byte) : List (Nat × List Byte) := cutSectors (bs.length / 128 + 2) a bs

/-- A write within one sector through a key index (R388, R440): a whole sector is not checked, but for its line's tag (R389), and clears the poison mark. -/
def State.hbmPut (s : State) (pa key : Nat) (bs : List Byte) : Except MemErr State :=
  let base := if s.rekeyed key (pa / 128) then putBytes s.hbm (pa / 128 * 128) ((List.range 128).map fun i => s.plainByte key (pa / 128 * 128 + i)) else s.hbm
  let put : State := { s with hbm := putBytes base pa bs }.setSect (pa / 128) { live := true, key := key, kxts := s.kxts key, kmac := s.kmac key }
  if bs.length = 128 then (if s.otherTag (pa / 128) key then .error .mac else .ok put)
  else match s.sectCheck (pa / 128) key with
    | some e => .error e
    | none => .ok put

def State.hbmWriteAll (s : State) (key : Nat) : List (Nat × List Byte) → Except MemErr State
  | [] => .ok s
  | (a, bs) :: r => match s.hbmPut a key bs with
    | .error e => .error e
    | .ok s' => State.hbmWriteAll s' key r

/-- A write of HBM through a key index. -/
def State.hbmWrite (s : State) (pa key : Nat) (bs : List Byte) : Except MemErr State := s.hbmWriteAll key (cutAt pa bs)

/-- The lines of some line numbers leave every cache of the package, with nothing written back. -/
def State.forgetLines (s : State) (l n : Nat) : State :=
  { s with sclines := dropRange s.sclines l n, ways := s.ways.filter fun p => p.1 % 2 ^ 40 < l || l + n ≤ p.1 % 2 ^ 40 }

/-- A physical write within one sector (R388): it merges with the stored bytes, and the sector is then stored under KDEV. The caches, which it
bypasses, keep no line of it (R374; notes/assumptions/48.md). -/
def State.physPut (s : State) (pa : Nat) (bs : List Byte) : State :=
  let n := pa / 128
  let stored := s.physRead (n * 128) 128
  let x := s.sect n
  ({ s with hbm := putBytes (putBytes s.hbm (n * 128) stored) pa bs }.forgetLines (n / 4) 1).setSect n
    { live := true, key := 0, kmac := s.kmac 0, poison := x.poison && bs.length != 128 }

/-- A physical write (R286, R388): it checks nothing. -/
def State.physWrite (s : State) (pa : Nat) (bs : List Byte) : State :=
  (cutAt pa bs).foldl (fun s p => s.physPut p.1 p.2) s

/-- Clear a range of whole sectors to CLR = 1 (R303, R399, R400). -/
def State.hbmClear (s : State) (pa n : Nat) : State :=
  { s with hbm := dropRange s.hbm pa n, sects := dropRange s.sects (pa / 128) (n / 128) }.forgetLines (pa / 512) ((pa + n + 511) / 512 - pa / 512)

/-- Mark a sector poisoned (R439, R440). -/
def State.poisonSect (s : State) (n : Nat) : State := s.setSect n { s.sect n with poison := true }

/-! ## What an access is charged with (R373, R375, R426, R432) -/

/-- What an access does to a sector. -/
inductive AccKind where
  | read | write | atomic
  deriving DecidableEq, Repr

/-- The package channel of a physical address (R375). -/
def channelOf (pa : Nat) : Nat := 32 * (pa / 2 ^ 36) + (bitsOf pa 13 9 ^^^ bitsOf pa 22 18)

/-- A transfer arrives at its channel's arbiter (R377). -/
def State.transfer (s : State) (party pa cost : Nat) : State :=
  let k := channelOf pa
  let c := s.chan k
  s.setChan k { c with waiting := c.waiting ++ [⟨if party < 32 then some party else none, cost⟩] }

/-- Add to a lea counter's accumulator of a context (R428). -/
def State.lea (s : State) (mcx k n : Nat) : State :=
  if n = 0 then s else { s with leaAcc := mupd 0 s.leaAcc (8 * mcx + k) (· + n) }

/-- One sector read from or written to HBM, charged to a party and to a context's lea counter (R373, R375, R426, R432). -/
def State.hbmSector (s : State) (party : Nat) (mcx : Option Nat) (k : Nat) (kind : AccKind) : State :=
  let cost := if kind = .atomic then 2 else 1
  let s := (s.transfer party (128 * k) cost).countEv party 8 cost
  match mcx with
  | some m => s.lea m 3 128
  | none => s

/-- The HBM sectors of an access that no cache holds. -/
def State.chargeSectors (s : State) (party : Nat) (mcx : Option Nat) (pa n : Nat) (kind : AccKind) : State :=
  (sectorsOf pa n).foldl (fun s k => s.hbmSector party mcx k kind) s

/-! ## The error log (R437, R438) -/

/-- Set bits of EVPEND of a die (R290). -/
def State.setEv (s : State) (d : Nat) (b : BitVec 13) : State := s.updDie d fun x => { x with evpend := x.evpend ||| b }

/-- Write an error log entry and set EVPEND.RAS (R437, R438). -/
def State.logError (s : State) (d kind unit : Nat) (mcx : Option Nat) (part addr who cause : Nat) : State :=
  let x := s.die d
  let d0 := kind + unit * 2 ^ 8 + (match mcx with | some m => m * 2 ^ 16 + 2 ^ 30 | none => 0) + part * 2 ^ 31
  let ws := leBytes 8 d0 ++ leBytes 8 addr ++ leBytes 8 (who + cause * 2 ^ 11) ++ leBytes 8 x.cecnt.toNat
  let s := if x.elbase = 0 then s
    else
      let at_ := x.elbase.toNat + 32 * (x.elidx.toNat % 2 ^ x.ellog.toNat)
      ((s.physWrite at_ ws).chargeSectors 32 none at_ 32 .write).updDie d fun y => { y with elidx := y.elidx + 1 }
  s.setEv d 0x1000

/-- A corrected error is counted, and logged each time the count passes a multiple of CETHR (R437, R439). -/
def State.corrected (s : State) (d unit addr : Nat) : State :=
  let x := s.die d
  let s := s.updDie d fun y => { y with cecnt := y.cecnt + 1 }
  if x.cethr = 0 || (x.cecnt + 1).toNat % x.cethr.toNat != 0 then s else s.logError d 0x01 unit none 0 addr 0 0

/-! ## Release tags (R149)

The tags of a word in a remote page are kept at this module, for the releases of its own strands, one for each value that such a release has written
(notes/assumptions/52.md). -/

/-- The number of a word: of this module's scratchpads and memory, or of another module's. -/
def Loc.tagKey : Loc → Option Nat
  | .spad cl off => some ((cl * 2 ^ 23 + off) / 8 * 2 + 1)
  | .hbm pa _ => some (pa / 8 * 2)
  | .phys pa => some (pa / 8 * 2)
  | .remote home pa _ => some (2 ^ 60 + home * 2 ^ 50 + pa / 8 * 2)
  | _ => none

/-- The key of the tag that a release of a value sets: a remote word has one for each value. -/
def Loc.tagFor (l : Loc) (v : Nat) : Option Nat :=
  match l with
  | .remote .. => l.tagKey.map fun k => k + 2 ^ 80 * (v + 1)
  | _ => l.tagKey

/-- The tags of a store's words taken out. -/
def tagsWithout (m : AMap (Option RelTag)) (l : Loc) (n : Nat) : AMap (Option RelTag) :=
  match l.tagKey with
  | none => m
  | some k =>
    let a := match l with | .spad _ off => off | .hbm pa _ => pa | .phys pa => pa | .remote _ pa _ => pa | _ => 0
    m.filter fun p => let q := p.1 % 2 ^ 80; !(q % 2 == k % 2 && k ≤ q && q ≤ k + 2 * ((a % 8 + n - 1) / 8))

/-- The tags of the words that a plain store touches are cleared. -/
def State.clearTags (s : State) (l : Loc) (n : Nat) : State := { s with reltags := tagsWithout s.reltags l n }

/-! ## Scratchpad (R123, R126, R131) -/

def granOf (off : Nat) : Nat := off / 1024
def Cluster.gran (c : Cluster) (g : Nat) : Gran := mget {} c.grans g
def Cluster.bank (c : Cluster) (b : Nat) : Bank := mget {} c.banks b
def Cluster.mark (c : Cluster) (off : Nat) : BarMark := mget {} c.marks (off / 16)
def Cluster.setGran (c : Cluster) (g : Nat) (x : Gran) : Cluster := { c with grans := mset {} c.grans g x }
def Cluster.setMark (c : Cluster) (off : Nat) (x : BarMark) : Cluster := { c with marks := mset {} c.marks (off / 16) x }
def Cluster.setBank (c : Cluster) (b : Nat) (x : Bank) : Cluster := { c with banks := mset {} c.banks b x }

/-- The granules that n bytes touch. -/
def granules (off n : Nat) : List Nat := if n = 0 then [] else (List.range ((off + n - 1) / 1024 - off / 1024 + 1)).map (off / 1024 + ·)

/-- Does a strand's tile group, or the mill, own a bank (R123, R285)? -/
def State.ownsBank (s : State) (sid b : Nat) : Bool :=
  ((s.cluster (clusterOf sid)).bank b).owner == (if isMill sid then .mill else .ctx (s.mcxOf sid))

/-- The bytes of a bobbin's slots. -/
def Bobbin.slotBytes (b : Bobbin) : Nat := 1024 * 2 ^ b.slotlog
def Bobbin.nslots (b : Bobbin) : Nat := b.slotsm1 + 1
def Bobbin.tag (b : Bobbin) (i : Nat) : SlotTag := b.tags.getD i .empty
def Bobbin.setTag (b : Bobbin) (i : Nat) (t : SlotTag) : Bobbin := { b with tags := b.tags.set i t }
def Bobbin.count (b : Bobbin) (t : SlotTag) : Nat := b.tags.count t

def Cluster.bobbin (c : Cluster) (b : Nat) : Option Bobbin := mget none c.bobbins b
def Cluster.setBobbin (c : Cluster) (b : Nat) (x : Option Bobbin) : Cluster := { c with bobbins := mset none c.bobbins b x }

/-- The live bobbin that holds a bank: its first bank and itself (R128). -/
def Cluster.bobbinOf (c : Cluster) (bank : Nat) : Option (Nat × Bobbin) :=
  c.bobbins.findSome? fun p => match p.2 with
    | some b => if p.1 ≤ bank && bank ≤ p.1 + b.banksm1 then some (p.1, b) else none
    | none => none

/-- The slot of a bobbin that an offset lies in: first bank, bobbin, slot (R128). -/
def Cluster.slotAt (c : Cluster) (off : Nat) : Option (Nat × Bobbin × Nat) :=
  match c.bobbinOf (off / 2 ^ 18) with
  | some (f, b) =>
    let i := (off - f * 2 ^ 18) / b.slotBytes
    if i < b.nslots then some (f, b, i) else none
  | none => none

/-- Do n bytes lie wholly within one DRAINING slot (R123)? -/
def Cluster.inDraining (c : Cluster) (off n : Nat) : Bool :=
  match c.slotAt off with
  | some (f, b, i) => b.tag i == .draining && off + n ≤ f * 2 ^ 18 + (i + 1) * b.slotBytes
  | none => false

/-- The trap codes of R332. -/
def cIllegal : Nat := 0x01
def cNonUniform : Nat := 0x02
def cBadTarget : Nat := 0x03
def cLoopEntry : Nat := 0x04
def cBadLoop : Nat := 0x05
def cRstack : Nat := 0x06
def cRegBank : Nat := 0x07
def cOwner : Nat := 0x08
def cAlign : Nat := 0x09
def cSpBound : Nat := 0x0A
def cPageFault : Nat := 0x10
def cProt : Nat := 0x11
def cPoison : Nat := 0x12
def cKey : Nat := 0x13
def cLayout : Nat := 0x14
def cCodec : Nat := 0x15
def cXformSpan : Nat := 0x16
def cReelFull : Nat := 0x30
def cDiverge : Nat := 0x31
def cRecompute : Nat := 0x32
def cPriv : Nat := 0x50
def cBreak : Nat := 0x51
def cMemUe : Nat := 0x60
def cWatchdog : Nat := 0x61
def cCancelled : Nat := 0x70

/-- The checks of R123 on one scratchpad access, in the order of R214: the trap it raises, if any. -/
def State.spadCheck (s : State) (sid off n align : Nat) : Option Nat :=
  let c := s.cluster (clusterOf sid)
  if off % align ≠ 0 then some cAlign
  else if 2 ^ 23 ≤ off then some cSpBound
  else if !s.ownsBank sid (off / 2 ^ 18) then some cSpBound
  else if off / 2 ^ 18 ≠ (off + n - 1) / 2 ^ 18 then some cSpBound
  else match (c.bank (off / 2 ^ 18)).mode with
    | .cache => some cSpBound
    | .scratch => none
    | .fifo => if c.inDraining off n then none else some cSpBound

/-- Is a granule that the bytes touch ENGINE-owned (R126)? -/
def State.engineOwned (s : State) (cl off n : Nat) : Bool :=
  (granules off n).any fun g => (((s.cluster cl).gran g).eng).isSome

/-- Do the bytes touch an armed barrier object (R131)? -/
def Cluster.armedIn (c : Cluster) (off n : Nat) : Bool :=
  n != 0 && c.marks.any fun p => p.2.armed && off / 16 ≤ p.1 && p.1 ≤ (off + n - 1) / 16

/-- The checks of a scratchpad store or atomic, in the order of R214 (R123, R126, R131). -/
def State.spadStoreCheck (s : State) (sid off n align : Nat) : Option Nat :=
  match s.spadCheck sid off n align with
  | some c => some c
  | none =>
    if s.engineOwned (clusterOf sid) off n || (s.cluster (clusterOf sid)).armedIn off n then some cOwner else none

def State.spadPoisoned (s : State) (cl off n : Nat) : Bool :=
  (sectorsOf off n).any fun k => mget false (s.cluster cl).poison k

/-- Put bytes into a scratchpad: the flags of the granules are cleared by a strand's store when it is performed, a withheld one at its commit (R126; that it
is not when it is checked is a DESIGN CHOICE, notes/assumptions/67.md); whole sectors lose their poison. -/
def Cluster.store (c : Cluster) (off : Nat) (bs : List Byte) : Cluster :=
  { c with
    bytes := putBytes c.bytes off bs
    grans := (granules off bs.length).foldl (fun m g => mupd {} m g fun x => { x with err := false, abandon := false }) c.grans
    poison := (cutAt off bs).foldl (fun m p => if p.2.length = 128 then mset false m (p.1 / 128) false else m) c.poison }

/-! ## The walk (R356 to R362, R383) -/

/-- The classes of R360. -/
inductive AccClass where
  | fetch | read | write
  deriving DecidableEq, Repr

/-- A fault of translation or of an access (R361, R364). -/
structure MemFault where
  cause : Nat
  addr : Nat
  level : Nat := 1
  badpte : Bool := false
  remote : Bool := false
  nowalk : Bool := false
  pteaddr : Nat := 0
  /-- The access reached this line of a shared frame, with an uncorrectable error, and waits for the frame's refetch (R368). -/
  refetch : Option Nat := none
  /-- The slot of the access, as CAUSE.SLOT numbers it. -/
  slot : Nat := 5
  /-- The error of a sector that the access found, and where (R439). -/
  ue : Option (MemErr × Loc) := none
  deriving DecidableEq, Repr

/-- Is a fault served by firmware (R332, R336)? An uncorrectable error ends the request, and so does a poisoned sector of a scratchpad, which no
translation reaches (R440; notes/assumptions/26.md). -/
def MemFault.served (f : MemFault) : Bool := f.cause != cMemUe && !f.ue.any fun p => p.1 == .spoison

/-- Where an access goes, with its virtual address and the SRO and CACHE bits of its leaf. -/
structure Place where
  loc : Loc
  ea : Nat
  sro : Bool := false
  cache : Nat := 2
  deriving DecidableEq, Repr

def State.modnum (s : State) : Nat := (s.die 0).modnum.toNat

/-- The tenant of a context (R382). -/
def State.tenant (s : State) (mcx : Nat) : Option Nat :=
  (s.keySlot (s.hw mcx 2 % 2 ^ 16)).map fun k => k.tenant.toNat

/-- The checks of R383, for an access of a tenant: the cause, if any. -/
def State.keyCheckOf (s : State) (tenant : Option Nat) (leaf : Nat) : Option Nat :=
  let k := bitsOf leaf 21 8
  if k = 0 then none
  else if (s.keng.cmd == some (2, k)) then some cKey   -- R387 step 1
  else match s.keySlot k with
    | none => some cKey
    | some x =>
      if bitOf leaf 4 then
        (if !x.model || (x.tenant != 0 && some x.tenant.toNat != tenant) then some cProt else none)
      else if x.model || some x.tenant.toNat != tenant then some cProt
      else none

/-- The checks of R383, for the access's context. -/
def State.keyCheck (s : State) (mcx leaf : Nat) : Option Nat := s.keyCheckOf (s.tenant mcx) leaf

/-- R357: is a pointer entry of a level well formed? -/
def ptrOk (e lvl : Nat) : Bool :=
  bitsOf e 4 1 == 0 && bitsOf e 7 6 == 0 && bitsOf e 63 48 == 0 && decide (bitsOf e 47 8 * 256 < hbmEnd)
    && (lvl == 3 || bitsOf e 11 8 == 0)

/-- R358, R359: is a leaf of a level well formed? -/
def State.leafOk (s : State) (e lvl : Nat) : Bool :=
  let r := bitOf e 1; let w := bitOf e 2; let x := bitOf e 3; let sro := bitOf e 4
  let cache := bitsOf e 7 6; let key := bitsOf e 21 8; let home := bitsOf e 27 22; let frame := bitsOf e 59 28
  let here := home == s.modnum
  bitOf e 5 && lvl != 1 && bitsOf e 63 60 == 0 && cache != 3
    && (match lvl with | 2 => frame % 2 ^ 14 == 0 | 3 => frame % 2 ^ 5 == 0 | _ => true)
    && (!here || decide (frame < 0xC00000))
    && ((r && !w && x && !sro && here)
        || (r && !w && !x && sro)
        || (r && !x && !sro && key != 0 && (here || cache == 2)))

/-- R360: does a leaf allow a class of access? -/
def leafAllows (e : Nat) : AccClass → Bool
  | .fetch => bitOf e 3
  | .read => !bitOf e 3
  | .write => !bitOf e 3 && bitOf e 2

/-- Check of R361: PROT or KEY. -/
def State.leafCheck (s : State) (mcx e : Nat) (c : AccClass) : Option Nat :=
  if !leafAllows e c then some cProt else s.keyCheck mcx e

/-- Bits of the offset within a page mapped at a level (R356). -/
def pageBits (lvl : Nat) : Nat :=
  match lvl with
  | 2 => 30 | 3 => 21 | _ => 16

/-- The walk from the table of a level (R361); `none` in the result of `readEntry` is an uncorrectable error of the table. -/
def State.walkFrom (s : State) (ea : Nat) : List Nat → Nat → Except MemFault (Nat × Nat)
  | [], _ => .error { cause := cPageFault, addr := ea }
  | lvl :: r, a =>
    let idx := if lvl < 4 then ea / 2 ^ (48 - 9 * lvl) % 512 else ea / 2 ^ 16 % 32
    let pa := a + 8 * idx
    match s.hbmRead pa 0 8 with
    | .error e => .error { cause := cMemUe, addr := ea, level := lvl, pteaddr := pa, ue := some (e, .hbm pa 0) }
    | .ok bs =>
      let e := leNat bs
      if !bitOf e 0 then .error { cause := cPageFault, addr := ea, level := lvl, pteaddr := pa }
      else if !bitOf e 5 && lvl < 4 && ptrOk e lvl then State.walkFrom s ea r (bitsOf e 47 8 * 256)
      else if !s.leafOk e lvl then .error { cause := cPageFault, addr := ea, level := lvl, badpte := true, pteaddr := pa }
      else .ok (e, lvl)

/-- The level of the leaf that an entry holds (R356). -/
def TlbEnt.lvl (t : TlbEnt) : Nat := if t.size = 2 ^ 30 then 2 else if t.size = 2 ^ 21 then 3 else 4

/-- The TLB entry that covers an address (R362). -/
def State.tlbHit (s : State) (mcx ea : Nat) : Option TlbEnt :=
  s.tlb.find? fun t => t.mcx == mcx && t.base ≤ ea && ea < t.base + t.size

/-- The key of a miss (R363). -/
def missKey (mcx ea : Nat) : Nat := mcx * 2 ^ 32 + ea / 2 ^ 16 % 2 ^ 32

def Die.fault (d : Die) (key : Nat) : Option FaultEnt := d.faults.find? fun e => e.key == key

/-- The die on which a context is bound. -/
def State.dieOfCtx (s : State) (mcx : Nat) : Option Nat := ((s.group mcx).bind fun g => g.spindles.head?).map dieOfSp

/-- The die whose miss table the accesses of a context use: that of its group, or else of its distaff. -/
def State.faultDie (s : State) (mcx : Nat) : Nat := (s.dieOfCtx mcx).getD (((s.ctx mcx).map fun c => c.die).getD 0)

/-- The faulted entry that a miss joins: it waits on it until FQDONE (R363). -/
def State.joined (s : State) (mcx ea : Nat) : Option MemFault :=
  ((s.die (s.faultDie mcx)).fault (missKey mcx ea)).map fun e =>
    { cause := e.cause, addr := ea, level := e.level, badpte := e.badpte, remote := e.remote, pteaddr := e.pteaddr }

/-- The physical addresses of the entries that a walk reads, in order (R361). -/
def State.walkReads (s : State) (ea : Nat) : List Nat → Nat → List Nat
  | [], _ => []
  | lvl :: r, a =>
    let pa := a + 8 * (if lvl < 4 then ea / 2 ^ (48 - 9 * lvl) % 512 else ea / 2 ^ 16 % 32)
    pa :: match s.hbmRead pa 0 8 with
      | .error _ => []
      | .ok bs =>
        let e := leNat bs
        if bitOf e 0 && !bitOf e 5 && lvl < 4 && ptrOk e lvl then State.walkReads s ea r (bitsOf e 47 8 * 256) else []

/-- The root of a context's table (R305). -/
def State.ptRoot (s : State) (mcx : Nat) : Nat := s.hw mcx 1 % 2 ^ 48

/-- A translation: the leaf and its level, or a fault (R361, R363). A PROT or KEY of a walk names the leaf as the entry that stopped it; one of a
translation held by a TLB names none (R364; notes/assumptions/36.md). -/
def State.translate (s : State) (mcx ea : Nat) (c : AccClass) : Except MemFault (Nat × Nat) :=
  if 2 ^ 48 ≤ ea then .error { cause := cProt, addr := ea % 2 ^ 48, nowalk := true }
  else
    let found : Except MemFault (Nat × Nat) := match s.tlbHit mcx ea with
      | some t => .ok (t.leaf.toNat, t.lvl)
      | none => match s.joined mcx ea with
        | some f => .error f
        | none => s.walkFrom ea [1, 2, 3, 4] (s.ptRoot mcx)
    match found with
    | .error f => .error f
    | .ok (e, lvl) => match s.leafCheck mcx e c with
      | some cause =>
        if (s.tlbHit mcx ea).isSome then .error { cause := cause, addr := ea }
        else .error { cause := cause, addr := ea, level := lvl, pteaddr := (s.walkReads ea [1, 2, 3, 4] (s.ptRoot mcx)).getLastD 0 }
      | none => .ok (e, lvl)

/-- The place that a leaf gives an address. -/
def State.placeOf (s : State) (ea e lvl : Nat) : Place :=
  let pa := bitsOf e 59 28 * 2 ^ 16 + ea % 2 ^ pageBits lvl
  let home := bitsOf e 27 22
  let key := bitsOf e 21 8
  { loc := if home = s.modnum then .hbm pa key else .remote home pa key, ea := ea, sro := bitOf e 4, cache := bitsOf e 7 6 }

/-- A walk that succeeds fills the TLBs (R363). -/
def State.tlbFill (s : State) (mcx ea e lvl : Nat) : State :=
  if (s.tlbHit mcx ea).isSome then s
  else
    let size := 2 ^ pageBits lvl
    { s with tlb := { mcx := mcx, base := ea / size * size, size := size, leaf := BitVec.ofNat 64 e } :: s.tlb }

/-- The reads of the walk that a miss makes are charged to its context's partition (R373). -/
def State.chargeWalk (s : State) (mcx ea : Nat) : State :=
  if 2 ^ 48 ≤ ea || (s.tlbHit mcx ea).isSome || (s.joined mcx ea).isSome then s
  else (s.walkReads ea [1, 2, 3, 4] (s.ptRoot mcx)).foldl (fun s pa => s.hbmSector (s.partOf mcx) (some mcx) (pa / 128) .read) s

/-! ## The stacked cache and the cache ways (R12, R124, R358, R374; notes/assumptions/48.md) -/

/-- The stacked-cache banks of a partition, by package number (R370). -/
def Part.banks (q : Part) : Nat :=
  (mget 0 q.scmask 0).toNat + (mget 0 q.scmask 1).toNat * 2 ^ 64 + (mget 0 q.scmask 2).toNat * 2 ^ 128

/-- Does a partition own a stacked-cache bank (R370)? -/
def Part.ownsBank (q : Part) (b : Nat) : Bool := (mget 0 q.scmask (b / 64)).getLsbD (b % 64)

/-- B(pa): the bank of a partition in which the line of an address is allocated; none when it owns no bank (R374). -/
def Part.bankOf (q : Part) (pa : Nat) : Option Nat :=
  let own := (List.range 192).filter q.ownsBank
  let l := pa / 2 ^ 9
  own[(bitsOf l 15 0 ^^^ bitsOf l 31 16 ^^^ bitsOf l 38 32) % own.length]?

/-- The partition that owns a stacked-cache bank; 32 when none does (R370, R372). -/
def State.bankParty (s : State) (b : Nat) : Nat := ((List.range 32).find? fun q => (s.part q).enable && (s.part q).ownsBank b).getD 32

/-- The partition that owns a cluster; 32 when none does (R370). -/
def State.clusterParty (s : State) (cl : Nat) : Nat :=
  ((List.range 32).find? fun q => (s.part q).enable && (s.part q).die.toNat == cl / 12 && (s.part q).clusters.getLsbD (cl % 12)).getD 32

/-- Does a line hold a sector, of its four? -/
def ScLine.has (x : ScLine) (k : Nat) : Bool := bitOf x.held k

/-- A sector brought into a line, and written if the flag is set. -/
def ScLine.mark (x : ScLine) (k : Nat) (w : Bool) : ScLine :=
  { x with held := x.held ||| 2 ^ k, dirty := if w then x.dirty ||| 2 ^ k else x.dirty }

/-- The dirty sectors of a line, by number. -/
def ScLine.dirtySectors (x : ScLine) (l : Nat) : List Nat := (List.range 4).filterMap fun k => if bitOf x.dirty k then some (4 * l + k) else none

/-- A line leaves the stacked cache. What was written of it is written back, charged to a party and to no context (R373, R377, R426). -/
def State.dropLine (s : State) (party l : Nat) : State :=
  let s1 : State := { s with sclines := mset none s.sclines l none }
  match mget none s.sclines l with
  | some x => (x.dirtySectors l).foldl (fun s k => s.hbmSector party none k .write) s1
  | none => s1

/-- A line leaves the ways of a cluster. What was written of it goes to the stacked cache where that holds it, and to HBM otherwise (R124). -/
def State.dropWay (s : State) (cl l : Nat) : State :=
  let s1 : State := { s with ways := mset none s.ways (2 ^ 40 * cl + l) none }
  match mget none s.ways (2 ^ 40 * cl + l) with
  | none => s1
  | some x => match mget none s.sclines l with
    | some y => { s1 with sclines := mset none s1.sclines l (some { y with held := y.held ||| x.dirty, dirty := y.dirty ||| x.dirty }) }
    | none => (x.dirtySectors l).foldl (fun s k => s.hbmSector (s.clusterParty cl) none k .write) s1

/-- The lines of a bank, by line number. -/
def State.linesOf (s : State) (b : Nat) : List Nat := s.sclines.filterMap fun p => if p.2.any (·.bank == b) then some p.1 else none

/-- The lines of a cluster's ways in a bank, by line number. -/
def State.waysIn (s : State) (cl b : Nat) : List Nat :=
  s.ways.filterMap fun p => if p.1 / 2 ^ 40 = cl && p.2.any (·.bank == b) then some (p.1 % 2 ^ 40) else none

/-- Room for one more line in a bank of 32,768: the bank's own replacement evicts one, which is not architectural (R374; notes/assumptions/48.md). -/
def State.evictLine (s : State) (b l : Nat) : State :=
  let mine := s.linesOf b
  if mine.length < 32768 then s else s.dropLine (s.bankParty b) (mine.getD (Config.scVictim mine l % mine.length) 0)

/-- Room for one more line in a bank of 512 of a cluster's ways. -/
def State.evictWay (s : State) (cl b l : Nat) : State :=
  let mine := s.waysIn cl b
  if mine.length < 512 then s else s.dropWay cl (mine.getD (Config.scVictim mine l % mine.length) 0)

/-- A hit or a miss of the stacked cache, with the party charged and the owner of the bank (R432, R433). -/
def State.countHit (s : State) (party bank : Nat) (miss : Bool) : State :=
  { s with hitAcc := mupd 0 s.hitAcc (2 * (33 * party + s.bankParty bank) + miss.toNat) (· + 1) }

/-- A line that the stacked cache holds, and one that the ways of a cluster hold. -/
def State.putLine (s : State) (l : Nat) (x : ScLine) : State := { s with sclines := mset none s.sclines l (some x) }
def State.putWay (s : State) (cl l : Nat) (x : ScLine) : State := { s with ways := mset none s.ways (2 ^ 40 * cl + l) (some x) }

/-- A sector looked for in the stacked cache: the line is found in whatever bank it is in, or allocated in B(pa). The flag says that the sector was there. With
no bank the access bypasses (R374). -/
def State.useLine (s : State) (party l k key : Nat) (w : Bool) : State × Bool :=
  match (s.part party).bankOf (512 * l) with
  | none => (s, false)
  | some b => match mget none s.sclines l with
    | some x => ((s.putLine l (x.mark k w)).countHit party x.bank false, x.has k)
    | none => (((s.evictLine b l).putLine l (({ bank := b, key := key } : ScLine).mark k w)).countHit party b true, false)

/-- The banks of a cluster in CACHE mode. -/
def Cluster.cacheBanks (c : Cluster) : List Nat := (List.range 32).filter fun b => (c.bank b).mode == .cache

/-- A sector written leaves the ways of the other clusters: a byte has one value (R143). -/
def State.leaveWays (s : State) (cl l k : Nat) : State :=
  { s with ways := s.ways.filterMap fun p =>
      if p.1 % 2 ^ 40 = l && p.1 / 2 ^ 40 ≠ cl then
        (match p.2 with
          | some x =>
            let y := { x with held := x.held - x.held / 2 ^ k % 2 * 2 ^ k, dirty := x.dirty - x.dirty / 2 ^ k % 2 * 2 ^ k }
            if y.held = 0 then none else some (p.1, some y)
          | none => none)
      else some p }

/-- A sector looked for in the ways of a cluster, and brought in; none when the cluster has no way. The flag says that it was there. -/
def State.useWay (s : State) (cl l k key : Nat) (w : Bool) : Option (State × Bool) :=
  let banks := (s.cluster cl).cacheBanks
  if banks.isEmpty then none
  else
    let s := if w then s.leaveWays cl l k else s
    match mget none s.ways (2 ^ 40 * cl + l) with
    | some x => some (s.putWay cl l (x.mark k w), x.has k)
    | none =>
      let b := banks.getD (l % banks.length) 0
      some ((s.evictWay cl b l).putWay cl l (({ bank := b, key := key } : ScLine).mark k w), false)

/-- A sector that a partition's access reaches, through the caches that its leaf's CACHE field allows (R358, R374). The system party bypasses them. -/
def State.useSector (s : State) (cl : Option Nat) (party : Nat) (mcx : Option Nat) (cache key k : Nat) (kind : AccKind) : State :=
  let w := kind != .read
  if 32 ≤ party || 1 < cache then (if w then s.leaveWays 64 (k / 4) (k % 4) else s).hbmSector party mcx k kind
  else
    let way := match cl with
      | some c => if cache = 0 then s.useWay c (k / 4) (k % 4) key w else none
      | none => none
    match way with
    | some (s1, true) => s1
    | _ =>
      let s0 := match way with
        | some p => p.1
        | none => if w then s.leaveWays 64 (k / 4) (k % 4) else s
      let r := s0.useLine party (k / 4) (k % 4) key (w && way.isNone)
      if r.2 then r.1 else r.1.hbmSector party mcx k kind

/-- The sectors that an access of a context to a place reaches; a cluster's own access reaches them through its ways (R373). -/
def State.chargeCtx (s : State) (cl : Option Nat) (mcx : Nat) (pl : Place) (n : Nat) (kind : AccKind) : State :=
  match pl.loc with
  | .hbm pa key => (sectorsOf pa n).foldl (fun s k => s.useSector cl (s.partOf mcx) (some mcx) pl.cache key k kind) s
  | .phys pa => s.chargeSectors (s.partOf mcx) (some mcx) pa n kind
  | _ => s

/-- The partition of a strand's context; 32 is the system party (R373). -/
def State.partyOf (s : State) (sid : Nat) : Nat := if isMill sid then 32 else s.hw (s.mcxOf sid) 2 / 2 ^ 43 % 32

/-- Charge an access of a strand (R373). -/
def State.charge (s : State) (sid : Nat) (pl : Place) (n : Nat) (kind : AccKind) : State :=
  if isMill sid then (match pl.loc with
    | .phys pa => s.chargeSectors 32 none pa n kind
    | .hbm pa _ => s.chargeSectors 32 none pa n kind
    | _ => s)
  else s.chargeCtx (some (clusterOf sid)) (s.mcxOf sid) pl n kind

/-- The lines tagged with a key index are written back, where dirty, and invalidated in every cache (R387). -/
def State.dropTagged (s : State) (k : Nat) : State :=
  let s := (s.ways.filterMap fun p => p.2.bind fun x => if x.key == k then some p.1 else none).foldl (fun s n => s.dropWay (n / 2 ^ 40) (n % 2 ^ 40)) s
  (s.sclines.filterMap fun p => p.2.bind fun x => if x.key == k then some (p.1, x.bank) else none).foldl (fun s p => s.dropLine (s.bankParty p.2) p.1) s

/-- The lines of a partition's banks are written back and invalidated (R372). -/
def State.dropLines (s : State) (q banks : Nat) : State :=
  (s.sclines.filterMap fun p => if p.2.any fun x => bitOf banks x.bank then some p.1 else none).foldl (fun s l => s.dropLine q l) s

/-- A bank leaves the cache: its dirty sectors are written back (R124). -/
def State.dropWayBank (s : State) (cl b : Nat) : State := (s.waysIn cl b).foldl (fun s l => s.dropWay cl l) s

/-- A whole cluster's ways are written back and emptied (R381). -/
def State.dropWaysOf (s : State) (cl : Nat) : State :=
  (s.ways.filterMap fun p => if p.1 / 2 ^ 40 = cl then some (p.1 % 2 ^ 40) else none).foldl (fun s l => s.dropWay cl l) s

/-- The place of a global address for a context, with the walk charged and the TLBs filled. -/
def State.ctxPlace (s : State) (mcx ea : Nat) (c : AccClass) : Except MemFault (Place × State) :=
  match s.translate mcx ea c with
  | .error f => .error f
  | .ok (e, lvl) => .ok (s.placeOf ea e lvl, (s.chargeWalk mcx ea).tlbFill mcx ea e lvl)

/-- The place of a physical address of a mill strand (R286). -/
def millPlace (ea : Nat) : Except MemFault Place :=
  if ea < hbmEnd then .ok { loc := .phys ea, ea := ea }
  else if 0x400000000000 ≤ ea && ea < 0x800000000000 then .ok { loc := .ctrl ea, ea := ea }
  else .error { cause := cProt, addr := ea % 2 ^ 48 }

/-- The place of a global address of a strand (R212, R286). -/
def State.place (s : State) (sid ea : Nat) (c : AccClass) : Except MemFault (Place × State) :=
  if isMill sid then (millPlace ea).map fun p => (p, s) else s.ctxPlace (s.mcxOf sid) ea c

/-! ## Reads and writes of a place -/

/-- Read n bytes of a place. Control space and remote pages are read by their own units (R286, R415). -/
def State.readLoc (s : State) (l : Loc) (n : Nat) : Except MemErr (List Byte) :=
  match l with
  | .spad cl off => if s.spadPoisoned cl off n then .error .spoison else .ok (getBytes (s.cluster cl).bytes off n)
  | .hbm pa key => s.hbmRead pa key n
  | .phys pa => .ok (s.physRead pa n)
  | .remote .. => .ok (List.replicate n 0)
  | .ctrl _ => .ok (List.replicate n 0)

/-- The line of the first sector that an access finds in error. -/
def State.badLine (s : State) (l : Loc) (n : Nat) : Nat :=
  match l with
  | .hbm pa key => ((sectorsOf pa n).find? fun k => (s.sectCheck k key).isSome).getD (pa / 128) / 4
  | _ => 0

/-- Does a place lie in a unit that is being refetched? Every access of a context to it waits, whatever its mapping (R368). -/
def State.refetching (s : State) (l : Loc) : Bool :=
  match l with
  | .hbm pa _ => s.dies.any fun d => d.2.refetch.contains (pa / 65536)
  | _ => false

/-- Read n bytes of a place of this module's memory for an access: a poisoned sector faults POISON; an uncorrectable error or a MAC
mismatch faults MEMUE, or waits for a refetch when the frame is mapped with SRO = 1 (R368, R389, R439, R440). -/
def State.readPlace (s : State) (pl : Place) (n : Nat) : Except MemFault (List Byte) :=
  let line := s.badLine pl.loc n
  if s.refetching pl.loc then .error { cause := cMemUe, addr := pl.ea, refetch := some line }
  else match s.readLoc pl.loc n with
    | .ok bs => .ok bs
    | .error .poison => .error { cause := cPoison, addr := pl.ea }
    | .error e =>
      if pl.sro then .error { cause := cMemUe, addr := pl.ea, refetch := some line }
      else .error { cause := cMemUe, addr := pl.ea, ue := some (e, pl.loc) }

/-- Does a scratchpad write cover a poisoned sector in part (R440)? -/
def State.spadPartPoison (s : State) (cl off : Nat) (bs : List Byte) : Bool :=
  (cutAt off bs).any fun p => p.2.length != 128 && mget false (s.cluster cl).poison (p.1 / 128)

/-- Write bytes to a place of this module's memory, as a plain store does. -/
def State.writeLoc (s : State) (l : Loc) (bs : List Byte) : Except MemErr State :=
  let s := s.clearTags l bs.length
  match l with
  | .spad cl off => if s.spadPartPoison cl off bs then .error .spoison else .ok (s.updCluster cl fun c => c.store off bs)
  | .hbm pa key => s.hbmWrite pa key bs
  | .phys pa => .ok (s.physWrite pa bs)
  | .remote .. => .ok s
  | .ctrl _ => .ok s

/-- A place moved on by some bytes. -/
def Loc.plus (l : Loc) (n : Nat) : Loc :=
  match l with
  | .spad cl off => .spad cl (off + n)
  | .hbm pa k => .hbm (pa + n) k
  | .phys pa => .phys (pa + n)
  | .remote h pa k => .remote h (pa + n) k
  | .ctrl a => .ctrl (a + n)

/-- A place moved on by some bytes. -/
def Place.plus (p : Place) (n : Nat) : Place := { p with loc := p.loc.plus n, ea := p.ea + n }

/-- What a unit of a context reads at an address is charged to it, where the address translates (R373). -/
def State.chargeAt (s : State) (cl : Option Nat) (mcx ea n : Nat) (c : AccClass) : State :=
  match s.ctxPlace mcx ea c with
  | .ok (pl, s') => s'.chargeCtx cl mcx pl n (if c = .write then .write else .read)
  | .error _ => s

end Sys2Proof.Machine
end

