-- ==== Sys2Proof/Machine/Account.lean ====
section
/-! DEFINITION. The messages that a remote access sends (R369, R413 to R415); entries of the telemetry ring (R435, R436); and what an uncorrectable error
leaves (R439). -/

namespace Sys2Proof.Machine

open Sys2Proof

/-! ## Reach messages -/

/-- The header of a reach message as a number of 256 bits (R414). -/
def reachHeader (type src die dst status tag key pa aop mask : Nat) : Nat :=
  type + src * 2 ^ 8 + die * 2 ^ 14 + dst * 2 ^ 16 + status * 2 ^ 24 + tag * 2 ^ 32 + key * 2 ^ 48 + pa * 2 ^ 64 + aop * 2 ^ 112
    + mask * 2 ^ 128

/-- The nonce of a sealed part: SRCMOD ++ SRCDIE ++ BOOTID ++ the die's message count (R414). -/
def State.reachNonce (s : State) (d : Nat) : List Byte :=
  leBytes 12 (((s.modnum * 4 + d) * 2 ^ 40 + s.keng.bootid.toNat) * 2 ^ 48 + (s.die d).reachMsgs.toNat)

def State.kgcm (s : State) (key : Nat) : List Byte := match s.keySlot key with
  | some k => k.kgcm
  | none => []

/-- A sealed part: nonce, ciphertext, tag (R414). -/
def State.reachSeal (s : State) (d key hdr : Nat) (plain : List Byte) : List Byte :=
  let n := s.reachNonce d
  let c := Config.gcmSeal (s.kgcm key) n (leBytes 32 hdr) plain
  n ++ c.1 ++ c.2

/-- Is a module reachable (R416)? -/
def State.reachable (s : State) (home : Nat) : Bool := (mget (0, false) s.reach home).2

/-- Is a port enabled with its link up (R401, R403)? -/
def Port.on (p : Port) : Bool := p.up && p.cfg.getLsbD 60

/-! Where a datagram goes, or came from (notes/assumptions/71.md): [0] IPv6, [16:1] UDP port, [22:17] DSCP, [23] tagged, [39:24] the tag, [167:40] the
address. -/

def srcV6 (x : Nat) : Bool := bitOf x 0
def srcCode (v6 : Bool) (port dscp : Nat) (tci : Option Nat) (ip : Nat) : Nat :=
  v6.toNat + port * 2 + dscp * 2 ^ 17 + (match tci with | some t => 2 ^ 23 + t * 2 ^ 24 | none => 0) + ip * 2 ^ 40

/-- The fields of PCFG (R403). -/
def Port.nrpPort (p : Port) : Nat := bitsOf p.cfg.toNat 15 0
def Port.reachPort (p : Port) : Nat := bitsOf p.cfg.toNat 31 16
def Port.pfcen (p : Port) : Nat := bitsOf p.cfg.toNat 39 32
def Port.nrpPcp (p : Port) : Nat := bitsOf p.cfg.toNat 42 40
def Port.reachPcp (p : Port) : Nat := bitsOf p.cfg.toNat 45 43
def Port.mtu (p : Port) : Nat := bitsOf p.cfg.toNat 59 46

/-- A port's own address of a family (R403). -/
def Port.own (p : Port) (v6 : Bool) : Nat := if v6 then p.ip6lo.toNat + p.ip6hi.toNat * 2 ^ 64 else p.ip4.toNat

/-- A datagram of a port: from its own address of the destination's family, with hop limit 64 (R410; of reach traffic a DESIGN CHOICE,
notes/assumptions/41.md). -/
def State.packet (s : State) (port dst sport : Nat) (bs : List Byte) : Packet :=
  { port := port, dst := dst, bytes := bs, own := (s.port port).own (srcV6 dst), sport := sport }

/-- Where reach traffic of a port to an IPv6 address, or to an IPv4 one in its mapped form, goes: UDP to REACHPORT, tagged where REACHPCP is not 0 (R403,
R413, R416; notes/assumptions/41.md). -/
def Port.reachTo (p : Port) (a : BitVec 128) : Nat :=
  let v4 := a.toNat / 2 ^ 32 == 0xFFFF
  srcCode (!v4) p.reachPort 0 (if p.reachPcp = 0 then none else some (p.reachPcp * 2 ^ 13)) (if v4 then a.toNat % 2 ^ 32 else a.toNat)

/-- A reach message leaves a port; its UDP payload counts to the context it serves (R426) and as an event (R432). A port that is down sends nothing (R401). -/
def State.reachOut (s : State) (port dst : Nat) (mcx : Option Nat) (msg : List Byte) : State :=
  let s := s.updDie (port / 2) fun x => { x with reachMsgs := x.reachMsgs + 1 }
  if !(s.port port).on then s
  else
    let s := ({ s with sent := s.sent ++ [s.packet port dst (s.port port).reachPort msg] }).countEv 32 13 1
    match mcx with
    | some c => s.lea c 4 msg.length
    | none => s

/-- Send a message of die d to a module through its port, to the module's entry of the reach table (R413, R416). -/
def State.reachSend (s : State) (d m : Nat) (mcx : Option Nat) (msg : List Byte) : State :=
  let p := 2 * d + m % 2
  s.reachOut p ((s.port p).reachTo (mget (0, false) s.reach m).1) mcx msg

/-- The context that a message serves; a unit of the roving engine serves none. -/
def ReachReq.ctx? (q : ReachReq) : Option Nat := if 2 ^ 21 ≤ q.who && q.who < 2 ^ 21 + 4 then none else some q.mcx

/-- Send a request and note that it awaits its answer (R415): the tag it was sent with. -/
def State.reachRequest (s : State) (d : Nat) (q : ReachReq) (aop mask : Nat) (plain : Option (List Byte)) : State × Nat :=
  let tag := (s.die d).reachTag.toNat
  let hdr := reachHeader q.kind s.modnum d q.home 0 tag q.key (q.pa / 128 * 128) aop mask
  let msg := leBytes 32 hdr ++ (match plain with | some p => s.reachSeal d q.key hdr p | none => [])
  let s := s.updDie d fun x => { x with reachTag := x.reachTag + 1 }
  let s := { s with reachReqs := mset none s.reachReqs (d * 2 ^ 16 + tag) (some { q with msg := msg }) }
  (s.reachSend d q.home q.ctx? msg, tag)

/-- The WRITE messages of a store to a remote page, one for each sector (R414, R415). `sync` is the scope of a release (R147), and `inval` says that a TLBINV has
invalidated the entry it was translated through (R300). -/
def State.remoteWrite (s : State) (sid home pa key ea : Nat) (bs : List Byte) (sync : Option ScopeAt) (inval : Bool) : State :=
  (cutAt pa bs).foldl (fun s p =>
    let off := p.1 % 128
    let mask := (2 ^ p.2.length - 1) * 2 ^ off
    let plain := List.replicate off 0 ++ p.2 ++ List.replicate (128 - off - p.2.length) 0
    (s.reachRequest (dieOf sid)
      { kind := 2, home := home, key := key, pa := p.1, mcx := s.mcxOf sid, who := sid, ea := ea + (p.1 - pa), sync := sync, inval := inval, data := p.2 } 0
      mask (some plain)).1) s

/-- A store to a remote page. -/
def State.remoteStore (s : State) (sid home pa key ea : Nat) (bs : List Byte) : State := s.remoteWrite sid home pa key ea bs none false

/-- Has a strand a message of its own that its home has not answered, of a kind that counts? A copy's messages are the copy's (R155). -/
def State.asking (s : State) (sid : Nat) (counts : Nat → Bool) : Bool :=
  s.reachReqs.any fun p => match p.2 with
    | some q => q.who == sid && q.mcx == s.mcxOf sid && q.cid == 0 && counts q.kind
    | none => false

/-- Has a strand a remote write that its home has not answered (R147, R415)? -/
def State.remotePending (s : State) (sid : Nat) : Bool := s.asking sid (· == 2)

/-! ## Telemetry and uncorrectable errors (R435, R436, R439) -/

/-- A place of a context's telemetry ring; a miss of the TLBs and a fault give none (R436; notes/assumptions/63.md). -/
def State.ringPlace (s : State) (mcx ea : Nat) : Option Place :=
  if (s.tlbHit mcx ea).isNone then none
  else match s.translate mcx ea .write with
    | .ok (e, lvl) => match (s.placeOf ea e lvl).loc with
      | .remote home _ _ => if s.reachable home then some (s.placeOf ea e lvl) else none
      | _ => some (s.placeOf ea e lvl)
    | .error _ => none

/-- The entries that a telemetry ring holds (R435). -/
def State.telemetrySize (s : State) (mcx : Nat) : Nat := 2 ^ (s.hw mcx 17 / 2 ^ 48 % 32 - 5) - 2

/-- Entry i of a telemetry ring is written, as a write of the strand that it describes, or discarded (R436). -/
def State.telemetryPut (s : State) (mcx sid i : Nat) (ws : List Nat) : State :=
  let bs := ws.flatMap (leBytes 4)
  match s.ringPlace mcx (s.hw mcx 17 % 2 ^ 48 + 64 + 32 * (i % s.telemetrySize mcx)) with
  | none => s
  | some pl => match pl.loc with
    | .remote home pa key =>
      let off := pa % 128
      (s.reachRequest (dieOf sid) { kind := 2, home := home, key := key, pa := pa, mcx := mcx, who := sid, ea := pl.ea, slot := 4099 } 0
        ((2 ^ 32 - 1) * 2 ^ off) (some (List.replicate off 0 ++ bs ++ List.replicate (96 - off) 0))).1
    | l => match s.writeLoc l bs with
      | .error _ => s
      | .ok s' => s'.chargeCtx (some (clusterOf sid)) mcx pl 32 .write

/-- Write an entry of eight 32-bit words to a context's telemetry ring: the next index is taken by an AADD on WIDX, at its home when the ring lies in remote
pages (R435, R436). -/
def State.telemetry (s : State) (mcx sid : Nat) (ws : List Nat) : State :=
  let base := s.hw mcx 17 % 2 ^ 48
  let log := s.hw mcx 17 / 2 ^ 48 % 32
  if base = 0 || log < 10 || 30 < log then s
  else match s.ringPlace mcx base with
    | none => s
    | some pl => match pl.loc with
      | .remote home pa key =>
        (s.reachRequest (dieOf sid) { kind := 3, home := home, key := key, pa := pa, mcx := mcx, who := sid, ea := base, slot := 4099
                                      fill := ws.map fun w => (w, 0, 0), atom := (0x28, 1, 0) } 0x28 (pa % 128 / 8 * 8)
          (some (leBytes 8 1 ++ leBytes 8 0))).1
      | l => match s.readLoc l 8 with
        | .error _ => s
        | .ok bs => match s.writeLoc l (leBytes 8 (leNat bs + 1)) with
          | .error _ => s
          | .ok s1 => (s1.chargeCtx (some (clusterOf sid)) mcx pl 8 .atomic).telemetryPut mcx sid (leNat bs) ws

/-- The error notice of a context (R439). -/
def State.errorNotice (s : State) (mcx : Option Nat) (who cause ea : Nat) : State := match mcx with
  | some m => s.telemetry m (sidOfWho who) [2 + cause * 256, ea % 2 ^ 32, 0, 0, 0, 0, 0, 0]
  | none => s

/-- An error that a second copy of what failed makes good: it is logged as corrected, in unit `unit`, with the error notice (R439; notes/assumptions/26.md). -/
def State.madeGood (s : State) (d unit : Nat) (mcx : Option Nat) (who addr : Nat) : State :=
  (s.logError d 0x01 unit mcx 0 addr who 0).errorNotice mcx who 0 0

/-- An uncorrectable error in a register, a tile or an accumulator (R439): logged for the spindle's arrays, with the error notice. -/
def State.arrayError (s : State) (d : Nat) (mcx : Option Nat) (who : Nat) : State :=
  (s.logError d 0x02 3 mcx 0 0 who cMemUe).errorNotice mcx who cMemUe 0

/-- What an uncorrectable error or a MAC mismatch leaves: the sector poisoned, log entries and the error notice (R388, R439). A sector that was poisoned before
is no new error. -/
def State.uncorrectable (s : State) (d : Nat) (mcx : Option Nat) (who cause : Nat) (err : MemErr) (l : Loc) (ea : Nat) : State :=
  let kind := if err = .mac then 0x03 else 0x02
  if err = .spoison || err = .poison then s
  else match l with
  | .hbm pa _ => (((s.poisonSect (pa / 128)).logError d kind 0 mcx 0 (pa / 128 * 128) who cause).logError d 0x04 0 mcx 0
      (pa / 128 * 128) who cause).errorNotice mcx who cause ea
  | .spad cl off => ((s.updCluster cl fun c => { c with poison := mset false c.poison (off / 128) true }).logError d kind 2
      mcx 0 0 who cause).errorNotice mcx who cause ea
  | _ => s

end Sys2Proof.Machine
end

