-- ==== Sys2Proof/Machine/ReelCode.lean ====
section
/-! DEFINITION. Frames and records of the reel: coding and decoding (R266 to R269, R273), and where frames stand (R263, R265). -/

namespace Sys2Proof.Machine

open Sys2Proof

/-- Bytes of a value record's body before coding (R267). -/
def recLen (tag : Nat) : Nat :=
  match tag with
  | 0 | 1 => 256 | 2 => 8 | 3 => 16 | _ => 0

/-- The decoded size of a record (R267). -/
def recSize (tag : Nat) : Nat :=
  match tag with
  | 0 | 1 => 256 | 2 => 8 | 3 => 16 | 4 => 1 | 5 => 2 | _ => 0

/-- Bytes up to the first position at which two zero bytes stand (R268). -/
def litLen : List Byte → Nat
  | [] => 0
  | [_] => 1
  | a :: b :: r => if a = 0 && b = 0 then 0 else 1 + litLen (b :: r)

/-- Zero bytes at the head of a list. -/
def zeroRun (bs : List Byte) : Nat := (bs.takeWhile (· == 0)).length

/-- The canonical token coding of R268. -/
def reelTokens : Nat → List Byte → List Byte
  | 0, _ => []
  | fuel + 1, bs =>
    if bs.isEmpty then []
    else
      let z := min 128 (zeroRun bs)
      if 2 ≤ z then BitVec.ofNat 8 (z + 0x7F) :: reelTokens fuel (bs.drop z)
      else
        let n := min 128 (litLen bs)
        BitVec.ofNat 8 (n - 1) :: bs.take n ++ reelTokens fuel (bs.drop n)

/-- The previous value of a tag among the records of a frame, or zero (R268). -/
def prevVal (recs : List ReelRec) (tag : Nat) : Nat :=
  match recs.reverse.find? fun r => r.tag == tag with
  | some r => r.val
  | none => 0

/-- A record as coded after the records before it in its frame (R267, R268). -/
def encRec (before : List ReelRec) (r : ReelRec) : List Byte :=
  match r.tag with
  | 4 => [BitVec.ofNat 8 (4 + r.val % 2 * 8)]
  | 5 => 5 :: leBytes 2 r.val
  | 6 => [6]
  | t => BitVec.ofNat 8 t :: reelTokens 512 (leBytes (recLen t) (r.val ^^^ prevVal before t))

/-- The payload of a frame (R266). -/
def encRecs : List ReelRec → List ReelRec → List Byte
  | _, [] => []
  | before, r :: rs => encRec before r ++ encRecs (before ++ [r]) rs

/-- Does a record fit the top frame (R269)? -/
def recFits (recs : List ReelRec) (r : ReelRec) : Bool :=
  recs.isEmpty ||
    (decide ((encRecs [] (recs ++ [r])).length ≤ 496) && decide (((recs ++ [r]).map fun x => recSize x.tag).sum ≤ 2048))

/-- The 512 bytes of a frame: number, records, TOP, and the ring slot address of the frame before it (R266). -/
def frameBytes (n : Nat) (recs : List ReelRec) (top : Bool) (back : Nat) : List Byte :=
  let pl := encRecs [] recs
  let d0 := n + recs.length * 2 ^ 32 + pl.length * 2 ^ 41 + (if top then 2 ^ 53 else 0)
  leBytes 8 d0 ++ leBytes 8 (if n = 0 then 0 else back) ++ pl ++ List.replicate (496 - pl.length) 0

/-- The tokens of a body of L bytes: the bytes and what follows, or none when they run over (R268, R273). -/
def unTokens : Nat → Nat → List Byte → Option (List Byte × List Byte)
  | 0, _, _ => none
  | fuel + 1, l, bs =>
    if l = 0 then some ([], bs)
    else match bs with
      | [] => none
      | t :: r =>
        if t.toNat < 0x80 then
          let n := t.toNat + 1
          if l < n || r.length < n then none
          else (unTokens fuel (l - n) (r.drop n)).map fun p => (r.take n ++ p.1, p.2)
        else
          let n := t.toNat - 0x7F
          if l < n then none else (unTokens fuel (l - n) r).map fun p => (List.replicate n 0 ++ p.1, p.2)

/-- The records of a payload (R273); none when it is faulty. -/
def unRecs : Nat → List ReelRec → List Byte → Option (List ReelRec)
  | 0, _, _ => none
  | fuel + 1, before, bs =>
    match bs with
    | [] => some before
    | t :: r =>
      let tag := t.toNat % 8
      let hi := t.toNat / 8
      if tag = 7 then none
      else if tag = 4 then (if hi < 2 then unRecs fuel (before ++ [⟨4, hi⟩]) r else none)
      else if hi ≠ 0 then none
      else if tag = 5 then (if r.length < 2 then none else unRecs fuel (before ++ [⟨5, leNat (r.take 2)⟩]) (r.drop 2))
      else if tag = 6 then unRecs fuel (before ++ [⟨6, 0⟩]) r
      else match unTokens 260 (recLen tag) r with
        | none => none
        | some (d, rest) => unRecs fuel (before ++ [⟨tag, leNat d ^^^ prevVal before tag⟩]) rest

/-- Decode a frame whose number must be n (R273); none when it is faulty. -/
def decodeFrame (n : Nat) (bs : List Byte) : Option (List ReelRec) :=
  let d0 := leNat (bs.take 8)
  let d1 := leNat ((bs.drop 8).take 8)
  let plen := d0 / 2 ^ 41 % 512
  if d0 % 2 ^ 32 ≠ n || d0 / 2 ^ 50 % 8 ≠ 0 || d0 / 2 ^ 54 ≠ 0 || d1 / 2 ^ 48 ≠ 0 || 496 < plen then none
  else match unRecs 500 [] ((bs.drop 16).take plen) with
    | none => none
    | some recs => if recs.length = d0 / 2 ^ 32 % 512 then some recs else none

/-- The descriptor of a strand's channel, from H14 and H15 (R89, R263, R305). -/
structure ReelCfg where
  enabled : Bool
  ringlog : Nat
  spillmax : Nat
  ring : Nat
  spill : Nat
  deriving DecidableEq, Repr

def State.reelCfg (s : State) (sid : Nat) : ReelCfg :=
  let m := s.mcxOf sid
  let h := s.hw m 14
  let gsp := match s.group m with | some g => g.gsp (gnumOf sid) | none => 0
  let ringlog := h / 2 ^ 48 % 32
  let spillmax := h / 2 ^ 53 % 256
  let k := 4 * gsp + slotOf sid
  { enabled := s.hw m 2 / 2 ^ 49 % 2 == 1 && !isMill sid
    ringlog := ringlog
    spillmax := spillmax
    ring := h % 2 ^ 48 + k * 2 ^ ringlog
    spill := s.hw m 15 % 2 ^ 48 + k * spillmax * 2 ^ ringlog }

/-- Frames of the ring (R263). -/
def ReelCfg.frames (c : ReelCfg) : Nat := 2 ^ c.ringlog / 512
/-- The ring slot of a frame (R263). -/
def ReelCfg.slotAddr (c : ReelCfg) (n : Nat) : Nat := c.ring + 512 * (n % c.frames)
/-- The spill home of a frame (R263). -/
def ReelCfg.spillAddr (c : ReelCfg) (n : Nat) : Nat := c.spill + 512 * n

/-- Keys of waiting writes: a spill and a write-back. -/
def reelSpill (n : Nat) : Nat := 2 ^ 40 + n
def reelBack (n : Nat) : Nat := 2 ^ 41 + n

/-- Frames of the stack that a seal puts back into their ring slots: frame m lies there when m ≥ T - R (R265). -/
def Reel.backs (r : Reel) (c : ReelCfg) : List Nat :=
  ((List.range (min r.top c.frames)).map fun i => r.top - 1 - i).filter fun m => r.top < m + c.frames && mget 0 r.held (m % c.frames) != m + 1

/-- Seal the channel: the top frame joins the frames that wait to be written, with TOP set, and those that popping has left at their spill homes are
written back (R265, R274, R279). Empty bytes stand for what FRAME_WRITE reads first: a top frame held only in coded form, or a frame at its spill home. -/
def Reel.seal (r : Reel) (c : ReelCfg) : Reel :=
  if r.shut || !c.enabled then r
  else if !r.live then { r with shut := true, count := 0 }
  else
    let bs := if r.coded then [] else frameBytes r.top r.recs true (c.slotAddr (r.top - 1))
    { r with
      shut := true, count := r.top + 1
      waiting := r.waiting ++ [(r.top, bs)] ++ (r.backs c).map fun m => (reelBack m, [])
      held := if r.coded then r.held else mset 0 r.held (r.top % c.frames) (r.top + 1) }

end Sys2Proof.Machine
end

