-- ==== Sys2Proof/Machine/Whorl.lean ====
section
/-! DEFINITION. The whorl: task graph, activations and queues (R30 to R46), cancel scopes and their acknowledgements (R47 to R57),
skeins (R32, R33), and the miss table and fault entries that its accesses share with every other party (R363 to R366). -/

namespace Sys2Proof.Machine

open Sys2Proof

/-! ## Fault entries -/

/-- A faulting access joins the entry of its key or makes one, whose walk is charged (R363, R364, R373). The second component is the key. -/
def State.addFault (s : State) (d mcx : Nat) (f : MemFault) (access who : Nat) (engine : Bool) : State × Nat :=
  let fresh := s.fresh
  let key := if f.nowalk then 2 ^ 62 + fresh.1 else missKey mcx f.addr
  let s := if f.nowalk then fresh.2 else s
  match (s.die d).fault key with
  | some _ => ((s.updDie d fun x => { x with faults := x.faults.map fun e => if e.key == key then { e with waiters := e.waiters + 1 } else e }).countEv
      (s.partOf mcx) 11 1, key)
  | none =>
    let e : FaultEnt :=
      { key := key, mcx := mcx, addr := f.addr, access := access, cause := f.cause, level := f.level
        badpte := f.badpte, remote := f.remote, nowalk := f.nowalk, who := who, engine := engine, pteaddr := f.pteaddr }
    ((if f.nowalk then s else s.chargeWalk mcx f.addr).updDie d fun x => { x with faults := x.faults ++ [e] }, key)

/-- A waiter withdraws its merge (R366). -/
def State.withdraw (s : State) (d key : Nat) : State :=
  s.updDie d fun x => { x with faults := x.faults.map fun e => if e.key == key then { e with waiters := e.waiters - 1 } else e }

/-! ## Graph nodes -/

/-- Doubleword k of a graph node (R35), or the fault of reading it. -/
def State.nodeWord (s : State) (mcx node k : Nat) : Except MemFault Nat :=
  let ea := s.hw mcx 10 % 2 ^ 48 + 64 * node + 8 * k
  match s.translate mcx ea .fetch with
  | .error f => .error f
  | .ok (e, lvl) => (s.readPlace (s.placeOf ea e lvl) 8).map leNat

/-- Doubleword k of a node; an unreadable word reads as zero, which is no kind of node. -/
def State.nodeD (s : State) (mcx node k : Nat) : Nat := (s.nodeWord mcx node k).toOption.getD 0

def nodeKind (d0 : Nat) : Nat := d0 % 256
def nodeNext (d0 : Nat) : Nat := bitsOf d0 27 16
def nodeAlt (d0 : Nat) : Nat := bitsOf d0 39 28

/-! ## Scopes -/

def Group.scope (g : Group) (c : Nat) : Option Scope := mget none g.scopes c
def Group.setScope (g : Group) (c : Nat) (x : Option Scope) : Group := { g with scopes := mset none g.scopes c x }

/-- A scope and its ancestors, nearest first (R47: depth at most 16). -/
def Group.chain (g : Group) : Nat → Nat → List Nat
  | 0, _ => []
  | fuel + 1, c => match g.scope c with
    | none => []
    | some x => c :: (if x.parent = 0 then [] else Group.chain g fuel x.parent)

/-- Is d the scope c or a descendant of it? -/
def Group.inTree (g : Group) (c d : Nat) : Bool := (g.chain 17 d).contains c

/-- Change the counts of a scope and of its CANCELLING ancestors (R54). A SPAWN refused into a scope that is still OPEN, with the dynamic queue full, is not
counted (DESIGN CHOICE, notes/assumptions/55.md). -/
def Group.countUp (g : Group) (c : Nat) (f : Scope → Scope) : Group :=
  (g.chain 17 c).foldl (fun g d => match g.scope d with
    | some x => if x.st = .cancelling then g.setScope d (some (f x)) else g
    | none => g) g

def sat16 (n : Nat) : Nat := min n 0xFFFF

/-- Is a context SAVED (R308)? -/
def State.isSaved (s : State) (mcx : Nat) : Bool :=
  match s.ctx mcx with
  | some c => c.st == .saved
  | none => s.recWord mcx 64 % 16 == 3

/-- The strands of a group whose tasks live, with their identities: those in its slots, or in its save images (R49, R308). -/
def State.members (s : State) (mcx : Nat) (g : Group) : List (Nat × Strand) :=
  if s.isSaved mcx then
    s.images.filterMap fun i => match i.strand with
      | some t => if i.mcx = mcx && t.st != .free then some (4 * g.spindles.getD i.gsp 0 + i.slot, t) else none
      | none => none
  else g.sids.filterMap fun sid =>
    let t := s.strand sid
    if t.st != .free && !(t.st == .saved && t.sstate == 0) && t.mcx = mcx then some (sid, t) else none

/-- The live count of a scope (R49). -/
def State.liveCount (s : State) (mcx : Nat) (g : Group) (c : Nat) : Nat :=
  (g.ready.filter fun t => g.inTree c t.scope).length + ((s.members mcx g).filter fun p => g.inTree c p.2.scope).length

/-- Tasks of a group that live: placed or queued. -/
def State.liveTasks (s : State) (mcx : Nat) (g : Group) : Nat := g.ready.length + (s.members mcx g).length

/-- Is the kill of a scope still on its way to a spindle (R51)? -/
def Group.killComing (g : Group) (c : Nat) : Bool := g.kills.any fun k => !k.2.1.isEmpty && g.inTree k.1 c

/-- The acknowledgement word (R54). -/
def ackWord (named : Nat) (x : Scope) : Nat :=
  named + 2 ^ 12 + sat16 x.killed * 2 ^ 16 + sat16 x.removed * 2 ^ 32 + sat16 x.refused * 2 ^ 48

/-! ## Activations -/

def Group.act (g : Group) (a : Nat) : Option Activation := mget none g.acts a
def Group.setAct (g : Group) (a : Nat) (x : Option Activation) : Group := { g with acts := mset none g.acts a x }

/-- The live activations of a group, with the nodes whose reads are under way (R42). -/
def Group.liveActs (g : Group) : Nat := ((List.range 256).filter fun a => (g.act a).isSome).length + g.conds.length

/-- The lowest activation number not in use. -/
def Group.freeAct (g : Group) : Nat := ((List.range 256).find? fun a => (g.act a).isNone).getD 256

/-- May the whorl make nodes ready (R44)? -/
def Group.open? (g : Group) : Bool := g.ended.isNone && g.cancelled.isNone

/-- The cancel of a scope and its descendants up to the arrival of the kill (R51 steps 2 to 4): queued tasks are removed, and the kill is on
its way to every spindle of the group. The second component lists the activations of the removed tasks. -/
def Group.cancelTree (g : Group) (c : Nat) : Group × List Nat :=
  let tree := (g.scopes.map fun p => p.1).filter fun d => g.inTree c d
  let g1 := tree.foldl (fun g d => match g.scope d with
    | some x => g.setScope d (some { x with st := .cancelling })
    | none => g) g
  let gone := g.ready.filter fun t => g.inTree c t.scope
  let g2 := gone.foldl (fun g t => g.countUp t.scope fun x => { x with removed := x.removed + 1 }) g1
  ({ g2 with
     ready := g.ready.filter (fun t => !g.inTree c t.scope)
     kills := g.kills ++ [(c, g.spindles, [])] }, gone.map fun t => t.act)

/-- One task of an activation is gone: a completed activation makes its successor ready (R42, R44). -/
def State.taskGone (s : State) (mcx a : Nat) (sid : Option Nat) : State :=
  match s.group mcx with
  | none => s
  | some g => match g.act a with
    | none => s
    | some x =>
      let x1 : Activation :=
        { x with
          live := x.live - 1
          ranges := match sid with | some i => mset none x.ranges i none | none => x.ranges
          queued := if sid.isNone then none else x.queued }
      if x1.live ≠ 0 then s.updGroup mcx fun g => g.setAct a (some x1)
      else
        let next := nodeNext (x.words.headD 0).toNat
        s.updGroup mcx fun g => { g.setAct a none with waiting := if g.open? then g.waiting ++ [next] else g.waiting }

/-- Cancel a scope of a group, with the removed tasks' activations (R51). -/
def State.cancelScope (s : State) (mcx c : Nat) : State :=
  match s.group mcx with
  | none => s
  | some g =>
    let r := g.cancelTree c
    r.2.foldl (fun s a => s.taskGone mcx a none) (s.setGroup mcx (some r.1))

/-- The distaff cancels the root scope: the request ends with a status, the first to reach it (R57, R335). -/
def State.endRequest (s : State) (mcx status : Nat) : State :=
  match s.group mcx with
  | none => s
  | some g =>
    let s := s.updGroup mcx fun g => { g with cancelled := some (g.cancelled.getD status) }
    match g.scope g.root with
    | some x => if x.st = .cancelling then s else s.cancelScope mcx g.root
    | none => s

/-! ## Acknowledgement words and scopes -/

/-- The die of a context's whorl. -/
def State.whorlDie (s : State) (mcx : Nat) : Nat := (s.dieOfCtx mcx).getD 0

/-- The whorl's party, as a fault entry names it (R364): slot 0 of the group's first spindle. -/
def State.whorlWho (s : State) (mcx : Nat) : Nat :=
  match s.group mcx with
  | some g => whoOf (4 * g.spindles.headD 0)
  | none => 0

/-- A write of an acknowledgement word that faults is entered, and waits for its outcome (R366). -/
def State.ackFault (s : State) (mcx : Nat) (a : Ack) (v : Nat) (f : MemFault) : State :=
  let d := s.whorlDie mcx
  let r := s.addFault d mcx f 7 (s.whorlWho mcx) true
  r.1.updGroup mcx fun g => { g with words := g.words ++ [(a, v, d, r.2)] }

/-- An uncorrectable error that an access of the whorl has found: it is handled, and the request ends with MEMUE (R439). -/
def State.whorlUe (s : State) (mcx : Nat) (f : MemFault) : State :=
  (match f.ue with
    | some (e, l) => s.uncorrectable (s.whorlDie mcx) (some mcx) (s.whorlWho mcx) cMemUe e l f.addr
    | none => s).endRequest mcx cMemUe

/-- Write an acknowledgement word (R51, R54). Its translation is pinned (R237). -/
def State.ackWrite (s : State) (mcx : Nat) (a : Ack) (v : Nat) : State :=
  match a.loc with
  | .remote home pa key =>
    let off := pa % 128
    (s.reachRequest (s.whorlDie mcx)
      { kind := 2, home := home, key := key, pa := pa, mcx := mcx, who := 2 ^ 20, ea := a.ea, slot := 4098, cid := 0, sector := v,
        atom := (a.named, 0, 0) } 0 (0xFF * 2 ^ off)
      (some (List.replicate off 0 ++ leBytes 8 v ++ List.replicate (120 - off) 0))).1
  | l => match s.writeLoc l (leBytes 8 v) with
    | .ok s' => s'.chargeCtx none mcx { loc := l, ea := a.ea } 8 .write
    | .error .poison => s.ackFault mcx a v { cause := cPoison, addr := a.ea }
    | .error e => s.whorlUe mcx { cause := cMemUe, addr := a.ea, ue := some (e, l) }

/-- Have the tasks of a context that were killed while SAVED remote writes that their homes have not answered (R55)? -/
def State.orphanWrites (s : State) (mcx : Nat) : Bool := s.reachReqs.any fun p => p.2.any fun q => q.mcx == mcx && q.slot == 4100

/-- The acknowledgement writes of the scopes whose live count is 0, whose kill has arrived, and whose writes have been performed, and their release (R48,
R54, R55). -/
def State.scopeSweep (s : State) (mcx : Nat) : State :=
  match s.group mcx with
  | none => s
  | some g0 => (g0.scopes.map fun p => p.1).foldl (fun s c => match s.group mcx with
      | none => s
      | some g => match g.scope c with
        | none => s
        | some x =>
          if s.liveCount mcx g c ≠ 0 || g.killComing c || (x.st = .cancelling && s.orphanWrites mcx) then s
          else if x.st = .cancelling then
            let s := x.acks.foldl (fun s a => s.ackWrite mcx a (ackWord a.named x)) s
            if c = g.root then s.updGroup mcx fun g => g.setScope c (some { x with acks := [] })
            else s.updGroup mcx fun g => g.setScope c none
          else if c ≠ g.root && x.creator.isNone then s.updGroup mcx fun g => g.setScope c none
          else s) s

/-- What a read of a condition word finds (R37): its value; a fault that waits for service; a cause that ends the request; or a word in a remote page,
which is read at its home (R369). -/
inductive CondRead where
  | val (b : Bool)
  | fault (f : MemFault)
  | ends (cause : Nat)
  | remote (home pa key : Nat) (ea : Nat)

/-- Read the condition word of a COND or WHILE node (R37). -/
def State.condition (s : State) (mcx node : Nat) (g : Group) : CondRead :=
  let d1 := s.nodeD mcx node 1
  let ea := d1 % 2 ^ 48
  if bitOf d1 63 then
    let c := s.cluster g.primary
    let b := c.bank (ea / 2 ^ 18)
    if 2 ^ 23 ≤ ea || !(b.owner == .ctx mcx) || b.mode == .cache || (b.mode == .fifo && !c.inDraining ea 8) then .ends cSpBound
    else match s.readLoc (.spad g.primary ea) 8 with
      | .ok bs => .val (leNat bs != 0)
      | .error _ => .ends cMemUe
  else match s.translate mcx ea .read with
    | .error f => .fault f
    | .ok (e, lvl) => match (s.placeOf ea e lvl).loc with
      | .remote home pa key => if s.reachable home then .remote home pa key ea else .fault { cause := cProt, addr := ea, remote := true }
      | _ => match s.readPlace (s.placeOf ea e lvl) 8 with
        | .ok bs => .val (leNat bs != 0)
        | .error f => .fault f

/-- The doublewords of a node. -/
def State.nodeWords (s : State) (mcx node : Nat) : List Word := (List.range 8).map fun k => BitVec.ofNat 64 (s.nodeD mcx node k)

/-- A task of a KERNEL or RANGE node (R36, R40), from the node's doublewords. -/
def nodeTask (node a inst scope : Nat) (ws args : List Word) : Task :=
  let d1 := (ws.getD 1 0).toNat
  { node := node, act := a, inst := inst, scope := scope, args := args, entry := BitVec.ofNat 32 d1
    mpc0 := BitVec.ofNat 32 (d1 / 2 ^ 32), bank := 64 * (bitsOf (ws.getD 2 0).toNat 18 16 + 1) }

/-- The arguments of a RANGE node's tasks (R40). -/
def rangeArgs (ws : List Word) : List Word := [ws.getD 6 0, ws.getD 7 0]

/-- A shared frame waits for its refetch, and its line that is in error leaves every cache (R368). -/
def State.refetchFrame (s : State) (d line : Nat) : State :=
  let fr := line / 128
  if s.dies.any fun x => x.2.refetch.contains fr then s
  else (s.forgetLines line 1).updDie d fun x => { x with refetch := x.refetch ++ [fr] }

/-- What an access of the whorl that waits for the refetch of a frame stands under, in the place of a fault entry's key (R368). -/
def refetchKey (fr : Nat) : Nat := 2 ^ 63 + fr

/-- A node whose read faults waits for the outcome of its fault, or for the refetch of its frame; an uncorrectable error ends the request (R366, R368,
R439). -/
def State.nodeFault (s : State) (mcx node : Nat) (f : MemFault) : State :=
  let d := s.whorlDie mcx
  match f.refetch with
  | some line => (s.refetchFrame d line).updGroup mcx fun g => { g with conds := g.conds ++ [(node, some (d, refetchKey (line / 128)))] }
  | none =>
    if f.cause = cMemUe then s.whorlUe mcx f
    else
      let r := s.addFault d mcx f 7 (s.whorlWho mcx) true
      r.1.updGroup mcx fun g => { g with conds := g.conds ++ [(node, some (d, r.2))] }

/-- The condition word of a node is asked for at its home. -/
def State.askCond (s : State) (mcx node home pa key ea : Nat) : State :=
  ((s.reachRequest (s.whorlDie mcx)
    { kind := 1, home := home, key := key, pa := pa, mcx := mcx, who := 2 ^ 20, ea := ea, slot := 4097, sector := node } 0 0 none).1).updGroup mcx
    fun g => { g with conds := g.conds ++ [(node, none)] }

/-- A COND or WHILE node goes on with its condition (R35, R37). -/
def State.condGoes (s : State) (mcx node : Nat) (b : Bool) : State :=
  let d0 := s.nodeD mcx node 0
  s.updGroup mcx fun g => { g with waiting := g.waiting ++ [if b then nodeNext d0 else nodeAlt d0] }

/-- One node made ready (R35 to R42). -/
def State.fireNode (s : State) (mcx node : Nat) : State :=
  match s.group mcx with
  | none => s
  | some g =>
    let w := fun k => s.nodeD mcx node k
    let go := fun (s : State) (n : Nat) => s.updGroup mcx fun g => { g with waiting := g.waiting ++ [n] }
    match s.nodeWord mcx node 0 with
    | .error f => s.nodeFault mcx node f
    | .ok d0 =>
      let s := s.chargeAt (some g.primary) mcx (s.hw mcx 10 % 2 ^ 48 + 64 * node) 64 .fetch
      match nodeKind d0 with
      | 1 =>
        let a := g.freeAct
        let n := max 1 (bitsOf (w 2) 15 0)
        let ws := s.nodeWords mcx node
        s.updGroup mcx fun g =>
          { g.setAct a (some { node := node, words := ws, live := n }) with
            ready := g.ready ++ (List.range n).map fun i => nodeTask node a i g.root ws (ws.drop 3) }
      | 2 | 3 => match s.condition mcx node g with
        | .val b => ((if bitOf (w 1) 63 then s else s.chargeAt (some g.primary) mcx (w 1 % 2 ^ 48) 8 .read)).condGoes mcx node b
        | .ends c => s.endRequest mcx c
        | .fault f => s.nodeFault mcx node f
        | .remote home pa key ea => s.askCond mcx node home pa key ea
      | 4 =>
        let n := bitsOf (w 1) 4 0
        (List.range n).foldl (fun s i => go s (bitsOf (w (2 + i / 4)) (16 * (i % 4) + 11) (16 * (i % 4)))) s
      | 5 =>
        let c := mget 0 g.joins node + 1
        if c < bitsOf (w 1) 15 0 then s.updGroup mcx fun g => { g with joins := mset 0 g.joins node c }
        else go (s.updGroup mcx fun g => { g with joins := mset 0 g.joins node 0 }) (nodeNext d0)
      | 6 =>
        if w 3 = w 4 then go s (nodeNext d0)
        else
          let a := g.freeAct
          let ws := s.nodeWords mcx node
          s.updGroup mcx fun g =>
            { g.setAct a (some { node := node, words := ws, live := 1, queued := some (w 3, w 4) }) with
              ready := g.ready ++ [nodeTask node a 0 g.root ws (rangeArgs ws)] }
      | 7 => s.updGroup mcx fun g => { g with ended := some (bitsOf (w 1) 7 0), waiting := [] }
      | _ => s.endRequest mcx cIllegal

/-- Nodes made ready fire in order while fewer than 256 activations are live (R42). -/
def State.runReady (s : State) (mcx : Nat) : Nat → State
  | 0 => s
  | fuel + 1 => match s.group mcx with
    | none => s
    | some g => match g.waiting with
      | [] => s
      | n :: r =>
        if !g.open? then s.updGroup mcx fun g => { g with waiting := [] }
        else if 256 ≤ g.liveActs then s
        else State.runReady ((s.updGroup mcx fun g => { g with waiting := r }).fireNode mcx n) mcx fuel

/-- The whorl's work after an event: nodes, scopes and acknowledgements. -/
def State.whorl (s : State) (mcx : Nat) : State := (s.runReady mcx 4096).scopeSweep mcx

/-! ## Skeins (R32, R33) -/

def Group.skein (g : Group) (k : Nat) : Skein := mget {} g.skeins k
def Group.setSkein (g : Group) (k : Nat) (x : Skein) : Group := { g with skeins := mset {} g.skeins k x }

/-- A member whose phase has completed may go on. -/
def Strand.woken (t : Strand) (k : Nat) : Strand := { t with skGo := if t.skGo.contains k then t.skGo else t.skGo ++ [k] }

/-- The strand that a save image of a context holds, by the identity that its slot has in the saved group (R347). -/
def State.updSaved (s : State) (mcx : Nat) (g : Group) (sid : Nat) (f : Strand → Strand) : State :=
  { s with images := s.images.map fun i =>
      if i.mcx == mcx && i.strand.isSome && 4 * g.spindles.getD i.gsp 0 + i.slot == sid then { i with strand := i.strand.map f } else i }

/-- Has a SNAPLOAD put a strand of a SAVED context back into its slot, before the gate opens (R350)? -/
def State.loadedBack (s : State) (mcx sid : Nat) : Bool :=
  s.isSaved mcx && (s.spindle (gnumOf sid)).mcx == some mcx && !(mget [] s.restoring mcx).contains sid

/-- The waiting members of a phase go on: those of a SAVED context in their save images, and in the slots that they have been put back into (R33, R56). -/
def State.skeinWake (s : State) (mcx : Nat) (g : Group) (k : Nat) (sids : List Nat) : State :=
  sids.foldl (fun s sid =>
    let s1 := if s.isSaved mcx then s.updSaved mcx g sid fun t => t.woken k else s
    if !s.isSaved mcx || s.loadedBack mcx sid then s1.updStrand sid fun t => t.woken k else s1) s

/-- Complete the phases of a skein whose arrivals equal its members (R33). Those that joined with arrivals counted count from the next phase. -/
def State.skeinCheck (s : State) (mcx k : Nat) : Nat → State
  | 0 => s
  | fuel + 1 => match s.group mcx with
    | none => s
    | some g =>
      let x := g.skein k
      let m := (x.members.filter fun i => !x.late.contains i).length
      if x.arrived.length < m || (x.arrived.isEmpty && x.late.isEmpty) then s
      else
        State.skeinCheck ((s.updGroup mcx fun g => g.setSkein k { members := x.members, arrived := x.early }).skeinWake mcx g k x.arrived) mcx k fuel

/-- A strand leaves a skein (R32, R33). -/
def State.skeinLeave (s : State) (mcx k sid : Nat) : State :=
  (s.updGroup mcx fun g =>
    let x := g.skein k
    g.setSkein k
      { members := x.members.filter (· != sid), late := x.late.filter (· != sid), arrived := x.arrived.filter (· != sid)
        early := x.early.filter (· != sid) }).skeinCheck mcx k 3

/-- A strand joins a skein (R32, R33). -/
def State.skeinJoin (s : State) (mcx k sid : Nat) : State :=
  s.updGroup mcx fun g =>
    let x := g.skein k
    if x.members.contains sid then g
    else g.setSkein k { x with members := x.members ++ [sid], late := if x.arrived.isEmpty then x.late else x.late ++ [sid] }

/-- A member arrives at a skein (R33, R236). -/
def State.skeinArrive (s : State) (mcx k sid : Nat) : State :=
  (s.updGroup mcx fun g =>
    let x := g.skein k
    g.setSkein k (if x.late.contains sid then { x with early := x.early ++ [sid] } else { x with arrived := x.arrived ++ [sid] })).skeinCheck mcx k 3

/-- A strand leaves every skein it belongs to (R32). -/
def State.skeinLeaveAll (s : State) (mcx sid : Nat) : State :=
  match s.group mcx with
  | none => s
  | some g => (g.skeins.filterMap fun p => if p.2.members.contains sid then some p.1 else none).foldl (fun s k => s.skeinLeave mcx k sid) s

end Sys2Proof.Machine
end

