-- ==== Sys2Proof/Machine/Engines.lean ====
section
/-! DEFINITION. What engines do to the scratchpad and to strands when their work ends: barrier subtraction and flip (R131, R132), the
end of a copy (R126, R129, R139, R344), the end or drop of a matrix call (R242, R247), and the kill of a strand with the fates of
its engine work (R52, R53). -/

namespace Sys2Proof.Machine

open Sys2Proof

/-! ## Descriptors and layout records (R133, R134) -/

def dBase (d : BitVec 256) : Nat := bitsOf d.toNat 47 0
def dBitoff (d : BitVec 256) : Nat := bitsOf d.toNat 50 48
def dSpace (d : BitVec 256) : Nat := bitsOf d.toNat 52 51
/-- The extent of level k. -/
def dExt (d : BitVec 256) (k : Nat) : Nat :=
  if k = 0 then bitsOf d.toNat 87 64 else d.toNat / 2 ^ (88 + 16 * (k - 1)) % 2 ^ 16
def dLrec (d : BitVec 256) : Nat := bitsOf d.toNat 215 168
/-- Elements that a descriptor visits (R135). -/
def dCount (d : BitVec 256) : Nat := dExt d 0 * dExt d 1 * dExt d 2 * dExt d 3 * dExt d 4 * dExt d 5

def rWord (r : List Word) (k : Nat) : Nat := (r.getD k 0).toNat
def rFmt (r : List Word) : Nat := bitsOf (rWord r 0) 3 0
def rLevels (r : List Word) : Nat := bitsOf (rWord r 0) 6 4
def rXform (r : List Word) : Nat := bitsOf (rWord r 0) 10 8
def rNsp (r : List Word) : Nat := bitsOf (rWord r 0) 13 11
def rClen (r : List Word) : Nat := bitsOf (rWord r 0) 39 16
def rDlen (r : List Word) : Nat := bitsOf (rWord r 0) 63 40
/-- The signed stride of level k in elements. -/
def rStride (r : List Word) (k : Nat) : Int := sext 48 (rWord r k)
def rMaskoff (r : List Word) : Nat := bitsOf (rWord r 6) 47 0
def rDelta (r : List Word) : Nat := bitsOf (rWord r 7) 47 0
/-- The element width of a record (R100). -/
def rWidth (r : List Word) : Nat := fmtBits (rFmt r)

/-- The destination byte count of a copy (R135). -/
def CopyJob.dstBytes (j : CopyJob) : Nat := (dCount j.dst * rWidth j.drec + 7) / 8

/-! ## Barriers (R131, R132) -/

def Cluster.barW (c : Cluster) (off i : Nat) : Nat := leNat (getBytes c.bytes (off + 4 * i) 4)
def Cluster.setBarW (c : Cluster) (off i v : Nat) : Cluster := { c with bytes := putBytes c.bytes (off + 4 * i) (leBytes 4 v) }
def Cluster.barPending (c : Cluster) (off : Nat) : Nat := c.barW off 0 % 2 ^ 28
def Cluster.barPhase (c : Cluster) (off : Nat) : Bool := bitOf (c.barW off 0) 28
def Cluster.barScope (c : Cluster) (off : Nat) : Nat := c.barW off 3 % 2 ^ 12
def Cluster.barFlipped (c : Cluster) (off : Nat) : Bool := bitOf (c.barW off 3) 20

/-- The flip of an armed barrier in one step (R132). -/
def Cluster.flip (c : Cluster) (off : Nat) : Cluster :=
  let m := c.mark off
  let expect := c.barW off 1 % 2 ^ 28
  let arvexp := c.barW off 2 / 2 ^ 16
  let armed := expect != 0 || arvexp != 0
  let w0 := expect + (!c.barPhase off).toNat * 2 ^ 28 + m.err.toNat * 2 ^ 29 + m.abandon.toNat * 2 ^ 30 + armed.toNat * 2 ^ 31
  let c := c.setBarW off 0 w0
  let c := c.setBarW off 2 (arvexp + arvexp * 2 ^ 16)
  let c := c.setBarW off 3 (c.barScope off + m.ecause * 2 ^ 12 + 2 ^ 20)
  c.setMark off { armed := armed }

/-- Flip when nothing is owed (R132). -/
def Cluster.flipIfDone (c : Cluster) (off : Nat) : Cluster :=
  if (c.mark off).armed && c.barPending off == 0 && c.barW off 2 % 2 ^ 16 == 0 then c.flip off else c

/-- Mark the phase (R132): ECAUSE keeps the first error's cause. An underflow has none, and leaves ECAUSE to a later error (DESIGN CHOICE,
notes/assumptions/67.md). -/
def Cluster.markErr (c : Cluster) (off cause : Nat) : Cluster :=
  let m := c.mark off
  c.setMark off { m with err := true, ecause := if m.ecause = 0 then cause else m.ecause }

/-- A copy's subtraction from an armed barrier, with its error cause if it ended on one (R132, R139). -/
def Cluster.barSub (c : Cluster) (off n : Nat) (cause : Option Nat) : Cluster :=
  if !(c.mark off).armed then c
  else
    let p := c.barPending off
    let c := c.setBarW off 0 (c.barW off 0 - p + (p - n))
    let c := if p < n then c.markErr off 0 else c
    let c := match cause with
      | some k => c.markErr off k
      | none => c
    c.flipIfDone off

/-- One arrival at an armed barrier (R132). -/
def Cluster.barArrive (c : Cluster) (off : Nat) : Cluster :=
  let a := c.barW off 2 % 2 ^ 16
  let c := if a = 0 then c.markErr off 0 else c.setBarW off 2 (c.barW off 2 - 1)
  c.flipIfDone off

/-- The flip that a cancel forces on an armed barrier (R53, R132). -/
def Cluster.barAbandon (c : Cluster) (off : Nat) : Cluster :=
  if !(c.mark off).armed then c
  else (c.setMark off { c.mark off with abandon := true }).flip off

/-! ## The end of a copy -/

/-- How a copy or a call ends. -/
inductive EndKind where
  | done | err (cause : Nat) | abandon
  deriving DecidableEq, Repr

def EndKind.isErr : EndKind → Bool
  | .err _ => true
  | _ => false

/-- The granules of an engine owner return to STRAND in one step, with the flag of the end (R126, R242). -/
def Cluster.releaseGrans (c : Cluster) (o : EngOwner) (e : EndKind) : Cluster :=
  { c with grans := c.grans.filterMap fun p =>
      if p.2.eng == some o then
        (if e = .done then none else some (p.1, { eng := none, err := e.isErr, abandon := e == .abandon }))
      else some p }

/-- A copy's FILLING slots return to EMPTY (R129). -/
def Bobbin.unfill (b : Bobbin) (cid : Nat) : Bobbin :=
  let mine := b.filler.filterMap fun p => if p.2 = cid && b.tag p.1 == .filling then some p.1 else none
  mine.foldl (fun b i => { b.setTag i .empty with filled := mset 0 b.filled i 0, filler := mset 0 b.filler i 0 }) b

def Cluster.unfillAll (c : Cluster) (cid : Nat) : Cluster :=
  { c with bobbins := c.bobbins.map fun p => (p.1, p.2.map fun b => b.unfill cid) }

/-- The granules that a copy's destination touches, as the cluster records them. -/
def Cluster.copyGrans (c : Cluster) (cid : Nat) : List Nat :=
  c.grans.filterMap fun p => if p.2.eng == some (.copy cid) then some p.1 else none

/-- The cluster that a bank image holds (R348). -/
def State.imageCluster (s : State) (mcx cl : Nat) : Option Cluster :=
  (s.images.find? fun i => i.mcx == mcx && i.cl == cl && i.cluster.isSome).bind fun i => i.cluster

/-- The two doublewords of a redirect record (R348). A copy that has made no slot FULL, or that has no granule, has NM1 = 8191 (DESIGN CHOICE,
notes/assumptions/56.md). -/
def Redirect.words (r : Redirect) : List Nat :=
  let lo := r.grans.foldl min (r.grans.headD 0)
  let hi := r.grans.foldl max 0
  let place := match r.bobbin with
    | some (b, n) => b + (n + 2 ^ 13 - 1) % 2 ^ 13 * 2 ^ 13 + 2 ^ 26
    | none => lo + (if r.grans.isEmpty then 2 ^ 13 - 1 else hi - lo) * 2 ^ 13
  [place + r.err.toNat * 2 ^ 27 + r.abandon.toNat * 2 ^ 28 + r.ecause * 2 ^ 29 + 2 ^ 63,
    r.bar.getD 0 + r.bar.isNone.toNat * 2 ^ 23 + r.bytes * 2 ^ 24]

/-- A record is appended to the redirect list of a bank image, under the tenant key (R344, R348). -/
def State.appendRedirect (s : State) (mcx cl : Nat) (r : Redirect) : State :=
  let l := mget [] s.redirects (mcx * 64 + cl)
  let s : State := { s with redirects := mset [] s.redirects (mcx * 64 + cl) (l ++ [r]) }
  match s.images.find? fun i => i.mcx == mcx && i.cl == cl && i.cluster.isSome with
  | none => s
  | some i =>
    let pa := i.addr + 0x2000 + 16 * l.length
    match s.hbmWrite pa (s.hw mcx 2 % 2 ^ 16) (r.words.flatMap (leBytes 8)) with
    | .ok s' => s'.chargeSectors (s.partOf mcx) (some mcx) pa 16 .write
    | .error _ => s

/-- Slots that a copy is filling. -/
def Bobbin.fillingOf (b : Bobbin) (cid : Nat) : Nat := (b.filler.filter fun p => p.2 == cid && b.tag p.1 == .filling).length

/-- The writes to remote pages that a copy leaves unanswered are its strand's from its end on (R55, R147, R150). -/
def State.leaveWrites (s : State) (cid : Nat) : State :=
  { s with reachReqs := s.reachReqs.map fun p => (p.1, p.2.map fun q => if q.cid = cid && q.kind = 2 then { q with cid := 0 } else q) }

/-- A copy that ends while it is suspended withdraws its merge (R366). -/
def State.withdrawCopy (s : State) (j : CopyJob) : State := match j.susp with
  | some (d, k) => s.withdraw d k
  | none => s

/-- Does the end of a copy go to its cluster's bank image: it is redirected there, or it names a barrier that the image holds (R344, R348)? A copy with a global
destination is not redirected, and what it names lies in the image all the same (DEDUCED, notes/assumptions/56.md). -/
def State.endsInImage (s : State) (j : CopyJob) : Bool := j.redirected || (!j.mill && j.bar.isSome && (s.imageCluster j.mcx j.cl).isSome)

/-- The end of a copy (R126, R132, R139): granules, slots and barrier in one step. A redirected copy appends its record instead (R344). -/
def State.endCopy (s : State) (j : CopyJob) (e : EndKind) : State :=
  let s := ((s.withdrawCopy j).leaveWrites j.id).setCopy j.id none
  let bobbin := dSpace j.dst == 2
  if s.endsInImage j then
    let k := (s.imageCluster j.mcx j.cl).getD {}
    let filling := match k.bobbin (dBase j.dst) with
      | some b => b.fillingOf j.id
      | none => 0
    let r : Redirect :=
      { grans := k.copyGrans j.id
        bobbin := if bobbin then some (dBase j.dst % 32, j.chunks - filling - j.base) else none
        err := e.isErr, abandon := e == .abandon
        ecause := match e with | .err c => c | _ => 0
        bar := j.bar, bytes := j.dstBytes }
    let undo (i : Image) : Image :=
      if bobbin && e != .done && i.mcx == j.mcx && i.cl == j.cl then { i with cluster := i.cluster.map fun c => c.unfillAll j.id } else i
    { s with images := s.images.map undo }.appendRedirect j.mcx j.cl r
  else
    s.updCluster j.cl fun c =>
      let c := c.releaseGrans (.copy j.id) e
      let c := if bobbin && e != .done then c.unfillAll j.id else c
      match j.bar, e with
      | some off, .done => c.barSub off j.dstBytes none
      | some off, .err k => c.barSub off j.dstBytes (some k)
      | _, _ => c

/-- A rollback discards a held copy (R230): its granules return as they were. -/
def State.unholdCopy (s : State) (j : CopyJob) : State :=
  ((s.withdrawCopy j).setCopy j.id none).updCluster j.cl fun c =>
    j.before.foldl (fun c p => c.setGran p.1 p.2) c

/-! ## Calls -/

/-- A call ends, stops or is dropped: its window flips (R242, R247). -/
def State.releaseCall (s : State) (cl : Nat) (id : Nat) (e : EndKind) : State :=
  s.updCluster cl fun c => c.releaseGrans (.call id) e

/-- Sticky bits posted by an engine reach STATUS, and stay through a rollback (R117). -/
def State.postSticky (s : State) (sid : Nat) (st : Sticky) : State :=
  s.updStrand sid fun t =>
    { t with core := { t.core with status := t.core.status ||| st }, ckpt := { t.ckpt with status := t.ckpt.status ||| st } }

/-- The queued calls of a strand that have not started are dropped, and its repeat sequence ends (R53). -/
def State.dropCalls (s : State) (sid : Nat) (e : EndKind) : State :=
  let g := gnumOf sid
  let gone := (s.spindle g).queue.filter fun c => c.sid == sid && !c.started
  let s := s.updSpindle g fun x =>
    { x with queue := x.queue.filter (fun c => !(c.sid == sid && !c.started)), rpts := mset none x.rpts (slotOf sid) none }
  gone.foldl (fun s c => s.releaseCall (g / 8) c.id e) s

/-! ## The kill of a strand (R52, R53) -/

/-- The key of a barrier in the list of those that one cancel has flipped. -/
def barKey (cl off : Nat) : Nat := cl * 2 ^ 23 + off

/-- Force the flip of a barrier unless this cancel has flipped it already (R53). -/
def State.forceFlip (s : State) (cl off : Nat) (seen : List Nat) : State × List Nat :=
  if seen.contains (barKey cl off) || !((s.cluster cl).mark off).armed then (s, seen)
  else (s.updCluster cl fun c => c.barAbandon off, barKey cl off :: seen)

/-- The copies of a killed strand are discarded (R53). -/
def State.killCopies (s : State) (sid : Nat) (seen : List Nat) : State × List Nat :=
  ((s.copyList).filter fun j => j.sid == sid).foldl (fun p j =>
    let s := p.1.endCopy j .abandon
    match j.bar with
    | some off => if p.1.endsInImage j then (s, p.2) else s.forceFlip j.cl off p.2
    | none => (s, p.2)) (s, seen)

/-- Bobbin slots that a killed strand was draining return to EMPTY (R53, R129). -/
def Cluster.undrain (c : Cluster) (sid : Nat) : Cluster :=
  { c with bobbins := c.bobbins.map fun p => (p.1, p.2.map fun b =>
      (b.owner.filterMap fun q => if q.2 = sid + 1 && b.tag q.1 == .draining then some q.1 else none).foldl
        (fun b i => { b.setTag i .empty with owner := mset 0 b.owner i 0 }) b) }

/-- The barriers of a cluster that a cancelled subtree armed and that have not flipped since (R53). -/
def State.killBarriers (s : State) (cl mcx : Nat) (g : Group) (c : Nat) (seen : List Nat) : State × List Nat :=
  ((s.cluster cl).marks.filterMap fun p => if p.2.armed then some (16 * p.1) else none).foldl (fun p off =>
    let k := p.1.cluster cl
    if !k.barFlipped off && g.inTree c (k.barScope off) && (k.bank (off / 2 ^ 18)).owner == .ctx mcx then
      p.1.forceFlip cl off p.2
    else p) (s, seen)

/-- The channel of a killed strand writes its frames and seals; one suspended on a fault writes no further frame (R279). -/
def Reel.kill (r : Reel) (c : ReelCfg) : Reel :=
  if r.susp.isSome then { r with shut := true, waiting := [], susp := none } else r.seal c

/-- Waits on fault entries and requests that a stopped strand withdraws (R366). -/
def State.withdrawWaits (s : State) (sid : Nat) : State :=
  (s.strand sid).waits.foldl (fun s w => match w with
    | .fault d k => s.withdraw d k
    | _ => s) s

/-- The present channel of a strand changes, and with it that of the rollback point. -/
def State.updReel (s : State) (sid : Nat) (f : Reel → Reel) : State :=
  s.updStrand sid fun t =>
    { t with core := { t.core with reel := f t.core.reel }, ckpt := { t.ckpt with reel := f t.ckpt.reel }, reelAt := t.reelAt.map f }

/-- A channel suspended on a fault entry withdraws from it, and makes its access again if it still acts (R366). -/
def State.withdrawReel (s : State) (sid : Nat) : State :=
  match (s.core sid).reel.susp with
  | some (d, k) => (s.withdraw d k).updReel sid fun r => { r with susp := none }
  | none => s

/-- Is a wait that of a REL whose write is still to be performed? -/
def Wait.isRel (w : Wait) : Bool := match w with
  | .rel .. => true
  | _ => false

/-- The strand as a kill leaves it: HALTED, with its channel sealed, and with what it waited for discarded; the write of a REL that has issued is still
performed (R52, R53). -/
def Strand.killedAs (t : Strand) (cfg : ReelCfg) : Strand :=
  let core := { t.core with
    loops := [], rets := [], shadows := [], reel := t.core.reel.kill cfg, flight := t.core.flight.filter (·.shadow.isNone) }
  { t with
    st := .halted, waits := t.waits.filter Wait.isRel, after := t.waits.any Wait.isRel, resp := [], firm := false, ckptDue := false, brk := none
    engTrap := none, skPend := [], skGo := []
    killed := true, nBund := 0, reelAt := none, undo := [], stores := [], heldCopies := [], frozen := false, core := core, ckpt := core }

/-- The remaining range of a killed task is discarded (R46). -/
def Group.dropRange (g : Group) (a sid : Nat) : Group :=
  match g.act a with
  | some x => g.setAct a (some { x with ranges := mset none x.ranges sid (some (0, 0)) })
  | none => g

/-- What the kill of a task does in its tile group (R32, R46, R54); a mill strand has none (R286). A strand that is READY counts in KILLED as a running one
does (DESIGN CHOICE, notes/assumptions/55.md). -/
def State.killMember (s : State) (sid : Nat) (t : Strand) : State :=
  if isMill sid then s
  else (s.skeinLeaveAll t.mcx sid).updGroup t.mcx fun g =>
    let g := g.dropRange t.act sid
    if t.killed then g else g.countUp t.scope fun x => { x with killed := x.killed + 1 }

/-- The kill of a strand at its kill point: its withheld stores have been committed or discarded before (R52, R53). -/
def State.killStrand (s : State) (sid : Nat) (seen : List Nat) : State × List Nat :=
  let g := gnumOf sid
  let t := s.strand sid
  if t.st = .free then (s, seen)
  else
    let s := s.withdrawWaits sid
    let s := match t.core.reel.susp with
      | some (d, k) => s.withdraw d k
      | none => s
    let cfg := s.reelCfg sid
    let s := s.updStrand sid fun t => t.killedAs cfg
    let s := s.updSpindle g fun x =>
      { x with running := if x.running = some (slotOf sid) then none else x.running
               queue := x.queue.map fun c => if c.sid = sid then { c with killed := true } else c }
    let r := (s.dropCalls sid .abandon).killCopies sid seen
    ((r.1.updCluster (clusterOf sid) fun c => c.undrain sid).killMember sid t, r.2)

end Sys2Proof.Machine
end

