-- ==== Sys2Proof/Machine/Flags.lean ====
section
/-! DEFINITION. Sticky bits and the registers that report machine state: STATUS (R82), CAUSE and EPC (R83, R84), LOOPSTATE and
BOOSTSTATE (R88), the event bits (R290), the results of shadow entries (R186, R188, R292), and the landing of results (R75, R194). -/

namespace Sys2Proof.Machine

open Sys2Proof

/-! ## Register files (R78): x0 reads zero, p0 reads all ones, and writes to them are discarded. -/

def Core.rx (c : Core) (r : Nat) : Word := if r = 0 then 0 else mget 0 c.x r
def Core.rp (c : Core) (r : Nat) : Pred := if r = 0 then BitVec.allOnes 128 else mget 0 c.p r
def Core.rv (c : Core) (r : Nat) : Vec := mget 0 c.v r

def Core.wx (c : Core) (r : Nat) (v : Word) : Core := if r = 0 then c else { c with x := mset 0 c.x r v }
def Core.wp (c : Core) (r : Nat) (v : Pred) : Core := if r = 0 then c else { c with p := mset 0 c.p r v }
def Core.wv (c : Core) (r : Nat) (v : Vec) : Core := { c with v := mset 0 c.v r v }

/-- A register of a file, as a number. -/
def Core.read (c : Core) (f : RFile) (r : Nat) : Nat :=
  match f with
  | .x => (c.rx r).toNat
  | .p => (c.rp r).toNat
  | .v => (c.rv r).toNat
  | .d => (mget 0 c.d r).toNat

/-- A register of a file given a value. -/
def Core.write (c : Core) (f : RFile) (r v : Nat) : Core :=
  match f with
  | .x => c.wx r (BitVec.ofNat 64 v)
  | .p => c.wp r (BitVec.ofNat 128 v)
  | .v => c.wv r (BitVec.ofNat 4096 v)
  | .d => { c with d := mset 0 c.d r (BitVec.ofNat 256 v) }

/-- Sticky bits reach STATUS (R82, R194). -/
def Core.stick (c : Core) (s : Sticky) : Core := { c with status := c.status ||| s }

/-! ## Shadow entries (R186, R292): vector 0 to 15, scalar 16 to 31, predicate 32 to 35. -/

def shadowRange (f : RFile) : List Nat :=
  match f with
  | .v => List.range 16
  | .x => (List.range 16).map (· + 16)
  | .p => [32, 33, 34, 35]
  | .d => []

/-- The file of a shadow entry. -/
def shadowFile (e : Nat) : RFile := if e < 16 then .v else if e < 32 then .x else .p

def Core.shadow (c : Core) (e : Nat) : Shadow := mget {} c.shadows e
def Core.setShadow (c : Core) (e : Nat) (x : Shadow) : Core := { c with shadows := mset {} c.shadows e x }

/-- The entry of a register at a level. -/
def Core.findShadow (c : Core) (f : RFile) (r lvl : Nat) : Option Nat :=
  (shadowRange f).find? fun e => (c.shadow e).live && (c.shadow e).reg == r && (c.shadow e).level == lvl

/-- A free entry of a file. -/
def Core.freeShadow (c : Core) (f : RFile) : Option Nat := (shadowRange f).find? fun e => !(c.shadow e).live

/-- The entry that an operation boosted at a level reads for a register (R187). -/
def Core.seeShadow (c : Core) (f : RFile) (r lvl : Nat) : Option Nat :=
  if lvl = 0 then none
  else if lvl = 1 then c.findShadow f r 1
  else (c.findShadow f r 2).orElse fun _ => c.findShadow f r 1

/-- An entry discarded: its result in flight lands nowhere (R188). -/
def Core.dropShadow (c : Core) (e : Nat) : Core :=
  { c.setShadow e {} with flight := c.flight.filter fun f => f.shadow != some e }

/-- An entry committed: its value to the register and its sticky bits to STATUS; a result in flight passes to the register (R188). -/
def Core.commitShadow (c : Core) (e : Nat) : Core :=
  let x := c.shadow e
  let c := if x.ready then (c.write (shadowFile e) x.reg x.val).stick x.sticky else c
  { c.setShadow e {} with flight := c.flight.map fun f => if f.shadow == some e then { f with shadow := none } else f }

/-- Every entry discarded (R188, R334). -/
def Core.dropShadows (c : Core) : Core := { c with shadows := [], flight := c.flight.filter fun f => f.shadow.isNone }

/-- The live entries of a level, in order of issue (R188). -/
def Core.levelEntries (c : Core) (lvl : Nat) : List Nat :=
  let l := c.shadows.filterMap fun p => if p.2.live && p.2.level == lvl then some (p.2.order, p.1) else none
  (l.insertionSort fun a b => a.1 ≤ b.1).map fun p => p.2

/-! ## Landing (R75) -/

/-- A result lands in its register, or in its shadow entry (R75, R186, R194). -/
def Core.land (c : Core) (f : Flight) : Core :=
  match f.shadow with
  | none => (c.write f.file f.reg f.val).stick f.sticky
  | some e => let x := c.shadow e
    c.setShadow e { x with val := f.val, ready := true, sticky := x.sticky ||| f.sticky }

/-- The end of a cycle: every delay counts down, and what is due lands, the earlier bundle's result first (R73, R75). -/
def Core.tick (c : Core) : Core :=
  let due := c.flight.filter fun f => f.d ≤ 1
  let rest := (c.flight.filter fun f => !(f.d ≤ 1)).map fun f => { f with d := f.d - 1 }
  due.foldl Core.land { c with flight := rest }

/-- May results of a spindle land: its gate is open, or a debug step has opened it for a slot, or waits for what it launched (R342, R350, R355)? -/
def State.landing (s : State) (g : Nat) : Bool :=
  let x := s.spindle g
  !x.gate || x.stepSlot.isSome || (match x.mcx.bind s.stop with
    | some y => y.stepOver
    | none => false)

/-- The end of a cycle of a spindle's island clock (R75): the results of every slot count, whichever slot runs. -/
def State.endCycle (s : State) (g : Nat) : State :=
  if !s.landing g then s
  else (strandsOf g).foldl (fun s sid =>
    if (s.strand sid).frozen || (s.strand sid).core.flight.isEmpty then s else s.updCore sid Core.tick) s

/-! ## Reporting registers -/

/-- CAUSE (R83). -/
def causeWord (code slot : Nat) (boost : Bool) (info : Nat) : Word :=
  BitVec.ofNat 64 (code + slot * 2 ^ 8 + boost.toNat * 2 ^ 12 + info % 2 ^ 16 * 2 ^ 16)

/-- EPC (R84). -/
def epcWord (pc mpc : BitVec 32) : Word := BitVec.ofNat 64 (pc.toNat + mpc.toNat * 2 ^ 32)

/-- LOOPSTATE (R88). -/
def Core.loopState (c : Core) : Nat :=
  c.loops.length + (match c.loops with | e :: _ => e.count * 2 ^ 32 | [] => 0)

/-- BOOSTSTATE (R88). -/
def Core.boostState (c : Core) : Nat :=
  let any := fun l => (c.shadows.any fun p => p.2.live && p.2.level == l).toNat
  any 1 + any 2 * 2 + (c.shadows.map fun p => if p.2.live && p.2.poison.isSome then 2 ^ (2 + p.1) else 0).sum

/-- BSHTAG of an entry (R292). -/
def Core.bshTag (c : Core) (e : Nat) : Nat :=
  let x := c.shadow e
  if !x.live then 0
  else x.reg + 2 ^ 9 + x.level * 2 ^ 10 + (match x.poison with | some (k, _) => 2 ^ 12 + k * 2 ^ 13 | none => 0)

/-- EVPEND of a die: FQNE is a level (R290). -/
def State.evPend (s : State) (d : Nat) : BitVec 13 :=
  let x := s.die d
  let fq : BitVec 13 := if x.faults.any fun e => e.posted.isSome && !e.popped then 0x100 else 0
  (x.evpend &&& 0x1EFF) ||| fq

end Sys2Proof.Machine
end

