-- ==== Sys2Proof/Machine/Ops.lean ====
section
/-! DEFINITION. The operations on a strand as a whole: the commit of a region and the rollback (R337 to R339), taking an exception in
all its kinds and deliveries (R293, R332 to R336), the return from one (R294), the kill at a kill point (R52), and the stop of a
group for pre-emption or debug (R341, R342, R353). -/

namespace Sys2Proof.Machine

open Sys2Proof

/-! ## Control-space writes -/

/-- The row that a write of a control-space register runs (R4, R286): the register's own row, or REGISTER_WRITE. -/
def ctrlRow (a v : Nat) : Instr :=
  let o := a % 2 ^ 40
  let d := a / 2 ^ 40 % 4
  match a / 2 ^ 42 with
  | 0x10 => if o = 0x18 then .dqack else if o = 0x28 && d = 0 then .hqdone else .registerWrite
  | 0x11 => if o = 0 then .dbgctl else .registerWrite
  | 0x13 =>
    if d ≠ 0 then .registerWrite
    else if o < 0x2000 then
      (match o % 0x100 with
        | 0x00 => .pctl | 0x08 => .pcap | 0x40 => .scmask | 0x48 => .scmask | 0x50 => .scmask | _ => .registerWrite)
    else if 0x10000 ≤ o && o < 0x28000 then .partitionFloor
    else .registerWrite
  | 0x14 =>
    if d ≠ 0 then .registerWrite
    else if o = 0 then
      (match v % 16 with
        | 1 => .load | 2 => .clear | 3 => .report | 4 => .extend | 5 => .setdbg | 6 => .lcreq | _ => .registerWrite)
    else if o = 0x20 then .dbgten
    else .registerWrite
  | 0x16 => if o = 0x10 then .rvtail else .registerWrite
  | 0x17 => if o = 0 && d = 0 then .leaReport else .registerWrite
  | _ => .registerWrite

/-- A register write: its row runs next, with the address, the value and the writer beside it (notes/assumptions/1.md). -/
def ctrlAct (a v sid : Nat) : Act := { who := sid, ev := { n := a, m := sid, v := BitVec.ofNat 64 v }, i := ctrlRow a v }

/-! ## The region (R337 to R339) -/

/-- The check of R383 when a store reaches memory: its page is private (R360). -/
def State.storeKey (s : State) (mcx key : Nat) : Option Nat := s.keyCheck mcx (key * 2 ^ 8)

/-- Does a store write the whole sector at a place? -/
def PStore.covers (p : PStore) (l : Loc) : Bool :=
  match p.pend, p.loc, l with
  | none, .spad c a, .spad c' b => c == c' && decide (a ≤ b) && decide (b + 128 ≤ a + p.bytes.length)
  | none, .hbm a _, .hbm b _ => decide (a ≤ b) && decide (b + 128 ≤ a + p.bytes.length)
  | _, _, _ => false

/-- The fault of a store as it reaches memory after the stores `done` of its region: of its key (R383, R387), of a poisoned sector that it writes in part
(R440), or of a unit that is being refetched (R368). -/
def State.storeFault (s : State) (mcx : Nat) (done : List PStore) (p : PStore) (l : Loc) : Option MemFault :=
  match l with
  | .spad cl off =>
    if (cutAt off p.bytes).any fun q => q.2.length != 128 && mget false (s.cluster cl).poison (q.1 / 128)
      && !done.any fun d => d.covers (.spad cl (q.1 / 128 * 128))
    then some { cause := cPoison, addr := off, ue := some (.spoison, l) } else none
  | .hbm pa key =>
    if let some c := s.storeKey mcx key then some { cause := c, addr := p.ea }
    else if s.refetching l then some { cause := cMemUe, addr := p.ea, refetch := some (pa / 512) }
    else if (cutAt pa p.bytes).any fun q => q.2.length != 128 && (s.sect (q.1 / 128)).poison
      && !done.any fun d => d.covers (.hbm (q.1 / 128 * 128) key)
    then some { cause := cPoison, addr := p.ea } else none
  | _ => none

/-- The place of a withheld store, with the translation completed (R337 step 1). What the store meets as it reaches memory after the stores `done` faults as
well. -/
def State.resolveStore (s : State) (sid : Nat) (done : List PStore) (p : PStore) : Except MemFault (PStore × State) :=
  match p.pend with
  | none => match s.storeFault (s.mcxOf sid) done p p.loc with
    | some f => .error f
    | none => .ok (p, s)
  | some ea => match s.place sid ea .write with
    | .error f => .error f
    | .ok (pl, s') => match pl.loc with
      | .remote home _ _ => if s.reachable home then .ok ({ p with loc := pl.loc, pend := none, cache := pl.cache }, s')
        else .error { cause := cProt, addr := ea, remote := true }
      | l => match s.storeFault (s.mcxOf sid) done p l with
        | some f => .error f
        | none => .ok ({ p with loc := l, pend := none, cache := pl.cache }, s')

/-- The places of withheld stores, in program order after the stores `done`. -/
def State.resolveFrom (s : State) (sid : Nat) (done : List PStore) : List PStore → Except MemFault (List PStore × State)
  | [] => .ok ([], s)
  | p :: r => match s.resolveStore sid done p with
    | .error f => .error { f with slot := p.slot }
    | .ok (p', s') => match State.resolveFrom s' sid (done ++ [p']) r with
      | .error f => .error f
      | .ok (r', s'') => .ok (p' :: r', s'')

/-- The places of the withheld stores of a region. -/
def State.resolveStores (s : State) (sid : Nat) (ps : List PStore) : Except MemFault (List PStore × State) := s.resolveFrom sid [] ps

/-- An error of a write that a strand made before: it is delivered at the next bundle that the strand presents, or ends the request when the strand is HALTED
(R369, R439). -/
def State.lateFault (s : State) (sid cause : Nat) : State :=
  let t := s.strand sid
  if t.st = .free then s
  else if t.st = .halted then (if isMill sid then s else (s.endRequest t.mcx cause).whorl t.mcx)
  else s.updStrand sid fun t => { t with engTrap := some (t.engTrap.getD cause) }

/-- The context of a strand as an error names it; a mill strand has none. -/
def State.ctxOf (s : State) (sid : Nat) : Option Nat := if isMill sid then none else some (s.mcxOf sid)

/-- The part of a store in one sector, performed: with an error of the sector, no byte of it is written (R439). -/
def State.performPart (s : State) (sid : Nat) (p : PStore) (l : Loc) (bs : List Byte) : State :=
  match s.writeLoc l bs with
  | .ok s' => s'.charge sid { loc := l, ea := p.ea, cache := p.cache } bs.length .write
  | .error e => (s.uncorrectable (dieOf sid) (s.ctxOf sid) (whoOf sid) cMemUe e l 0).lateFault sid cMemUe

/-- The places of bytes cut at sector boundaries. -/
def Loc.parts (l : Loc) (bs : List Byte) : List (Loc × List Byte) :=
  let at_ := match l with | .spad _ off => off | .hbm pa _ => pa | .phys pa => pa | .remote _ pa _ => pa | .ctrl a => a
  (cutAt at_ bs).map fun q => (l.plus (q.1 - at_), q.2)

/-- A withheld store is performed (R337 step 2). An error of a sector is delivered at the next bundle presented (R439). -/
def State.performStore (s : State) (sid : Nat) (p : PStore) : State :=
  match p.loc with
  | .ctrl a => s.push (ctrlAct a (leNat p.bytes) sid)
  | .remote home pa key => s.remoteStore sid home pa key p.ea p.bytes
  | l => (l.parts p.bytes).foldl (fun s q => s.performPart sid p q.1 q.2) s

/-- Does a store write a register (R286)? -/
def PStore.isCtrl (p : PStore) : Bool :=
  match p.loc with
  | .ctrl _ => true
  | _ => false

/-- What is left of a region from its first register write on: each store is a row of its own, in program order (R286, R337). -/
def PStore.act (sid : Nat) (p : PStore) : Act :=
  match p.loc with
  | .ctrl a => ctrlAct a (leNat p.bytes) sid
  | .phys pa => { who := sid, ev := { n := pa, m := sid, bytes := p.bytes }, i := .registerWrite }
  | _ => { who := sid, i := .registerWrite }

/-- The region commits: withheld stores in program order, then held copies may start, and the rollback point moves to the present state
(R337 step 2). A register write is a row of its own, which runs next; the memory stores of its region that follow it run after it. -/
def State.commitStores (s : State) (sid : Nat) (ps : List PStore) : State :=
  let later := ps.dropWhile fun p => !p.isCtrl
  let now := (ps.takeWhile fun p => !p.isCtrl) ++ later.filter fun p => match p.loc with | .spad _ _ => true | _ => false
  let rows := (later.filter fun p => match p.loc with | .spad _ _ => false | _ => true).map (PStore.act sid)
  let s := now.foldl (fun s p => s.performStore sid p) s
  let s : State := { s with agenda := rows ++ s.agenda }
  let s := (s.strand sid).heldCopies.foldl (fun s c => s.updCopy c fun j => { j with phase := .waiting }) s
  s.updStrand sid fun t => { t with nBund := 0, reelAt := none, undo := [], stores := [], heldCopies := [] }

/-- Steps 1 and 2 of R337. -/
def State.commitRegion (s : State) (sid : Nat) : Except MemFault State :=
  match s.resolveStores sid (s.strand sid).stores with
  | .error f => .error f
  | .ok (ps, s') => .ok (s'.commitStores sid ps)

/-- The state of a strand at its rollback point P (R337). -/
def Strand.back (t : Strand) : Core := if t.nBund = 0 then { t.core with reel := t.reelAt.getD t.core.reel } else t.ckpt

/-- The rollback to P (R338): strand state as it stood there; withheld stores and held copies are discarded; the delays of results in
flight at P count again from the first replayed issue. -/
def State.rollback (s : State) (sid : Nat) : State :=
  let t := s.strand sid
  let s := t.heldCopies.foldl (fun s c => match s.copyJob c with
    | some j => s.unholdCopy j
    | none => s) s
  s.updStrand sid fun t =>
    { t with core := t.back, frozen := t.frozen || t.nBund != 0, nBund := 0, reelAt := none, undo := [], stores := []
             heldCopies := [], waits := [], resp := [], after := false, firm := false, ckptDue := false, brk := none }

/-! ## Errors that come with a row (R439) -/

/-- Where a row's input says that an uncorrectable error has been found: 2 in the HBM sector at an address, 3 in the scratchpad sector there (R439;
notes/assumptions/26.md). -/
def foundLoc (kind at_ cl : Nat) : Option Loc :=
  match kind with
  | 2 => some (.hbm at_ 0)
  | 3 => some (.spad cl at_)
  | _ => none

/-- An error in a dirty line of the stacked cache: it is written back with its sector poisoned, and the strand that met it presents its bundle again
(R439, R440). -/
def State.dirtyLineError (s : State) (sid pa : Nat) : State :=
  let s := if (s.sect (pa / 128)).poison then s
    else (s.poisonSect (pa / 128)).logError (dieOf sid) 0x04 1 (if isMill sid then none else some (s.mcxOf sid)) 0 (pa / 128 * 128) (whoOf sid) cPoison
  (s.rollback sid).updStrand sid fun t => { t with st := .ready }

/-- A line as it is read again from HBM for one of its sectors. -/
def ScLine.reread (x : ScLine) (k : Nat) : ScLine := { x with held := 2 ^ k, dirty := 0 }

/-- An error in a clean line of the stacked cache or of the ways of a strand's cluster: the line is invalidated and read again from HBM (R439). -/
def State.cleanLineError (s : State) (sid pa : Nat) : State :=
  let l := pa / 512
  let w := 2 ^ 40 * clusterOf sid + l
  let again (s : State) (unit : Nat) : State :=
    (s.hbmSector (s.partyOf sid) (s.ctxOf sid) (pa / 128) .read).madeGood (dieOf sid) unit (s.ctxOf sid) (whoOf sid) (pa / 128 * 128)
  match (mget none s.ways w).filter fun x => x.dirty == 0, (mget none s.sclines l).filter fun x => x.dirty == 0 with
  | some x, _ => again { s with ways := mset none s.ways w (some (x.reread (pa / 128 % 4))) } 2
  | none, some x => again { s with sclines := mset none s.sclines l (some (x.reread (pa / 128 % 4))) } 1
  | none, none => s

/-! ## Strand states -/

/-- The running slot of a spindle stops running (R25). -/
def State.stopRunning (s : State) (sid : Nat) : State :=
  s.updSpindle (gnumOf sid) fun x => { x with running := if x.running = some (slotOf sid) then none else x.running }

/-- A strand becomes BLOCKED on conditions (R25). -/
def State.blockOn (s : State) (sid : Nat) (ws : List Wait) (after firm : Bool) : State :=
  (s.updStrand sid fun t => { t with st := .blocked, waits := ws, after := after, firm := firm }).stopRunning sid

/-- A strand is made HALTED (R28, R293). -/
def State.haltStrand (s : State) (sid : Nat) : State :=
  (s.updStrand sid fun t => { t with st := .halted, waits := [], after := false, resp := [] }).stopRunning sid

/-! ## Kills -/

/-- Is a strand waiting for fault service (R336, R368)? -/
def Strand.inFaultWait (t : Strand) : Bool :=
  t.waits.any fun w => match w with
    | .fault _ _ => true
    | .refetch _ => true
    | _ => false

/-- Stop a strand at its kill point (R52): bundles issued before take full effect, and a strand in a fault wait, or one whose withheld
stores fault, is killed in its rolled-back state. `seen` lists the barriers that this cancel has flipped. -/
def State.killAt (s : State) (sid : Nat) (seen : List Nat) : State × List Nat :=
  let t := s.strand sid
  if t.st = .free || t.st = .saved || t.inFaultWait then s.killStrand sid seen
  else match s.commitRegion sid with
    | .ok s' => s'.killStrand sid seen
    | .error _ => (s.rollback sid).killStrand sid seen

/-! ## A trap before its delivery -/

/-- A trap before its delivery: its cause, CAUSE.SLOT, CAUSE.INFO, CAUSE.BOOST and the address that MTVAL receives. -/
structure Trap where
  cause : Nat
  slot : Nat
  info : Nat := 0
  boost : Bool := false
  addr : Nat := 0
  deriving DecidableEq, Repr

/-- CAUSE and EPC at trap entry (R333): EPC holds the state's own PC and MPC. -/
def Core.saveTrap (c : Core) (t : Trap) : Core :=
  { c with cause := causeWord t.cause t.slot t.boost t.info, epc := epcWord c.pc c.mpc }

/-- Delivery "End" (R335): the strand is killed at the trapping bundle and the request ends with the cause. -/
def State.deliverEnd (s : State) (sid cause : Nat) : State :=
  let mcx := s.mcxOf sid
  (((s.killAt sid []).1).endRequest mcx cause).whorl mcx

/-! ## Pre-emption and debug stops -/

/-- A slot in a save state (R341, R347): 1 READY, 2 before-issue block, 3 HALTED, 4 fault wait. A channel that is suspended withdraws from its entry
(R366). -/
def State.saveAs (s : State) (sid k : Nat) : State :=
  ((s.withdrawReel sid).updStrand sid fun t => { t with st := .saved, sstate := k }).stopRunning sid

/-- A fault that the stop checkpoint finds (R333, R341): the strand is rolled back, CAUSE and EPC are written there, the fault is posted without a
waiter, and the strand is saved as in fault wait. MEMUE ends the request, as at any other time (R336). -/
def State.stopFault (s : State) (sid : Nat) (f : MemFault) : State :=
  let s := (s.rollback sid).updCore sid fun c => c.saveTrap { cause := f.cause, slot := f.slot, addr := f.addr }
  let s := match f.ue with
    | some (e, l) => s.uncorrectable (dieOf sid) (some (s.mcxOf sid)) (whoOf sid) cMemUe e l f.addr
    | none => s
  match f.refetch with
  | some fr => s.refetchFrame (dieOf sid) fr |>.saveAs sid 4
  | none =>
    if !f.served then (s.deliverEnd sid f.cause).saveAs sid 3
    else
      let r := s.addFault (dieOf sid) (s.mcxOf sid) f 1 (whoOf sid) false
      (r.1.withdraw (dieOf sid) r.2).saveAs sid 4

/-- The save state that a slot is brought to (R341). A slot whose END bundle still waits is saved when that wait has ended; with a before-issue block, what its
channel has queued since is committed (R279). -/
def State.saveSlot (s : State) (sid : Nat) : State :=
  let t := s.strand sid
  let save := fun (s : State) (k : Nat) => s.saveAs sid k
  match t.st with
  | .free => save s 0
  | .saved => s
  | .halted => if t.waits.isEmpty then save s 3 else s
  | .ready | .running => match s.commitRegion sid with
    | .ok s' => save s' 1
    | .error f => s.stopFault sid f
  | .blocked =>
    if t.inFaultWait then save ((s.withdrawWaits sid).updStrand sid fun t => { t with waits := [] }) 4
    else if t.after then (if t.firm then s else save (s.rollback sid) 1)
    else save (s.updStrand sid fun t => { t with reelAt := none }) 2

/-- The stop of a group (R341, R353): every spindle issues no further bundle and every slot is brought to a save state, save a slot whose
after-issue block must end first. -/
def State.stopGroup (s : State) (mcx : Nat) (st : Stop) : State :=
  match s.group mcx with
  | none => s
  | some g =>
    let n := s.hw mcx 3 / 2 ^ 8 % 4
    let s := s.setStop mcx (some st)
    let s := g.spindles.foldl (fun s sp => s.updSpindle sp fun x => { x with gate := true, asleep := true }) s
    (g.sids.filter fun sid => slotOf sid ≤ n).foldl State.saveSlot s

/-- Does the debug level permit debug of a context (R392, R393)? -/
def State.debugPermits (s : State) (mcx : Nat) : Bool :=
  let prot := bitOf (s.hw mcx 2) 48
  match s.keng.dbg.toNat with
  | 1 => !prot && s.tenant mcx == some s.keng.dbgten.toNat
  | 2 => !prot
  | _ => false

/-! ## Taking an exception (R332 to R336, R293) -/

/-- The handler that an image names with .trapentry (R334). -/
def State.handlerOf (s : State) (mcx : Nat) : Option (BitVec 32) := Config.trapEntry (s.hw mcx 2 / 2 ^ 16 % 2 ^ 16)

/-- HandlerEntry (R334), once CAUSE and EPC are written. -/
def Core.enterHandler (c : Core) (label : BitVec 32) : Core :=
  { c.dropShadows with rets := { addr := c.epc.toNat % 2 ^ 32, depth := c.loops.length } :: c.rets, pc := label }

/-- MillTrapEntry (R293), once CAUSE and EPC are written. -/
def State.millEntry (s : State) (sid : Nat) (t : Trap) : State :=
  let c := s.core sid
  if c.intrap then
    let s := (match s.commitRegion sid with | .ok s' => s' | .error _ => s.rollback sid)
    ((s.killStrand sid []).1).logError (dieOf sid) 0x05 6 none 0 0 (dieOf sid + slotOf sid * 4) t.cause
  else
    s.updCore sid fun c =>
      { c.dropShadows with
        intrap := true
        mldepth := c.loops.length
        mrdepth := c.rets.length
        mtval := BitVec.ofNat 48 t.addr
        pc := c.mtvec }

/-- The causes whose delivery is "Handler" (R332). -/
def isHandlerCause (c : Nat) : Bool := c == cNonUniform || c == cReelFull || c == cDiverge || c == cRecompute

/-- TAKING AN EXCEPTION of kind P, E or A (R332, R333): CAUSE and EPC are written, and the trap goes to the mill handler, to the image's
handler, to a debug stop, or ends the request. -/
def State.takeTrap (s : State) (sid : Nat) (t : Trap) : State :=
  let s := s.updCore sid fun c => c.saveTrap t
  if isMill sid then s.millEntry sid t
  else
    let mcx := s.mcxOf sid
    if isHandlerCause t.cause then
      match s.handlerOf mcx with
      | some l => if (s.core sid).rets.length = 16 then s.deliverEnd sid t.cause else s.updCore sid fun c => c.enterHandler l
      | none => s.deliverEnd sid t.cause
    else if t.cause = cBreak && (s.die (dieOf sid)).dbgBrk && (s.die (dieOf sid)).dbgMcx.toNat = mcx && s.debugPermits mcx then
      s.stopGroup mcx { debug := some (cBreak, false) }
    else s.deliverEnd sid t.cause

/-- TAKING A FAULT, kind F (R333, R336, R338): the strand is rolled back, CAUSE and EPC are written there, and it waits for service; a
mill strand enters its handler; MEMUE ends the request. `access` is the code of R364. -/
def State.takeFault (s : State) (sid : Nat) (f : MemFault) (access : Nat) (slot : Nat) (boost : Bool) : State :=
  let t : Trap := { cause := f.cause, slot := slot, boost := boost, addr := f.addr }
  let s := (s.rollback sid).updCore sid fun c => c.saveTrap t
  let s := match f.ue with
    | some (e, l) => s.uncorrectable (dieOf sid) (if isMill sid then none else some (s.mcxOf sid)) (whoOf sid) cMemUe e l f.addr
    | none => s
  if isMill sid then s.millEntry sid t
  else match f.refetch with
    | some line => (s.refetchFrame (dieOf sid) line).blockOn sid [.refetch (line / 128)] false false
    | none =>
      if !f.served then s.deliverEnd sid f.cause
      else
        let r := s.addFault (dieOf sid) (s.mcxOf sid) f access (whoOf sid) false
        r.1.blockOn sid [.fault (dieOf sid) r.2] false false

/-- The kind F trap of a poisoned boosted entry (R189): its address is translated again, and the strand replays at once if that succeeds; a fault of that walk is
posted. CAUSE holds the recorded cause. -/
def State.takeBoostFault (s : State) (sid cause addr slot : Nat) : State :=
  let s := s.rollback sid
  match s.place sid addr .read with
  | .ok _ => s.updCore sid fun c => c.saveTrap { cause := cause, slot := slot, boost := true, addr := addr }
  | .error f => (s.takeFault sid { f with addr := addr } 0 slot true).updCore sid fun c => { c with cause := causeWord cause slot true 0 }

/-- RETURN FROM AN EXCEPTION: the effect of ERET (R294) when neither of its traps is raised. -/
def Core.eret (c : Core) : Core :=
  { c with
    loops := c.loops.drop (c.loops.length - c.mldepth)
    rets := c.rets.drop (c.rets.length - c.mrdepth)
    intrap := false
    pc := BitVec.ofNat 32 c.epc.toNat
    mpc := BitVec.ofNat 32 (c.epc.toNat / 2 ^ 32) }

end Sys2Proof.Machine
end

