-- ==== Sys2Proof/Machine/Operands.lean ====
section
/-! DEFINITION. The operand forms of slot operations: register reads with and without boost (R73, R187), the broadcast port (R72),
immediates, guards (R213), effective addresses (R212), and the register and share bounds of R79; and what an operation presents to the
issue of its bundle: a trap, a fault, a block, or its effect (R25, R332). -/

namespace Sys2Proof.Machine

open Sys2Proof

/-! ## Header and broadcast port (R63, R72) -/

def hdrEnd (h : BitVec 16) : Bool := h.getLsbD 15
def hdrCkpt (h : BitVec 16) : Bool := h.getLsbD 14
def hdrMrpt (h : BitVec 16) : Bool := h.getLsbD 5
/-- The boost level (R63). -/
def hdrBl (h : BitVec 16) : Nat := bitsOf h.toNat 4 3

def bpMode (b : BitVec 16) : Nat := bitsOf b.toNat 15 14
def bpSrc (b : BitVec 16) : Nat := bitsOf b.toNat 13 8
def bpLf (b : BitVec 16) : Nat := bitsOf b.toNat 7 6
/-- The 10-bit immediate of MODE 2, sign-extended (R72). -/
def bpImm (b : BitVec 16) : Int := sext 10 (bitsOf b.toNat 13 4)

/-- The fields of the port that must be zero (R72). -/
def bpFieldsOk (b : BitVec 16) : Bool :=
  match bpMode b with
  | 0 => b.toNat % 2 ^ 14 == 0
  | 1 => bpLf b != 3 && b.toNat % 2 ^ 6 == 0
  | 2 => b.toNat % 2 ^ 4 == 0
  | _ => bitsOf b.toNat 13 12 == 0 && b.toNat % 2 ^ 8 == 0

/-- The kind of lane that a V operand has (R72, R191). -/
inductive LaneCls where
  | flt | sint | uint | bits
  deriving DecidableEq, Repr

/-- May the port supply a lane of a kind and width (R72)? -/
def bpLaneOk (b : BitVec 16) (cls : LaneCls) (w : Nat) : Bool :=
  match bpMode b with
  | 0 => false
  | 1 => (match bpLf b with | 0 => true | 1 => cls == .flt | _ => cls == .sint || cls == .uint)
  | 2 => true
  | _ => w == 32 && cls != .flt

/-- May the port supply an operand that the entry reads as bits: an index, an amount, a parameter word or a scale (R193)? -/
def bpBitsOk (b : BitVec 16) : Bool :=
  match bpMode b with
  | 0 => false
  | 1 => bpLf b == 0
  | _ => true

/-- May the port supply an L or M operand (R72)? -/
def bpWordOk (b : BitVec 16) : Bool :=
  match bpMode b with
  | 0 => false
  | 1 => bpLf b == 0
  | _ => true

/-! ## Environments -/

/-- Where an operation is executed: the state before its bundle, which it reads (R73), and `now`, the state as the operations before it in
its bundle leave it, which a request that changes a unit acts on; the core whose registers it reads, the strand, the header and the port, its
slot as CAUSE.SLOT numbers it, and the length of its bundle in code words. -/
structure Env where
  s : State
  now : State := s
  /-- An operation before it in the bundle waits for the channel of the strand (R275). -/
  held : Bool := false
  c : Core
  sid : Nat
  hdr : BitVec 16
  bp : BitVec 16
  slot : Nat
  len : Nat

def Env.lvl (e : Env) : Nat := hdrBl e.hdr
def Env.t (e : Env) : Strand := e.s.strand e.sid
def Env.mcx (e : Env) : Nat := e.t.mcx
def Env.cl (e : Env) : Nat := clusterOf e.sid
def Env.mill (e : Env) : Bool := isMill e.sid
def Env.pc (e : Env) : Nat := e.c.pc.toNat
/-- The bundle that follows in the code stream (R59, R175). -/
def Env.fall (e : Env) : Nat := (e.pc + e.len) % 2 ^ 32

/-- A register as the operation reads it: a shadow entry it sees, or the register (R187). -/
def Env.rd (e : Env) (f : RFile) (r : Nat) : Nat :=
  match e.c.seeShadow f r e.lvl with
  | some k => (e.c.shadow k).val
  | none => e.c.read f r

def Env.rx (e : Env) (r : Nat) : Nat := e.rd .x r
def Env.rp (e : Env) (r : Nat) : Nat := e.rd .p r
def Env.rv (e : Env) (r : Nat) : Nat := e.rd .v r

/-- The 64-bit value of the port for an L or M operand (R72). -/
def Env.bpWord (e : Env) : Nat :=
  match bpMode e.bp with
  | 1 => e.rx (bpSrc e.bp)
  | 2 => toBits 64 (bpImm e.bp)
  | 3 => (mget 0 e.c.tshape (bpSrc e.bp % 16)).toNat
  | _ => 0

/-- FLOAT of R72: the FP32 value of a register converted into a lane format, without sticky bits. -/
def bpFloat (f : FFmt) (bits : Nat) : Nat :=
  match decodeF fp32 bits with
  | .nan => f.nanEnc
  | .inf n => f.infEnc + f.signBit n
  | .fin n a d => (roundF f .rne .sat n a d).1

/-- The lane value of the port (R72). -/
def Env.bpLane (e : Env) (cls : LaneCls) (f : FFmt) (w : Nat) : Nat :=
  match bpMode e.bp with
  | 1 =>
    let x := e.rx (bpSrc e.bp)
    (match bpLf e.bp with
      | 1 => bpFloat f x
      | 2 =>
        let lo : Int := if cls = .sint then -(2 ^ (w - 1) : Int) else 0
        let hi : Int := if cls = .sint then 2 ^ (w - 1) - 1 else 2 ^ w - 1
        toBits w (clampInt (sext 64 x) lo hi)
      | _ => x % 2 ^ w)
  | 2 =>
    if cls = .flt then (roundF f .rne .ieee (bpImm e.bp < 0) (bpImm e.bp).natAbs 1).1
    else toBits w (bpImm e.bp)
  | 3 => (mget 0 e.c.tshape (bpSrc e.bp % 16)).toNat % 2 ^ w
  | _ => 0

/-! ## What an operation presents -/

/-- What a B-slot operation does to the bundle that follows (R175): the next PC unless it falls through, whether it ended in a taken transfer, what it does
to the core, and the code of a BRK. -/
structure BRes where
  next : Option Nat := none
  taken : Bool := false
  core : Core → Core := id
  brk : Option Nat := none

/-- The effect of an operation: results, stores it withholds, what it does at once to the units it asks (`early`, on which the
requests after it in its bundle act), what it does at the end of issue, and its waits. -/
structure Fx where
  writes : List RW := []
  stores : List PStore := []
  early : State → State := id
  core : Core → Core := id
  post : State → State := id
  waits : List Wait := []
  resp : List RW := []
  /-- The after-issue block must end before a stop (R341). -/
  firm : Bool := false
  b : Option BRes := none
  /-- How far an M slot moves MPC (R77, R244). -/
  mpc : Nat := 0

/-- What one operation of a bundle presents when the bundle is checked (R25, R214, R332). -/
inductive Verdict where
  /-- It takes effect. -/
  | ok (fx : Fx)
  /-- It traps, kind P. -/
  | trap (t : Trap)
  /-- It faults, kind F: the fault and its access code (R364). -/
  | fault (f : MemFault) (access : Nat)
  /-- It commits a poisoned boosted entry of a kind F cause (R189): the cause and the recorded address. -/
  | boosted (cause addr : Nat)
  /-- It blocks before issue; what the block leaves beside. -/
  | block (ws : List Wait) (act : State → State)

/-- A trap of this operation. -/
def Env.trap (e : Env) (cause : Nat) (info addr : Nat := 0) : Verdict :=
  .trap { cause := cause, slot := e.slot, info := info, addr := addr }

def Env.fault (e : Env) (f : MemFault) (access : Nat) : Verdict := .fault { f with slot := e.slot } access

/-- No effect. -/
def nothing : Verdict := .ok {}

/-- A result of a latency. -/
def wr (f : RFile) (r v lat : Nat) (st : Sticky := 0) : RW := { file := f, reg := r, val := v, lat := lat, sticky := st }

def okW (ws : List RW) : Verdict := .ok { writes := ws }

/-- An operation whose effect includes an act on the state. -/
def Verdict.also (v : Verdict) (act : State → State) : Verdict :=
  match v with
  | .ok fx => .ok { fx with early := fun s => act (fx.early s) }
  | v => v

/-- The first v register named at or beyond the bank (R79). -/
def Env.vBound (e : Env) (rs : List Nat) (k : Verdict) : Verdict :=
  match rs.find? fun r => e.t.bank ≤ r with
  | some r => e.trap cRegBank r
  | none => k

/-- A tile outside the share (R79, R87). -/
def Env.tileBound (e : Env) (n : Nat) (k : Verdict) : Verdict :=
  if e.t.ntile ≤ n then e.trap cRegBank n else k

/-- The port's tile, when MODE 3 supplies an operand (R72). -/
def Env.bpBound (e : Env) (k : Verdict) : Verdict :=
  if bpMode e.bp = 3 then e.tileBound (bpSrc e.bp % 16) k else k

/-! ## L-slot operands (R212, R213) -/

/-- The effective address (R212). -/
def Env.ea (e : Env) (f : LF) : Nat := toBits 64 ((e.rx f.xbase.toNat : Int) + sext 16 f.off.toNat)

/-- Bit j of the guard. -/
def Env.guardBit (e : Env) (g : BitVec 4) (j : Nat) : Bool := bitOf (e.rp g.toNat) j

/-- An operation governed by bit 0 of its guard (R213). -/
def Env.guarded (e : Env) (f : LF) (k : Verdict) : Verdict := if e.guardBit f.g 0 then k else nothing

/-- The scalar data operand of a store or atomic: x[REG], or bp (R212). The port's tile is checked. -/
def Env.withData (e : Env) (f : LF) (k : Nat → Verdict) : Verdict :=
  if f.bpd then e.bpBound (k e.bpWord) else k (e.rx f.reg.toNat)

/-- Sign extension of an n-byte value to 64 bits. -/
def signExt64 (n x : Nat) : Nat := toBits 64 (sext (8 * n) x)

/-! ## Registers that an operation reads and writes (R64, R187, R189)

For the pair check of R64 and the poison of boosted operations: the register destinations of an operation, and the sources of those that
may be boosted. -/

/-- A destination named by an operation: a register, an m register, a part of a d register, or a control register (R64). -/
inductive Dest where
  | reg (f : RFile) (r : Nat)
  | m (n : Nat)
  | d (n k : Nat)
  | ctl (n : Nat)
  deriving DecidableEq, Repr

def sDests (opc : Nat) (f : SF) : List Dest :=
  if opc = 0 then []
  else if 0x22 ≤ opc ∧ opc ≤ 0x27 then [.reg .p (f.xd.toNat % 16)]
  else if opc = 0x40 then [.reg .p (f.xd.toNat % 16)]
  else if opc < 0x50 then [.reg .x f.xd.toNat]
  else match opc with
    | 0x50 => [.reg .x f.xd.toNat]
    | 0x51 => if f.imm.toNat % 4096 = 4 then [] else [.ctl (f.imm.toNat % 4096)]
    | 0x52 => [.ctl 3]
    | 0x53 => [.ctl (0x10 + f.xd.toNat % 16)]
    | 0x54 => [.m f.xd.toNat]
    | 0x55 => [.reg .x f.xd.toNat]
    | 0x56 => [.ctl 4]
    | 0x57 => [.d f.xd.toNat f.imm.toNat]
    | _ => [.reg .x f.xd.toNat]

/-- The V operations whose destination is a predicate (R200, R201, R211). -/
def vPred (op6 : Nat) : Bool := (0x20 ≤ op6 && op6 ≤ 0x24) || (0x39 ≤ op6 && op6 ≤ 0x3E)

def vDests (op6 : Nat) (f : VF) : List Dest := [.reg (if vPred op6 then .p else .v) f.vd.toNat]

def lDests (opc : Nat) (f : LF) : List Dest :=
  let x : List Dest := [.reg .x (f.reg.toNat % 64)]
  let x2 : List Dest := [.reg .x (f.reg.toNat % 64), .reg .x (f.reg.toNat % 64 + 1)]
  let v : List Dest := [.reg .v f.reg.toNat]
  match opc with
  | 0x01 | 0x02 | 0x03 | 0x04 | 0x05 | 0x06 | 0x07 => x
  | 0x0C | 0x0E | 0x10 | 0x1F | 0x64 => v
  | 0x18 | 0x19 | 0x1A | 0x1B | 0x1C | 0x1D | 0x1E => x
  | 0x28 | 0x29 | 0x2A | 0x2B | 0x2C | 0x2D | 0x2E | 0x2F | 0x30 => if f.bpd then [] else x
  | 0x31 | 0x38 | 0x3D | 0x48 | 0x4B | 0x50 | 0x55 | 0x56 | 0x57 | 0x65 | 0x68 => x
  | 0x51 => x2
  | 0x40 => [.d f.reg.toNat 0, .d f.reg.toNat 1, .d f.reg.toNat 2, .d f.reg.toNat 3]
  | 0x63 => if f.opx then x else []
  | 0x66 => [.reg .p (f.reg.toNat % 16)]
  | 0xC0 | 0xC1 | 0xC3 | 0xC5 | 0xC6 | 0xC7 => x
  | _ => []

/-- The destinations of an instruction (R64). -/
def dests (i : Instr) : List Dest :=
  match i.code with
  | .s opc f => sDests opc f
  | .v op6 f => vDests op6 f
  | .l opc f => lDests opc f
  | _ => []

/-- The registers among the destinations. -/
def regDests (i : Instr) : List (RFile × Nat) :=
  (dests i).filterMap fun d => match d with
    | .reg f r => some (f, r)
    | _ => none

/-- The sources of an S operation that may be boosted (R65). -/
def sSrcs (opc : Nat) (f : SF) : List (RFile × Nat) :=
  let a := (RFile.x, f.xa.toNat)
  let b := (RFile.x, f.xb.toNat)
  if opc = 0 || opc = 0x20 then []
  else if opc = 0x41 || opc = 0x42 || opc = 0x43 then [(.p, f.xa.toNat % 16), (.p, f.xb.toNat % 16)]
  else if opc = 0x32 then [a, (.x, f.xd.toNat)]
  else if [0x03, 0x14, 0x15, 0x16, 0x1A, 0x1B, 0x1C, 0x1E, 0x21, 0x26, 0x27, 0x30, 0x31, 0x33, 0x34, 0x35].contains opc then [a]
  else [a, b]

/-- The x register that the port reads. -/
def bpSrcs (bp : BitVec 16) : List (RFile × Nat) := if bpMode bp = 1 then [(.x, bpSrc bp)] else []

/-- The V operations that read VB as a v register (R195). -/
def vReadsVb (op6 : Nat) (f : VF) : Bool :=
  [0x01, 0x02, 0x03, 0x04, 0x05, 0x06, 0x07, 0x08, 0x09, 0x0C, 0x0D, 0x0E, 0x10, 0x11, 0x12, 0x13, 0x14, 0x15, 0x20, 0x21, 0x22, 0x23,
    0x25, 0x28, 0x29, 0x2A, 0x2C, 0x2D, 0x30, 0x31, 0x32, 0x33, 0x36].contains op6 || (op6 == 0x35 && !f.vc.getLsbD 4)

/-- Is the destination of a VCVT its narrow side (R206)? -/
def cvtNarrow (f : VF) : Bool :=
  if f.vc.getLsbD 4 then decide (f.width < cvtWidth f.fmt) else decide (cvtWidth f.fmt < f.width)

/-- Does a V operation keep bits of vd that it does not write (R192, R204, R206, R208, R210)? -/
def vKeeps (op6 : Nat) (f : VF) : Bool :=
  [0x35, 0x37, 0x38].contains op6 || (op6 == 0x34 && cvtNarrow f) || (f.g != 0 && !f.zero && !(0x30 ≤ op6 && op6 ≤ 0x32))

/-- The sources of a V operation: its operands, its guard, and vd where bits of it are kept. -/
def vSrcs (op6 : Nat) (f : VF) (bp : BitVec 16) : List (RFile × Nat) :=
  let b := f.bpsel.toNat
  if 0x39 ≤ op6 then [(.p, f.va.toNat % 16), (.p, f.vb.toNat % 16)]
  else
    let va := if b = 1 then [] else [(RFile.v, f.va.toNat)]
    let vb := if b = 2 || !vReadsVb op6 f then [] else [(RFile.v, f.vb.toNat)]
    let vc := if [0x04, 0x05, 0x06, 0x28].contains op6 && b != 3 then [(RFile.v, f.vc.toNat)]
      else if op6 = 0x25 then [(RFile.p, f.vc.toNat % 16)] else []
    va ++ vb ++ vc ++ (if b = 0 then [] else bpSrcs bp) ++ [(.p, f.g.toNat)]
      ++ (if vKeeps op6 f then [if vPred op6 then (.p, f.vd.toNat % 16) else (.v, f.vd.toNat)] else [])

/-- The sources of a load (R65): one that its guard turns off accesses nothing, and reads no base and no offsets (R213). -/
def Env.lSrcs (e : Env) (opc : Nat) (f : LF) : List (RFile × Nat) :=
  let vector := opc = 0x0C || opc = 0x0E || opc = 0x10 || opc = 0x1F
  let active := if vector then (List.range 128).any (e.guardBit f.g) else e.guardBit f.g 0
  (.p, f.g.toNat) :: (if active then [(.x, f.xbase.toNat)] else [])
    ++ (if vector && ((opc = 0x10 && active) || (f.g != 0 && !f.opx)) then [(.v, f.reg.toNat)] else [])

/-- The sources of an operation that may be boosted. -/
def Env.srcs (e : Env) (i : Instr) : List (RFile × Nat) :=
  match i.code with
  | .s opc f => sSrcs opc f
  | .v op6 f => vSrcs op6 f e.bp
  | .l opc f => e.lSrcs opc f
  | _ => []

/-- The poison that a boosted operation reads, if any (R189). Of several poisoned sources the first in the order of the operands gives the cause
and the address: DESIGN CHOICE (notes/assumptions/53.md). -/
def Env.poison (e : Env) (i : Instr) : Option (Nat × Nat) :=
  (e.srcs i).findSome? fun r => match e.c.seeShadow r.1 r.2 e.lvl with
    | some k => (e.c.shadow k).poison
    | none => none

end Sys2Proof.Machine
end

