-- ==== Sys2Proof/Machine/Issue.lean ====
section
/-! DEFINITION. The issue of a bundle: its fetch (R58 to R61), the static part of R64 to R66 and R72, the order of checks (R25, R214),
checkpoints and blocks (R215, R337, R339), the effect of all its slots at once (R73, R74), and the bundle that follows (R175, R180). -/

namespace Sys2Proof.Machine

open Sys2Proof

/-- The outcome of one instruction. -/
abbrev Result := Host.Outcome State Fault Refusal

/-! ## Fetch -/

/-- What a fetch finds. -/
inductive Fetch (α : Type) where
  | ok (a : α) (s : State)
  | trap (cause : Nat)
  | fault (f : MemFault)
  | rom (addr : Nat)
  /-- The dictionary entry is not resident: the fetch stalls (R60, R76). -/
  | miss (index : Nat)

/-- The key of a boot-ROM byte: the ROM of each die is its own. -/
def romKey (d a : Nat) : Nat := d * 2 ^ 40 + a

/-- The byte of a boot ROM, if it has been placed. -/
def State.romByte (s : State) (d a : Nat) : Option Byte :=
  if mhas s.rom (romKey d a) then some (mget 0 s.rom (romKey d a)) else none

/-- A boot-ROM byte placed. -/
def romPut : List Host.Cell → Nat → Byte → List Host.Cell
  | [], k, b => [(k, b)]
  | (k', b') :: m, k, b => if k = k' then (k, b) :: m else if k < k' then (k, b) :: (k', b') :: m else (k', b') :: romPut m k b

/-- n bytes of a boot ROM as a number, or the first address that holds none. -/
def State.romNat (s : State) (d a n : Nat) : Except Nat Nat :=
  match (List.range n).find? fun i => (s.romByte d (a + i)).isNone with
  | some i => .error (a + i)
  | none => .ok (leNat ((List.range n).map fun i => (s.romByte d (a + i)).getD 0))

/-- n bytes of a segment within one page of a strand's context, for fetch. -/
def State.fetchPage (s : State) (sid ea n : Nat) : Fetch (List Byte) :=
  match s.ctxPlace (s.mcxOf sid) ea .fetch with
  | .error f => .fault f
  | .ok (pl, s') => match s'.readPlace pl n with
    | .error f => .fault f
    | .ok bs => .ok bs s'

/-- Of n bytes from an address, those in its 64 KiB page (R356). -/
def inPage (ea n : Nat) : Nat := min n (2 ^ 16 - ea % 2 ^ 16)

/-- What a fetch of n bytes reads is charged, page by page (R373). -/
def State.chargeFetch (s : State) (sid ea n : Nat) : State :=
  let cl := some (clusterOf sid)
  let s := s.chargeAt cl (s.mcxOf sid) ea (inPage ea n) .fetch
  if inPage ea n = n then s else s.chargeAt cl (s.mcxOf sid) (ea + inPage ea n) (n - inPage ea n) .fetch

/-- n bytes of a segment of a strand's context, for fetch: each page that they touch is translated (R60, R356). -/
def State.fetchBytes (s : State) (sid ea n : Nat) : Fetch Nat :=
  match s.fetchPage sid ea (inPage ea n) with
  | .ok bs s1 =>
    if inPage ea n = n then .ok (leNat bs) (s1.chargeFetch sid ea n)
    else (match s1.fetchPage sid (ea + inPage ea n) (n - inPage ea n) with
      | .ok bs' s2 => .ok (leNat (bs ++ bs')) (s2.chargeFetch sid ea n)
      | .trap c => .trap c
      | .fault f => .fault f
      | .rom a => .rom a
      | .miss i => .miss i)
  | .trap c => .trap c
  | .fault f => .fault f
  | .rom a => .rom a
  | .miss i => .miss i

/-- The address of a code word of a strand's image (R58, R444). -/
def State.codeAddr (s : State) (sid pc : Nat) : Nat := if isMill sid then 0x400 + 2 * pc else s.hw (s.mcxOf sid) 5 % 2 ^ 48 + 2 * pc

/-- The code word at a PC as memory holds it, with nothing charged (R58, R61; R443, R444 for the mill). -/
def State.readCode (s : State) (sid pc : Nat) : Fetch Nat :=
  let d := dieOf sid
  if isMill sid then
    if (s.die d).fw then
      let len := leNat (s.physRead 8 4)
      if len < 2 * pc + 2 then .trap cBadTarget else .ok (leNat (s.physRead (s.codeAddr sid pc) 2)) s
    else match s.romNat d (2 * pc) 2 with
      | .error a => .rom a
      | .ok w => .ok w s
  else if s.hw (s.mcxOf sid) 6 % 2 ^ 32 ≤ pc then .trap cBadTarget
  else match s.fetchPage sid (s.codeAddr sid pc) 2 with
    | .ok bs s' => .ok (leNat bs) s'
    | .trap c => .trap c
    | .fault f => .fault f
    | .rom a => .rom a
    | .miss i => .miss i

/-- The length of the bundle at a code-word address (R175). -/
def bundleLength (w : Nat) : Nat := if w = 0xFFFE then 25 else 1

/-- The code words of a bundle are charged as one access (R373); a boot ROM lies in no memory that is charged. -/
def State.chargeCode (s : State) (sid pc n : Nat) : State :=
  if !isMill sid then s.chargeFetch sid (s.codeAddr sid pc) (2 * n)
  else if (s.die (dieOf sid)).fw then s.chargeSectors 32 none (s.codeAddr sid pc) (2 * n) .read
  else s

/-- The code word at a PC, fetched with the bundle that it begins. -/
def State.codeWord (s : State) (sid pc : Nat) : Fetch Nat :=
  match s.readCode sid pc with
  | .ok w s' => .ok w (s'.chargeCode sid pc (bundleLength w))
  | f => f

/-- Code words from an address, as one number of 16 bits each, the first highest (R59). -/
def State.codeWords (s : State) (sid : Nat) : Nat → Nat → Nat → Fetch Nat
  | 0, _, acc => .ok acc s
  | n + 1, pc, acc => match s.readCode sid pc with
    | .ok w s' => State.codeWords s' sid n (pc + 1) (acc * 2 ^ 16 + w)
    | .trap c => .trap c
    | .fault f => .fault f
    | .rom a => .rom a
    | .miss i => .miss i

/-- The tag of a dictionary entry in a spindle's cache (R60). -/
def dictKey (image index : Nat) : Nat := image * 2 ^ 16 + index

def State.imageOf (s : State) (sid : Nat) : Nat := if isMill sid then 0 else s.hw (s.mcxOf sid) 2 / 2 ^ 16 % 2 ^ 16

/-- A dictionary entry as memory holds it (R60, R61). -/
def State.dictWord (s : State) (sid index : Nat) : Fetch Nat :=
  if isMill sid then
    if (s.die (dieOf sid)).fw then
      let dw := Config.fwDict (s.keng.svn.toNat)
      if dw.2 ≤ index then .trap cIllegal
      else .ok (leNat (s.physRead (dw.1 + 48 * index) 48)) (s.chargeSectors 32 none (dw.1 + 48 * index) 48 .read)
    else match s.romNat (dieOf sid) (2 ^ 33 + 48 * index) 48 with
      | .error a => .rom a
      | .ok w => .ok w s
  else
    let m := s.mcxOf sid
    if s.hw m 6 / 2 ^ 32 % 2 ^ 16 ≤ index then .trap cIllegal
    else s.fetchBytes sid (s.hw m 7 % 2 ^ 48 + 48 * index) 48

/-- The dictionary entries that a spindle's cache holds (R60). -/
def dictSize : Nat := 2048

/-- The bundle at a PC with its length in code words (R58 to R61). -/
def State.fetchBundle (s : State) (sid pc : Nat) : Fetch (Nat × Nat) :=
  match s.codeWord sid pc with
  | .trap c => .trap c
  | .fault f => .fault f
  | .rom a => .rom a
  | .miss i => .miss i
  | .ok w s1 =>
    if w = 0xFFFF then .trap cIllegal
    else if w = 0xFFFE then
      match s1.codeWords sid 24 (pc + 1) 0 with
      | .ok b s2 => .ok (25, b) s2
      | .trap c => .trap c
      | .fault f => .fault f
      | .rom a => .rom a
      | .miss i => .miss i
    else match (s1.spindle (gnumOf sid)).dict.find? fun p => p.1 == dictKey (s1.imageOf sid) w with
      | some p => .ok (1, p.2) s1
      | none => match s1.dictWord sid w with
        | .trap c => .trap c
        | .rom a => .rom a
        | _ => .miss w

/-! ## The static checks of a bundle (R64 to R66, R72) -/

/-- How an operation uses the port: a V lane of a kind and width, a V operand read as bits, or a 64-bit value. -/
inductive BpUse where
  | lane (cls : LaneCls) (w : Nat)
  | index
  | word
  deriving DecidableEq, Repr

/-- The kind of lanes of a V operation (R191). -/
def vCls (f : VF) : LaneCls := if f.tyF then .flt else if f.tyS then .sint else if f.tyU then .uint else .bits

def bpUse (i : Instr) : Option BpUse :=
  match i.code with
  | .v op6 f =>
    if f.bpsel = 0 then none
    else if [0x28, 0x29, 0x2A, 0x2B, 0x35, 0x36].contains op6 then some .index
    else some (.lane (vCls f) f.width)
  | .l _ f => if f.bpd then some .word else none
  | .m _ _ f => if f.bpi then some .word else none
  | _ => none

def bpUseOk (bp : BitVec 16) (i : Instr) : Bool :=
  match bpUse i with
  | none => true
  | some (.lane cls w) => bpLaneOk bp cls w
  | some .index => bpBitsOk bp
  | some .word => bpWordOk bp

/-- May an operation be boosted (R65)? -/
def boostable (i : Instr) : Bool :=
  match i.code with
  | .s opc _ => 0x01 ≤ opc && opc ≤ 0x4F
  | .v _ _ => true
  | .l opc _ => (0x01 ≤ opc && opc ≤ 0x07) || opc == 0x0C || opc == 0x0E || opc == 0x10 || (0x18 ≤ opc && opc ≤ 0x1F)
  | _ => false

/-- Is the operation of a slot malformed by itself (R64, R65, R66, R72)? -/
def slotBad (hdr bp : BitVec 16) (v : SlotView) : Bool :=
  match v with
  | .empty => false
  | .dirty => true
  | .refused _ => hdrBl hdr != 0
  | .op i => !i.wf || !bpUseOk bp i || (hdrBl hdr != 0 && !boostable i)
      || (hdrMrpt hdr && match i.code with | .m c _ _ => c != 1 | _ => false)

/-- The slots that share a destination with a later slot (R64). -/
def clashing : List (Nat × List Dest) → List Nat
  | [] => []
  | (k, ds) :: r => (if r.any fun q => q.2.any fun d => ds.contains d then [k] else []) ++ clashing r

def viewDests (v : SlotView) : List Dest :=
  match v with
  | .op i => dests i
  | _ => []

/-- The header and the port by themselves (R64, R65, R66, R72). -/
def frameBad (hdr bp : BitVec 16) : Bool :=
  hdr.toNat % 8 != 0 || hdrBl hdr == 3 || !bpFieldsOk bp || (hdrMrpt hdr && !hdr.getLsbD 9)
    || (hdrBl hdr != 0 && (hdrEnd hdr || hdrCkpt hdr))

/-- Does the M slot of an MRPT bundle hold a code that names no instruction, so no MCALL (R66)? -/
def mrptBad (hdr : BitVec 16) (slot : Nat) (v : SlotView) : Bool :=
  match v with
  | .refused _ => hdrMrpt hdr && slot == 4
  | _ => false

/-- The slot that a malformed bundle names: the lowest offending slot, or 8 (R64). -/
def malformed (hdr bp : BitVec 16) (vs : List (Nat × SlotView)) : Option Nat :=
  let bad := (vs.filterMap fun p => if slotBad hdr bp p.2 || mrptBad hdr p.1 p.2 then some p.1 else none) ++ clashing (vs.map fun p => (p.1, viewDests p.2))
  match (sortNats bad) with
  | k :: _ => some k
  | [] => if frameBad hdr bp then some 8 else none

/-- The checkpoint bundles of R215, R243 and R337, by the operation. -/
def ckptOp (i : Instr) : Bool :=
  match i.code with
  | .l opc f => (0x18 ≤ opc && opc ≤ 0x1F) || (0x28 ≤ opc && opc ≤ 0x31) || opc == 0x38 || opc == 0x39 || opc == 0x3A || opc == 0x3C
      || opc == 0x42 || opc == 0x58 || opc == 0x68 || (opc == 0x40 && !f.opx) || 0xC0 ≤ opc
  | .m c _ _ => c == 1
  | .b opc _ => opc == 0x30 || opc == 0x32
  | _ => false

/-! ## The slots of a bundle as its strand presents them -/

/-- An operation of a bundle, with its meaning. -/
structure SlotOp where
  slot : Nat
  i : Instr
  fx : Env → Verdict

/-- What a bundle is: its header and port, its length, its operations, and whether it is a checkpoint bundle. -/
structure Pres where
  hdr : BitVec 16
  bp : BitVec 16
  len : Nat
  ops : List SlotOp

/-- The poisoned results of a boosted operation (R189), with what its issue counts. -/
def poisoned (i : Instr) (p : Nat × Nat) (post : State → State := id) : Verdict :=
  .ok { writes := (regDests i).map fun r => { file := r.1, reg := r.2, val := 0, poison := some p }, post := post }

/-- What a V operation counts when it issues, whatever registers its strand has (R426, R432): a poisoned one issues too (R189). -/
def Env.vPost (e : Env) (o : SlotOp) : State → State :=
  match o.fx { e with s := e.s.updStrand e.sid fun t => { t with bank := 1024, tile0 := 0, ntile := 16 } } with
  | .ok fx => fx.post
  | _ => id

/-- Does an S operation trap by its own fields (R166)? Poison does not hide that. -/
def Env.sIllegal (e : Env) (o : SlotOp) : Bool :=
  match o.i.code, o.fx e with
  | .s _ _, .trap t => t.cause == cIllegal
  | _, _ => false

/-- A boosted operation (R189): it carries the poison it reads, or poisons its entries where it would trap. -/
def Env.boost (e : Env) (o : SlotOp) : Verdict :=
  match (if e.sIllegal o then none else e.poison o.i) with
  | some p => poisoned o.i p (e.vPost o)
  | none => match o.fx e with
    | .trap t =>
      if t.cause = cRegBank then poisoned o.i (t.cause, t.info) (e.vPost o)
      else if t.cause = cAlign || t.cause = cSpBound then poisoned o.i (t.cause, t.addr)
      else .trap t
    | .fault f a => if f.cause = cMemUe then .fault f a else poisoned o.i (f.cause, f.addr)
    | v => v

/-- A non-boosted write to a register discards its shadow entries (R186). -/
def Core.discard (c : Core) (f : RFile) (r : Nat) : Core :=
  (shadowRange f).foldl (fun c e => if (c.shadow e).live && (c.shadow e).reg == r then c.dropShadow e else c) c

/-- The entry of a boosted write (R186): none of its file is free. -/
def Core.entryFor (c : Core) (w : RW) (lvl : Nat) : Option (Core × RW) :=
  let c := (shadowRange w.file).foldl
    (fun c e => if (c.shadow e).live && (c.shadow e).reg == w.reg && lvl < (c.shadow e).level then c.dropShadow e else c) c
  match c.findShadow w.file w.reg lvl with
  | some e =>
    let x := c.shadow e
    some ({ c.setShadow e { x with poison := w.poison, order := c.shOrder } with shOrder := c.shOrder + 1 }, { w with shadow := some e })
  | none => match c.freeShadow w.file with
    | none => none
    | some e =>
      let old := match c.seeShadow w.file w.reg lvl with
        | some k => (c.shadow k).val
        | none => c.read w.file w.reg
      let x : Shadow := { live := true, reg := w.reg, level := lvl, val := old, poison := w.poison, order := c.shOrder }
      some ({ c.setShadow e x with shOrder := c.shOrder + 1 }, { w with shadow := some e })

/-- Is the destination x0 or p0 (R78)? -/
def RW.zero (w : RW) : Bool := w.reg == 0 && (w.file == .x || w.file == .p)

/-- The results of an operation given their destinations: registers, or shadow entries when it is boosted (R186). -/
def Core.allocAll (lvl : Nat) : Core → List RW → Option (Core × List RW)
  | c, [] => some (c, [])
  | c, w :: ws =>
    if w.zero then
      (if lvl = 0 then (Core.allocAll lvl c ws).map fun p => (p.1, w :: p.2) else Core.allocAll lvl c ws)
    else if lvl = 0 then (Core.allocAll lvl (c.discard w.file w.reg) ws).map fun p => (p.1, w :: p.2)
    else match c.entryFor w lvl with
      | none => none
      | some (c', w') => (Core.allocAll lvl c' ws).map fun p => (p.1, w' :: p.2)

/-- Does an operation wait for the channel of its strand (R271, R273)? What stands after it in the bundle acts on the channel only once it has acted (R275). -/
def Verdict.reelWait (v : Verdict) : Bool :=
  match v with
  | .block ws _ => ws.any fun w => match w with
    | .reel => true
    | .reelFrame _ => true
    | _ => false
  | _ => false

/-- One operation checked: it reads the state `s0` before its bundle and registers from `c0`, and acts on the state `s` that the operations before it
leave (R73). `held`: one of these waits for the channel. -/
def State.evalSlot (s0 s : State) (held : Bool) (c0 : Core) (sid : Nat) (b : Pres) (o : SlotOp) : State × Verdict :=
  let e : Env := { s := s0, now := s, held := held, c := c0, sid := sid, hdr := b.hdr, bp := b.bp, slot := o.slot, len := b.len }
  match (if hdrBl b.hdr = 0 then o.fx e else e.boost o) with
  | .ok fx => match (s.core sid).allocAll (hdrBl b.hdr) fx.writes with
    | none => (s, .trap { cause := cIllegal, slot := o.slot })
    | some (c1, ws) => match c1.allocAll (hdrBl b.hdr) fx.resp with
      | none => (s, .trap { cause := cIllegal, slot := o.slot })
      | some (c2, rs) => (fx.early (s.updCore sid fun _ => c2), .ok { fx with writes := ws, resp := rs })
  | v => (s, v)

def State.evalFrom (s0 : State) (c0 : Core) (sid : Nat) (b : Pres) : State → Bool → List SlotOp → State × List (SlotOp × Verdict)
  | s, _, [] => (s, [])
  | s, held, o :: os =>
    let r := s0.evalSlot s held c0 sid b o
    let q := State.evalFrom s0 c0 sid b r.1 (held || r.2.reelWait) os
    (q.1, (o, r.2) :: q.2)

/-- The operations of a bundle checked in the state that it is presented in. -/
def State.evalSlots (c0 : Core) (sid : Nat) (b : Pres) (s : State) (os : List SlotOp) : State × List (SlotOp × Verdict) :=
  s.evalFrom c0 sid b s false os

/-- The trap of a port whose word is a tile outside the share (R72, R79), whether or not its operand acts: it is the lowest slot's that names the port, or
else the port's own. A boosted operation that names the port poisons instead (R189). -/
def State.portTrap (s : State) (sid : Nat) (b : Pres) : Option Trap :=
  let n := bpSrc b.bp % 16
  if bpMode b.bp ≠ 3 || n < (s.strand sid).ntile then none
  else match b.ops.find? fun o => (bpUse o.i).isSome with
    | some o => if hdrBl b.hdr = 0 then some { cause := cRegBank, slot := o.slot, info := n } else none
    | none => some { cause := cRegBank, slot := 8, info := n }

/-- The trap of the lowest CAUSE.SLOT (R333). -/
def lowestTrap (vs : List (SlotOp × Verdict)) : Option Trap :=
  vs.foldl (fun a p => match p.2 with
    | .trap t => (match a with
      | some b => if t.slot < b.slot then some t else some b
      | none => some t)
    | _ => a) none

/-- The trap of a bundle that its operations or its port raise: the lower slot's, and an operation's own before the port's (R333). -/
def firstTrap (port : Option Trap) (vs : List (SlotOp × Verdict)) : Option Trap :=
  match lowestTrap vs, port with
  | some t, some p => if p.slot < t.slot then some p else some t
  | some t, none => some t
  | none, p => p

def anyBlock (vs : List (SlotOp × Verdict)) : Bool :=
  vs.any fun p => match p.2 with
    | .block _ _ => true
    | _ => false

/-- The strand blocks before issue (R25): what each blocking operation waits for. -/
def State.blockAll (s : State) (sid : Nat) (vs : List (SlotOp × Verdict)) : State :=
  let s := vs.foldl (fun s p => match p.2 with
    | .block _ act => act s
    | _ => s) s
  s.blockOn sid (vs.flatMap fun p => match p.2 with
    | .block ws _ => ws
    | _ => []) false false

/-- Will a bundle block after issue (R25)? -/
def anyWait (vs : List (SlotOp × Verdict)) : Bool :=
  vs.any fun p => match p.2 with
    | .ok fx => !fx.waits.isEmpty
    | _ => false

/-- The effects, in the order of slots. -/
def effects (vs : List (SlotOp × Verdict)) : List Fx :=
  vs.filterMap fun p => match p.2 with
    | .ok fx => some fx
    | _ => none

/-! ## Time -/

/-- The deficit of a group's share class falls by its strands for a cycle of one of its spindles (R319). -/
def State.chargeClass (s : State) (mcx n : Nat) : State :=
  let d := match s.ctx mcx with | some c => c.die | none => 0
  let cls := s.hw mcx 2 / 2 ^ 34 % 512
  let k : Int := (s.hw mcx 3 / 2 ^ 8 % 4 + 1) * n
  s.updDie d fun x => { x with deficit := mupd 0 x.deficit cls fun v => max (v - k) (-2 ^ 47) }

/-- Is a context bound (R308)? -/
def State.isBound (s : State) (mcx : Nat) : Bool :=
  match s.ctx mcx with
  | some c => c.st == .bound
  | none => false

/-- Cycles of a spindle whose group is stopped, or waits for its restore: a bound group's class is charged, but for a debug stop, and nothing else is counted
(R319, R321, R353, R426). -/
def State.asleepCycles (s : State) (g n : Nat) : State :=
  match (s.spindle g).mcx with
  | none => s
  | some m => if s.isBound m && !(s.stop m).any fun y => (y.debug).isSome then s.chargeClass m n else s

/-- One cycle of a spindle's island clock that is not a stall (R75, R319, R426); a throttled island stalls for a cycle beside it (R380). No latency advances from a stop until the gate opens (R342, R350). -/
def State.cycle (s : State) (g : Nat) : State :=
  if (s.spindle g).asleep then s.asleepCycles g 1
  else
    let s := s.endCycle g
    match (s.spindle g).mcx with
    | none => s
    | some m =>
      let stall := (s.part (s.partOf m)).throttle.toNat
      ((s.lea m 5 (1 + stall)).chargeClass m (1 + stall)).countEv (s.partOf m) 4 stall

/-! ## Debug steps (R355) -/

/-- The kind of the debug step of a context, 0 for none, and its target: of the step in progress, or of DBGCTL (R352, R394). -/
def Die.stepOf (x : Die) (mcx : Nat) : Nat × Nat :=
  match x.dbgRun with
  | some (m, k, t) => if m = mcx then (k, t) else if x.dbgMcx.toNat = mcx then (x.dbgStep.toNat, x.dbgTarget.toNat) else (0, 0)
  | none => if x.dbgMcx.toNat = mcx then (x.dbgStep.toNat, x.dbgTarget.toNat) else (0, 0)

/-- The step in progress of a context is over. -/
def Die.stepEnds (x : Die) (mcx : Nat) : Die := { x with dbgRun := x.dbgRun.filter fun r => r.1 != mcx }

/-- A debug step has issued its bundle, or could not: the stop follows. A fault that the step's stop checkpoint finds is taken, and is the reason of the
stop. -/
def State.stepStop (s : State) (sid reason : Nat) (noissue : Bool) : State :=
  let g := gnumOf sid
  if (s.spindle g).stepSlot ≠ some (slotOf sid) then s
  else
    let mcx := s.mcxOf sid
    let since := (s.spindle g).since
    let isOver := ((s.die (dieOf sid)).stepOf mcx).1 == 2 && !noissue && reason == 0
    let s := (s.updSpindle g fun x => { x with stepSlot := none }).updDie (dieOf sid) fun x => x.stepEnds mcx
    let t := s.strand sid
    let r := if t.st == .running || (isOver && t.st == .blocked && t.after) then s.commitRegion sid else .ok s
    match r with
    | .error f => (s.takeFault sid f 1 f.slot false).stopGroup mcx { debug := some (if reason = 0 then f.cause else reason, noissue) }
    | .ok s' =>
      if isOver then
        match s'.group mcx with
        | none => s'
        | some gr => (gr.spindles.foldl (fun s sp => s.updSpindle sp fun x => { x with gate := true }) s').setStop mcx
            (some { debug := some (0, false), stepOver := true, target := sid, since := since })
      else s.stopGroup mcx { debug := some (reason, noissue) }

/-! ## Taking effect -/

/-- FMT as in effect for the bundle that issues next (R118). -/
def Core.fmtStep (c : Core) : Core :=
  let p := c.fmtPend.map fun q => (q.1, q.2 - 1)
  { c with
    fmt := p.foldl (fun f q => if q.2 = 0 then q.1 else f) c.fmt
    fmtPend := p.filter fun q => q.2 != 0 }

/-- The end of a loop body (R180). -/
def Core.loopEnd (c : Core) (fall : Nat) : Core × Nat :=
  match c.loops with
  | [] => (c, fall)
  | l :: r => if l.count - 1 = 0 then ({ c with loops := r }, fall) else ({ c with loops := { l with count := l.count - 1 } :: r }, l.start)

/-- The bundle that follows (R175). -/
def Core.nextBundle (c : Core) (len : Nat) (b : Option BRes) : Core :=
  let pc := c.pc.toNat
  let fall := (pc + len) % 2 ^ 32
  let r : BRes := b.getD {}
  let c1 := r.core c
  let atLast := match c1.loops with
    | l :: _ => l.last == pc
    | [] => false
  let q := if !r.taken && atLast then c1.loopEnd fall else (c1, r.next.getD fall)
  { q.1 with pc := BitVec.ofNat 32 q.2 }

/-- The results that enter flight: a poisoned result writes no value (R189). -/
def flightsOf (ws : List RW) : List Flight :=
  ws.filterMap fun w => if w.poison.isSome then none
    else some { file := w.file, reg := w.reg, shadow := w.shadow, val := w.val, d := w.lat, sticky := w.sticky }

/-- The sectors that a withheld store touches (R339), told apart by space: a tenant's global store by its virtual address, whether or not its
translation has completed. -/
def PStore.sectors (p : PStore) : List (Nat × Nat) :=
  let f (k a : Nat) : List (Nat × Nat) := (sectorsOf a p.bytes.length).map fun n => (k, n)
  match p.pend, p.loc with
  | none, .spad cl off => f (1 + cl) off
  | none, .phys pa => f 101 pa
  | none, .ctrl a => f 102 a
  | _, _ => f 0 p.ea

/-- Do two stores write a common byte (R74)? -/
def PStore.overlaps (p q : PStore) : Bool :=
  let ov (a b : Nat) : Bool := a < b + q.bytes.length && b < a + p.bytes.length
  match p.pend, q.pend with
  | some a, some b => ov a b
  | none, none => (match p.loc, q.loc with
    | .spad c a, .spad c' b => c == c' && ov a b
    | .hbm a _, .hbm b _ => ov a b
    | .phys a, .phys b => ov a b
    | .remote h a _, .remote h' b _ => h == h' && ov a b
    | .ctrl a, .ctrl b => ov a b
    | _, _ => false)
  | _, _ => false

/-- The v registers that non-boosted operations of a bundle write. -/
def vWrites (fxs : List Fx) : List Nat :=
  (fxs.flatMap fun fx => fx.writes ++ fx.resp).filterMap fun w => if w.file = .v && w.shadow.isNone then some w.reg else none

/-- The frame writes that a region withholds, its bundle presented with the core `c0` included (R279): four sectors each. -/
def Strand.newFrames (t : Strand) (c0 : Core) : Nat :=
  t.core.reel.waiting.length - (if t.nBund = 0 then t.reelAt.getD c0.reel else t.ckpt.reel).waiting.length

/-- Is the bundle made a checkpoint bundle by the limits of its region (R339)? `t` is the strand as the bundle's requests to its channel leave it. -/
def Strand.forced (t : Strand) (c0 : Core) (fxs : List Fx) : Bool :=
  decide (64 < (t.undo ++ vWrites fxs).dedup.length)
    || decide (256 < ((t.stores ++ fxs.flatMap Fx.stores).flatMap PStore.sectors).dedup.length + 4 * t.newFrames c0)
    || decide (2048 ≤ t.nBund)

/-- A collision of stores between L0 and L1 (R74). -/
def collide (vs : List (SlotOp × Verdict)) : Bool :=
  let st (k : Nat) : List PStore := vs.flatMap fun p => if p.1.slot = k then (match p.2 with | .ok fx => fx.stores | _ => []) else []
  (st 5).any fun p => (st 6).any fun q => p.overlaps q

def Pres.ckpt (b : Pres) : Bool := hdrCkpt b.hdr || hdrEnd b.hdr || (hdrBl b.hdr == 0 && b.ops.any fun o => ckptOp o.i)

/-- The core after a bundle's issue (R73, R77, R118, R175). -/
def Core.issue (c : Core) (b : Pres) (fxs : List Fx) (coll : Bool) : Core :=
  let c := c.fmtStep
  let c := { c with mpc := c.mpc + BitVec.ofNat 32 (fxs.map Fx.mpc).sum }
  let c := fxs.foldl (fun c fx => fx.core c) c
  let c := if coll then c.stick stStoreCollide else c
  let c := { c with flight := c.flight ++ flightsOf (fxs.flatMap Fx.writes) }
  if hdrEnd b.hdr then c.dropShadows else c.nextBundle b.len (fxs.findSome? Fx.b)

/-- The strand after a bundle's issue. -/
def Strand.issue (t : Strand) (c0 : Core) (b : Pres) (fxs : List Fx) (coll : Bool) : Strand :=
  { t with
    ckpt := if t.nBund = 0 then { c0 with reel := t.reelAt.getD c0.reel } else t.ckpt
    reelAt := none
    frozen := false
    core := t.core.issue b fxs coll
    nBund := t.nBund + 1
    undo := (t.undo ++ vWrites fxs).dedup
    stores := t.stores ++ fxs.flatMap Fx.stores
    livePc := if hdrCkpt b.hdr then some c0.pc else t.livePc
    written := ((if hdrCkpt b.hdr then [] else t.written) ++ vWrites fxs).dedup }

/-- END: fetch stops and the channel is sealed (R28); a response still due is kept for the drain (R29). -/
def State.endFetch (s : State) (sid : Nat) (ws : List Wait) (rs : List RW) : State :=
  let cfg := s.reelCfg sid
  ((s.updCore sid fun c => { c with reel := c.reel.seal cfg }).haltStrand sid).updStrand sid fun t =>
    { t with waits := ws, after := !ws.isEmpty, ckptDue := !ws.isEmpty, resp := rs }

/-- The code of a BRK among the effects, unless END makes its slot void (R175, R184). -/
def brkCode (b : Pres) (fxs : List Fx) : Option Nat :=
  if hdrEnd b.hdr then none else (fxs.findSome? Fx.b).bind BRes.brk

/-- The stores of a checkpoint keep the places that their translations gave at issue (R337 step 3). -/
def State.resolveRegion (s : State) (sid : Nat) : State :=
  if (s.strand sid).stores.all fun p => p.pend.isNone then s
  else match s.resolveStores sid (s.strand sid).stores with
  | .ok (ps, s') => s'.updStrand sid fun t => { t with stores := ps }
  | .error _ => s

/-- A bundle takes effect (R25, R73, R337 step 4). `s` is the state that its early effects leave and `c0` the core it was presented with. A BRK beside an
after-issue block acts at the end of the block (R184). -/
def State.takeEffect (s : State) (sid : Nat) (c0 : Core) (b : Pres) (vs : List (SlotOp × Verdict)) (ckpt : Bool) : State :=
  let fxs := effects vs
  let g := gnumOf sid
  let s := s.updStrand sid fun t => t.issue c0 b fxs (collide vs)
  let s := if ckpt then s.resolveRegion sid else s
  let s := fxs.foldl (fun s fx => fx.post s) s
  let mcx := s.mcxOf sid
  let s := ((if isMill sid then s else s.lea mcx 0 1).countEv (s.partyOf sid) 1 1).progress (s.partyOf sid)
  let ws := fxs.flatMap Fx.waits
  let rs := fxs.flatMap Fx.resp
  let s := if ckpt && ws.isEmpty then (match s.commitRegion sid with | .ok s' => s' | .error _ => s) else s
  let s :=
    if hdrEnd b.hdr then s.endFetch sid ws rs
    else if ws.isEmpty then s
    else (s.updStrand sid fun t => { t with resp := rs, ckptDue := ckpt, brk := brkCode b fxs }).blockOn sid ws true (fxs.any Fx.firm)
  let s := s.cycle g
  let s := match (if ws.isEmpty then brkCode b fxs else none) with
    | some k => s.takeTrap sid { cause := cBreak, slot := 7, info := k }
    | none => s
  s.stepStop sid 0 false

/-- A bundle that neither traps nor blocks (R336, R337, R342): a fault of its own, or too many results in flight, or its effect. -/
def State.finish (s : State) (sid : Nat) (b : Pres) (r : State × List (SlotOp × Verdict)) (ckpt : Bool) : State :=
  let g := gnumOf sid
  let own := (effects r.2).flatMap Fx.stores
  let failed : Option (MemFault × Nat × Option Nat) := r.2.findSome? fun p => match p.2 with
    | .fault f a => some (f, a, none)
    | .boosted c a => some ({ cause := c, addr := a, slot := p.1.slot }, 0, some a)
    | _ => none
  match failed with
  | some (f, _, some a) => ((s.takeBoostFault sid f.cause a f.slot).cycle g).stepStop sid f.cause true
  | some (f, a, none) => ((s.takeFault sid f a f.slot false).cycle g).stepStop sid f.cause true
  | none =>
    if 64 < (s.core sid).flight.length + (flightsOf ((effects r.2).flatMap Fx.writes)).length then s.cycle g
    else if ckpt then
      (match s.resolveStores sid own with
        | .error f => ((s.takeFault sid f 1 f.slot false).cycle g).stepStop sid f.cause true
        | .ok _ => r.1.takeEffect sid (s.core sid) b r.2 true)
    else r.1.takeEffect sid (s.core sid) b r.2 false

/-- A trap of kind P or E at a presented bundle (R332). -/
def State.trapCycle (s : State) (sid : Nat) (t : Trap) : State :=
  ((s.takeTrap sid t).cycle (gnumOf sid)).stepStop sid t.cause true

/-- A bundle presented, well formed (R25, R214, R333, R337): checks, then blocks, then effect. A region whose commit writes registers commits first, and
the bundle is presented again after those writes (R286). A fault of translation beside a before-issue block of another slot waits: the bundle blocks first and
faults when it is presented again (DESIGN CHOICE, notes/assumptions/67.md: R214 lets a trap precede such a block and does not name faults there). -/
def State.presentOk (s : State) (sid : Nat) (b : Pres) : State :=
  let c0 := (s.core sid).fmtStep
  let r := State.evalSlots c0 sid b s b.ops
  match firstTrap (s.portTrap sid b) r.2 with
  | some t => s.trapCycle sid t
  | none =>
    let force := (r.1.strand sid).forced c0 (effects r.2)
    if anyBlock r.2 || anyWait r.2 || b.ckpt || force then
      match s.commitRegion sid with
      | .error f => ((s.takeFault sid f 1 f.slot false).cycle (gnumOf sid)).stepStop sid f.cause true
      | .ok s1 =>
        if (s.strand sid).stores.any PStore.isCtrl then s1 else
        let r1 := State.evalSlots c0 sid b s1 b.ops
        match lowestTrap r1.2 with
        | some t => s1.trapCycle sid t
        | none =>
          if anyBlock r1.2 then ((s1.blockAll sid r1.2).cycle (gnumOf sid)).stepStop sid 0 true
          else s1.finish sid b r1 (b.ckpt || force)
    else s.finish sid b r false

/-- The operations of a bundle that act: in an END bundle the B slot has no effect (R175). -/
def Pres.live (b : Pres) : Pres := if hdrEnd b.hdr then { b with ops := b.ops.filter fun o => o.slot != 7 } else b

/-- A bundle presented by a strand (R64, R247, R333): a malformed bundle first, then a pending engine trap. -/
def State.present (s : State) (sid : Nat) (b : Pres) (bad : Option Nat) : State :=
  match bad with
  | some k => s.trapCycle sid { cause := cIllegal, slot := k }
  | none => match (s.strand sid).engTrap with
    | some c => (s.updStrand sid fun t => { t with engTrap := none }).trapCycle sid { cause := c, slot := 9 }
    | none => s.presentOk sid b.live

/-! ## Operations executed alone, and whole bundles -/

/-- May a strand issue now (R25, R26, R76, R350, R355)? -/
def State.canIssue (s : State) (sid : Nat) : Bool :=
  let x := s.spindle (gnumOf sid)
  (s.strand sid).st == .running && x.running == some (slotOf sid) && !x.stalled && (!x.gate || x.stepSlot == some (slotOf sid))
    && !x.asleep && !s.held && !s.tripped

/-- The slot that an instruction alone in its bundle stands in: its number and its valid bit (R62, R63). -/
def aloneSlot (i : Instr) (second : Bool) : Nat × BitVec 16 :=
  match i.code with
  | .s _ _ => if second then (1, 0x1000) else (0, 0x2000)
  | .v _ _ => if second then (3, 0x0400) else (2, 0x0800)
  | .m _ _ _ => (4, 0x0200)
  | .l _ _ => if second then (6, 0x0080) else (5, 0x0100)
  | _ => (7, 0x0040)

/-- The header of a bundle that holds an instruction alone: END, CKPT, MRPT and BL from the frame, and its valid bit. -/
def aloneHdr (i : Instr) (fr : Frame) : BitVec 16 :=
  let h := (fr.hdr &&& 0xC03F) ||| (aloneSlot i fr.second).2
  match i.code with
  | .m 1 rpt _ => if rpt then h ||| 0x0020 else h &&& 0xFFDF
  | _ => h

/-- Deliver what a fetch found other than a bundle (R58, R61, R76). -/
def State.fetchStop {α : Type} (s : State) (sid : Nat) (f : Fetch α) : Result :=
  match f with
  | .ok _ s' => .next s'
  | .trap c => .next (s.trapCycle sid { cause := c, slot := 8 })
  | .fault f => .next (((s.takeFault sid f 3 8 false).cycle (gnumOf sid)).stepStop sid f.cause true)
  | .rom a => .fault (.romUnwritten a)
  | .miss _ => .next (s.updSpindle (gnumOf sid) fun x => { x with stalled := true })

/-- A slot operation executed alone: the strand in focus presents a bundle that holds only it (notes/assumptions/1.md). -/
def State.issueAlone (s : State) (i : Instr) (fx : Env → Verdict) : Result :=
  let sid := s.focus
  if !s.canIssue sid then .next s
  else match s.codeWord sid (s.core sid).pc.toNat with
    | .ok w s' =>
      let hdr := aloneHdr i s.frame
      let k := (aloneSlot i s.frame.second).1
      .next (s'.present sid { hdr := hdr, bp := s.frame.bp, len := bundleLength w, ops := [{ slot := k, i := i, fx := fx }] }
        (malformed hdr s.frame.bp [(k, .op i)]))
    | f => s.fetchStop sid f

/-- A code that names no instruction (R91, R287). -/
def refusedCode (r : SlotRefusal) (e : Env) : Verdict := e.trap (if r = .privUnassigned && !e.mill then cPriv else cIllegal)

/-- The slots of a bundle as R62 lays them out, with the meanings that a dispatch gives; a refused code traps (R91, R287). -/
def slotOps (fxOf : Instr → Env → Verdict) (vs : List (Nat × SlotView)) : List SlotOp :=
  vs.filterMap fun p => match p.2 with
    | .op i => some { slot := p.1, i := i, fx := fxOf i }
    | .refused r => some { slot := p.1, i := .bNop ⟨0, 0, false⟩, fx := refusedCode r }
    | _ => none

/-- A bundle fetched, decoded and presented (R25, R58 to R64). -/
def State.issueBundle (s : State) (fxOf : Instr → Env → Verdict) : Result :=
  let sid := s.focus
  if !s.canIssue sid then .next s
  else match s.fetchBundle sid (s.core sid).pc.toNat with
    | .ok (len, w) s' =>
      let hdr := BitVec.ofNat 16 (w / 2 ^ 368)
      let bp := BitVec.ofNat 16 w
      let vs := (decodeSlots w).map fun p => (p.1.num, p.2)
      .next (s'.present sid { hdr := hdr, bp := bp, len := len, ops := slotOps fxOf vs } (malformed hdr bp vs))
    | f => s.fetchStop sid f

end Sys2Proof.Machine
end

