-- ==== Sys2Proof/Machine/Scalar.lean ====
section
/-! DEFINITION. The S slot: integer arithmetic, logic and shifts, constants and compares, bit fields and counts, predicates
(R160 to R168). -/

namespace Sys2Proof.Machine

open Sys2Proof

/-! ## Forms (R160) -/

def two64 : Nat := 2 ^ 64

/-- The sign-extended IMM14 as 64 bits. -/
def imm14 (f : SF) : Nat := toBits 64 (sext 14 f.imm.toNat)

/-- The unsigned 20 bits XB ++ IMM14 (R164, R170). -/
def imm20 (f : SF) : Nat := f.xb.toNat * 2 ^ 14 + f.imm.toNat

def Env.xa (e : Env) (f : SF) : Nat := e.rx f.xa.toNat
def Env.xb (e : Env) (f : SF) : Nat := e.rx f.xb.toNat

/-- A scalar result of latency 1. -/
def sX (f : SF) (v : Nat) (st : Sticky := 0) : Verdict := okW [wr .x f.xd.toNat (v % two64) 1 st]

/-- A predicate result: the same value in every bit (R160). -/
def sP (f : SF) (b : Bool) : Verdict := okW [wr .p (f.xd.toNat % 16) (if b then 2 ^ 128 - 1 else 0) 1]

/-- A predicate source (R160). -/
def Env.pa (e : Env) (f : SF) : Nat := e.rp (f.xa.toNat % 16)
def Env.pb (e : Env) (f : SF) : Nat := e.rp (f.xb.toNat % 16)

def sint (x : Nat) : Int := sext 64 x

/-- The number of one bits among the low n. -/
def popcount (n x : Nat) : Nat := ((List.range n).filter fun i => bitOf x i).length

/-- Zero bits above the highest one bit of the low n (n for zero). -/
def leadZeros (n x : Nat) : Nat := if x % 2 ^ n = 0 then n else n - 1 - Nat.log2 (x % 2 ^ n)

/-- Zero bits below the lowest one bit of the low n (n for zero). -/
def trailZeros (n x : Nat) : Nat := ((List.range n).find? fun i => bitOf x i).getD n

/-- x shifted right by n of w bits, filled with copies of its top bit. -/
def sraBits (w x n : Nat) : Nat := toBits w (sext w x / 2 ^ n)

/-- x rotated right by n of 64 bits. -/
def rotr64 (x n : Nat) : Nat := x % two64 / 2 ^ (n % 64) + x * 2 ^ (64 - n % 64) % two64

/-- The position and length of a bit field; one that passes bit 63 traps ILLEGAL (R166). -/
def Env.bitField (e : Env) (f : SF) (k : Nat → Nat → Verdict) : Verdict :=
  let pos := f.imm.toNat % 64
  let len := f.imm.toNat / 64 % 64 + 1
  if 64 < pos + len then e.trap cIllegal else k pos len

/-! ## Meanings -/

/-- NOP of the S slot (R91). -/
def fxSNop (_ : SF) (_ : Env) : Verdict := nothing
def execSNop (f : SF) (s : State) : Result := s.issueAlone (.sNop f) (fxSNop f)

/-- ADD: xd := xa + xb (R161). -/
def fxAdd (f : SF) (e : Env) : Verdict := sX f ((e.xa f) + (e.xb f))
def execAdd (f : SF) (s : State) : Result := s.issueAlone (.add f) (fxAdd f)

/-- SUB: xd := xa − xb (R161). -/
def fxSub (f : SF) (e : Env) : Verdict := sX f ((e.xa f) + (two64 - (e.xb f)))
def execSub (f : SF) (s : State) : Result := s.issueAlone (.sub f) (fxSub f)

/-- ADDI: xd := xa + SignExt(IMM14) (R161). -/
def fxAddi (f : SF) (e : Env) : Verdict := sX f ((e.xa f) + imm14 f)
def execAddi (f : SF) (s : State) : Result := s.issueAlone (.addi f) (fxAddi f)

/-- MUL: the low 64 bits of xa × xb (R161). -/
def fxMul (f : SF) (e : Env) : Verdict := sX f ((e.xa f) * (e.xb f))
def execMul (f : SF) (s : State) : Result := s.issueAlone (.mul f) (fxMul f)

/-- MULHS: the high 64 bits of the signed product (R161). -/
def fxMulhs (f : SF) (e : Env) : Verdict := sX f (toBits 64 (sint (e.xa f) * sint (e.xb f) / 2 ^ 64))
def execMulhs (f : SF) (s : State) : Result := s.issueAlone (.mulhs f) (fxMulhs f)

/-- MULHN: the high 64 bits of the unsigned product (R161). -/
def fxMulhn (f : SF) (e : Env) : Verdict := sX f ((e.xa f) * (e.xb f) / two64)
def execMulhn (f : SF) (s : State) : Result := s.issueAlone (.mulhn f) (fxMulhn f)

/-- DIVS (R162). -/
def fxDivs (f : SF) (e : Env) : Verdict := if (e.xb f) = 0 then sX f (two64 - 1) stDivZero else sX f (toBits 64 ((sint (e.xa f)).tdiv (sint (e.xb f))))
def execDivs (f : SF) (s : State) : Result := s.issueAlone (.divs f) (fxDivs f)

/-- DIVN (R162). -/
def fxDivn (f : SF) (e : Env) : Verdict := if (e.xb f) = 0 then sX f (two64 - 1) stDivZero else sX f ((e.xa f) / (e.xb f))
def execDivn (f : SF) (s : State) : Result := s.issueAlone (.divn f) (fxDivn f)

/-- REMS (R162). -/
def fxRems (f : SF) (e : Env) : Verdict := if (e.xb f) = 0 then sX f (e.xa f) stDivZero else sX f (toBits 64 ((sint (e.xa f)).tmod (sint (e.xb f))))
def execRems (f : SF) (s : State) : Result := s.issueAlone (.rems f) (fxRems f)

/-- REMN (R162). -/
def fxRemn (f : SF) (e : Env) : Verdict := if (e.xb f) = 0 then sX f (e.xa f) stDivZero else sX f ((e.xa f) % (e.xb f))
def execRemn (f : SF) (s : State) : Result := s.issueAlone (.remn f) (fxRemn f)

/-- ADDSHL: xd := xa + (xb << sh) (R161). -/
def fxAddshl (f : SF) (e : Env) : Verdict := sX f ((e.xa f) + (e.xb f) * 2 ^ (f.imm.toNat % 8))
def execAddshl (f : SF) (s : State) : Result := s.issueAlone (.addshl f) (fxAddshl f)

/-- MINS (R161). -/
def fxMins (f : SF) (e : Env) : Verdict := sX f (if sint (e.xa f) ≤ sint (e.xb f) then (e.xa f) else (e.xb f))
def execMins (f : SF) (s : State) : Result := s.issueAlone (.mins f) (fxMins f)

/-- MINN (R161). -/
def fxMinn (f : SF) (e : Env) : Verdict := sX f (min (e.xa f) (e.xb f))
def execMinn (f : SF) (s : State) : Result := s.issueAlone (.minn f) (fxMinn f)

/-- MAXS (R161). -/
def fxMaxs (f : SF) (e : Env) : Verdict := sX f (if sint (e.xa f) ≤ sint (e.xb f) then (e.xb f) else (e.xa f))
def execMaxs (f : SF) (s : State) : Result := s.issueAlone (.maxs f) (fxMaxs f)

/-- MAXN (R161). -/
def fxMaxn (f : SF) (e : Env) : Verdict := sX f (max (e.xa f) (e.xb f))
def execMaxn (f : SF) (s : State) : Result := s.issueAlone (.maxn f) (fxMaxn f)

/-- AND (R163). -/
def fxAnd (f : SF) (e : Env) : Verdict := sX f ((e.xa f) &&& (e.xb f))
def execAnd (f : SF) (s : State) : Result := s.issueAlone (.and f) (fxAnd f)

/-- OR (R163). -/
def fxOr (f : SF) (e : Env) : Verdict := sX f ((e.xa f) ||| (e.xb f))
def execOr (f : SF) (s : State) : Result := s.issueAlone (.or f) (fxOr f)

/-- XOR (R163). -/
def fxXor (f : SF) (e : Env) : Verdict := sX f ((e.xa f) ^^^ (e.xb f))
def execXor (f : SF) (s : State) : Result := s.issueAlone (.xor f) (fxXor f)

/-- ANDN: xa AND NOT xb (R163). -/
def fxAndn (f : SF) (e : Env) : Verdict := sX f ((e.xa f) &&& (two64 - 1 - (e.xb f)))
def execAndn (f : SF) (s : State) : Result := s.issueAlone (.andn f) (fxAndn f)

/-- ANDI (R163). -/
def fxAndi (f : SF) (e : Env) : Verdict := sX f ((e.xa f) &&& imm14 f)
def execAndi (f : SF) (s : State) : Result := s.issueAlone (.andi f) (fxAndi f)

/-- ORI (R163). -/
def fxOri (f : SF) (e : Env) : Verdict := sX f ((e.xa f) ||| imm14 f)
def execOri (f : SF) (s : State) : Result := s.issueAlone (.ori f) (fxOri f)

/-- XORI (R163). -/
def fxXori (f : SF) (e : Env) : Verdict := sX f ((e.xa f) ^^^ imm14 f)
def execXori (f : SF) (s : State) : Result := s.issueAlone (.xori f) (fxXori f)

/-- SHL (R163). -/
def fxShl (f : SF) (e : Env) : Verdict := sX f ((e.xa f) * 2 ^ ((e.xb f) % 64))
def execShl (f : SF) (s : State) : Result := s.issueAlone (.shl f) (fxShl f)

/-- SHRL (R163). -/
def fxShrl (f : SF) (e : Env) : Verdict := sX f ((e.xa f) / 2 ^ ((e.xb f) % 64))
def execShrl (f : SF) (s : State) : Result := s.issueAlone (.shrl f) (fxShrl f)

/-- SHRA (R163). -/
def fxShra (f : SF) (e : Env) : Verdict := sX f (sraBits 64 (e.xa f) ((e.xb f) % 64))
def execShra (f : SF) (s : State) : Result := s.issueAlone (.shra f) (fxShra f)

/-- SHLI (R163). -/
def fxShli (f : SF) (e : Env) : Verdict := sX f ((e.xa f) * 2 ^ (f.imm.toNat % 64))
def execShli (f : SF) (s : State) : Result := s.issueAlone (.shli f) (fxShli f)

/-- SHRLI (R163). -/
def fxShrli (f : SF) (e : Env) : Verdict := sX f ((e.xa f) / 2 ^ (f.imm.toNat % 64))
def execShrli (f : SF) (s : State) : Result := s.issueAlone (.shrli f) (fxShrli f)

/-- SHRAI (R163). -/
def fxShrai (f : SF) (e : Env) : Verdict := sX f (sraBits 64 (e.xa f) (f.imm.toNat % 64))
def execShrai (f : SF) (s : State) : Result := s.issueAlone (.shrai f) (fxShrai f)

/-- ROTR (R163). -/
def fxRotr (f : SF) (e : Env) : Verdict := sX f (rotr64 (e.xa f) (e.xb f))
def execRotr (f : SF) (s : State) : Result := s.issueAlone (.rotr f) (fxRotr f)

/-- ROTRI (R163). -/
def fxRotri (f : SF) (e : Env) : Verdict := sX f (rotr64 (e.xa f) f.imm.toNat)
def execRotri (f : SF) (s : State) : Result := s.issueAlone (.rotri f) (fxRotri f)

/-- MOVI: the sign-extended 26 bits of XA ++ XB ++ IMM14 (R164). -/
def fxMovi (f : SF) (_ : Env) : Verdict := sX f (toBits 64 (sext 26 (f.xa.toNat * 2 ^ 20 + f.xb.toNat * 2 ^ 14 + f.imm.toNat)))
def execMovi (f : SF) (s : State) : Result := s.issueAlone (.movi f) (fxMovi f)

/-- MOVHI: (xa << 20) OR imm20 (R164). -/
def fxMovhi (f : SF) (e : Env) : Verdict := sX f ((e.xa f) * 2 ^ 20 + imm20 f)
def execMovhi (f : SF) (s : State) : Result := s.issueAlone (.movhi f) (fxMovhi f)

/-- SEQ (R165). -/
def fxSeq (f : SF) (e : Env) : Verdict := sP f ((e.xa f) == (e.xb f))
def execSeq (f : SF) (s : State) : Result := s.issueAlone (.seq f) (fxSeq f)

/-- SNE (R165). -/
def fxSne (f : SF) (e : Env) : Verdict := sP f ((e.xa f) != (e.xb f))
def execSne (f : SF) (s : State) : Result := s.issueAlone (.sne f) (fxSne f)

/-- SLTS (R165). -/
def fxSlts (f : SF) (e : Env) : Verdict := sP f (sint (e.xa f) < sint (e.xb f))
def execSlts (f : SF) (s : State) : Result := s.issueAlone (.slts f) (fxSlts f)

/-- SLTN (R165). -/
def fxSltn (f : SF) (e : Env) : Verdict := sP f ((e.xa f) < (e.xb f))
def execSltn (f : SF) (s : State) : Result := s.issueAlone (.sltn f) (fxSltn f)

/-- SLTIS (R165). -/
def fxSltis (f : SF) (e : Env) : Verdict := sP f (sint (e.xa f) < sext 14 f.imm.toNat)
def execSltis (f : SF) (s : State) : Result := s.issueAlone (.sltis f) (fxSltis f)

/-- SLTIN: the immediate is sign-extended and compared unsigned (R165). -/
def fxSltin (f : SF) (e : Env) : Verdict := sP f ((e.xa f) < imm14 f)
def execSltin (f : SF) (s : State) : Result := s.issueAlone (.sltin f) (fxSltin f)

/-- BFXS (R166). -/
def fxBfxs (f : SF) (e : Env) : Verdict := e.bitField f fun pos len => sX f (toBits 64 (sext len ((e.xa f) / 2 ^ pos)))
def execBfxs (f : SF) (s : State) : Result := s.issueAlone (.bfxs f) (fxBfxs f)

/-- BFXN (R166). -/
def fxBfxn (f : SF) (e : Env) : Verdict := e.bitField f fun pos len => sX f ((e.xa f) / 2 ^ pos % 2 ^ len)
def execBfxn (f : SF) (s : State) : Result := s.issueAlone (.bfxn f) (fxBfxn f)

/-- BFI: xd is a source (R166). -/
def fxBfi (f : SF) (e : Env) : Verdict := e.bitField f fun pos len => sX f (setField (e.rx f.xd.toNat) pos len (e.xa f))
def execBfi (f : SF) (s : State) : Result := s.issueAlone (.bfi f) (fxBfi f)

/-- POPC (R167). -/
def fxPopc (f : SF) (e : Env) : Verdict := sX f (popcount 64 (e.xa f))
def execPopc (f : SF) (s : State) : Result := s.issueAlone (.popc f) (fxPopc f)

/-- CLZ (R167). -/
def fxClz (f : SF) (e : Env) : Verdict := sX f (leadZeros 64 (e.xa f))
def execClz (f : SF) (s : State) : Result := s.issueAlone (.clz f) (fxClz f)

/-- CTZ (R167). -/
def fxCtz (f : SF) (e : Env) : Verdict := sX f (trailZeros 64 (e.xa f))
def execCtz (f : SF) (s : State) : Result := s.issueAlone (.ctz f) (fxCtz f)

/-- PSETX: pd := xb ++ xa (R168). -/
def fxPsetx (f : SF) (e : Env) : Verdict := okW [wr .p (f.xd.toNat % 16) ((e.xa f) + (e.xb f) * two64) 1]
def execPsetx (f : SF) (s : State) : Result := s.issueAlone (.psetx f) (fxPsetx f)

/-- PANY (R168). -/
def fxPany (f : SF) (e : Env) : Verdict := sX f (if e.pa f &&& e.pb f = 0 then 0 else 1)
def execPany (f : SF) (s : State) : Result := s.issueAlone (.pany f) (fxPany f)

/-- PALL (R168). -/
def fxPall (f : SF) (e : Env) : Verdict := sX f (if e.pa f &&& e.pb f = e.pb f then 1 else 0)
def execPall (f : SF) (s : State) : Result := s.issueAlone (.pall f) (fxPall f)

/-- PCNT (R168). -/
def fxPcnt (f : SF) (e : Env) : Verdict := sX f (popcount 128 (e.pa f &&& e.pb f))
def execPcnt (f : SF) (s : State) : Result := s.issueAlone (.pcnt f) (fxPcnt f)

end Sys2Proof.Machine
end

