-- ==== Sys2Proof/Machine/Control.lean ====
section
/-! DEFINITION. Control registers and their moves (R81 to R90, R169 to R174, R288 to R292), and the branches, calls and loops of the B
slot with the resolution of boost (R175 to R190). -/

namespace Sys2Proof.Machine

open Sys2Proof

/-! ## Control registers: reads -/

/-- STATUS (R82). -/
def Core.statusWord (c : Core) (mill : Bool) : Nat := c.status.toNat + (if mill then 2 ^ 16 else 0)

/-- REELCFG (R89). -/
def Env.reelCfgWord (e : Env) : Nat :=
  let g := e.s.reelCfg e.sid
  e.c.reelPolicy.toNat + g.ringlog * 2 ^ 3 + g.spillmax * 2 ^ 8 + e.c.reel.shut.toNat * 2 ^ 16 + g.enabled.toNat * 2 ^ 17

/-- SCOPE (R90); it reads zero in a mill strand (R286). -/
def Env.scopeWord (e : Env) : Nat := if e.mill then 0 else e.t.scope + e.t.depth * 2 ^ 12

/-- The tenant numbers (R81); TSHAPEn is checked before. -/
def Env.tenantReg (e : Env) (n : Nat) : Option Nat :=
  match n with
  | 0x000 => some (e.c.statusWord e.mill)
  | 0x001 => some e.c.cause.toNat
  | 0x002 => some e.c.epc.toNat
  | 0x003 => some e.c.fmt.toNat
  | 0x004 => some e.c.mpc.toNat
  | 0x005 => some e.c.mrc.toNat
  | 0x006 => some e.c.loopState
  | 0x007 => some e.c.boostState
  | 0x020 => some e.reelCfgWord
  | 0x021 => some e.scopeWord
  | 0x022 => some e.c.shadown.toNat
  | _ =>
    if 0x008 ≤ n ∧ n ≤ 0x00F then some (mget 0 e.c.mstride (n - 0x008)).toNat
    else if 0x010 ≤ n ∧ n ≤ 0x01F then some (mget 0 e.c.tshape (n - 0x010)).toNat
    else none

/-- Loop entry k from the outermost (R292). -/
def Core.loopEnt (c : Core) (k : Nat) : LoopEnt := c.loops.reverse.getD k ⟨0, 0, 0⟩
/-- Return entry k from the oldest (R292). -/
def Core.retEnt (c : Core) (k : Nat) : RetEnt := c.rets.reverse.getD k ⟨0, 0⟩

/-- BSHXe: the value of scalar shadow e, or 0 while its result is in flight (R292). -/
def Core.bshX (c : Core) (e : Nat) : Nat :=
  if (c.shadow e).live && (c.shadow e).ready && !(c.flight.any fun f => f.shadow == some e) then (c.shadow e).val else 0

/-- FREEMASK of MSPAWN (R291). -/
def State.freeMask (s : State) (d : Nat) : Nat :=
  ((List.range 4).map fun k => if (s.strand (384 * d + k)).st == .free then 2 ^ k else 0).sum

/-- The privileged numbers (R288 to R292). -/
def Env.privReg (e : Env) (n : Nat) : Option Nat :=
  match n with
  | 0x800 => some e.c.mtvec.toNat
  | 0x801 => some (e.c.intrap.toNat + e.c.mldepth * 2 + e.c.mrdepth * 2 ^ 4)
  | 0x802 => some e.c.mtval.toNat
  | 0x803 => some (e.s.evPend (dieOf e.sid)).toNat
  | 0x804 => some e.c.evmask.toNat
  | 0x805 => some (e.s.freeMask (dieOf e.sid))
  | 0x806 => some (dieOf e.sid + slotOf e.sid * 4)
  | _ =>
    if 0x808 ≤ n ∧ n ≤ 0x80B then some (mget 0 e.c.mscratch (n - 0x808)).toNat
    else if 0x820 ≤ n ∧ n ≤ 0x827 then
      let l := e.c.loopEnt ((n - 0x820) / 2)
      some (if n % 2 = 0 then l.start + l.last * 2 ^ 32 else l.count)
    else if 0x828 ≤ n ∧ n ≤ 0x837 then
      let r := e.c.retEnt (n - 0x828)
      some (r.addr + r.depth * 2 ^ 32)
    else if 0x840 ≤ n ∧ n ≤ 0x863 then some (e.c.bshTag (n - 0x840))
    else if 0x870 ≤ n ∧ n ≤ 0x87F then some (e.c.bshX (n - 0x870 + 16))
    else none

/-- The check of a control-register number (R81, R87, R287). -/
def Env.ctrlChecked (e : Env) (n : Nat) (k : Verdict) : Verdict :=
  if 0x800 ≤ n then
    if !e.mill then e.trap cPriv
    else if (e.privReg n).isNone then e.trap cIllegal else k
  else if 0x010 ≤ n ∧ n ≤ 0x01F then e.tileBound (n - 0x010) k
  else if (e.tenantReg n).isNone then e.trap cIllegal else k

/-! ## Control registers: writes -/

/-- The shape check of R87: format 0xF passes. -/
def tshapeOk (v : Nat) : Bool :=
  v % 16 == 15 || decide ((bitsOf v 10 4 + 1) * (bitsOf v 20 11 + 1) * fmtBits (v % 16) ≤ 131072)

/-- A write of TSHAPEn (R87, R171). A tile outside the share is reported before a shape that is too large (DESIGN CHOICE, notes/assumptions/59.md). -/
def Env.writeTshape (e : Env) (n v : Nat) : Verdict :=
  e.tileBound n (if !tshapeOk v then e.trap cIllegal
    else .ok { core := fun c => { c with tshape := mset 0 c.tshape n (BitVec.ofNat 21 v) } })

/-- A write of FMT takes effect five bundles later (R118). -/
def writeFmt (v : Nat) : Verdict := .ok { core := fun c => { c with fmtPend := c.fmtPend ++ [(BitVec.ofNat 17 v, 5)] } }

/-- The values that SHADOWN takes (R90). -/
def shadownOk (n : Nat) : Bool := n == 0 || [16, 32, 64, 128, 256, 512, 1024, 2048, 4096, 8192, 16384, 32768, 65536].contains n

/-- The registers of a mill strand that starts (R22, R23, R291): every register at its reset value, x7 the identity word. -/
def millCore (sid entry : Nat) (v : AMap Vec) : Core :=
  { x := mset 0 [] 7 (BitVec.ofNat 64 (whoOf sid)), v := v, pc := BitVec.ofNat 32 entry }

/-- MSPAWN (R291): a slot that is not FREE is left alone. -/
def State.mspawn (s : State) (d slot entry : Nat) : State :=
  let sid := 384 * d + slot % 4
  if (s.strand sid).st ≠ .free then s
  else
    let c := millCore sid entry (s.core sid).v
    s.setStrand sid { Strand.mill (slot % 4) with st := .ready, core := c, ckpt := c }

/-- A write of EVPEND clears the RW1C bits (R290). -/
def State.clearEv (s : State) (d : Nat) (v : BitVec 13) : State :=
  s.updDie d fun x => { x with evpend := x.evpend &&& ~~~(v &&& 0x1EFF) }

/-- CRW of a number, its number checked (R169, R288 to R291). Fields marked RO or HW are left unchanged. -/
def Env.ctrlWrite (e : Env) (n v : Nat) : Verdict :=
  let w32 : BitVec 32 := BitVec.ofNat 32 v
  match n with
  | 0x000 => .ok { core := fun c => { c with status := c.status &&& ~~~(BitVec.ofNat 8 v) } }
  | 0x003 => writeFmt v
  | 0x005 => .ok { core := fun c => { c with mrc := w32 } }
  | 0x020 => if v % 4 = 3 then e.trap cIllegal else .ok { core := fun c => { c with reelPolicy := BitVec.ofNat 2 v } }
  | 0x022 =>
    if !shadownOk (v % 2 ^ 17) then e.trap cIllegal
    else .ok { core := fun c => { c with shadown := BitVec.ofNat 17 v, shcount := 0 } }
  | 0x800 => .ok { core := fun c => { c with mtvec := w32 } }
  | 0x803 => .ok { post := fun s => s.clearEv (dieOf e.sid) (BitVec.ofNat 13 v) }
  | 0x804 => .ok { core := fun c => { c with evmask := BitVec.ofNat 13 v } }
  | 0x805 => .ok { post := fun s => s.mspawn (dieOf e.sid) (v % 4) (v / 2 ^ 32) }
  | _ =>
    if 0x008 ≤ n ∧ n ≤ 0x00F then .ok { core := fun c => { c with mstride := mset 0 c.mstride (n - 0x008) w32 } }
    else if 0x010 ≤ n ∧ n ≤ 0x01F then e.writeTshape (n - 0x010) (v % 2 ^ 21)
    else if 0x808 ≤ n ∧ n ≤ 0x80B then
      .ok { core := fun c => { c with mscratch := mset 0 c.mscratch (n - 0x808) (BitVec.ofNat 64 v) } }
    else nothing

/-! ## Moves (R169 to R174) -/

/-- CRR (R169). -/
def fxCrr (f : SF) (e : Env) : Verdict :=
  let n := f.imm.toNat % 4096
  e.ctrlChecked n (sX f (((if 0x800 ≤ n then e.privReg n else e.tenantReg n)).getD 0))
def execCrr (f : SF) (s : State) : Result := s.issueAlone (.crr f) (fxCrr f)

/-- CRW (R169). -/
def fxCrw (f : SF) (e : Env) : Verdict :=
  let n := f.imm.toNat % 4096
  e.ctrlChecked n (e.ctrlWrite n (e.xa f))
def execCrw (f : SF) (s : State) : Result := s.issueAlone (.crw f) (fxCrw f)

/-- SETFMT: xa[16:0] OR the immediate (R170). -/
def fxSetfmt (f : SF) (e : Env) : Verdict := writeFmt ((e.xa f % 2 ^ 17) ||| (imm20 f % 2 ^ 17))
def execSetfmt (f : SF) (s : State) : Result := s.issueAlone (.setfmt f) (fxSetfmt f)

/-- TSHAPE: xa[20:0] OR the immediate (R171). -/
def fxTshape (f : SF) (e : Env) : Verdict := e.writeTshape (f.xd.toNat % 16) ((e.xa f % 2 ^ 21) ||| imm20 f)
def execTshape (f : SF) (s : State) : Result := s.issueAlone (.tshape f) (fxTshape f)

/-- The sign-extended 20-bit immediate (R172, R173). -/
def simm20 (f : SF) : Int := sext 20 (imm20 f)

/-- MSETP: mn := xa + SignExt(IMM20) (R172). -/
def fxMsetp (f : SF) (e : Env) : Verdict :=
  .ok { core := fun c => { c with m := mset 0 c.m (f.xd.toNat % 8) (BitVec.ofInt 64 ((e.xa f : Int) + simm20 f)) } }
def execMsetp (f : SF) (s : State) : Result := s.issueAlone (.msetp f) (fxMsetp f)

/-- MGETP (R172). -/
def fxMgetp (f : SF) (e : Env) : Verdict := sX f (mget 0 e.c.m (f.xa.toNat % 8)).toNat
def execMgetp (f : SF) (s : State) : Result := s.issueAlone (.mgetp f) (fxMgetp f)

/-- MPCSET: it replaces the advance of its bundle's M slot (R173). -/
def fxMpcset (f : SF) (e : Env) : Verdict := .ok { core := fun c => { c with mpc := BitVec.ofInt 32 ((e.xa f : Int) + simm20 f) } }
def execMpcset (f : SF) (s : State) : Result := s.issueAlone (.mpcset f) (fxMpcset f)

/-- A part of a d register replaced (R174). -/
def Core.setD (c : Core) (n k v : Nat) : Core :=
  { c with d := mset 0 c.d n (BitVec.ofNat 256 (setField (mget 0 c.d n).toNat (64 * k) 64 v)) }

/-- DSET (R174). -/
def fxDset (f : SF) (e : Env) : Verdict := .ok { core := fun c => c.setD (f.xd.toNat % 8) (f.imm.toNat % 4) (e.xa f) }
def execDset (f : SF) (s : State) : Result := s.issueAlone (.dset f) (fxDset f)

/-- DGET (R174). -/
def fxDget (f : SF) (e : Env) : Verdict := sX f (laneOf64 (mget 0 e.c.d (f.xa.toNat % 8)).toNat (f.imm.toNat % 4))
where laneOf64 (x k : Nat) : Nat := x / 2 ^ (64 * k) % 2 ^ 64
def execDget (f : SF) (s : State) : Result := s.issueAlone (.dget f) (fxDget f)

/-! ## The B slot: targets and boost (R175 to R188) -/

/-- A taken transfer. -/
def go (next : Nat) (core : Core → Core := id) : Verdict := .ok { b := some { next := some (next % 2 ^ 32), taken := true, core := core } }

/-- The next bundle in the code stream, where a loop end may act. -/
def fallOn (core : Core → Core := id) : Verdict := .ok { b := some { core := core } }

/-- A signed displacement from this bundle (R70, R176). -/
def Env.target (e : Env) (f : BF) : Nat := toBits 32 ((e.pc : Int) + sext 14 f.disp.toNat)

/-- A number that XC names (R70). -/
def xc (f : BF) : Nat := f.pred.toNat * 2 + f.asm.toNat

/-- Is PC in the body of a loop? -/
def LoopEnt.holds (l : LoopEnt) (a : Nat) : Bool := l.start ≤ a && a ≤ l.last

/-- Uniform (R176). -/
def Env.uniform (e : Env) (p : Nat) (k : Bool → Verdict) : Verdict :=
  let v := e.rp p
  if v = 2 ^ 128 - 1 then k true else if v = 0 then k false else e.trap cNonUniform

/-- The commit of ResolveBoost, or its discard (R188). -/
def Core.resolve (c : Core) (hit : Bool) : Core :=
  if hit then
    let c := (c.levelEntries 1).foldl Core.commitShadow c
    { c with shadows := c.shadows.map fun p => (p.1, if p.2.live && p.2.level == 2 then { p.2 with level := 1 } else p.2) }
  else c.dropShadows

/-- ResolveBoost (R188, R189): a poisoned level-1 entry traps by the kind of its cause. -/
def Env.resolve (e : Env) (hit : Bool) (k : Verdict) : Verdict :=
  let c := e.now.core e.sid
  if !hit then k
  else match (c.levelEntries 1).findSome? fun i => (c.shadow i).poison with
    | none => k
    | some (cause, a) =>
      if cause = cAlign || cause = cSpBound || cause = cRegBank then
        .trap { cause := cause, slot := e.slot, boost := true, info := if cause = cRegBank then a else 0, addr := if cause = cRegBank then 0 else a }
      else .boosted cause a

/-- Loop entries popped while PC lies in the top body and T does not (R182). -/
def popLoops (pc t : Nat) : List LoopEnt → List LoopEnt
  | [] => []
  | l :: r => if l.holds pc && !l.holds t then popLoops pc t r else l :: r

/-- Transfer (R182). `core` is what the branch does beside. -/
def Env.transfer (e : Env) (t : Nat) (core : Core → Core := id) : Verdict :=
  let pc := e.pc
  let top := match e.c.loops with
    | l :: _ => l.last == pc
    | [] => false
  if top then e.trap cBadLoop
  else if e.c.loops.any fun l => l.holds t && !l.holds pc then e.trap cLoopEntry
  else go t fun c => { core c with loops := popLoops pc t c.loops }

/-- The length of the bundle at a code-word address (R175). Where a boot-ROM byte is not placed, its length is a free value. -/
def Env.lengthAt (e : Env) (a : Nat) (k : Nat → Verdict) : Verdict :=
  match e.s.codeWord e.sid (a % 2 ^ 32) with
  | .ok w _ => k (bundleLength w)
  | .trap c => e.trap c
  | .fault f => e.fault f 3
  | _ => k (if (Config.freeWord (2 ^ 60 + romKey (dieOf e.sid) a)).getLsbD 0 then 25 else 1)

/-- A conditional branch (R176). -/
def Env.branch (e : Env) (f : BF) (sense : Bool) : Verdict :=
  e.uniform f.pred.toNat fun u =>
    let taken := u == sense
    let hit := taken == f.asm
    e.resolve hit (if taken then e.transfer (e.target f) (fun c => c.resolve hit) else fallOn fun c => c.resolve hit)

/-- NOP of the B slot (R91). -/
def fxBNop (_ : BF) (_ : Env) : Verdict := nothing
def execBNop (f : BF) (s : State) : Result := s.issueAlone (.bNop f) (fxBNop f)

/-- BRUT (R176). -/
def fxBrut (f : BF) (e : Env) : Verdict := e.branch f true
def execBrut (f : BF) (s : State) : Result := s.issueAlone (.brut f) (fxBrut f)

/-- BRUF (R176). -/
def fxBruf (f : BF) (e : Env) : Verdict := e.branch f false
def execBruf (f : BF) (s : State) : Result := s.issueAlone (.bruf f) (fxBruf f)

/-- JT: entry xn of the image's jump table (R177). A mill image's table is not placed by the spec: it has no entry. -/
def fxJt (f : BF) (e : Env) : Verdict :=
  let i := e.rx (xc f)
  let n := if e.mill then 0 else e.s.hw e.mcx 12 / 2 ^ 48 % 2 ^ 13
  if n ≤ i then e.trap cBadTarget
  else match e.s.fetchBytes e.sid (e.s.hw e.mcx 12 % 2 ^ 48 + 4 * i) 4 with
    | .ok t _ => (e.transfer t).also fun s => s.chargeFetch e.sid (s.hw e.mcx 12 % 2 ^ 48 + 4 * i) 4
    | .fault g => e.fault g 3
    | _ => e.trap cBadTarget
def execJt (f : BF) (s : State) : Result := s.issueAlone (.jt f) (fxJt f)

/-- CALL (R178). -/
def fxCall (f : BF) (e : Env) : Verdict :=
  if 16 ≤ e.c.rets.length then e.trap cRstack
  else go (e.target f) fun c => { c with rets := { addr := e.fall, depth := c.loops.length } :: c.rets }
def execCall (f : BF) (s : State) : Result := s.issueAlone (.call f) (fxCall f)

/-- RET (R178). -/
def fxRet (_ : BF) (e : Env) : Verdict :=
  match e.c.rets with
  | [] => e.trap cRstack
  | r :: _ => go r.addr fun c => { c with rets := c.rets.drop 1, loops := c.loops.drop (c.loops.length - r.depth) }
def execRet (f : BF) (s : State) : Result := s.issueAlone (.ret f) (fxRet f)

/-- LOOP (R179). -/
def fxLoop (f : BF) (e : Env) : Verdict :=
  let count := e.rx (xc f) % 2 ^ 32
  let last := (e.pc + f.disp.toNat) % 2 ^ 32
  let top := match e.c.loops with
    | l :: _ => l.last == e.pc
    | [] => false
  if top then e.trap cBadLoop
  else if count = 0 then e.lengthAt last fun n => go (last + n)
  else if 4 ≤ e.c.loops.length then e.trap cBadLoop
  else go e.fall fun c => { c with loops := { start := e.fall, last := last, count := count } :: c.loops }
def execLoop (f : BF) (s : State) : Result := s.issueAlone (.loop f) (fxLoop f)

/-- LEAVET and LEAVEF (R181). -/
def Env.leave (e : Env) (f : BF) (sense : Bool) : Verdict :=
  e.uniform f.pred.toNat fun u =>
    let leave := u == sense
    let hit := leave == f.asm
    match e.c.loops with
    | [] => e.trap cBadLoop
    | l :: _ =>
      if !l.holds e.pc || e.pc = l.last then e.trap cBadLoop
      else e.resolve hit (
        if leave then e.lengthAt l.last fun n => go (l.last + n) fun c => { c.resolve hit with loops := c.loops.drop 1 }
        else fallOn fun c => c.resolve hit)

def fxLeavet (f : BF) (e : Env) : Verdict := e.leave f true
def execLeavet (f : BF) (s : State) : Result := s.issueAlone (.leavet f) (fxLeavet f)

def fxLeavef (f : BF) (e : Env) : Verdict := e.leave f false
def execLeavef (f : BF) (s : State) : Result := s.issueAlone (.leavef f) (fxLeavef f)

/-- BRK: BREAK after every other slot of its bundle (R184). -/
def fxBrk (f : BF) (_ : Env) : Verdict := .ok { b := some { brk := some f.disp.toNat } }
def execBrk (f : BF) (s : State) : Result := s.issueAlone (.brk f) (fxBrk f)

end Sys2Proof.Machine
end

