-- ==== Sys2Proof/Machine/Vector.lean ====
section
/-! DEFINITION. The V slot: lanes and guards, arithmetic, bit operations, the functions of R199, compares, permutes, reductions and scans,
conversions, quantisation, packing, and predicate operations (R191 to R211). -/

namespace Sys2Proof.Machine

open Sys2Proof

/-! ## Lanes (R79, R191, R192) -/

/-- Lane j of width w of a register. -/
def laneOf (w x j : Nat) : Nat := x / 2 ^ (w * j) % 2 ^ w

/-- Lanes of width w put together, lane 0 lowest. -/
def packLanes (w : Nat) (xs : List Nat) : Nat := xs.foldr (fun x a => x % 2 ^ w + 2 ^ w * a) 0

/-- The lane count of a width. -/
def lanes (w : Nat) : Nat := 4096 / w

/-- The format of a float type (R191). -/
def vFmt (f : VF) : FFmt := if f.ty = 0 then fp32 else if f.ty = 1 then bf16 else fp16

def vRnd (f : VF) : Rnd := Rnd.ofCode f.rnd.toNat

/-- The least and greatest values of an integer type (R191). -/
def vMin (f : VF) : Int := if f.tyS then -(2 ^ (f.width - 1) : Int) else 0
def vMax (f : VF) : Int := if f.tyS then 2 ^ (f.width - 1) - 1 else 2 ^ f.width - 1

/-- A lane as an integer of the type (R191). -/
def vInt (f : VF) (x : Nat) : Int := if f.tyS then sext f.width x else x

/-- A lane as a value of a float type. -/
def vNum (f : VF) (x : Nat) : XNum := decodeF (vFmt f) x

/-- Lane j of an operand: the port's value where BPSEL names it, the register's lane otherwise (R193). -/
def Env.opnd (e : Env) (f : VF) (sel : Nat) (reg : BitVec 9) (cls : LaneCls) (w : Nat) : Nat → Nat :=
  if f.bpsel.toNat = sel then
    let v := e.bpLane cls (vFmt f) w
    fun _ => v
  else
    let x := e.rv reg.toNat
    fun j => laneOf w x j

def Env.a (e : Env) (f : VF) : Nat → Nat := e.opnd f 1 f.va (vCls f) f.width
def Env.b (e : Env) (f : VF) : Nat → Nat := e.opnd f 2 f.vb (vCls f) f.width
def Env.cc (e : Env) (f : VF) : Nat → Nat := e.opnd f 3 f.vc (vCls f) f.width

/-- The v registers that an operation names among its source fields; those that the port replaces name none (R79, R193). -/
def vRegs (f : VF) (sels : List Nat) : List Nat :=
  sels.filterMap fun k => if f.bpsel.toNat = k then none
    else some (match k with | 1 => f.va.toNat | 2 => f.vb.toNat | _ => f.vc.toNat)

/-- The checks of R193: registers within the bank, and the port's tile within the share. -/
def Env.vChecked (e : Env) (f : VF) (rs : List Nat) (k : Verdict) : Verdict :=
  e.vBound rs (if f.bpsel = 0 then k else e.bpBound k)

/-- Is an operation lane active: predicate bit i of the guard (R192)? -/
def Env.active (e : Env) (f : VF) (i : Nat) : Bool := bitOf (e.rp f.g.toNat) i

/-- Counting of active operation lanes (LEA2 and event 3: R426, R432). -/
def State.countLanes (s : State) (sid n : Nat) : State :=
  (if isMill sid then s else s.lea (s.mcxOf sid) 2 n).countEv (s.partyOf sid) 3 n

/-- A destination lane that an operation writes: its index, its guard bit, and its value with sticky bits. -/
structure VItem where
  lane : Nat
  bit : Nat
  val : Nat × Sticky

/-- WriteVector (R192) over an old value: active lanes receive their results, inactive ones zero or nothing. -/
def writeVector (act : Nat → Bool) (zero : Bool) (dw old : Nat) (items : List VItem) : Nat :=
  items.foldl (fun x it => if act it.bit then setField x (dw * it.lane) dw it.val.1 else if zero then setField x (dw * it.lane) dw 0 else x) old

/-- The sticky bits of the active lanes (R194). -/
def stickyOf (act : Nat → Bool) (items : List VItem) : Sticky :=
  items.foldl (fun st it => if act it.bit then st ||| it.val.2 else st) 0

/-- A vector result written lane by lane (R192, R194). -/
def Env.vOut (e : Env) (f : VF) (lat dw : Nat) (items : List VItem) : Verdict :=
  let act := e.active f
  let n := (items.filter fun it => act it.bit).length
  .ok { writes := [wr .v f.vd.toNat (writeVector act f.zero dw (e.rv f.vd.toNat) items) lat (stickyOf act items)]
        post := fun s => s.countLanes e.sid n }

/-- One item for each lane of width w, with the guard bit of R192. -/
def eachLane (w : Nat) (g : Nat → Nat × Sticky) : List VItem :=
  (List.range (lanes w)).map fun j => { lane := j, bit := j * w / 32, val := g j }

/-- A lanewise operation of registers and the port: `sels` lists the operand fields it reads. -/
def Env.lanewise (e : Env) (f : VF) (sels : List Nat) (lat : Nat) (g : Nat → Nat × Sticky) : Verdict :=
  e.vChecked f (f.vd.toNat :: vRegs f sels) (e.vOut f lat f.width (eachLane f.width g))

/-! ## Arithmetic (R196, R197) -/

/-- A float result rounded once, with NAN for an invalid operation (R103, R196). -/
def vRound (f : VF) (x : XNum) (ops : List XNum) : Nat × Sticky :=
  let r := roundNum (vFmt f) (vRnd f) x
  (r.1, r.2 ||| invalidBit x ops)

/-- Float or integer arithmetic on two operands (R196). -/
def Env.arith2 (e : Env) (f : VF) (fl : XNum → XNum → XNum) (ig : Int → Int → Int) : Verdict :=
  let a := e.a f
  let b := e.b f
  e.lanewise f [1, 2] (if f.tyF then 4 else 2) fun j =>
    if f.tyF then (let x := vNum f (a j); let y := vNum f (b j); vRound f (fl x y) [x, y])
    else (toBits f.width (ig (a j) (b j)), 0)

/-- Float or integer fused arithmetic (R196). -/
def Env.arith3 (e : Env) (f : VF) (fl : XNum → XNum → XNum → XNum) (ig : Int → Int → Int → Int) : Verdict :=
  let a := e.a f
  let b := e.b f
  let c := e.cc f
  e.lanewise f [1, 2, 3] (if f.tyF then 4 else 2) fun j =>
    if f.tyF then (let x := vNum f (a j); let y := vNum f (b j); let z := vNum f (c j); vRound f (fl x y z) [x, y, z])
    else (toBits f.width (ig (a j) (b j) (c j)), 0)

/-- The smaller or larger of two lanes as ranked by R197; a NaN operand gives the canonical NaN. -/
def vPick (f : VF) (larger : Bool) (x y : Nat) : Nat :=
  if f.tyF then
    let p := vNum f x
    let q := vNum f y
    if p.isNan || q.isNan then (vFmt f).nanEnc
    else if rankLt p q then (if larger then y else x) else if larger then x else y
  else if vInt f x < vInt f y then (if larger then y else x) else if larger then x else y

/-- A lanewise operation on two operands without rounding. -/
def Env.pick2 (e : Env) (f : VF) (lat : Nat) (g : Nat → Nat → Nat × Sticky) : Verdict :=
  let a := e.a f
  let b := e.b f
  e.lanewise f [1, 2] lat fun j => g (a j) (b j)

/-- A lanewise operation on one operand. -/
def Env.pick1 (e : Env) (f : VF) (lat : Nat) (g : Nat → Nat × Sticky) : Verdict :=
  let a := e.a f
  e.lanewise f [1] lat fun j => g (a j)

/-- A clamped integer result (R197). -/
def vClamp (f : VF) (x : Int) : Nat × Sticky :=
  let r := satInt (vMin f) (vMax f) x
  (toBits f.width r.1, r.2)

/-! ## The functions of R199 -/

/-- The special operands and the exact value of a function, rounded once. -/
def vFun (f : VF) (minusInf plusInf minusZero plusZero : XNum × Sticky) (fin : Bool → Nat → Nat → XNum × Sticky) (x : Nat) : Nat × Sticky :=
  let r : XNum × Sticky := match vNum f x with
    | .nan => (.nan, 0)
    | .inf n => if n then minusInf else plusInf
    | .fin n a d => if a = 0 then (if n then minusZero else plusZero) else fin n a d
  let v := roundNum (vFmt f) (vRnd f) r.1
  (v.1, v.2 ||| r.2)

def zeroNum (neg : Bool) : XNum × Sticky := (.fin neg 0 1, 0)
def infNum (neg : Bool) (st : Sticky := 0) : XNum × Sticky := (.inf neg, st)
def badNum : XNum × Sticky := (.nan, stNan)
def oneNum (neg : Bool) : XNum × Sticky := (.fin neg 1 1, 0)

def vRcpFun (f : VF) : Nat → Nat × Sticky :=
  vFun f (zeroNum true) (zeroNum false) (infNum true stDivZero) (infNum false stDivZero) fun n a d => (.fin n d a, 0)
def vRsqrtFun (f : VF) : Nat → Nat × Sticky :=
  vFun f badNum (zeroNum false) (infNum true stDivZero) (infNum false stDivZero) fun n a d => if n then badNum else (rsqrtNum a d, 0)
def vExp2Fun (f : VF) : Nat → Nat × Sticky :=
  vFun f (zeroNum false) (infNum false) (oneNum false) (oneNum false) fun n a d => (exp2Num n a d, 0)
def vLog2Fun (f : VF) : Nat → Nat × Sticky :=
  vFun f badNum (infNum false) (infNum true) (infNum true) fun n a d => if n then badNum else (log2Num a d, 0)
def vTanhFun (f : VF) : Nat → Nat × Sticky :=
  vFun f (oneNum true) (oneNum false) (zeroNum true) (zeroNum false) fun n a d => (if n then (tanhNum a d).negate else tanhNum a d, 0)
def vSigmFun (f : VF) : Nat → Nat × Sticky :=
  vFun f (zeroNum false) (oneNum false) (.fin false 1 2, 0) (.fin false 1 2, 0) fun n a d => (sigmNum n a d, 0)

/-! ## Compares (R200, R201) -/

/-- A predicate written bit by bit under the guard (R200). -/
def Env.predOut (e : Env) (f : VF) (srcs : List Nat) (g : Nat → Bool) : Verdict :=
  e.vChecked f srcs (
    let act := e.active f
    let items : List VItem := (List.range 128).map fun i => { lane := i, bit := i, val := ((g i).toNat, 0) }
    .ok { writes := [wr .p (f.vd.toNat % 16) (writeVector act f.zero 1 (e.rp (f.vd.toNat % 16)) items) 2]
          post := fun s => s.countLanes e.sid (items.filter fun it => act it.bit).length })

/-- The lane that predicate bit i compares (R200). -/
def cmpLane (f : VF) (s i : Nat) : Nat := 32 / f.width * i + s

def Env.compare (e : Env) (f : VF) (fl : XNum → XNum → Bool) (ig : Int → Int → Bool) : Verdict :=
  let a := e.a f
  let b := e.b f
  e.predOut f (vRegs f [1, 2]) fun i =>
    let j := cmpLane f (f.vc.toNat % 4) i
    if f.tyF then fl (vNum f (a j)) (vNum f (b j)) else ig (vInt f (a j)) (vInt f (b j))

/-- The class bit of a float lane (R201). -/
def vClassBit (m : FFmt) (x : Nat) : Nat :=
  let e := x / 2 ^ m.mbits % 2 ^ m.ebits
  match decodeF m x with
  | .nan => 8
  | .inf n => if n then 0 else 7
  | .fin n a _ =>
    if a = 0 then (if n then 3 else 4)
    else if e = 0 then (if n then 2 else 5)
    else if n then 1 else 6

/-! ## Permutes (R203) -/

/-- The amount or index: VC, or lane 0 of the port (R203). -/
def Env.amount (e : Env) (f : VF) : Nat := if f.bpsel = 3 then e.bpLane .bits (vFmt f) f.width else f.vc.toNat

/-- Lanes moved whole. -/
def Env.permute (e : Env) (f : VF) (srcs : List Nat) (g : Nat → Nat) : Verdict :=
  e.vChecked f (f.vd.toNat :: srcs) (e.vOut f 4 f.width (eachLane f.width fun j => (g j, 0)))

/-! ## Reductions and scans (R204, R205) -/

/-- The scale at which every finite float of a type is an integer. -/
def sumScale : Nat := 2 ^ 160

/-- A sum under way: NaN seen, infinities of each sign seen, the exact finite sum, and whether every term is −0. -/
structure FSum where
  nan : Bool := false
  pinf : Bool := false
  ninf : Bool := false
  sum : Int := 0
  allNegZero : Bool := true
  deriving DecidableEq, Repr

def FSum.add (a : FSum) (x : XNum) : FSum :=
  match x with
  | .nan => { a with nan := true }
  | .inf n => if n then { a with ninf := true, allNegZero := false } else { a with pinf := true, allNegZero := false }
  | .fin n v d => { a with sum := a.sum + finInt n (v * sumScale / d), allNegZero := a.allNegZero && n && v == 0 }

/-- The rounded sum (R204). -/
def FSum.result (a : FSum) (f : VF) : Nat × Sticky :=
  let m := vFmt f
  if a.nan then (m.nanEnc, 0)
  else if a.pinf && a.ninf then (m.nanEnc, stNan)
  else if a.pinf then (m.infEnc, 0)
  else if a.ninf then (m.infEnc + m.signBit true, 0)
  else if a.sum = 0 then (m.signBit (a.allNegZero || vRnd f == .rdn), 0)
  else roundF m (vRnd f) .ieee (a.sum < 0) a.sum.natAbs sumScale

/-- The active lanes of va, in order. -/
def Env.activeLanes (e : Env) (f : VF) : List Nat :=
  let x := e.rv f.va.toNat
  (List.range (lanes f.width)).filterMap fun j => if e.active f (j * f.width / 32) then some (laneOf f.width x j) else none

/-- The whole of vd is written: lane 0 and zeros; with no active lane, lane 0 is vb[0] as it stands, a NaN's payload included
(DEDUCED, against R103; notes/assumptions/67.md), which `widen` makes a lane of the result (R204). -/
def Env.reduce (e : Env) (f : VF) (widen : Nat → Nat) (g : Nat → List Nat → Nat × Sticky) : Verdict :=
  e.vChecked f (f.vd.toNat :: vRegs f [1, 2]) (
    let xs := e.activeLanes f
    let r := if xs.isEmpty then (widen (e.b f 0), 0) else g (e.b f 0) xs
    .ok { writes := [wr .v f.vd.toNat r.1 8 r.2], post := fun s => s.countLanes e.sid xs.length })

def vRedAdd (f : VF) (b : Nat) (xs : List Nat) : Nat × Sticky :=
  if f.tyF then ((b :: xs).foldl (fun a x => a.add (vNum f x)) ({} : FSum)).result f
  else
    let r := satInt (if f.tyS then -(2 ^ 31) else 0) (if f.tyS then 2 ^ 31 - 1 else 2 ^ 32 - 1) (((b :: xs).map (vInt f)).sum)
    (toBits 32 r.1, r.2)

def vRedPick (f : VF) (larger : Bool) (b : Nat) (xs : List Nat) : Nat × Sticky := (xs.foldl (vPick f larger) (if f.tyF && (vNum f b).isNan then (vFmt f).nanEnc else b), 0)

/-- The scan of R205 over lanes from j up, with what the prefix holds so far: float sum, integer sum or pick. -/
def scanItems (f : VF) (act : Nat → Bool) (x : Nat) (op : Nat) : List Nat → FSum → Int → Nat → List VItem
  | [], _, _, _ => []
  | j :: js, fs, is, pk =>
    let bit := j * f.width / 32
    if act bit then
      let v := laneOf f.width x j
      let fs' := if f.tyF then fs.add (vNum f v) else fs
      let is' := is + vInt f v
      let pk' := vPick f (op == 2) pk v
      let val : Nat × Sticky :=
        if op = 0 then (if f.tyF then fs'.result f else (toBits f.width is', 0)) else (pk', 0)
      { lane := j, bit := bit, val := val } :: scanItems f act x op js fs' is' pk'
    else { lane := j, bit := bit, val := (0, 0) } :: scanItems f act x op js fs is pk

/-! ## Conversions (R206 to R209) -/

/-- The integer range of a format code (R104). -/
def fmtIntRange (fmt : Nat) : Int × Int :=
  match fmt with
  | 8 => (-127, 127)
  | 10 => (-7, 7)
  | _ => (-(2 ^ 31), 2 ^ 31 - 1)

/-- The value kinds of VCVT: a float format, or an integer with its width, signedness and range for a conversion into it. -/
inductive CvtKind where
  | flt (m : FFmt)
  | int (w : Nat) (signed : Bool) (lo hi : Int)
  deriving DecidableEq, Repr

def cvtType (f : VF) : CvtKind := if f.tyF then .flt (vFmt f) else .int f.width f.tyS (vMin f) (vMax f)

def cvtFmt (fmt : Nat) : CvtKind :=
  if fmtIsFloat fmt then .flt (ffmtOf fmt)
  else .int (fmtBits fmt) true (fmtIntRange fmt).1 (fmtIntRange fmt).2

/-- One conversion (R207). -/
def convert (src dst : CvtKind) (r : Rnd) (nanForm : Bool) (x : Nat) : Nat × Sticky :=
  match src, dst with
  | .flt a, .flt b => convertF b r (narrowing a b) nanForm (decodeF a x)
  | .flt a, .int w _ lo hi => let v := convertToInt r lo hi (decodeF a x)
    (toBits w v.1, v.2)
  | .int w s _ _, .flt b => convertF b r true nanForm (intNum (if s then sext w x else (x % 2 ^ w : Nat)))
  | .int w s _ _, .int w' _ lo hi => let v := satInt lo hi (if s then sext w x else (x % 2 ^ w : Nat))
    (toBits w' v.1, v.2)

/-- The scale of a block format lane: byte floor(i ÷ 4) of vb (R208, R209). -/
def Env.scaleByte (e : Env) (f : VF) (i : Nat) : Nat :=
  if f.bpsel = 2 then laneOf 8 (e.bpLane .bits fp32 32) (i / 4 % 4) else laneOf 8 (e.rv f.vb.toNat) (i / 4)

/-- The parameter word of a lane (R208, R209). -/
def Env.paramWord (e : Env) (f : VF) (i : Nat) : Nat :=
  if f.bpsel = 2 then e.bpLane .bits fp32 32 else laneOf 32 (e.rv f.vb.toNat) i

def isQ4 (fmt : Nat) : Bool := fmt == 11
def isBlock (fmt : Nat) : Bool := fmt == 12 || fmt == 13
/-- The code width of a quantised format. -/
def codeBits (fmt : Nat) : Nat := if fmt = 9 ∨ fmt = 12 then 8 else 4
def blockFmt (fmt : Nat) : FFmt := if fmt = 12 then e4m3 else e2m1

/-- One code of VQUANT (R208). -/
def Env.quantLane (e : Env) (f : VF) (i : Nat) : Nat × Sticky :=
  let x := decodeF fp32 (laneOf 32 (e.rv f.va.toNat) i)
  if isBlock f.fmt then
    (match sc8Val (e.scaleByte f i) with
      | none => (0, 0)
      | some (0, _) => (0, 0)
      | some (n, d) => convertF (blockFmt f.fmt) (vRnd f) true false (numDiv x false n d))
  else quantise x (e.paramWord f i) (isQ4 f.fmt) (vRnd f)

/-- One value of VDEQUANT (R209): exact in FP32. -/
def Env.dequantLane (e : Env) (f : VF) (i : Nat) : Nat × Sticky :=
  let q := laneOf (codeBits f.fmt) (e.rv f.va.toNat) (128 * (f.vc.toNat / 32) + i)
  let v := if isBlock f.fmt then blockElem (e.scaleByte f i) (blockFmt f.fmt) q else qElem (isQ4 f.fmt) (e.paramWord f i) q
  ((roundNum fp32 .rne v).1, 0)

/-- The SC8 bytes of VQUANT.scales: byte 32k + g for lanes 4g to 4g + 3, an inactive lane counting as +0 (R208). DEDUCED,
notes/assumptions/14.md: OVERFLOW is set wherever BlockConvert sets it, an element's overflow included. -/
def Env.scaleItems (e : Env) (f : VF) : List (Nat × Nat × Sticky) :=
  (List.range 32).map fun g =>
    let xs := (List.range 4).map fun i =>
      if e.active f (4 * g + i) then decodeF fp32 (laneOf 32 (e.rv f.va.toNat) (4 * g + i)) else .fin false 0 1
    let r := blockConvert (blockFmt f.fmt) (vRnd f) xs
    (32 * (f.vc.toNat / 32) + g, r.1, r.2.2 &&& stOverflow)

/-! ## Meanings -/

/-- VMOV: each active lane bit for bit (R197). -/
def fxVmov (f : VF) (e : Env) : Verdict := e.pick1 f 2 fun x => (x, 0)
def execVmov (f : VF) (s : State) : Result := s.issueAlone (.vmov f) (fxVmov f)

/-- VADD (R196). -/
def fxVadd (f : VF) (e : Env) : Verdict := e.arith2 f (numAdd (vRnd f)) fun a b => a + b
def execVadd (f : VF) (s : State) : Result := s.issueAlone (.vadd f) (fxVadd f)

/-- VSUB (R196). -/
def fxVsub (f : VF) (e : Env) : Verdict := e.arith2 f (fun a b => numAdd (vRnd f) a b.negate) fun a b => a - b
def execVsub (f : VF) (s : State) : Result := s.issueAlone (.vsub f) (fxVsub f)

/-- VMUL (R196). -/
def fxVmul (f : VF) (e : Env) : Verdict := e.arith2 f numMul fun a b => a * b
def execVmul (f : VF) (s : State) : Result := s.issueAlone (.vmul f) (fxVmul f)

/-- VFMA: a × b + c, fused (R196). -/
def fxVfma (f : VF) (e : Env) : Verdict := e.arith3 f (fun a b c => numAdd (vRnd f) (numMul a b) c) fun a b c => a * b + c
def execVfma (f : VF) (s : State) : Result := s.issueAlone (.vfma f) (fxVfma f)

/-- VFMS: a × b − c, fused (R196). -/
def fxVfms (f : VF) (e : Env) : Verdict := e.arith3 f (fun a b c => numAdd (vRnd f) (numMul a b) c.negate) fun a b c => a * b - c
def execVfms (f : VF) (s : State) : Result := s.issueAlone (.vfms f) (fxVfms f)

/-- VFNMA: c − a × b, fused (R196). -/
def fxVfnma (f : VF) (e : Env) : Verdict := e.arith3 f (fun a b c => numAdd (vRnd f) c (numMul a b).negate) fun a b c => c - a * b
def execVfnma (f : VF) (s : State) : Result := s.issueAlone (.vfnma f) (fxVfnma f)

/-- VMULH: the high half of the exact product (R197). -/
def fxVmulh (f : VF) (e : Env) : Verdict := e.pick2 f 2 fun a b => (toBits f.width (vInt f a * vInt f b / 2 ^ f.width), 0)
def execVmulh (f : VF) (s : State) : Result := s.issueAlone (.vmulh f) (fxVmulh f)

/-- VMIN (R197). -/
def fxVmin (f : VF) (e : Env) : Verdict := e.pick2 f (if f.tyF then 4 else 2) fun a b => (vPick f false a b, 0)
def execVmin (f : VF) (s : State) : Result := s.issueAlone (.vmin f) (fxVmin f)

/-- VMAX (R197). -/
def fxVmax (f : VF) (e : Env) : Verdict := e.pick2 f (if f.tyF then 4 else 2) fun a b => (vPick f true a b, 0)
def execVmax (f : VF) (s : State) : Result := s.issueAlone (.vmax f) (fxVmax f)

/-- VABS (R197). -/
def fxVabs (f : VF) (e : Env) : Verdict := e.pick1 f 2 fun a => (if f.tyF then (if (vNum f a).isNan then (vFmt f).nanEnc else a % 2 ^ (f.width - 1)) else toBits f.width (vInt f a).natAbs, 0)
def execVabs (f : VF) (s : State) : Result := s.issueAlone (.vabs f) (fxVabs f)

/-- VNEG (R197). -/
def fxVneg (f : VF) (e : Env) : Verdict := e.pick1 f 2 fun a => (if f.tyF then (if (vNum f a).isNan then (vFmt f).nanEnc else a ^^^ 2 ^ (f.width - 1)) else toBits f.width (-vInt f a), 0)
def execVneg (f : VF) (s : State) : Result := s.issueAlone (.vneg f) (fxVneg f)

/-- VADDSAT (R197). -/
def fxVaddsat (f : VF) (e : Env) : Verdict := e.pick2 f 2 fun a b => vClamp f (vInt f a + vInt f b)
def execVaddsat (f : VF) (s : State) : Result := s.issueAlone (.vaddsat f) (fxVaddsat f)

/-- VSUBSAT (R197). -/
def fxVsubsat (f : VF) (e : Env) : Verdict := e.pick2 f 2 fun a b => vClamp f (vInt f a - vInt f b)
def execVsubsat (f : VF) (s : State) : Result := s.issueAlone (.vsubsat f) (fxVsubsat f)

/-- VAVG: floor((a + b + 1) ÷ 2), exact (R197). -/
def fxVavg (f : VF) (e : Env) : Verdict := e.pick2 f 2 fun a b => (toBits f.width ((vInt f a + vInt f b + 1) / 2), 0)
def execVavg (f : VF) (s : State) : Result := s.issueAlone (.vavg f) (fxVavg f)

/-- VAND (R198). -/
def fxVand (f : VF) (e : Env) : Verdict := e.pick2 f 2 fun a b => (a &&& b, 0)
def execVand (f : VF) (s : State) : Result := s.issueAlone (.vand f) (fxVand f)

/-- VOR (R198). -/
def fxVor (f : VF) (e : Env) : Verdict := e.pick2 f 2 fun a b => (a ||| b, 0)
def execVor (f : VF) (s : State) : Result := s.issueAlone (.vor f) (fxVor f)

/-- VXOR (R198). -/
def fxVxor (f : VF) (e : Env) : Verdict := e.pick2 f 2 fun a b => (a ^^^ b, 0)
def execVxor (f : VF) (s : State) : Result := s.issueAlone (.vxor f) (fxVxor f)

/-- VANDN: a AND NOT b (R198). -/
def fxVandn (f : VF) (e : Env) : Verdict := e.pick2 f 2 fun a b => (a &&& (2 ^ f.width - 1 - b), 0)
def execVandn (f : VF) (s : State) : Result := s.issueAlone (.vandn f) (fxVandn f)

/-- VSHL by the low log2(w) bits of b (R198). -/
def fxVshl (f : VF) (e : Env) : Verdict := e.pick2 f 2 fun a b => (a * 2 ^ (b % f.width) % 2 ^ f.width, 0)
def execVshl (f : VF) (s : State) : Result := s.issueAlone (.vshl f) (fxVshl f)

/-- VSHR by the low log2(w) bits of b (R198). -/
def fxVshr (f : VF) (e : Env) : Verdict := e.pick2 f 2 fun a b => (if f.tyS then sraBits f.width a (b % f.width) else a / 2 ^ (b % f.width), 0)
def execVshr (f : VF) (s : State) : Result := s.issueAlone (.vshr f) (fxVshr f)

/-- VPOPC (R198). -/
def fxVpopc (f : VF) (e : Env) : Verdict := e.pick1 f 2 fun a => (popcount f.width a, 0)
def execVpopc (f : VF) (s : State) : Result := s.issueAlone (.vpopc f) (fxVpopc f)

/-- VCLZ (R198). -/
def fxVclz (f : VF) (e : Env) : Verdict := e.pick1 f 2 fun a => (leadZeros f.width a, 0)
def execVclz (f : VF) (s : State) : Result := s.issueAlone (.vclz f) (fxVclz f)

/-- VRCP (R199). -/
def fxVrcp (f : VF) (e : Env) : Verdict := e.pick1 f 12 (vRcpFun f)
def execVrcp (f : VF) (s : State) : Result := s.issueAlone (.vrcp f) (fxVrcp f)

/-- VRSQRT (R199). -/
def fxVrsqrt (f : VF) (e : Env) : Verdict := e.pick1 f 12 (vRsqrtFun f)
def execVrsqrt (f : VF) (s : State) : Result := s.issueAlone (.vrsqrt f) (fxVrsqrt f)

/-- VEXP2 (R199). -/
def fxVexp2 (f : VF) (e : Env) : Verdict := e.pick1 f 12 (vExp2Fun f)
def execVexp2 (f : VF) (s : State) : Result := s.issueAlone (.vexp2 f) (fxVexp2 f)

/-- VLOG2 (R199). -/
def fxVlog2 (f : VF) (e : Env) : Verdict := e.pick1 f 12 (vLog2Fun f)
def execVlog2 (f : VF) (s : State) : Result := s.issueAlone (.vlog2 f) (fxVlog2 f)

/-- VTANH (R199). -/
def fxVtanh (f : VF) (e : Env) : Verdict := e.pick1 f 12 (vTanhFun f)
def execVtanh (f : VF) (s : State) : Result := s.issueAlone (.vtanh f) (fxVtanh f)

/-- VSIGM (R199). -/
def fxVsigm (f : VF) (e : Env) : Verdict := e.pick1 f 12 (vSigmFun f)
def execVsigm (f : VF) (s : State) : Result := s.issueAlone (.vsigm f) (fxVsigm f)

/-- VCMPEQ (R200). -/
def fxVcmpeq (f : VF) (e : Env) : Verdict := e.compare f realEq fun a b => a == b
def execVcmpeq (f : VF) (s : State) : Result := s.issueAlone (.vcmpeq f) (fxVcmpeq f)

/-- VCMPNE (R200). -/
def fxVcmpne (f : VF) (e : Env) : Verdict := e.compare f (fun a b => !realEq a b) fun a b => a != b
def execVcmpne (f : VF) (s : State) : Result := s.issueAlone (.vcmpne f) (fxVcmpne f)

/-- VCMPLT (R200). -/
def fxVcmplt (f : VF) (e : Env) : Verdict := e.compare f realLt fun a b => a < b
def execVcmplt (f : VF) (s : State) : Result := s.issueAlone (.vcmplt f) (fxVcmplt f)

/-- VCMPLE (R200). -/
def fxVcmple (f : VF) (e : Env) : Verdict := e.compare f (fun a b => realLt a b || realEq a b) fun a b => a ≤ b
def execVcmple (f : VF) (s : State) : Result := s.issueAlone (.vcmple f) (fxVcmple f)

/-- VCLASS (R201). -/
def fxVclass (f : VF) (e : Env) : Verdict :=
  let a := e.a f
  e.predOut f (vRegs f [1]) fun i => bitOf f.vc.toNat (vClassBit (vFmt f) (a (cmpLane f (f.vb.toNat % 4) i)))
def execVclass (f : VF) (s : State) : Result := s.issueAlone (.vclass f) (fxVclass f)

/-- VSEL (R202). -/
def fxVsel (f : VF) (e : Env) : Verdict :=
  let a := e.a f
  let b := e.b f
  e.lanewise f [1, 2] 2 fun j => (if bitOf (e.rp (f.vc.toNat % 16)) j then a j else b j, 0)
def execVsel (f : VF) (s : State) : Result := s.issueAlone (.vsel f) (fxVsel f)

/-- VPERM (R203). -/
def fxVperm (f : VF) (e : Env) : Verdict :=
  let n := lanes f.width
  let a := e.rv f.va.toNat
  let c := e.rv f.vc.toNat
  let b := e.opnd f 2 f.vb .bits f.width
  e.permute f (vRegs f [1, 2, 3]) fun j =>
    let x := b j
    if x < n then laneOf f.width a x else if x < 2 * n then laneOf f.width c (x - n) else 0
def execVperm (f : VF) (s : State) : Result := s.issueAlone (.vperm f) (fxVperm f)

/-- VSLIDEUP (R203). -/
def fxVslideup (f : VF) (e : Env) : Verdict :=
  let n := lanes f.width
  let k := min (e.amount f) n
  let a := e.rv f.va.toNat
  let b := e.rv f.vb.toNat
  e.permute f [f.va.toNat, f.vb.toNat] fun j => if k ≤ j then laneOf f.width a (j - k) else laneOf f.width b (n - k + j)
def execVslideup (f : VF) (s : State) : Result := s.issueAlone (.vslideup f) (fxVslideup f)

/-- VSLIDEDN (R203). -/
def fxVslidedn (f : VF) (e : Env) : Verdict :=
  let n := lanes f.width
  let k := min (e.amount f) n
  let a := e.rv f.va.toNat
  let b := e.rv f.vb.toNat
  e.permute f [f.va.toNat, f.vb.toNat] fun j => if j + k < n then laneOf f.width a (j + k) else laneOf f.width b (j + k - n)
def execVslidedn (f : VF) (s : State) : Result := s.issueAlone (.vslidedn f) (fxVslidedn f)

/-- VBCAST (R203). -/
def fxVbcast (f : VF) (e : Env) : Verdict :=
  let k := e.amount f
  let v := if k < lanes f.width then laneOf f.width (e.rv f.va.toNat) k else 0
  e.permute f [f.va.toNat] fun _ => v
def execVbcast (f : VF) (s : State) : Result := s.issueAlone (.vbcast f) (fxVbcast f)

/-- VZIP (R203). -/
def fxVzip (f : VF) (e : Env) : Verdict :=
  let n := lanes f.width
  let h := f.vc.toNat % 2 * (n / 2)
  let a := e.rv f.va.toNat
  let b := e.rv f.vb.toNat
  e.permute f [f.va.toNat, f.vb.toNat] fun j => laneOf f.width (if j % 2 = 0 then a else b) (j / 2 + h)
def execVzip (f : VF) (s : State) : Result := s.issueAlone (.vzip f) (fxVzip f)

/-- VUNZIP (R203). -/
def fxVunzip (f : VF) (e : Env) : Verdict :=
  let n := lanes f.width
  let a := e.rv f.va.toNat
  let b := e.rv f.vb.toNat
  e.permute f [f.va.toNat, f.vb.toNat] fun j =>
    let i := 2 * j + f.vc.toNat % 2
    if i < n then laneOf f.width a i else laneOf f.width b (i - n)
def execVunzip (f : VF) (s : State) : Result := s.issueAlone (.vunzip f) (fxVunzip f)

/-- VREV (R203). -/
def fxVrev (f : VF) (e : Env) : Verdict :=
  let n := lanes f.width
  let a := e.rv f.va.toNat
  e.permute f [f.va.toNat] fun j => laneOf f.width a (n - 1 - j)
def execVrev (f : VF) (s : State) : Result := s.issueAlone (.vrev f) (fxVrev f)

/-- VREDADD (R204). -/
def fxVredadd (f : VF) (e : Env) : Verdict := e.reduce f (fun b => if f.tyF then b else toBits 32 (vInt f b)) (vRedAdd f)
def execVredadd (f : VF) (s : State) : Result := s.issueAlone (.vredadd f) (fxVredadd f)

/-- VREDMIN (R204). -/
def fxVredmin (f : VF) (e : Env) : Verdict := e.reduce f id (vRedPick f false)
def execVredmin (f : VF) (s : State) : Result := s.issueAlone (.vredmin f) (fxVredmin f)

/-- VREDMAX (R204). -/
def fxVredmax (f : VF) (e : Env) : Verdict := e.reduce f id (vRedPick f true)
def execVredmax (f : VF) (s : State) : Result := s.issueAlone (.vredmax f) (fxVredmax f)

/-- VSCAN (R205). -/
def fxVscan (f : VF) (e : Env) : Verdict :=
  let b := e.b f 0
  e.vChecked f (f.vd.toNat :: vRegs f [1, 2]) (e.vOut f 8 f.width (scanItems f (e.active f) (e.rv f.va.toNat) (f.vc.toNat % 4)
    (List.range (lanes f.width)) (({} : FSum).add (if f.tyF then vNum f b else .fin false 0 1)) (vInt f b)
    (if f.tyF && (vNum f b).isNan then (vFmt f).nanEnc else b)))
def execVscan (f : VF) (s : State) : Result := s.issueAlone (.vscan f) (fxVscan f)

/-- VCVT (R206, R207). -/
def fxVcvt (f : VF) (e : Env) : Verdict :=
  let from' := f.vc.getLsbD 4
  let wT := f.width
  let wF := cvtWidth f.fmt
  let w := max wT wF
  let n := 4096 / w
  let k := f.vc.toNat / 32 % 8
  let ws := if from' then wF else wT
  let wd := if from' then wT else wF
  let x := e.opnd f 1 f.va (vCls f) ws
  let src := if from' then cvtFmt f.fmt else cvtType f
  let dst := if from' then cvtType f else cvtFmt f.fmt
  e.vChecked f (f.vd.toNat :: vRegs f [1]) (e.vOut f 4 wd ((List.range n).map fun i =>
    { lane := if wd < w then k * n + i else i, bit := i * w / 32
      val := convert src dst (vRnd f) f.nan (x (if ws < w then k * n + i else i)) }))
def execVcvt (f : VF) (s : State) : Result := s.issueAlone (.vcvt f) (fxVcvt f)

/-- VQUANT: codes (R208). -/
def fxVquant (f : VF) (e : Env) : Verdict :=
  e.vChecked f (f.vd.toNat :: vRegs f [1, 2]) (e.vOut f 4 (codeBits f.fmt) ((List.range 128).map fun i =>
    { lane := 128 * (f.vc.toNat / 32) + i, bit := i, val := e.quantLane f i }))
def execVquant (f : VF) (s : State) : Result := s.issueAlone (.vquant f) (fxVquant f)

/-- VQUANT.scales: block scales; the operation lanes are the 128 lanes of va (R208). -/
def fxVquantScales (f : VF) (e : Env) : Verdict :=
  e.vChecked f [f.vd.toNat, f.va.toNat] (
    let items := e.scaleItems f
    .ok { writes := [wr .v f.vd.toNat (items.foldl (fun x it => setField x (8 * it.1) 8 it.2.1) (e.rv f.vd.toNat)) 4
            (items.foldl (fun st it => st ||| it.2.2) 0)]
          post := fun s => s.countLanes e.sid ((List.range 128).filter (e.active f)).length })
def execVquantScales (f : VF) (s : State) : Result := s.issueAlone (.vquantScales f) (fxVquantScales f)

/-- VDEQUANT (R209). -/
def fxVdequant (f : VF) (e : Env) : Verdict :=
  e.vChecked f (f.vd.toNat :: vRegs f [1, 2]) (e.vOut f 4 32 ((List.range 128).map fun i =>
    { lane := i, bit := i, val := e.dequantLane f i }))
def execVdequant (f : VF) (s : State) : Result := s.issueAlone (.vdequant f) (fxVdequant f)

/-- VPACK: 128 containers to 96 dense bytes (R210). -/
def fxVpack (f : VF) (e : Env) : Verdict :=
  let k := f.vc.toNat / 32 % 4
  let m := f.vc.toNat / 128
  let a := e.rv f.va.toNat
  e.vChecked f [f.vd.toNat, f.va.toNat] (.ok
    { writes := [wr .v f.vd.toNat (setField (e.rv f.vd.toNat) (768 * m) 768
        (packLanes 6 ((List.range 128).map fun i => laneOf 8 a (128 * k + i)))) 4]
      post := fun s => s.countLanes e.sid 128 })
def execVpack (f : VF) (s : State) : Result := s.issueAlone (.vpack f) (fxVpack f)

/-- VUNPACK: 96 dense bytes to 128 containers (R210). -/
def fxVunpack (f : VF) (e : Env) : Verdict :=
  let k := f.vc.toNat / 32 % 4
  let m := f.vc.toNat / 128
  let a := e.rv f.va.toNat / 2 ^ (768 * m)
  e.vChecked f [f.vd.toNat, f.va.toNat] (.ok
    { writes := [wr .v f.vd.toNat (setField (e.rv f.vd.toNat) (1024 * k) 1024
        (packLanes 8 ((List.range 128).map fun i => laneOf 6 a i))) 4]
      post := fun s => s.countLanes e.sid 128 })
def execVunpack (f : VF) (s : State) : Result := s.issueAlone (.vunpack f) (fxVunpack f)

/-- PAND (R211). -/
def fxPand (f : VF) (e : Env) : Verdict := okW [wr .p (f.vd.toNat % 16) ((e.rp (f.va.toNat % 16)) &&& (e.rp (f.vb.toNat % 16))) 2]
def execPand (f : VF) (s : State) : Result := s.issueAlone (.pand f) (fxPand f)

/-- POR (R211). -/
def fxPor (f : VF) (e : Env) : Verdict := okW [wr .p (f.vd.toNat % 16) ((e.rp (f.va.toNat % 16)) ||| (e.rp (f.vb.toNat % 16))) 2]
def execPor (f : VF) (s : State) : Result := s.issueAlone (.por f) (fxPor f)

/-- PXOR (R211). -/
def fxPxor (f : VF) (e : Env) : Verdict := okW [wr .p (f.vd.toNat % 16) ((e.rp (f.va.toNat % 16)) ^^^ (e.rp (f.vb.toNat % 16))) 2]
def execPxor (f : VF) (s : State) : Result := s.issueAlone (.pxor f) (fxPxor f)

/-- PANDN (R211). -/
def fxPandn (f : VF) (e : Env) : Verdict := okW [wr .p (f.vd.toNat % 16) ((e.rp (f.va.toNat % 16)) &&& (2 ^ 128 - 1 - (e.rp (f.vb.toNat % 16)))) 2]
def execPandn (f : VF) (s : State) : Result := s.issueAlone (.pandn f) (fxPandn f)

/-- PNOT (R211). -/
def fxPnot (f : VF) (e : Env) : Verdict := okW [wr .p (f.vd.toNat % 16) (2 ^ 128 - 1 - (e.rp (f.va.toNat % 16))) 2]
def execPnot (f : VF) (s : State) : Result := s.issueAlone (.pnot f) (fxPnot f)

/-- PFIRST: only the lowest set bit (R211). -/
def fxPfirst (f : VF) (e : Env) : Verdict := okW [wr .p (f.vd.toNat % 16) (if (e.rp (f.va.toNat % 16)) = 0 then 0 else 2 ^ trailZeros 128 (e.rp (f.va.toNat % 16))) 2]
def execPfirst (f : VF) (s : State) : Result := s.issueAlone (.pfirst f) (fxPfirst f)

end Sys2Proof.Machine
end

