-- ==== Sys2Proof/Machine/Scratch.lean ====
section
/-! DEFINITION. Scratchpad access of the L slots: scalar, vector, strided, gather and scatter forms (R123, R126, R216 to R219), and the view a
strand has of its own withheld stores (R73). -/

namespace Sys2Proof.Machine

open Sys2Proof

/-! ## Withheld stores as their strand sees them (R73, R221) -/

/-- The bytes of a list from index i replaced by others, as far as they meet. -/
def patch (bs : List Byte) (at_ : Int) (new : List Byte) : List Byte :=
  (List.range bs.length).map fun (j : Nat) =>
    let k : Int := Int.ofNat j - at_
    if 0 ≤ k then new.getD k.toNat (bs.getD j 0) else bs.getD j 0

/-- The offset of a withheld store from a place that is read, when both lie in one space. A store whose translation has not completed is told
by its virtual address. -/
def PStore.from? (p : PStore) (l : Loc) (ea : Nat) : Option Int :=
  match p.pend with
  | some a => (match l with
    | .hbm .. | .remote .. => some ((a : Int) - ea)
    | _ => none)
  | none => (match p.loc, l with
    | .spad c a, .spad c' b => if c = c' then some ((a : Int) - b) else none
    | .hbm a _, .hbm b _ => some ((a : Int) - b)
    | .phys a, .phys b => some ((a : Int) - b)
    | .remote h a _, .remote h' b _ => if h = h' then some ((a : Int) - b) else none
    | _, _ => none)

/-- What a later load of the same strand sees: the bytes of a place under the withheld stores of earlier bundles, in program order (R73). -/
def overlay (ps : List PStore) (l : Loc) (ea : Nat) (bs : List Byte) : List Byte :=
  ps.foldl (fun bs p => match p.from? l ea with
    | some d => patch bs d p.bytes
    | none => bs) bs

/-! ## Lanes of an L operation (R213) -/

/-- Is 32-bit lane j of a vector access active? -/
def Env.lact (e : Env) (f : LF) (j : Nat) : Bool := e.guardBit f.g j

/-- The active lanes of a vector access. -/
def Env.lactive (e : Env) (f : LF) : List Nat := (List.range 128).filter (e.lact f)

/-- The loaded lanes in a destination: an inactive lane is kept, or zero with OPX = 1 (R213). -/
def Env.mergeLanes (e : Env) (f : LF) (new : Nat → Nat) : Nat :=
  let old := e.rv f.reg.toNat
  packLanes 32 ((List.range 128).map fun j => if e.lact f j then new j else if f.opx then 0 else laneOf 32 old j)

/-- Runs of consecutive lanes: the first lane and the count. -/
def laneRuns : List Nat → List (Nat × Nat)
  | [] => []
  | j :: r => match laneRuns r with
    | (k, n) :: q => if k = j + 1 then (j, n + 1) :: q else (j, 1) :: (k, n) :: q
    | [] => [(j, 1)]

/-- The 512 bytes that a vector store holds: the register, or the port's value in every 8-byte word (R212). -/
def Env.vdata (e : Env) (f : LF) : List Byte :=
  if f.bpd then (List.replicate 64 (leBytes 8 e.bpWord)).flatten else leBytes 512 (e.rv f.reg.toNat)

/-- The register bound of a vector access (R79, R213): the guard suppresses it with the rest when no lane is active and nothing is zeroed. -/
def Env.lvBound (e : Env) (f : LF) (rs : List Nat) (zeroes : Bool) (k : Verdict) : Verdict :=
  if zeroes || !(e.lactive f).isEmpty then e.vBound rs k else nothing

/-! ## Checks -/

/-- The ENGINE granules that bytes touch, as waits (R25, R126). -/
def Env.engWaits (e : Env) (off n : Nat) : List Wait :=
  (granules off n).filterMap fun g => if (((e.s.cluster e.cl).gran g).eng).isSome then some (.granule e.cl g) else none

/-- An uncorrectable or poisoned scratchpad sector ends a load with MEMUE (R439). -/
def Env.spadUe (e : Env) (off : Nat) : Verdict :=
  e.fault { cause := cMemUe, addr := off % 2 ^ 48, ue := some (.spoison, .spad e.cl off) } 0

/-- A write at once of n bytes of the scratchpad, checked: of a poisoned sector in part it ends the request with POISON (R440). -/
def Env.spadPut (e : Env) (off n : Nat) (k : Verdict) : Verdict :=
  if e.s.spadPartPoison e.cl off (List.replicate n 0) then e.fault { cause := cPoison, addr := off % 2 ^ 48, ue := some (.spoison, .spad e.cl off) } 1 else k

/-- The bytes of the scratchpad as this strand sees them. -/
def Env.spadBytes (e : Env) (off n : Nat) : List Byte :=
  overlay e.t.stores (.spad e.cl off) off (getBytes (e.s.cluster e.cl).bytes off n)

/-- A scratchpad load of n bytes at one place (R123, R126, R214). -/
def Env.spadLoad (e : Env) (off n align : Nat) (k : List Byte → Verdict) : Verdict :=
  match e.s.spadCheck e.sid off n align with
  | some c => e.trap c 0 off
  | none =>
    if !(e.engWaits off n).isEmpty then .block (e.engWaits off n) id
    else if e.s.spadPoisoned e.cl off n then e.spadUe off
    else k (e.spadBytes off n)

/-- The place of a withheld scratchpad store. A poisoned sector that it covers in part is met as its region commits (`State.storeFault`; R337, R440). -/
def Env.spadStore (e : Env) (off : Nat) (bs : List Byte) : PStore :=
  { loc := .spad e.cl off, bytes := bs, slot := e.slot }

/-- A first failing check over several places of four bytes, class by class (R214, R218). -/
def Env.lanesCheck (e : Env) (store : Bool) (as : List Nat) : Option (Nat × Nat) :=
  let first (p : Nat → Option Nat) : Option (Nat × Nat) := as.findSome? fun a => (p a).map fun c => (c, a)
  (first fun a => if a % 4 ≠ 0 then some cAlign else none).orElse fun _ =>
    (first fun a => e.s.spadCheck e.sid a 4 4).orElse fun _ =>
      if store then first fun a => e.s.spadStoreCheck e.sid a 4 4 else none

/-! ## Scalar accesses (R216) -/

/-- LDS: n bytes, extended. -/
def Env.lds (e : Env) (f : LF) (n : Nat) (signed : Bool) : Verdict :=
  e.guarded f (e.spadLoad (e.ea f) n n fun bs =>
    okW [wr .x (f.reg.toNat % 64) (if signed then signExt64 n (leNat bs) else leNat bs) 6])

/-- STS: n bytes. -/
def Env.sts (e : Env) (f : LF) (n : Nat) : Verdict :=
  e.guarded f (e.withData f fun v => match e.s.spadStoreCheck e.sid (e.ea f) n n with
    | some c => e.trap c 0 (e.ea f)
    | none => .ok { stores := [e.spadStore (e.ea f) (leBytes n v)] })

/-- NOP of the L slot (R91). -/
def fxLNop (_ : LF) (_ : Env) : Verdict := nothing
def execLNop (f : LF) (s : State) : Result := s.issueAlone (.lNop f) (fxLNop f)

/-- LDS.s8 (R216). -/
def fxLdsS8 (f : LF) (e : Env) : Verdict := e.lds f 1 true
def execLdsS8 (f : LF) (s : State) : Result := s.issueAlone (.ldsS8 f) (fxLdsS8 f)

/-- LDS.n8 (R216). -/
def fxLdsN8 (f : LF) (e : Env) : Verdict := e.lds f 1 false
def execLdsN8 (f : LF) (s : State) : Result := s.issueAlone (.ldsN8 f) (fxLdsN8 f)

/-- LDS.s16 (R216). -/
def fxLdsS16 (f : LF) (e : Env) : Verdict := e.lds f 2 true
def execLdsS16 (f : LF) (s : State) : Result := s.issueAlone (.ldsS16 f) (fxLdsS16 f)

/-- LDS.n16 (R216). -/
def fxLdsN16 (f : LF) (e : Env) : Verdict := e.lds f 2 false
def execLdsN16 (f : LF) (s : State) : Result := s.issueAlone (.ldsN16 f) (fxLdsN16 f)

/-- LDS.s32 (R216). -/
def fxLdsS32 (f : LF) (e : Env) : Verdict := e.lds f 4 true
def execLdsS32 (f : LF) (s : State) : Result := s.issueAlone (.ldsS32 f) (fxLdsS32 f)

/-- LDS.n32 (R216). -/
def fxLdsN32 (f : LF) (e : Env) : Verdict := e.lds f 4 false
def execLdsN32 (f : LF) (s : State) : Result := s.issueAlone (.ldsN32 f) (fxLdsN32 f)

/-- LDS.b64 (R216). -/
def fxLdsB64 (f : LF) (e : Env) : Verdict := e.lds f 8 false
def execLdsB64 (f : LF) (s : State) : Result := s.issueAlone (.ldsB64 f) (fxLdsB64 f)

/-- STS.b8 (R216). -/
def fxStsB8 (f : LF) (e : Env) : Verdict := e.sts f 1
def execStsB8 (f : LF) (s : State) : Result := s.issueAlone (.stsB8 f) (fxStsB8 f)

/-- STS.b16 (R216). -/
def fxStsB16 (f : LF) (e : Env) : Verdict := e.sts f 2
def execStsB16 (f : LF) (s : State) : Result := s.issueAlone (.stsB16 f) (fxStsB16 f)

/-- STS.b32 (R216). -/
def fxStsB32 (f : LF) (e : Env) : Verdict := e.sts f 4
def execStsB32 (f : LF) (s : State) : Result := s.issueAlone (.stsB32 f) (fxStsB32 f)

/-- STS.b64 (R216). -/
def fxStsB64 (f : LF) (e : Env) : Verdict := e.sts f 8
def execStsB64 (f : LF) (s : State) : Result := s.issueAlone (.stsB64 f) (fxStsB64 f)

/-! ## Vector accesses (R217 to R219) -/

/-- LDSV: the lanes of 512 bytes (R217). -/
def fxLdsv (f : LF) (e : Env) : Verdict :=
  e.lvBound f [f.reg.toNat] f.opx (
    let off := e.ea f
    let done := fun (bs : List Byte) =>
      let x := leNat bs
      okW [wr .v f.reg.toNat (e.mergeLanes f fun j => laneOf 32 x j) 8]
    if (e.lactive f).isEmpty then done []
    else match e.s.spadCheck e.sid off 512 512 with
      | some c => e.trap c 0 off
      | none =>
        if !(e.engWaits off 512).isEmpty then .block (e.engWaits off 512) id
        else match (e.lactive f).find? fun j => e.s.spadPoisoned e.cl (off + 4 * j) 4 with
          | some j => e.spadUe (off + 4 * j)
          | none => done (e.spadBytes off 512))
def execLdsv (f : LF) (s : State) : Result := s.issueAlone (.ldsv f) (fxLdsv f)

/-- STSV: the bytes of active lanes (R217). -/
def fxStsv (f : LF) (e : Env) : Verdict :=
  e.lvBound f (if f.bpd then [] else [f.reg.toNat]) false (
    let off := e.ea f
    let runs := laneRuns (e.lactive f)
    let bs := e.vdata f
    let k : Verdict := match e.s.spadCheck e.sid off 512 512 with
      | some c => e.trap c 0 off
      | none => match runs.find? fun r => (e.s.spadStoreCheck e.sid (off + 4 * r.1) (4 * r.2) 4).isSome with
        | some r => e.trap cOwner 0 (off + 4 * r.1)
        | none => .ok { stores := runs.map fun r => e.spadStore (off + 4 * r.1) ((bs.drop (4 * r.1)).take (4 * r.2)) }
    if runs.isEmpty then nothing else if f.bpd then e.bpBound k else k)
def execStsv (f : LF) (s : State) : Result := s.issueAlone (.stsv f) (fxStsv f)

/-- A load of active lanes from one place each (R218, R219). -/
def Env.loadLanes (e : Env) (f : LF) (addr : Nat → Nat) : Verdict :=
  let as := (e.lactive f).map addr
  match e.lanesCheck false as with
  | some (c, a) => e.trap c 0 a
  | none =>
    let ws := (as.flatMap fun a => e.engWaits a 4).dedup
    if !ws.isEmpty then .block ws id
    else match as.find? fun a => e.s.spadPoisoned e.cl a 4 with
      | some a => e.spadUe a
      | none => okW [wr .v f.reg.toNat (e.mergeLanes f fun j => leNat (e.spadBytes (addr j) 4)) 8]

/-- A store of active lanes to one place each, the higher lane last (R218, R219). -/
def Env.storeLanes (e : Env) (f : LF) (addr : Nat → Nat) : Verdict :=
  match e.lanesCheck true ((e.lactive f).map addr) with
  | some (c, a) => e.trap c 0 a
  | none =>
    let x := e.rv f.reg.toNat
    .ok { stores := (e.lactive f).map fun j => e.spadStore (addr j) (leBytes 4 (laneOf 32 x j)) }

/-- Lane j's place of a strided access (R218). -/
def Env.strided (e : Env) (f : LF) (j : Nat) : Nat := toBits 64 ((e.rx f.xbase.toNat : Int) + (j : Int) * sext 16 f.off.toNat)

/-- A stride that is no multiple of 4 traps ILLEGAL unless no lane is active (R213, R218). -/
def Env.strideOk (e : Env) (f : LF) (k : Verdict) : Verdict :=
  if f.off.toNat % 4 ≠ 0 && !(e.lactive f).isEmpty then e.trap cIllegal else k

/-- LDSVS (R218). -/
def fxLdsvs (f : LF) (e : Env) : Verdict := e.lvBound f [f.reg.toNat] f.opx (e.strideOk f (e.loadLanes f (e.strided f)))
def execLdsvs (f : LF) (s : State) : Result := s.issueAlone (.ldsvs f) (fxLdsvs f)

/-- STSVS (R218). -/
def fxStsvs (f : LF) (e : Env) : Verdict := e.lvBound f [f.reg.toNat] false (e.strideOk f (e.storeLanes f (e.strided f)))
def execStsvs (f : LF) (s : State) : Result := s.issueAlone (.stsvs f) (fxStsvs f)

/-- GATHER: each lane's offset stands in the destination (R219). -/
def fxGather (f : LF) (e : Env) : Verdict :=
  e.lvBound f [f.reg.toNat] f.opx (
    let u := e.rv f.reg.toNat
    e.loadLanes f fun j => (e.ea f + laneOf 32 u j) % 2 ^ 64)
def execGather (f : LF) (s : State) : Result := s.issueAlone (.gather f) (fxGather f)

/-- SCATTER: each lane's offset stands in the next register (R219). -/
def fxScatter (f : LF) (e : Env) : Verdict :=
  e.lvBound f [f.reg.toNat, f.reg.toNat + 1] false (
    let u := e.rv (f.reg.toNat + 1)
    e.storeLanes f fun j => (e.ea f + laneOf 32 u j) % 2 ^ 64)
def execScatter (f : LF) (s : State) : Result := s.issueAlone (.scatter f) (fxScatter f)

end Sys2Proof.Machine
end

