-- ==== Sys2Proof/Machine/Registers.lean ====
section
/-! DEFINITION. What the registers of control space read as: the distaff (R331), the debug units (R352), the translation units (R361), the
partitions and channel floors (R370, R371, R376), the key engine (R384), the ports and reach tables (R403, R416), the roving engines
(R424), and the report and error-log units (R429, R437). -/

namespace Sys2Proof.Machine

open Sys2Proof

/-- DQENT (R322): the oldest save or restore request. -/
def Die.dqent (x : Die) : Nat := (x.dq.headD 0).toNat

/-- HQENT (R327): the function, VALID and the submission index, which is the entry's index in its ring. -/
def State.hqentWord (s : State) : Nat :=
  match (s.die 0).hqent with
  | some (fn, idx) => fn % 64 + 2 ^ 15 + idx % 2 ^ (s.fn fn).sqlog.toNat * 2 ^ 16
  | none => 0

/-- Registers of the distaff (R331), but for HQENT. -/
def Die.distaffWord (x : Die) (o : Nat) : Nat :=
  match o with
  | 0x00 => x.mctbase.toNat
  | 0x08 => x.quant.toNat
  | 0x10 => x.dqent
  | _ =>
    if 0x40 ≤ o ∧ o < 0x80 then leNat ((x.hqbuf.drop (o - 0x40)).take 8)
    else if 0x1000 ≤ o ∧ o < 0x2000 then
      let c := (o - 0x1000) / 8
      (mget 1 x.weight c).toNat + toBits 48 (mget 0 x.deficit c) * 2 ^ 16
    else if 0x2000 ≤ o ∧ o < 0x2100 then
      let q := (o - 0x2000) / 8
      (mget 0 x.wdogLimit q).toNat + mget 0 x.wdogCount q / 1024 % 2 ^ 32 * 2 ^ 32
    else 0

/-- Registers of the debug unit (R352). -/
def Die.debugWord (x : Die) (o : Nat) : Nat :=
  match o with
  | 0x00 => x.dbgMcx.toNat + x.dbgHold.toNat * 2 ^ 14 + x.dbgBrk.toNat * 2 ^ 15 + x.dbgStep.toNat * 2 ^ 16 + x.dbgTarget.toNat * 2 ^ 18
  | 0x08 => x.dbgStopped.toNat + x.dbgReason.toNat * 2 + x.dbgNoissue.toNat * 2 ^ 9
  | _ => 0

/-- Entries posted and not closed (R361, R365). -/
def Die.openFaults (x : Die) : Nat := (x.faults.filter fun e => e.posted.isSome).length

/-- Registers of the translation unit (R361). -/
def Die.translationWord (x : Die) (o : Nat) : Nat :=
  match o with
  | 0x00 => x.fqbase.toNat
  | 0x08 => x.fqlog.toNat
  | 0x10 => x.fqposted.toNat + x.openFaults % 2 ^ 16 * 2 ^ 32
  | 0x18 => x.shdir.toNat
  | 0x20 => x.modnum.toNat
  | _ => 0

/-- Registers of a partition (R370). -/
def Part.word (q : Part) (o : Nat) : Nat :=
  match o with
  | 0x00 => q.enable.toNat + q.die.toNat * 2 + q.clusters.toNat * 2 ^ 3 + q.freq.toNat * 2 ^ 16 + q.pstate.toNat * 2 ^ 22
  | 0x08 => q.cap.toNat
  | 0x10 => q.idlewait.toNat
  | 0x18 => q.curfreq.toNat + q.istate.toNat * 2 ^ 6 + q.throttle.toNat * 2 ^ 8
  | 0x20 => q.avg.toNat
  | 0x40 => (mget 0 q.scmask 0).toNat
  | 0x48 => (mget 0 q.scmask 1).toNat
  | 0x50 => (mget 0 q.scmask 2).toNat
  | 0x60 => q.vfmask.toNat
  | _ => 0

/-- The floor and burst of a partition on a channel (R376). -/
def Chan.floorOf (c : Chan) (q : Nat) : Nat := (mget 0 c.floor q).toNat
def Chan.burstOf (c : Chan) (q : Nat) : Nat := (mget 16 c.burst q).toNat
/-- The sum of a channel's floors (R376). -/
def Chan.floorSum (c : Chan) : Nat := ((List.range 32).map c.floorOf).sum

/-- Registers of the partition unit (R370, R371, R376). -/
def State.partitionWord (s : State) (o : Nat) : Nat :=
  if o < 0x2000 then (s.part (o / 0x100)).word (o % 0x100)
  else if o = 0xF000 then s.modcap.toNat
  else if o = 0xF008 then s.perr.toNat
  else if 0x10000 ≤ o ∧ o < 0x28000 then
    let k := (o - 0x10000) / 8
    (s.chan (k / 32)).floorOf (k % 32) + (s.chan (k / 32)).burstOf (k % 32) * 2 ^ 16
  else if 0x30000 ≤ o ∧ o < 0x30C00 then (s.chan ((o - 0x30000) / 8)).floorSum
  else 0

/-- Registers of the key engine (R384). -/
def KeyEng.word (k : KeyEng) (o : Nat) : Nat :=
  match o with
  | 0x08 => k.kaddr.toNat
  | 0x10 => k.karg.toNat
  | 0x18 => k.cmd.isSome.toNat + k.result.toNat * 2 ^ 8
  | 0x20 => k.lcs.toNat + k.dbg.toNat * 2 ^ 3 + k.dbgten.toNat * 2 ^ 5 + k.svnmin.toNat * 2 ^ 21
  | 0x28 => k.devid.toNat
  | _ => 0

/-- Registers of a port (R403). -/
def Port.word (p : Port) (o : Nat) : Nat :=
  match o with
  | 0x00 => p.mac.toNat
  | 0x08 => p.ip4.toNat
  | 0x10 => p.ip6lo.toNat
  | 0x18 => p.ip6hi.toNat
  | 0x20 => p.cfg.toNat
  | 0x28 => p.rate.toNat
  | 0x1F8 => p.dropRate.toNat
  | _ => if 0x100 ≤ o ∧ o < 0x1F8 then (mget 0 p.drops ((o - 0x100) / 8)).toNat else 0

/-- Registers of a die's ports and its reach table (R403, R416). Each die holds the same reach table. -/
def State.portWord (s : State) (d o : Nat) : Nat :=
  if o < 0x2000 then (s.port (2 * d + o / 0x1000)).word (o % 0x1000)
  else if o = 0x7000 then (s.die d).reachTmo.toNat
  else if 0x8000 ≤ o ∧ o < 0x8800 then
    let r := mget (0, false) s.reach ((o - 0x8000) / 32)
    (match (o - 0x8000) % 32 with
      | 0 => r.1.toNat % 2 ^ 64
      | 8 => r.1.toNat / 2 ^ 64
      | 16 => r.2.toNat
      | _ => 0)
  else 0

/-- Registers of the roving engine (R424). -/
def Die.rovingWord (x : Die) (o : Nat) : Nat :=
  match o with
  | 0x00 => x.rvbase.toNat
  | 0x08 => x.rvlog.toNat
  | 0x10 => x.rvtail.toNat
  | 0x18 => x.rvhead.toNat
  | _ => 0

/-- Registers of the report unit (die 0) and of the error log (R429, R437). -/
def State.counterWord (s : State) (d o : Nat) : Nat :=
  let x := s.die d
  match o with
  | 0x08 => if d = 0 then s.keng.lraddr.toNat else 0
  | 0x10 => if d = 0 then s.keng.lrcmd.isSome.toNat + s.keng.lrresult.toNat * 2 ^ 8 else 0
  | 0x100 => x.elbase.toNat
  | 0x108 => x.ellog.toNat
  | 0x110 => x.elidx.toNat
  | 0x118 => x.cecnt.toNat
  | 0x120 => x.cethr.toNat
  | _ => 0

/-- The register at an 8-byte aligned address of control space; an unassigned address reads as zero (R286). -/
def State.regWord (s : State) (a : Nat) : Nat :=
  let o := a % 2 ^ 40
  let d := a / 2 ^ 40 % 4
  match a / 2 ^ 42 with
  | 0x10 => if o = 0x20 then (if d = 0 then s.hqentWord else 0) else (s.die d).distaffWord o
  | 0x11 => (s.die d).debugWord o
  | 0x12 => (s.die d).translationWord o
  | 0x13 => if d = 0 then s.partitionWord o else 0
  | 0x14 => if d = 0 then s.keng.word o else 0
  | 0x15 => s.portWord d o
  | 0x16 => (s.die d).rovingWord o
  | 0x17 => s.counterWord d o
  | _ => 0

/-- A load of 1, 2, 4 or 8 aligned bytes of control space (R286). -/
def State.regRead (s : State) (a n : Nat) : List Byte := (leBytes 8 (s.regWord (a / 8 * 8))).drop (a % 8) |>.take n

end Sys2Proof.Machine
end

