-- ==== Sys2Proof/Machine/Global.lean ====
section
/-! DEFINITION. Global access of the L slots: blocking loads, withheld stores, and the atomics with their release tags (R142 to R149, R220 to
R223, R286). -/

namespace Sys2Proof.Machine

open Sys2Proof

/-! ## Sync objects and release tags (R144 to R149) -/

/-- A doubleword of an image's segments, as the distaff reads it (R146, R314), or its fault. -/
def State.imageRead (s : State) (mcx ea : Nat) : Except MemFault Nat :=
  match s.translate mcx ea .fetch with
  | .ok (e, lvl) => (s.readPlace (s.placeOf ea e lvl) 8).map leNat
  | .error f => .error f

/-- The reads of doublewords of an image are charged (R373). -/
def State.chargeImage (s : State) (mcx : Nat) (eas : List Nat) : State := eas.foldl (fun s ea => s.chargeAt none mcx ea 8 .fetch) s

def State.imageWord (s : State) (mcx ea : Nat) : Nat := (s.imageRead mcx ea).toOption.getD 0

/-- Several doublewords of an image, or the fault of the first that has one. -/
def State.imageWords (s : State) (mcx : Nat) : List Nat → Except MemFault (List Nat)
  | [] => .ok []
  | ea :: r => match s.imageRead mcx ea, State.imageWords s mcx r with
    | .error f, _ => .error f
    | _, .error f => .error f
    | .ok w, .ok ws => .ok (w :: ws)

/-- The objects of an image's sync table (R146). -/
def State.syncCount (s : State) (mcx : Nat) : Nat := s.hw mcx 11 / 2 ^ 48 % 2 ^ 9

/-- D0 of sync object i's record (R145): as the bind has loaded it, until the group is released (R146, R314). -/
def State.syncD0 (s : State) (mcx i : Nat) : Nat :=
  match (s.group mcx).bind fun g => g.sync with
  | some ws => (ws.getD i 0).toNat
  | none => s.imageWord mcx (s.hw mcx 11 % 2 ^ 48 + 64 * i)

/-- Is a word the word of a declared sync object (R148)? -/
def State.isSync (s : State) (mcx : Nat) (spad : Bool) (ea : Nat) : Bool :=
  (List.range (s.syncCount mcx)).any fun i => s.syncD0 mcx i % 2 ^ 48 == ea && bitOf (s.syncD0 mcx i) 48 == spad

/-- The skeins that a strand is a member of (R32). -/
def State.skeinsOf (s : State) (sid : Nat) : List Nat :=
  match s.group (s.mcxOf sid) with
  | none => []
  | some g => g.skeins.filterMap fun p => if p.2.members.contains sid then some p.1 else none

/-- The strands that share a skein with a strand (R32). -/
def State.matesOf (s : State) (sid : Nat) : List Nat :=
  match s.group (s.mcxOf sid) with
  | none => []
  | some g => (g.skeins.flatMap fun p => if p.2.members.contains sid then p.2.members else []).dedup

/-- The scope of an operation that a strand issues now (R144). -/
def State.scopeAt (s : State) (sid scope : Nat) : ScopeAt := { scope := scope, mcx := s.mcxOf sid, skeins := s.skeinsOf sid, mates := s.matesOf sid }

/-- Are two strands members of one skein, each as its own operation found its memberships at issue? -/
def ScopeAt.shares (a b : ScopeAt) : Bool := a.mcx == b.mcx && a.skeins.any fun k => b.skeins.contains k

/-- Do the scopes of two strands, other than .skein, include each other's party (R144)? -/
def scopeReaches (q p scope : Nat) : Bool :=
  match scope with
  | 0 => q == p
  | 2 => clusterOf q == clusterOf p
  | 3 => dieOf q == dieOf p
  | _ => true

/-- Does the scope of the release that set a tag include the strand that acquires at `a` (R144, R149)? -/
def RelTag.includes (t : RelTag) (sid : Nat) (a : ScopeAt) : Bool := if t.sc.scope = 1 then t.sid == sid || t.sc.shares a else scopeReaches t.sid sid t.sc.scope

/-- Does the scope `a` of a strand's acquire include the strand that released (R144, R149)? A .skein release is known by the memberships of its tag, and any
other releaser is looked for among the strands that shared a skein at the acquire's issue (notes/assumptions/52.md). -/
def RelTag.includedBy (t : RelTag) (sid : Nat) (a : ScopeAt) : Bool :=
  if a.scope = 1 then t.sid == sid || (if t.sc.scope = 1 then t.sc.shares a else a.mcx == t.sc.mcx && a.mates.contains t.sid)
  else scopeReaches sid t.sid a.scope

/-- The tag of an atomic on a remote sync word that has been sent and not yet answered (notes/assumptions/52.md). -/
def State.pendingTag (s : State) (l : Loc) (v : Nat) : Option RelTag :=
  s.reachReqs.findSome? fun p => p.2.bind fun q =>
    match q.sync with
    | some sc => if q.kind == 3 && l == .remote q.home q.pa q.key then some { sid := q.who, sc := sc, val := v } else none
    | none => none

/-- The release tag of a word that holds a value. A remote word may have been written by others: a tag counts while the word holds what the release wrote, or
while an atomic on it is under way (notes/assumptions/52.md). -/
def State.relTag (s : State) (l : Loc) (v : Nat) : Option RelTag :=
  match l.tagFor v with
  | some k => ((mget none s.reltags k).filter fun t => t.val == v).orElse fun _ => s.pendingTag l v
  | none => none

/-- Does an acquire of a strand, with its scope at issue, meet a release whose scopes do not match (R149)? -/
def scopeMiss (sid : Nat) (a : ScopeAt) (t : Option RelTag) : Bool := t.any fun t => !(t.includes sid a && t.includedBy sid a)

/-- A release sets the tag of the word it writes, with its scope at issue (R149). -/
def State.setTag (s : State) (sid : Nat) (sc : ScopeAt) (l : Loc) (v : Nat) : State :=
  match l.tagFor v with
  | some k => { s with reltags := mset none s.reltags k (some { sid := sid, sc := sc, val := v }) }
  | none => s

/-- The sticky bit of an acquire (R149). -/
def missBit (b : Bool) : Sticky := if b then stScopeMiss else 0

/-! ## Places -/

/-- The place of a global access of this strand, with the reach check of remote pages (R369, R416). -/
def Env.gplace (e : Env) (ea : Nat) (c : AccClass) (access : Nat) (k : Place → Verdict) : Verdict :=
  match e.s.place e.sid ea c with
  | .error f => e.fault f access
  | .ok (pl, _) => match pl.loc with
    | .remote home _ _ => if e.s.reachable home then k pl else e.fault { cause := cProt, addr := ea, remote := true } access
    | _ => k pl

/-- The translation that an access made stays in the TLBs (R363). -/
def State.touch (s : State) (sid ea : Nat) (c : AccClass) : State :=
  match s.place sid ea c with
  | .ok (_, s') => s'
  | .error _ => s

/-- Which pending result of a strand an answer fills: its register, with v registers after the x registers. -/
def respKey (f : RFile) (r : Nat) : Nat :=
  match f with
  | .x => r
  | .v => 64 + r
  | .p => 1024 + r
  | .d => 2048 + r

/-- An after-issue block on the result of a memory access (R25). -/
def awaitMem (rs : List RW) (early : State → State) (firm : Bool := false) (ws : List Wait := [.resp]) : Verdict :=
  .ok { early := early, waits := ws, resp := rs, firm := firm }

/-- A sector read of a remote page: the message, and what of its answer goes where (R414, R415). -/
def Env.readReq (e : Env) (home key pa ea n slot bit sx : Nat) : ReachReq :=
  { kind := 1, home := home, key := key, pa := pa, mcx := e.mcx, who := e.sid, ea := ea, slot := slot
    fill := [(pa % 128, n, bit)], sx := sx, lslot := e.slot, boost := hdrBl e.hdr != 0 }

/-- The tags that the next messages of this strand's die will carry. -/
def Env.reachWaits (e : Env) (n : Nat) : List Wait :=
  (List.range n).map fun i => .reach (dieOf e.sid) ((e.now.die (dieOf e.sid)).reachTag + BitVec.ofNat 16 i).toNat

/-- The messages sent, in order. -/
def State.sendAll (s : State) (d : Nat) (qs : List ReachReq) : State := qs.foldl (fun s q => (s.reachRequest d q 0 0 none).1) s

/-! ## Loads (R220) -/

/-- A blocking scalar load of n bytes. -/
def Env.ldg (e : Env) (f : LF) (n : Nat) (signed : Bool) : Verdict :=
  e.guarded f (
    let ea := e.ea f
    let r := f.reg.toNat % 64
    let out := fun (bs : List Byte) => [wr .x r (if signed then signExt64 n (leNat bs) else leNat bs) 1]
    if ea % n ≠ 0 then e.trap cAlign 0 ea
    else e.gplace ea .read 0 fun pl =>
      match pl.loc with
      | .ctrl a => awaitMem (out (e.s.regRead a n)) id
      | .remote home pa key =>
        awaitMem [wr .x r 0 1] (fun s => (s.touch e.sid ea .read).sendAll (dieOf e.sid)
          [e.readReq home key pa ea n (respKey .x r) 0 (if signed then n else 0)]) false (e.reachWaits 1)
      | l => match e.s.readPlace pl n with
        | .error g => e.fault g 0
        | .ok bs => awaitMem (out (overlay e.t.stores l ea bs)) fun s => (s.touch e.sid ea .read).charge e.sid pl n .read)

/-- The bytes of the sectors of a vector access that hold an active lane; the others are not read. -/
def Env.readSectors (e : Env) (f : LF) (pl : Place) : Except MemFault (List Byte) :=
  (List.range 4).foldl (fun r k => match r with
    | .error g => .error g
    | .ok bs =>
      if (List.range 32).any fun j => e.lact f (32 * k + j) then
        (match e.s.readPlace { pl with loc := pl.loc.plus (128 * k), ea := pl.ea + 128 * k } 128 with
          | .ok b => .ok (bs ++ b)
          | .error g => .error g)
      else .ok (bs ++ List.replicate 128 0)) (.ok [])

/-- The sectors of a vector access that hold an active lane. -/
def Env.activeSectors (e : Env) (f : LF) : List Nat :=
  (List.range 4).filter fun k => (List.range 32).any fun j => e.lact f (32 * k + j)

/-- The runs of active lanes of a sector, as byte offsets in the sector, lengths and bit offsets in the result. -/
def Env.sectorFill (e : Env) (f : LF) (k : Nat) : List (Nat × Nat × Nat) :=
  (laneRuns ((List.range 32).filter fun j => e.lact f (32 * k + j))).map fun r => (4 * r.1, 4 * r.2, 32 * (32 * k + r.1))

/-- LDGV (R220). -/
def Env.ldgvBody (e : Env) (f : LF) : Verdict :=
  let ea := e.ea f
  let r := f.reg.toNat
  if (e.lactive f).isEmpty then okW [wr .v r (e.mergeLanes f fun _ => 0) 8]
  else if ea % 512 ≠ 0 then e.trap cAlign 0 ea
  else e.gplace ea .read 0 fun pl =>
    match pl.loc with
    | .ctrl _ => e.fault { cause := cProt, addr := ea } 0
    | .remote home pa key =>
      let ks := e.activeSectors f
      awaitMem [wr .v r (e.mergeLanes f fun _ => 0) 1] (fun s => (s.touch e.sid ea .read).sendAll (dieOf e.sid)
        (ks.map fun k =>
          { kind := 1, home := home, key := key, pa := pa + 128 * k, mcx := e.mcx, who := e.sid, ea := ea + 128 * k
            slot := respKey .v r, fill := e.sectorFill f k, lslot := e.slot, boost := hdrBl e.hdr != 0 })) false (e.reachWaits ks.length)
    | l => match e.readSectors f pl with
      | .error g => e.fault g 0
      | .ok bs =>
        let x := leNat (overlay e.t.stores l ea bs)
        awaitMem [wr .v r (e.mergeLanes f fun j => laneOf 32 x j) 1] fun s =>
          (e.activeSectors f).foldl (fun s k => s.charge e.sid (pl.plus (128 * k)) 128 .read) (s.touch e.sid ea .read)

/-! ## Stores (R221) -/

/-- The withheld store of bytes at a global address: translated now, unless its translation is still to be made (R221, R337). -/
def Env.gstore (e : Env) (ea : Nat) (bs : List Byte) (k : PStore → Verdict) : Verdict :=
  let p : PStore := { loc := .phys 0, bytes := bs, slot := e.slot, ea := ea }
  if !e.mill && decide (ea < 2 ^ 48) && (e.s.tlbHit e.mcx ea).isNone then k { p with pend := some ea }
  else e.gplace ea .write 1 fun pl =>
    match pl.loc with
    | .ctrl a => if bs.length = 8 then k { p with loc := .ctrl a } else e.fault { cause := cProt, addr := ea } 1
    | l => k { p with loc := l, cache := pl.cache }

/-- STG of n bytes. -/
def Env.stg (e : Env) (f : LF) (n : Nat) : Verdict :=
  e.guarded f (e.withData f fun v =>
    let ea := e.ea f
    if ea % n ≠ 0 then e.trap cAlign 0 ea
    else e.gstore ea (leBytes n v) fun p => .ok { stores := [p] })

/-- STGV: the runs of active lanes (R221). -/
def Env.stgvBody (e : Env) (f : LF) : Verdict :=
  let ea := e.ea f
  let bs := e.vdata f
  if ea % 512 ≠ 0 then e.trap cAlign 0 ea
  else e.gstore ea bs fun p => .ok { stores := (laneRuns (e.lactive f)).map fun r =>
    { p with loc := p.loc.plus (4 * r.1), pend := p.pend.map (· + 4 * r.1), ea := ea + 4 * r.1, bytes := (bs.drop (4 * r.1)).take (4 * r.2) } }

/-! ## Atomics (R222, R223) -/

/-- What an atomic finds and leaves at a place of this module's memory: the new value if it writes, the release tag, and the charge. Its release
follows the strand's earlier remote writes (R148, R151). -/
def Env.atomicAt (e : Env) (f : LF) (ea : Nat) (pl : Place) (sync : Bool) (old : Nat) (new : Option Nat) : Verdict :=
  let sc := e.s.scopeAt e.sid f.scope.toNat
  let miss := sync && scopeMiss e.sid sc (e.now.relTag pl.loc old)
  if sync && e.s.remotePending e.sid then .block [.fence] id else
  let early := fun (s : State) =>
    let s := if f.opx then s else s.touch e.sid ea .write
    let s := match new with
      | none => s
      | some v =>
        let s := (s.writeLoc pl.loc (leBytes 8 v)).toOption.getD s
        if sync then s.setTag e.sid sc pl.loc v else s
    s.charge e.sid pl 8 .atomic
  .ok { early := early, waits := [.resp], firm := true, core := fun c => c.stick (missBit miss)
        resp := if f.bpd then [] else [wr .x (f.reg.toNat % 64) old 1] }

/-- The atomic of an L slot: `op` gives the new value, or none where it writes nothing; `arg2` is the second operand of ACAS. -/
def Env.atomic (e : Env) (f : LF) (code v arg2 : Nat) (op : Nat → Option Nat) : Verdict :=
  let ea := e.ea f
  if ea % 8 ≠ 0 then e.trap cAlign 0 ea
  else if f.opx then
    (match e.s.spadStoreCheck e.sid ea 8 8 with
      | some c => e.trap c 0 ea
      | none => e.spadPut ea 8 (
        let old := leNat (getBytes (e.now.cluster e.cl).bytes ea 8)
        e.atomicAt f ea { loc := .spad e.cl ea, ea := ea } (!e.mill && e.s.isSync e.mcx true ea) old (op old)))
  else e.gplace ea .write 2 fun pl =>
    match pl.loc with
    | .ctrl _ => e.fault { cause := cProt, addr := ea } 2
    | .remote home pa key =>
      let sync := !e.mill && e.s.isSync e.mcx false ea
      if sync && e.s.remotePending e.sid then .block [.fence] id else
      .ok { early := fun s => ((s.touch e.sid ea .write).reachRequest (dieOf e.sid)
              { kind := 3, home := home, key := key, pa := pa, mcx := e.mcx, who := e.sid, ea := ea, slot := respKey .x (f.reg.toNat % 64)
                fill := if f.bpd then [] else [(0, 8, 0)], lslot := e.slot, atom := (code, v, arg2)
                sync := if sync then some (e.s.scopeAt e.sid f.scope.toNat) else none } code (pa % 128 / 8 * 8) (some (leBytes 8 v ++ leBytes 8 arg2))).1
            waits := e.reachWaits 1, firm := true
            resp := if f.bpd then [] else [wr .x (f.reg.toNat % 64) 0 1] }
    | _ => match e.now.readPlace pl 8 with
      | .error g => e.fault g 2
      | .ok bs =>
        let old := leNat bs
        e.atomicAt f ea pl (!e.mill && e.s.isSync e.mcx false ea) old (op old)

/-- An atomic of R222, with its operation. -/
def Env.rmw (e : Env) (f : LF) (code : Nat) (op : Nat → Nat → Nat) : Verdict :=
  e.guarded f (e.withData f fun v => e.atomic f code v 0 fun old => some (op old v % two64))

/-! ## Meanings -/

/-- LDG.s8 (R220). -/
def fxLdgS8 (f : LF) (e : Env) : Verdict := e.ldg f 1 true
def execLdgS8 (f : LF) (s : State) : Result := s.issueAlone (.ldgS8 f) (fxLdgS8 f)

/-- LDG.n8 (R220). -/
def fxLdgN8 (f : LF) (e : Env) : Verdict := e.ldg f 1 false
def execLdgN8 (f : LF) (s : State) : Result := s.issueAlone (.ldgN8 f) (fxLdgN8 f)

/-- LDG.s16 (R220). -/
def fxLdgS16 (f : LF) (e : Env) : Verdict := e.ldg f 2 true
def execLdgS16 (f : LF) (s : State) : Result := s.issueAlone (.ldgS16 f) (fxLdgS16 f)

/-- LDG.n16 (R220). -/
def fxLdgN16 (f : LF) (e : Env) : Verdict := e.ldg f 2 false
def execLdgN16 (f : LF) (s : State) : Result := s.issueAlone (.ldgN16 f) (fxLdgN16 f)

/-- LDG.s32 (R220). -/
def fxLdgS32 (f : LF) (e : Env) : Verdict := e.ldg f 4 true
def execLdgS32 (f : LF) (s : State) : Result := s.issueAlone (.ldgS32 f) (fxLdgS32 f)

/-- LDG.n32 (R220). -/
def fxLdgN32 (f : LF) (e : Env) : Verdict := e.ldg f 4 false
def execLdgN32 (f : LF) (s : State) : Result := s.issueAlone (.ldgN32 f) (fxLdgN32 f)

/-- LDG.b64 (R220). -/
def fxLdgB64 (f : LF) (e : Env) : Verdict := e.ldg f 8 false
def execLdgB64 (f : LF) (s : State) : Result := s.issueAlone (.ldgB64 f) (fxLdgB64 f)

/-- LDGV: the active lanes of 512 bytes (R213, R220). -/
def fxLdgv (f : LF) (e : Env) : Verdict := e.lvBound f [f.reg.toNat] f.opx (e.ldgvBody f)
def execLdgv (f : LF) (s : State) : Result := s.issueAlone (.ldgv f) (fxLdgv f)

/-- STG.b8 (R221). -/
def fxStgB8 (f : LF) (e : Env) : Verdict := e.stg f 1
def execStgB8 (f : LF) (s : State) : Result := s.issueAlone (.stgB8 f) (fxStgB8 f)

/-- STG.b16 (R221). -/
def fxStgB16 (f : LF) (e : Env) : Verdict := e.stg f 2
def execStgB16 (f : LF) (s : State) : Result := s.issueAlone (.stgB16 f) (fxStgB16 f)

/-- STG.b32 (R221). -/
def fxStgB32 (f : LF) (e : Env) : Verdict := e.stg f 4
def execStgB32 (f : LF) (s : State) : Result := s.issueAlone (.stgB32 f) (fxStgB32 f)

/-- STG.b64 (R221). -/
def fxStgB64 (f : LF) (e : Env) : Verdict := e.stg f 8
def execStgB64 (f : LF) (s : State) : Result := s.issueAlone (.stgB64 f) (fxStgB64 f)

/-- STGV: the active lanes of 512 bytes (R221). -/
def fxStgv (f : LF) (e : Env) : Verdict := 
  e.lvBound f (if f.bpd then [] else [f.reg.toNat]) false (
    if (e.lactive f).isEmpty then nothing else if f.bpd then e.bpBound (e.stgvBody f) else e.stgvBody f)
def execStgv (f : LF) (s : State) : Result := s.issueAlone (.stgv f) (fxStgv f)

/-- AADD (R222). -/
def fxAadd (f : LF) (e : Env) : Verdict := e.rmw f 0x28 (fun a b => a + b)
def execAadd (f : LF) (s : State) : Result := s.issueAlone (.aadd f) (fxAadd f)

/-- ASMIN (R222). -/
def fxAsmin (f : LF) (e : Env) : Verdict := e.rmw f 0x29 (fun a b => if sint a ≤ sint b then a else b)
def execAsmin (f : LF) (s : State) : Result := s.issueAlone (.asmin f) (fxAsmin f)

/-- ANMIN (R222). -/
def fxAnmin (f : LF) (e : Env) : Verdict := e.rmw f 0x2A (fun a b => min a b)
def execAnmin (f : LF) (s : State) : Result := s.issueAlone (.anmin f) (fxAnmin f)

/-- ASMAX (R222). -/
def fxAsmax (f : LF) (e : Env) : Verdict := e.rmw f 0x2B (fun a b => if sint a ≤ sint b then b else a)
def execAsmax (f : LF) (s : State) : Result := s.issueAlone (.asmax f) (fxAsmax f)

/-- ANMAX (R222). -/
def fxAnmax (f : LF) (e : Env) : Verdict := e.rmw f 0x2C (fun a b => max a b)
def execAnmax (f : LF) (s : State) : Result := s.issueAlone (.anmax f) (fxAnmax f)

/-- AAND (R222). -/
def fxAand (f : LF) (e : Env) : Verdict := e.rmw f 0x2D (fun a b => a &&& b)
def execAand (f : LF) (s : State) : Result := s.issueAlone (.aand f) (fxAand f)

/-- AOR (R222). -/
def fxAor (f : LF) (e : Env) : Verdict := e.rmw f 0x2E (fun a b => a ||| b)
def execAor (f : LF) (s : State) : Result := s.issueAlone (.aor f) (fxAor f)

/-- AXOR (R222). -/
def fxAxor (f : LF) (e : Env) : Verdict := e.rmw f 0x2F (fun a b => a ^^^ b)
def execAxor (f : LF) (s : State) : Result := s.issueAlone (.axor f) (fxAxor f)

/-- ASWAP (R222). -/
def fxAswap (f : LF) (e : Env) : Verdict := e.rmw f 0x30 (fun _ b => b)
def execAswap (f : LF) (s : State) : Result := s.issueAlone (.aswap f) (fxAswap f)

/-- ACAS: the success write of x[REG+1] where the word equals x[REG] (R223). An odd REG traps ILLEGAL. -/
def fxAcas (f : LF) (e : Env) : Verdict := 
  let r := f.reg.toNat % 64
  e.guarded f (if r % 2 = 1 then e.trap cIllegal
    else e.atomic f 0x31 (e.rx r) (e.rx (r + 1)) fun old => if old = e.rx r then some (e.rx (r + 1)) else none)
def execAcas (f : LF) (s : State) : Result := s.issueAlone (.acas f) (fxAcas f)

end Sys2Proof.Machine
end

