-- ==== Sys2Proof/Machine/Sync.lean ====
section
/-! DEFINITION. Releases, acquires and fences (R147 to R150, R224 to R226), and the barrier instructions (R131, R132, R227, R228). -/

namespace Sys2Proof.Machine

open Sys2Proof

/-- A mill strand has no sync table and no tile group: these codes trap ILLEGAL whatever the guard holds (R213, R286). -/
def Env.tenantOnly (e : Env) (k : Verdict) : Verdict := if e.mill then e.trap cIllegal else k

/-- The word of the sync object that EA names: its space and address (R146, R224). -/
def Env.syncObj (e : Env) (f : LF) (k : Bool → Nat → Verdict) : Verdict :=
  let i := e.ea f
  if e.s.syncCount e.mcx ≤ i then e.trap cIllegal
  else
    let d0 := e.s.syncD0 e.mcx i
    k (bitOf d0 48) (d0 % 2 ^ 48)

/-- The wait of an ACQ: the word, the threshold, the register and the scope (R224). A remote word is read by messages. -/
def Env.acqWait (e : Env) (f : LF) (ea : Nat) (l : Loc) : Verdict :=
  let r := f.reg.toNat % 64
  let w : Wait := .acq l ea (e.rx r) r (e.s.scopeAt e.sid f.scope.toNat)
  match l with
  | .remote home pa key =>
    awaitMem [wr .x r 0 1] (fun s => s.sendAll (dieOf e.sid) [e.readReq home key pa ea 8 (respKey .x r) 0 0]) false (w :: e.reachWaits 1)
  | .spad .. => awaitMem [wr .x r 0 1] id false [w]
  | _ => awaitMem [wr .x r 0 1] (fun s => s.touch e.sid ea .read) false [w]

/-- ACQ: the strand waits, after issue, until the word is at least the threshold (R147, R224). -/
def fxAcq (f : LF) (e : Env) : Verdict :=
  e.tenantOnly (e.guarded f (e.syncObj f fun spad ea =>
    if spad then
      (match e.s.spadCheck e.sid ea 8 8 with
        | some c => e.trap c 0 ea
        | none =>
          if !(e.engWaits ea 8).isEmpty then .block (e.engWaits ea 8) id
          else if e.s.spadPoisoned e.cl ea 8 then e.spadUe ea
          else e.acqWait f ea (.spad e.cl ea))
    else e.gplace ea .read 0 fun pl => match e.s.readPlace pl 8 with
      | .error g => e.fault g 0
      | .ok _ => e.acqWait f ea pl.loc))
def execAcq (f : LF) (s : State) : Result := s.issueAlone (.acq f) (fxAcq f)

/-- The CACHE field of the leaf through which a strand writes an address, as far as it still translates. -/
def State.cacheOf (s : State) (sid ea : Nat) : Nat :=
  match s.place sid ea .write with
  | .ok (pl, _) => pl.cache
  | .error _ => 2

/-- The write of a REL, which sets the release tag (R147, R149). What it meets as it reaches memory is an error of a write made before (R383, R387, R439;
notes/assumptions/67.md). -/
def State.release (s : State) (sid : Nat) (sc : ScopeAt) (l : Loc) (ea v : Nat) : State :=
  match s.storeFault (s.mcxOf sid) [] { loc := l, bytes := leBytes 8 v, ea := ea } l with
  | some f => s.lateFault sid f.cause
  | none => match s.writeLoc l (leBytes 8 v) with
    | .error e => (s.uncorrectable (dieOf sid) (s.ctxOf sid) (whoOf sid) cMemUe e l ea).lateFault sid cMemUe
    | .ok s' => (s'.setTag sid sc l v).charge sid { loc := l, ea := ea, cache := s.cacheOf sid ea } 8 .write

/-- The write of a REL to a word in a remote page: its tag stands from the message on (notes/assumptions/52.md). -/
def State.releaseRemote (s : State) (sid : Nat) (sc : ScopeAt) (home pa key ea v : Nat) (inval : Bool) : State :=
  (s.remoteWrite sid home pa key ea (leBytes 8 v) (some sc) inval).setTag sid sc (.remote home pa key) v

/-- REL's block: its write follows the strand's earlier remote writes, and ends when it has been performed (R225). -/
def Env.relTo (e : Env) (f : LF) (ea : Nat) (l : Loc) (v : Nat) : Verdict :=
  let sc := e.s.scopeAt e.sid f.scope.toNat
  let touch := fun (s : State) => match l with
    | .spad .. => s
    | _ => s.touch e.sid ea .write
  if e.now.remotePending e.sid then awaitMem [] touch true [.rel l ea v sc false]
  else match l with
    | .remote home pa key => awaitMem [] (fun s => (touch s).releaseRemote e.sid sc home pa key ea v false) true [.fence]
    | _ => awaitMem [] (fun s => (touch s).release e.sid sc l ea v) true

/-- REL (R147, R225). -/
def fxRel (f : LF) (e : Env) : Verdict :=
  e.tenantOnly (e.guarded f (e.syncObj f fun spad ea => e.withData f fun v =>
    if spad then
      (match e.s.spadStoreCheck e.sid ea 8 8 with
        | some c => e.trap c 0 ea
        | none => e.spadPut ea 8 (e.relTo f ea (.spad e.cl ea) v))
    else e.gplace ea .write 1 fun pl => match e.s.readPlace pl 8 with
      | .error g => e.fault g 1
      | .ok _ => e.relTo f ea pl.loc v))
def execRel (f : LF) (s : State) : Result := s.issueAlone (.rel f) (fxRel f)

/-- FENCE: FENCE.strand blocks for no cycle (R150, R226). -/
def fxFence (f : LF) (e : Env) : Verdict :=
  e.guarded f (if f.scope = 0 then nothing else awaitMem [] id false [.fence])
def execFence (f : LF) (s : State) : Result := s.issueAlone (.fence f) (fxFence f)

/-! ## Barriers -/

/-- The checks of a named barrier (R227): 16-byte aligned, in an owned SCRATCH bank. -/
def State.barCheck (s : State) (sid off : Nat) : Option Nat :=
  if off % 16 ≠ 0 then some cAlign
  else if 2 ^ 23 ≤ off || !s.ownsBank sid (off / 2 ^ 18) || ((s.cluster (clusterOf sid)).bank (off / 2 ^ 18)).mode != .scratch then
    some cSpBound
  else none

/-- The words that BARINIT writes (R227), with the mark (R131). -/
def Cluster.barInit (c : Cluster) (off x scope : Nat) : Cluster :=
  let expect := x % 2 ^ 28
  let arv := x / 2 ^ 32 % 2 ^ 16
  let armed := expect != 0 || arv != 0
  let c := (((c.setBarW off 0 (expect + armed.toNat * 2 ^ 31)).setBarW off 1 expect).setBarW off 2 (arv + arv * 2 ^ 16)).setBarW off 3 scope
  c.setMark off { armed := armed }

/-- What is left of a withheld store outside 16 bytes of the scratchpad. -/
def PStore.outside (p : PStore) (cl off : Nat) : List PStore :=
  match p.pend, p.loc with
  | none, .spad c a =>
    if c ≠ cl || off + 16 ≤ a || a + p.bytes.length ≤ off then [p]
    else (if a < off then [{ p with bytes := p.bytes.take (off - a) }] else [])
      ++ (if off + 16 < a + p.bytes.length then [{ p with loc := .spad c (off + 16), bytes := p.bytes.drop (off + 16 - a) }] else [])
  | _, _ => [p]

/-- The write of BARINIT (R227). What the strand's earlier bundles have withheld for the block is written over, as program order has it. -/
def State.barInit (s : State) (sid off x scope : Nat) : State :=
  (s.updStrand sid fun t => { t with stores := t.stores.flatMap fun p => p.outside (clusterOf sid) off }).updCluster (clusterOf sid) fun c =>
    c.barInit off x scope

/-- BARINIT (R227). -/
def fxBarinit (f : LF) (e : Env) : Verdict :=
  e.guarded f (
    let off := e.ea f
    let x := e.rx (f.reg.toNat % 64)
    match e.s.barCheck e.sid off with
    | some c => e.trap c 0 off
    | none =>
      if bitsOf x 31 28 ≠ 0 || bitsOf x 63 48 ≠ 0 then e.trap cIllegal
      else if ((e.s.cluster e.cl).mark off).armed || e.s.engineOwned e.cl off 16 then e.trap cOwner 0 off
      else e.spadPut off 16 (.ok { early := fun s => s.barInit e.sid off x (if e.mill then 0 else e.t.scope) }))
def execBarinit (f : LF) (s : State) : Result := s.issueAlone (.barinit f) (fxBarinit f)

/-- An arrival of a strand, once its earlier remote writes are answered (R228). -/
def State.arrive (s : State) (sid cl off : Nat) : State :=
  if s.remotePending sid then s.updStrand sid fun t => { t with arvPend := t.arvPend ++ [(cl, off)] }
  else s.updCluster cl fun c => c.barArrive off

/-- BARARV: one arrival, after the strand's earlier writes have been performed (R132, R228). -/
def fxBararv (f : LF) (e : Env) : Verdict :=
  e.guarded f (
    let off := e.ea f
    match e.s.barCheck e.sid off with
    | some c => e.trap c 0 off
    | none =>
      if !((e.s.cluster e.cl).mark off).armed then e.trap cOwner 0 off
      else if !(e.engWaits off 16).isEmpty then .block (e.engWaits off 16) id
      else e.spadPut off 16 (.ok { firm := true, post := fun s => s.arrive e.sid e.cl off }))
def execBararv (f : LF) (s : State) : Result := s.issueAlone (.bararv f) (fxBararv f)

/-- BARWAIT: it blocks before issue while PHASE equals ph and the barrier is armed, then returns W3 ++ W0 (R228), as the strand sees the words under its own
withheld stores (R73). -/
def fxBarwait (f : LF) (e : Env) : Verdict :=
  e.guarded f (
    let off := e.ea f
    match e.s.barCheck e.sid off with
    | some c => e.trap c 0 off
    | none =>
      let c := e.s.cluster e.cl
      if (c.mark off).armed && c.barPhase off == f.opx then .block [.barrier e.cl off f.opx] id
      else if e.s.spadPoisoned e.cl off 16 then e.spadUe off
      else okW [wr .x (f.reg.toNat % 64) (leNat (e.spadBytes off 4) + leNat (e.spadBytes (off + 12) 4) * 2 ^ 32) 1])
def execBarwait (f : LF) (s : State) : Result := s.issueAlone (.barwait f) (fxBarwait f)

end Sys2Proof.Machine
end

