-- ==== Sys2Proof/Machine/Copy.lean ====
section
/-! DEFINITION. The copy nest: its descriptors, elements and checks (R133 to R136), the fill path (R137), the instructions that start and drain copies
(R229 to R231), and the steps of the copy engines (R126, R127, R129, R135, R138 to R140). -/

namespace Sys2Proof.Machine

open Sys2Proof

/-! ## The nest (R135) -/

/-- The runs of a descriptor. -/
def dRuns (d : BitVec 256) : Nat := if dExt d 0 = 0 then 0 else dExt d 1 * dExt d 2 * dExt d 3 * dExt d 4 * dExt d 5

/-- The first element of run i, as an element offset: level 1 varies fastest. -/
def runElem (d : BitVec 256) (r : List Word) (i : Nat) : Int :=
  let e1 := dExt d 1
  let e2 := dExt d 2
  let e3 := dExt d 3
  let e4 := dExt d 4
  ((i % e1 : Nat) : Int) * rStride r 1 + ((i / e1 % e2 : Nat) : Int) * rStride r 2 + ((i / (e1 * e2) % e3 : Nat) : Int) * rStride r 3
    + ((i / (e1 * e2 * e3) % e4 : Nat) : Int) * rStride r 4 + ((i / (e1 * e2 * e3 * e4) : Nat) : Int) * rStride r 5

/-- The first bit of the space that a descriptor counts from; a bobbin's stream counts from its own start. -/
def dBit0 (d : BitVec 256) : Nat := if dSpace d = 2 then 0 else 8 * dBase d + dBitoff d

/-- The first bit of run i. -/
def runBit (d : BitVec 256) (r : List Word) (i : Nat) : Int := (dBit0 d : Int) + (rWidth r : Int) * runElem d r i

/-- The bytes of a run: the first, and the one after the last. -/
def runBytes (d : BitVec 256) (r : List Word) (i : Nat) : Int × Int :=
  let b := runBit d r i
  (b / 8, (b + (rWidth r * dExt d 0 : Nat) + 7) / 8)

/-- The bit of element i of the order (R135). -/
def elemBit (d : BitVec 256) (r : List Word) (i : Nat) : Int :=
  runBit d r (i / dExt d 0) + ((rWidth r * (i % dExt d 0) : Nat) : Int)

def runList (d : BitVec 256) (r : List Word) : List (Int × Int) := (List.range (dRuns d)).map (runBytes d r)

/-- The number of a sector: addresses are 64-bit values, and one below 0 wraps to one that no page maps (R212). -/
def sectorNo (k : Int) : Nat := (k % 2 ^ 57).toNat

/-- The 128-byte sectors that byte ranges touch. -/
def rangeSectors (rs : List (Int × Int)) : List Nat :=
  sortNats (rs.flatMap fun p =>
    if p.2 ≤ p.1 then [] else (List.range ((p.2 - 1) / 128 - p.1 / 128 + 1).toNat).map fun i => sectorNo (p.1 / 128 + (i : Nat)))

/-- The elements that reach into sector k, in their order, with their first bits. -/
def sectorElems (d : BitVec 256) (r : List Word) (k : Nat) : List (Nat × Int) :=
  let w : Int := rWidth r
  (List.range (dRuns d)).flatMap fun i =>
    let b := runBit d r i
    let lo := ((1024 * (k : Int) - b) / w).toNat
    let hi := min (dExt d 0) ((1024 * (k : Int) + 1024 - b + w - 1) / w).toNat
    (List.range (hi - lo)).map fun t => (i * dExt d 0 + lo + t, b + w * ((lo + t : Nat) : Int))

/-! ## The checks of COPYGO (R136, R230) -/

/-- The reserved fields of a descriptor. -/
def descOk (d : BitVec 256) : Bool := bitsOf d.toNat 63 53 == 0 && bitsOf d.toNat 255 216 == 0

/-- The reserved fields of a layout record, and its levels. -/
def recordOk (d : BitVec 256) (r : List Word) : Bool :=
  let w := rWidth r
  let l := rLevels r
  bitsOf (rWord r 0) 7 7 == 0 && bitsOf (rWord r 0) 15 14 == 0 && bitsOf (rWord r 6) 63 48 == 0 && bitsOf (rWord r 7) 63 48 == 0
    && ([1, 2, 3, 4, 5].all fun k => sext 64 (rWord r k) == rStride r k && rStride r k * w % 8 == 0
      && (decide (k < l) || (dExt d k == 1 && rStride r k == 0)))
    && rFmt r != 15 && 1 ≤ l && l ≤ 6
    && (dBitoff d == 0 || (dBitoff d == 4 && w == 4))
    && (bitOf (rXform r) 0 || rClen r == 0)
    && (if bitOf (rXform r) 1 then 1 ≤ rNsp r && rNsp r ≤ 4 else rNsp r == 0)
    && (if bitOf (rXform r) 2 then rDelta r % 8 == 0 else rDelta r == 0)

/-- The dense count of a transforming source, when it is whole (R137). -/
def denseCount (r : List Word) : Option Nat :=
  let w := rWidth r
  if bitOf (rXform r) 1 then
    (if rDlen r * 8 % (w * rNsp r) = 0 then some (8 * (rDlen r * 8 / (w * rNsp r))) else none)
  else if rDlen r * 8 % w = 0 then some (rDlen r * 8 / w) else none

/-- Is a copy one of a context's (R286)? -/
def CopyJob.ofCtx (j : CopyJob) (mcx : Nat) : Bool := !j.mill && j.mcx == mcx

/-- Who owns a bank for a copy. -/
def CopyJob.owns (j : CopyJob) (c : Cluster) (b : Nat) : Bool := (c.bank b).owner == (if j.mill then .mill else .ctx j.mcx)

/-- The banks of a byte range. -/
def banksOf (p : Int × Int) : List Nat :=
  if p.2 ≤ p.1 then [] else (List.range ((p.2 - 1) / 2 ^ 18 - p.1 / 2 ^ 18 + 1).toNat).map fun i => (p.1 / 2 ^ 18).toNat + i

/-- Does a scratchpad destination lie in banks that the group owns? One that does not traps LAYOUT, as R136 lists it at step 1 of R230, before step 3 could
give SPBOUND; one in an owned bank that has left SCRATCH traps SPBOUND, as R239 has it (DEDUCED, notes/assumptions/29.md). -/
def State.dstOk (s : State) (sid : Nat) (p : Int × Int) : Bool :=
  decide (0 ≤ p.1) && decide (p.2 ≤ 2 ^ 23) && (banksOf p).all fun b => s.ownsBank sid b

/-- The LAYOUT checks of R136, of two descriptors with their records. -/
def State.layoutOk (s : State) (sid : Nat) (src dst : BitVec 256) (sr dr : List Word) : Bool :=
  let w := rWidth sr
  let n := dCount dst
  let bytes := (n * w + 7) / 8
  let c := s.cluster (clusterOf sid)
  recordOk src sr && recordOk dst dr && rXform dr == 0 && w == rWidth dr
    && (if rXform sr = 0 then dCount src == n
        else decide (dSpace dst ≠ 0) && dBitoff src == 0 && ([0, 1, 2, 3, 4, 5].all fun k => dExt src k == 1) && denseCount sr == some n)
    && decide (bytes < 2 ^ 28)
    && (match dSpace dst with
      | 1 => (runList dst dr).all (s.dstOk sid)
      | 2 =>
        let b := dBase dst
        decide (b < 32) && dBitoff dst == 0 && rLevels dr == 1
          && (!s.ownsBank sid b || (match c.bobbin b with
            | some o => bytes % o.slotBytes == 0
            | none => false))
      | _ => true)

/-- Does a record lie in a code, dictionary, metadata or graph segment of an image, so in no layout segment (R122, R136, R305)? -/
def State.notLayout (s : State) (mcx a : Nat) : Bool :=
  let inside (base n : Nat) : Bool := a < base + n && base < a + 64
  inside (s.hw mcx 5 % 2 ^ 48) (2 * (s.hw mcx 6 % 2 ^ 32)) || inside (s.hw mcx 7 % 2 ^ 48) (48 * (s.hw mcx 6 / 2 ^ 32 % 2 ^ 16))
    || inside (s.hw mcx 8 % 2 ^ 48) (4 * (s.hw mcx 9 % 2 ^ 32)) || inside (s.hw mcx 10 % 2 ^ 48) (64 * (s.hw mcx 10 / 2 ^ 48 % 2 ^ 12 + 1))

/-- The layout record of a descriptor, read when COPYGO issues (R134, R136; notes/assumptions/29.md). -/
def Env.layoutRec (e : Env) (d : BitVec 256) (k : List Word → Verdict) : Verdict :=
  let a := dLrec d
  let words := fun (bs : List Byte) => k ((List.range 8).map fun i => BitVec.ofNat 64 (leNat ((bs.drop (8 * i)).take 8)))
  if a % 64 ≠ 0 then e.trap cLayout 0 a
  else if e.mill then (if a < hbmEnd then (words (e.s.physRead a 64)).also fun s => s.chargeSectors 32 none a 64 .read else e.trap cLayout 0 a)
  else if e.s.notLayout e.mcx a then e.trap cLayout 0 a
  else match e.s.ctxPlace e.mcx a .fetch with
    | .error f => if f.cause = cProt then e.trap cLayout 0 a else e.fault f 3
    | .ok (pl, s') => match s'.readPlace pl 64 with
      | .error f => e.fault f 3
      | .ok bs => (words bs).also fun s => s.chargeAt (some e.cl) e.mcx a 64 .fetch

/-- The granules of a scratchpad destination (R126). -/
def dstGrans (d : BitVec 256) (r : List Word) : List Nat :=
  if dSpace d ≠ 1 then [] else sortNats ((runList d r).flatMap fun p => granules p.1.toNat (p.2 - p.1).toNat)

/-- The copies that hold an entry of a channel of a strand (R230). -/
def State.channelCopies (s : State) (sid ch : Nat) : List CopyJob := s.copyList.filter fun j => j.sid == sid && j.ch == ch

/-- The named barrier of a COPYGO (R230 step 2). -/
def Env.copyBar (e : Env) (bar : Option Nat) : Option (Nat × Nat) :=
  match bar with
  | none => none
  | some off => match e.s.barCheck e.sid off with
    | some c => some (c, off)
    | none => if ((e.s.cluster e.cl).mark off).armed then none else some (cOwner, off)

/-- The bytes of a source: its runs, or the stream of a transforming copy (R135, R137). -/
def sourceRuns (d : BitVec 256) (r : List Word) : List (Int × Int) :=
  if rXform r = 0 then runList d r
  else [((dBase d : Int), ((dBase d + (if bitOf (rXform r) 0 then rClen r else rDlen r) : Nat) : Int))]

/-- SPBOUND of the ranges (R230 step 3): the offset it names. A destination bank that the group owns must be in SCRATCH (R239). -/
def Env.copyBound (e : Env) (src dst : BitVec 256) (sr dr : List Word) : Option Nat :=
  let bad (p : Int × Int) : Bool := decide (p.1 < 0) || decide (2 ^ 23 < p.2) || (banksOf p).any fun b => !e.s.ownsBank e.sid b
  let left (p : Int × Int) : Bool := (banksOf p).any fun b => ((e.s.cluster e.cl).bank b).mode != .scratch
  let find (ok : Bool) (rs : List (Int × Int)) (f : Int × Int → Bool) : Option Nat :=
    if ok then (rs.find? f).map fun p => p.1.toNat else none
  if dSpace dst = 2 && !e.s.ownsBank e.sid (dBase dst) then some (dBase dst * 2 ^ 18)
  else (find (dSpace dst = 1) (runList dst dr) left).orElse fun _ => find (dSpace src = 1) (sourceRuns src sr) bad

/-- Ownership of the destination (R230 step 4): the offset it names. A COPYGO of the bundle's other L slot has taken its granules (R214, R239). -/
def Env.copyOwned (e : Env) (dst : BitVec 256) (dr : List Word) : Option Nat :=
  let c := e.s.cluster e.cl
  match (dstGrans dst dr).find? fun g => (((e.now.cluster e.cl).gran g).eng).isSome with
  | some g => some (1024 * g)
  | none => if dSpace dst ≠ 1 then none
    else ((runList dst dr).find? fun p => c.armedIn p.1.toNat (p.2 - p.1).toNat).map fun p => p.1.toNat

/-- The copy takes its granules and is held (R126, R230). -/
def State.holdCopy (s : State) (j : CopyJob) (gs : List Nat) : State :=
  let f := s.fresh
  let before := gs.map fun g => (g, (s.cluster j.cl).gran g)
  let s := f.2.setCopy f.1 (some { j with id := f.1, before := before })
  let s := s.updCluster j.cl fun c => gs.foldl (fun c g => c.setGran g { eng := some (.copy f.1) }) c
  s.updStrand j.sid fun t => { t with heldCopies := t.heldCopies ++ [f.1] }

/-- The sectors that a copy is to write: of its destination space, or of its stream for a bobbin. -/
def copyTodo (dst : BitVec 256) (dr : List Word) : List Nat :=
  if dSpace dst = 2 then List.range ((dCount dst * rWidth dr / 8 + 127) / 128) else rangeSectors (runList dst dr)

/-- COPYGO, with or without a barrier (R230). -/
def Env.copygo (e : Env) (f : LF) (bar : Option Nat) : Verdict :=
  let r := f.reg.toNat
  let src := mget 0 e.c.d (r % 8)
  let dst := mget 0 e.c.d (r / 8 % 8)
  let ch := r / 64 % 4
  if 2 ≤ dSpace src || dSpace dst = 3 || !descOk src || !descOk dst then e.trap cLayout
  else e.layoutRec src fun sr => e.layoutRec dst fun dr =>
    if !e.s.layoutOk e.sid src dst sr dr then e.trap cLayout
    else match e.copyBar bar with
      | some (c, a) => e.trap c 0 a
      | none => match e.copyBound src dst sr dr with
        | some a => e.trap cSpBound 0 a
        | none => match e.copyOwned dst dr with
          | some a => e.trap cOwner 0 a
          | none =>
            if dCount dst = 0 then nothing
            else if 16 ≤ (e.now.channelCopies e.sid ch).length then .block [.chan ch] id
            else
              let j : CopyJob :=
                { id := 0, sid := e.sid, mcx := e.mcx, mill := e.mill, cl := e.cl, ch := ch, src := src, dst := dst, srec := sr, drec := dr,
                  bar := bar, todo := copyTodo dst dr }
              .ok { early := fun s => s.holdCopy j (dstGrans dst dr) }

/-- COPYGO with a barrier (R230). -/
def fxCopygo (f : LF) (e : Env) : Verdict := e.guarded f (e.copygo f (some (e.ea f)))
def execCopygo (f : LF) (s : State) : Result := s.issueAlone (.copygo f) (fxCopygo f)

/-- COPYGO with no barrier (R230). -/
def fxCopygoNobar (f : LF) (e : Env) : Verdict := e.guarded f (e.copygo f none)
def execCopygoNobar (f : LF) (s : State) : Result := s.issueAlone (.copygoNobar f) (fxCopygoNobar f)

/-- COPYLD: 32 bytes into dn (R229). -/
def fxCopyld (f : LF) (e : Env) : Verdict :=
  e.guarded f (
    let ea := e.ea f
    let n := f.reg.toNat % 8
    if f.opx then e.spadLoad ea 32 32 fun bs => okW [wr .d n (leNat bs) 8]
    else if ea % 32 ≠ 0 then e.trap cAlign 0 ea
    else e.gplace ea .read 0 fun pl =>
      match pl.loc with
      | .ctrl _ => e.fault { cause := cProt, addr := ea } 0
      | .remote home pa key =>
        awaitMem [wr .d n 0 1] (fun s => (s.touch e.sid ea .read).sendAll (dieOf e.sid)
          [e.readReq home key pa ea 32 (respKey .d n) 0 0]) false (e.reachWaits 1)
      | _ => match e.s.readPlace pl 32 with
        | .error g => e.fault g 0
        | .ok bs => awaitMem [wr .d n (leNat bs) 1] fun s => (s.touch e.sid ea .read).charge e.sid pl 32 .read)
def execCopyld (f : LF) (s : State) : Result := s.issueAlone (.copyld f) (fxCopyld f)

/-- The copies that a DRAIN waits for: those issued earlier on its channel (R231). -/
def State.drainWaits (s : State) (sid ch : Nat) : Bool := (s.channelCopies sid ch).any fun j => j.phase != .held

/-- DRAIN (R231): on an empty channel it completes in its issue cycle. -/
def fxDrain (f : LF) (e : Env) : Verdict :=
  e.guarded f (
    let ch := f.reg.toNat % 4
    if (e.s.channelCopies e.sid ch).any fun j => !e.t.heldCopies.contains j.id || j.phase != .held then
      .ok { waits := [.drain ch] }
    else nothing)
def execDrain (f : LF) (s : State) : Result := s.issueAlone (.drain f) (fxDrain f)

/-! ## Reading the source (R127, R138) -/

/-- What an engine's access to a sector finds. -/
inductive Got (α : Type) where
  | ok (a : α) (s : State)
  /-- It waits: for a granule, a fault's service, a refetch, an answer. -/
  | wait (s : State)
  | err (cause : Nat) (s : State)

def CopyJob.who (j : CopyJob) : Nat := whoOf j.sid
def CopyJob.die (j : CopyJob) : Nat := dieOf j.sid

/-- The cluster that a copy writes: its own, or a bank image (R344). -/
def State.copyClu (s : State) (j : CopyJob) : Cluster :=
  if j.redirected then (s.imageCluster j.mcx j.cl).getD {} else s.cluster j.cl

def State.updCopyClu (s : State) (j : CopyJob) (f : Cluster → Cluster) : State :=
  if j.redirected then
    { s with images := s.images.map fun i => if i.mcx == j.mcx && i.cl == j.cl then { i with cluster := i.cluster.map f } else i }
  else s.updCluster j.cl f

/-- A fault on which a copy does not wait is entered and posted all the same (R363, R369; notes/assumptions/54.md). -/
def State.postCopyFault (s : State) (j : CopyJob) (f : MemFault) (access : Nat) : State :=
  let r := s.addFault j.die j.mcx f access j.who true
  r.1.withdraw j.die r.2

/-- A fault of an engine's access: a page fault suspends the leg; any other cause ends the copy (R138, R139). -/
def State.copyFault (s : State) (j : CopyJob) (f : MemFault) (access : Nat) {α : Type} : Got α :=
  match f.refetch with
  | some fr => .wait (s.refetchFrame j.die fr)
  | none =>
    if f.cause = cPageFault then
      let r := s.addFault j.die j.mcx f access j.who true
      .wait (r.1.updCopy j.id fun j => { j with susp := some (j.die, r.2) })
    else match f.ue with
      | some (err, l) => .err f.cause (s.uncorrectable j.die (some j.mcx) j.who f.cause err l f.addr)
      | none => .err f.cause (if f.cause = cMemUe then s else s.postCopyFault j f access)

/-- The charge of an engine's access to a sector (R373). -/
def State.chargeCopy (s : State) (j : CopyJob) (pl : Place) (kind : AccKind) : State :=
  if j.mill then (match pl.loc with
    | .phys pa => s.chargeSectors 32 none pa 128 kind
    | _ => s)
  else s.chargeCtx (some j.cl) j.mcx pl 128 kind

/-- A source sector kept once it has been read: each is read in one piece (R127). -/
def State.keepSector (s : State) (j : CopyJob) (k : Nat) (bs : List Byte) : State :=
  s.updCopy j.id fun j => { j with cache := mset [] j.cache k bs }

/-- The place of an address that a copy reads: a transforming copy uses the translations that it has pinned (R138, R367). -/
def State.copyPlace (s : State) (j : CopyJob) (ea : Nat) : Except MemFault (Place × State) :=
  match j.pins.find? fun t => t.base ≤ ea && ea < t.base + t.size with
  | some t => .ok (s.placeOf ea t.leaf.toNat (t.lvl), s)
  | none => s.ctxPlace j.mcx ea .read

/-- One 128-byte sector of the global or physical source space. -/
def State.globalSector (s : State) (j : CopyJob) (k : Nat) : Got (List Byte) :=
  let ea := 128 * k
  if j.mill then
    (if ea < hbmEnd then .ok (s.physRead ea 128) ((s.chargeCopy j { loc := .phys ea, ea := ea } .read).keepSector j k (s.physRead ea 128)) else .err cProt s)
  else match s.copyPlace j ea with
    | .error f => s.copyFault j f 4
    | .ok (pl, s') => match pl.loc with
      | .remote home pa key =>
        if !s.reachable home then s'.copyFault j { cause := cProt, addr := ea, remote := true } 4
        else if j.asked.contains k then .wait s
        else
          let q : ReachReq := { kind := 1, home := home, key := key, pa := pa, mcx := j.mcx, who := j.sid, ea := ea, cid := j.id, sector := k }
          .wait (((s'.reachRequest j.die q 0 0 none).1).updCopy j.id fun j => { j with asked := j.asked ++ [k] })
      | .hbm .. => (match s'.readPlace pl 128 with
        | .error f => s'.copyFault j f 4
        | .ok bs => .ok bs ((s'.chargeCopy j pl .read).keepSector j k bs))
      | _ => .err cProt s

/-- One 128-byte sector of a scratchpad source (R123, R127). -/
def State.spadSector (s : State) (j : CopyJob) (k : Nat) : Got (List Byte) :=
  let c := s.cluster j.cl
  let off := 128 * k
  let b := off / 2 ^ 18
  if 2 ^ 23 ≤ off || !j.owns c b then .err cSpBound s
  else if (c.bank b).mode = .cache || ((c.bank b).mode = .fifo && !c.inDraining off 128) then .err cSpBound s
  else
    let o := (c.gran (granOf off)).eng
    if o.isSome && o != some (.copy j.id) then .wait s
    else if s.spadPoisoned j.cl off 128 then .err cPoison s
    else .ok (getBytes c.bytes off 128) (s.keepSector j k (getBytes c.bytes off 128))

/-- A source sector, from what has been read or from its space. -/
def State.srcSector (s : State) (cid : Nat) (spad : Bool) (k : Nat) : Got (List Byte) :=
  match s.copyJob cid with
  | none => .wait s
  | some j =>
    match mget [] j.cache k with
    | [] => if spad then s.spadSector j k else s.globalSector j k
    | bs => .ok bs s

/-- Several source sectors, in order. -/
def State.srcSectors (s : State) (cid : Nat) (spad : Bool) : List Nat → Got Unit
  | [] => .ok () s
  | k :: ks => match s.srcSector cid spad k with
    | .ok _ s' => State.srcSectors s' cid spad ks
    | .wait s' => .wait s'
    | .err c s' => .err c s'

/-- n bytes of a copy's source space that have been read. -/
def CopyJob.srcBytes (j : CopyJob) (a n : Nat) : List Byte :=
  (List.range n).map fun i => (mget [] j.cache ((a + i) / 128)).getD ((a + i) % 128) 0

/-- The value of source element i (R135, R137). -/
def CopyJob.value (j : CopyJob) (i : Nat) : Nat :=
  let w := rWidth j.srec
  match j.dense with
  | some x => x / 2 ^ (w * i) % 2 ^ w
  | none =>
    let b := (elemBit j.src j.srec i).toNat
    leNat (j.srcBytes (b / 8) ((b + w + 7) / 8 - b / 8)) / 2 ^ (b % 8) % 2 ^ w

/-- The source sectors that some elements need. -/
def CopyJob.needs (j : CopyJob) (is : List Nat) : List Nat :=
  if j.dense.isSome then []
  else sortNats (is.flatMap fun i =>
    let b := elemBit j.src j.srec i
    [sectorNo (b / 1024), sectorNo ((b + ((rWidth j.srec - 1 : Nat) : Int)) / 1024)])

/-- The source sectors of a scratchpad source that a copy has still to read. -/
def CopyJob.sourcesLeft (j : CopyJob) : List Nat :=
  if dSpace j.src = 1 then j.needs (j.todo.flatMap fun k => (sectorElems j.dst j.drec k).map fun p => p.1) else []

/-- Can a copy read the rest of its scratchpad source now (R344)? -/
def State.sourceReady (s : State) (j : CopyJob) : Bool :=
  match s.srcSectors j.id true j.sourcesLeft with
  | .wait _ => false
  | _ => true

/-! ## The fill path (R137) -/

/-- The codec: the bytes that a token stream stands for; none when a literal runs past its end. -/
def codecDecode : Nat → Byte → List Byte → Option (List Byte)
  | 0, _, _ => none
  | fuel + 1, last, bs =>
    match bs with
    | [] => some []
    | t :: r =>
      if t.toNat < 0x80 then
        let n := t.toNat + 1
        if r.length < n then none
        else (codecDecode fuel ((r.take n).getLastD last) (r.drop n)).map fun o => r.take n ++ o
      else if t.toNat < 0xC0 then (codecDecode fuel 0 r).map fun o => List.replicate (8 * (t.toNat - 0x7F)) 0 ++ o
      else (codecDecode fuel last r).map fun o => List.replicate (t.toNat - 0xBD) last ++ o

/-- The dense block of a mask byte: element 8j + p takes the block's next stored value where bit p is set. -/
def expandBlock (w mask : Nat) (stored : Nat → Nat) : Nat → Nat → Nat → Nat
  | 0, _, _ => 0
  | n + 1, p, used =>
    if bitOf mask p then stored used * 2 ^ (w * p) + expandBlock w mask stored n (p + 1) (used + 1)
    else expandBlock w mask stored n (p + 1) used

/-- N:8 expansion: none when a mask byte names more than N values. -/
def expandAll (w nsp stored : Nat) : List Byte → Nat → Option Nat
  | [], _ => some 0
  | m :: ms, j =>
    if nsp < popcount 8 m.toNat then none
    else (expandAll w nsp stored ms (j + 1)).map fun rest =>
      expandBlock w m.toNat (fun i => stored / 2 ^ (w * (nsp * j + i)) % 2 ^ w) 8 0 0 + rest * 2 ^ (8 * w)

/-- The sum of an element and a delta value (R137). -/
def deltaAdd (fmt e v : Nat) : Nat :=
  let w := fmtBits fmt
  match fmt with
  | 8 | 10 | 14 => toBits w (clampInt (sext w e + sext w v) (fmtIntRange fmt).1 (fmtIntRange fmt).2)
  | 9 => (clampInt ((e : Int) + sext w v) 0 255).toNat
  | 11 => (clampInt ((e : Int) + sext w v) 0 15).toNat
  | _ =>
    let f := if fmt = 12 then e4m3 else if fmt = 13 then e2m1 else ffmtOf fmt
    (convertF f .rne true false (numAdd .rne (decodeF f e) (decodeF f v))).1

/-- The delta list applied: indices strictly ascending and below the dense count. -/
def deltaAll (fmt n : Nat) : List Nat → Option Nat → Nat → Option Nat
  | [], _, x => some x
  | ent :: r, prev, x =>
    let i := ent % 2 ^ 32
    let w := fmtBits fmt
    let ok := match prev with
      | some p => decide (p < i)
      | none => true
    if !ok || n ≤ i then none
    else deltaAll fmt n r (some i) (setField x (w * i) w (deltaAdd fmt (x / 2 ^ (w * i) % 2 ^ w) (ent / 2 ^ 32 % 2 ^ w)))

/-- The decoded stream of a transforming copy from its bytes: none for CODEC. -/
def fillPath (r : List Word) (stream mask : List Byte) (deltas : List Nat) : Option Nat :=
  let w := rWidth r
  let stored := if bitOf (rXform r) 0 then codecDecode (stream.length + 1) 0 stream else some stream
  match stored with
  | none => none
  | some bs =>
    if bs.length ≠ rDlen r then none
    else match (if bitOf (rXform r) 1 then expandAll w (rNsp r) (leNat bs) mask 0 else some (leNat bs)) with
      | none => none
      | some x => deltaAll (rFmt r) ((denseCount r).getD 0) deltas none x

/-! ## Ends -/

/-- The masked bytes of a sector, as runs from their offsets. -/
def byteRuns : Nat → List (Option Byte) → List (Nat × List Byte)
  | _, [] => []
  | i, none :: r => byteRuns (i + 1) r
  | i, some b :: r => match byteRuns (i + 1) r with
    | (k, bs) :: q => if k = i + 1 then (i, b :: bs) :: q else (i, [b]) :: (k, bs) :: q
    | [] => [(i, [b])]

/-- A withheld store of some strand to granules that a copy writes is performed or discarded first (R126). -/
def State.storesPending (s : State) (cl off n : Nat) : Bool :=
  s.strands.any fun t => t.2.stores.any fun p => match p.loc with
    | .spad c a => p.pend.isNone && c == cl && (granules a p.bytes.length).any fun g => (granules off n).contains g
    | _ => false

/-- The release tags of scratchpad words that a copy writes are cleared, in the image for a redirected one (R149, R344). -/
def State.copyTags (s : State) (j : CopyJob) (off n : Nat) : State :=
  if j.redirected then
    { s with images := s.images.map fun i =>
        if i.mcx == j.mcx && i.cl == j.cl then { i with tags := tagsWithout i.tags (.spad j.cl off) n } else i }
  else s.clearTags (.spad j.cl off) n

/-- The sector of a bank image that a redirected copy has changed is written to memory under the tenant key (R344). -/
def State.putImage (s : State) (j : CopyJob) (off : Nat) : State :=
  match s.images.find? fun i => j.redirected && i.mcx == j.mcx && i.cl == j.cl && i.cluster.isSome with
  | none => s
  | some i =>
    let o := off / 128 * 128
    let pa := i.addr + i.bankAt + 2 ^ 18 * i.banks.idxOf (o / 2 ^ 18) + o % 2 ^ 18
    match (s.clearTags (.hbm pa 0) 128).hbmWrite pa (s.hw j.mcx 2 % 2 ^ 16) (getBytes ((s.imageCluster j.mcx j.cl).getD {}).bytes o 128) with
    | .error _ => s
    | .ok s' =>
      { s' with images := s'.images.map fun (k : Image) =>
          if k.mcx == j.mcx && k.cl == j.cl then { k with redir := (pa / 128 :: k.redir).dedup } else k }.chargeSectors (s.partOf j.mcx)
            (some j.mcx) pa 128 .write

/-- Some bytes of a sector written by a copy: to the scratchpad at an offset (R126, R440). -/
def State.putSpad (s : State) (j : CopyJob) (off : Nat) (bs : List (Option Byte)) : Got Unit :=
  let c := s.copyClu j
  if !j.redirected && s.storesPending j.cl off 128 then .wait s
  else if bs.any Option.isNone && mget false c.poison (off / 128) then .err cPoison s
  else
    let s := (byteRuns 0 bs).foldl (fun s p => s.copyTags j (off + p.1) p.2.length) s
    .ok () ((s.updCopyClu j fun c =>
      { c with bytes := putMasked c.bytes off bs
               poison := if bs.any Option.isNone then c.poison else mset false c.poison (off / 128) false }).putImage j off)

/-- Runs written through a key index, in order. -/
def State.hbmRuns (s : State) (key pa : Nat) : List (Nat × List Byte) → Except MemErr State
  | [] => .ok s
  | (o, bs) :: r => match (s.clearTags (.hbm (pa + o) key) bs.length).hbmWrite (pa + o) key bs with
    | .ok s' => State.hbmRuns s' key pa r
    | .error e => .error e

/-- Some bytes of a global or physical sector written by a copy. A unit that is being refetched is waited for (R368), and a poisoned sector that is written in
part faults POISON, which is posted (R440). -/
def State.putGlobal (s : State) (j : CopyJob) (ea : Nat) (bs : List (Option Byte)) : Got Unit :=
  let runs := byteRuns 0 bs
  if j.mill then
    (if ea < hbmEnd then
      .ok () (runs.foldl (fun s p => (s.clearTags (.phys (ea + p.1)) p.2.length).physWrite (ea + p.1) p.2) (s.chargeCopy j { loc := .phys ea, ea := ea } .write))
    else .err cProt s)
  else match s.ctxPlace j.mcx ea .write with
    | .error f => s.copyFault j f 5
    | .ok (pl, s') => match pl.loc with
      | .hbm pa key =>
        if s'.refetching pl.loc then .wait s
        else (match s'.hbmRuns key pa runs with
          | .ok s2 => .ok () (s2.chargeCopy j pl .write)
          | .error .poison => s'.copyFault j { cause := cPoison, addr := ea } 5
          | .error err => .err cMemUe (s'.uncorrectable j.die (some j.mcx) j.who cMemUe err pl.loc ea))
      | .remote home pa key =>
        if !s.reachable home then s'.copyFault j { cause := cProt, addr := ea, remote := true } 5
        else
          let mask := (runs.map fun p => (2 ^ p.2.length - 1) * 2 ^ p.1).sum
          let q : ReachReq := { kind := 2, home := home, key := key, pa := pa, mcx := j.mcx, who := j.sid, ea := ea, cid := j.id }
          .ok () (((s'.reachRequest j.die q 0 mask (some (bs.map fun b => b.getD 0))).1).updCopy j.id fun j => { j with acks := j.acks + 1 })
      | _ => .err cProt s

/-- The bits of sector k that a copy writes, with their mask; overlapping writes end with one of them, which the schedule picks (R135). -/
def CopyJob.sectorBits (j : CopyJob) (k : Nat) (late : Bool) : Nat × Nat :=
  let w := rWidth j.drec
  let es := sectorElems j.dst j.drec k
  let put (x : Nat × Nat) (p : Nat × Int) : Nat × Nat :=
    let b := p.2 - 1024 * (k : Int)
    let v := j.value p.1
    if 0 ≤ b then (setField x.1 b.toNat w v, setField x.2 b.toNat w (2 ^ w - 1))
    else (setField x.1 0 (w - (-b).toNat) (v / 2 ^ (-b).toNat), setField x.2 0 (w - (-b).toNat) (2 ^ w - 1))
  (if late then es.reverse else es).foldl put (0, 0)

/-- The bytes that masked bits write over others; a byte that no bit reaches is not written (R136). -/
def bitsOver (old : List Byte) (x mask : Nat) : List (Option Byte) :=
  (List.range 128).map fun i =>
    let m := mask / 2 ^ (8 * i) % 256
    if m = 0 then none else some (BitVec.ofNat 8 ((x / 2 ^ (8 * i) % 256 &&& m) ||| ((old.getD i 0).toNat &&& (255 - m))))

/-- Does a mask hold a byte in part? -/
def partBytes (mask : Nat) : Bool := (List.range 128).any fun i => mask / 2 ^ (8 * i) % 256 != 0 && mask / 2 ^ (8 * i) % 256 != 255

def zeros128 : List Byte := List.replicate 128 0

/-- The bytes that stand in a destination sector, for the bits that a copy keeps: they are read only where an element starts or ends inside a byte
(R136). A sector of a remote page is read from its home. -/
def State.oldBytes (s : State) (j : CopyJob) (k : Nat) : Got (List Byte) :=
  let ea := 128 * k
  if !partBytes (j.sectorBits k false).2 || 2 ≤ dSpace j.dst then .ok zeros128 s
  else if dSpace j.dst = 1 then .ok (getBytes (s.copyClu j).bytes ea 128) s
  else if j.mill then .ok (s.physRead ea 128) s
  else match s.ctxPlace j.mcx ea .write with
    | .error f => s.copyFault j f 5
    | .ok (pl, s') => match pl.loc with
      | .remote home pa key =>
        if mget [] j.olds k ≠ [] then .ok (mget [] j.olds k) s
        else if !s.reachable home then s'.copyFault j { cause := cProt, addr := ea, remote := true } 5
        else if j.asked.contains (2 ^ 60 + k) then .wait s
        else
          let q : ReachReq :=
            { kind := 1, home := home, key := key, pa := pa, mcx := j.mcx, who := j.sid, ea := ea, cid := j.id, slot := 1, sector := k }
          .wait (((s'.reachRequest j.die q 0 0 none).1).updCopy j.id fun j => { j with asked := j.asked ++ [2 ^ 60 + k] })
      | l => .ok ((s'.readLoc l 128).toOption.getD zeros128) s'

/-- What a failed copy leaves of a sector that it has not written: its destination bits hold undefined values (R139; notes/assumptions/2.md). A sector of
a remote page stands at its home, which gives its bytes anew at each READ. -/
def State.spoilSector (s : State) (j : CopyJob) (n k : Nat) : State :=
  let here (old : List Byte) : List (Option Byte) :=
    bitsOver old (leNat ((List.range 128).map fun i => Config.freeByte n (128 * k + i))) (j.sectorBits k false).2
  let r : Got Unit :=
    if dSpace j.dst = 1 then s.putSpad j (128 * k) (here (getBytes (s.copyClu j).bytes (128 * k) 128))
    else if j.mill then (if 128 * k < hbmEnd then s.putGlobal j (128 * k) (here (s.physRead (128 * k) 128)) else .wait s)
    else match s.translate j.mcx (128 * k) .write with
      | .ok (e, lvl) => (match (s.placeOf (128 * k) e lvl).loc with
        | .hbm pa key => s.putGlobal j (128 * k) (here ((s.readLoc (.hbm pa key) 128).toOption.getD zeros128))
        | _ => .wait s)
      | .error _ => .wait s
  match r with
  | .ok _ s' => s'
  | _ => s

/-- Has a copy still to let a withheld store reach a granule that it writes (R126)? -/
def State.storeAhead (s : State) (j : CopyJob) : Bool :=
  dSpace j.dst == 1 && !j.redirected && j.todo.any fun k => s.storesPending j.cl (128 * k) 128

/-- A copy ends on an error (R139). The withheld stores to its granules are performed or discarded before what it has not written is undefined (R126). -/
def State.failCopy (s : State) (j : CopyJob) (cause : Nat) : State :=
  let cause := j.fail.getD cause
  if s.storeAhead j then s.updCopy j.id fun j => { j with fail := some cause }
  else
    let n := s.tick
    (if dSpace j.dst = 2 then n.2 else j.todo.foldl (fun s k => s.spoilSector j n.1 k) n.2).endCopy j (.err cause)

/-! ## The steps of a copy engine -/

/-- The copy that an event names, when it lives. -/
def State.evCopy (s : State) : Option CopyJob := s.copyJob s.ev.n

/-- Does a mill strand's copy reach beyond HBM (R286)? -/
def CopyJob.reachesCtrl (j : CopyJob) : Bool :=
  let out (d : BitVec 256) (r : List Word) : Bool := dSpace d == 0 && (runList d r).any fun p => decide (p.1 < 0) || decide ((hbmEnd : Int) < p.2)
  j.mill && (out j.src j.srec || out j.dst j.drec)

/-- COPY_START: a committed copy starts, in issue order on its channel (R135). -/
def execCopyStart (s : State) : Result :=
  match s.evCopy with
  | none => .next s
  | some j =>
    if j.phase ≠ .waiting || (s.channelCopies j.sid j.ch).any (fun i => i.id < j.id && i.phase != .started) then .next s
    else if let some c := j.fail then .next (s.failCopy j c)
    else if j.reachesCtrl then .next (s.failCopy j cProt)
    else if rXform j.srec ≠ 0 && (j.mill || dSpace j.src ≠ 0) then .next (s.failCopy j cProt)
    else .next (s.updCopy j.id fun j => { j with phase := .started })

/-- One key index and one home (R138). -/
def oneSpan (es : List Nat) : Bool := (es.map fun e => (bitsOf e 21 8, bitsOf e 27 22)).dedup.length ≤ 1

def CopyJob.streamLen (j : CopyJob) : Nat := if bitOf (rXform j.srec) 0 then rClen j.srec else rDlen j.srec
def CopyJob.maskLen (j : CopyJob) : Nat :=
  if bitOf (rXform j.srec) 1 then rDlen j.srec * 8 / (rWidth j.srec * rNsp j.srec) else 0
def CopyJob.maskAt (j : CopyJob) : Nat := dBase j.src + rMaskoff j.srec

/-- Pin the page of an address, or find it pinned: its leaf (R138, R367). -/
def State.pinPage (s : State) (cid ea : Nat) : Got Nat :=
  match s.copyJob cid with
  | none => .wait s
  | some j => match j.pins.find? fun t => t.base ≤ ea && ea < t.base + t.size with
    | some t => .ok t.leaf.toNat s
    | none => match s.translate j.mcx ea .read with
      | .error f => s.copyFault j f 4
      | .ok (e, lvl) =>
        let size := 2 ^ pageBits lvl
        let t : TlbEnt := { mcx := j.mcx, base := ea / size * size, size := size, leaf := BitVec.ofNat 64 e }
        .ok e (((s.chargeWalk j.mcx ea).tlbFill j.mcx ea e lvl).updCopy cid fun j => { j with pins := j.pins ++ [t] })

/-- Pin pages in order, with the leaves so far. -/
def State.pinPages (s : State) (cid : Nat) : List Nat → List Nat → Got (List Nat)
  | [], es => .ok es s
  | ea :: r, es => match s.pinPage cid ea with
    | .ok e s' => State.pinPages s' cid r (es ++ [e])
    | .wait s' => .wait s'
    | .err c s' => .err c s'

/-- An address in each 64 KiB page that a byte range touches. -/
def streamPages (lo n : Nat) : List Nat :=
  (List.range (if n = 0 then 0 else (lo + n - 1) / 2 ^ 16 - lo / 2 ^ 16 + 1)).map fun i => max lo ((lo / 2 ^ 16 + i) * 2 ^ 16)

def Got.bind {α β : Type} (g : Got α) (k : α → State → Got β) : Got β :=
  match g with
  | .ok a s => k a s
  | .wait s => .wait s
  | .err c s => .err c s

/-- A shared weight page, and a private page (R122, R359). -/
def leafShared (e : Nat) : Bool := bitOf e 4 && !bitOf e 3 && !bitOf e 2
def leafPrivate (e : Nat) : Bool := !bitOf e 3 && !bitOf e 4

/-- The decoded stream from the bytes that have been read; `n` is the COUNT of the delta list. -/
def State.decodeStream (s : State) (cid n : Nat) : Got Nat :=
  match s.copyJob cid with
  | none => .wait s
  | some j =>
    let ents := (List.range n).map fun i => leNat (j.srcBytes (rDelta j.srec + 8 + 8 * i) 8)
    match fillPath j.srec (j.srcBytes (dBase j.src) j.streamLen) (j.srcBytes j.maskAt j.maskLen) ents with
    | none => .err cCodec s
    | some x => .ok x s

/-- Pin the delta list, which lies in private pages, and read it (R137, R138): its COUNT. -/
def State.pinDelta (s : State) (cid da : Nat) : Got Nat :=
  (s.pinPages cid (streamPages da 8) []).bind fun d s =>
    if d.any fun e => !leafPrivate e then .err cProt s
    else (s.srcSectors cid false (sectorsOf da 8)).bind fun _ s =>
      let d0 := leNat ((((s.copyJob cid).map fun j => j.srcBytes da 8)).getD [])
      if d0 / 2 ^ 32 ≠ 0 then .err cCodec s
      else (s.pinPages cid (streamPages da (8 + 8 * d0)) []).bind fun ds s =>
        if ds.any fun e => !leafPrivate e then .err cProt s
        else if !oneSpan ds then .err cXformSpan s
        else (s.srcSectors cid false (sectorsOf da (8 + 8 * d0))).bind fun _ s => .ok d0 s

/-- Translate and pin the streams of a transforming copy, and read them (R137, R138). -/
def State.pinStreams (s : State) (j : CopyJob) : Got Nat :=
  let base := dBase j.src
  (s.pinPages j.id (streamPages base (max 1 j.streamLen)) []).bind fun es s =>
    if (es.take 1).any fun e => !leafShared e then .err cProt s
    else (s.pinPages j.id (streamPages j.maskAt j.maskLen) []).bind fun ms s =>
      if !oneSpan (es ++ ms) then .err cXformSpan s
      else (s.srcSectors j.id false (sectorsOf base j.streamLen ++ sectorsOf j.maskAt j.maskLen)).bind fun _ s =>
        (if bitOf (rXform j.srec) 2 then s.pinDelta j.id (rDelta j.srec) else .ok 0 s).bind fun n s => s.decodeStream j.id n

/-- TRANSFORM_PIN (R138). -/
def execTransformPin (s : State) : Result :=
  match s.evCopy with
  | none => .next s
  | some j =>
    if j.phase ≠ .started || rXform j.srec = 0 || j.pinned || j.susp.isSome || j.fail.isSome then .next s
    else match s.pinStreams j with
      | .wait s' => .next s'
      | .err c s' => .next (s'.failCopy ((s'.copyJob j.id).getD j) c)
      | .ok x s' => .next (s'.updCopy j.id fun j => { j with pinned := true, dense := some x })

/-- The copy goes on after a sector: its last sector ends it (R126, R132, R139). -/
def State.copyProgress (s : State) (cid : Nat) : State :=
  match s.copyJob cid with
  | none => s
  | some j => if j.todo.isEmpty && j.acks = 0 then s.endCopy j .done else s

/-- The place of stream sector t of a bobbin copy: its chunk's slot when that is filling, and the offset (R130). -/
def State.streamPlace (s : State) (j : CopyJob) (t : Nat) : Option (Nat × Nat) :=
  match (s.copyClu j).bobbin (dBase j.dst) with
  | none => none
  | some b =>
    let c := t * 128 / b.slotBytes
    match mget 0 j.slots c with
    | 0 => none
    | n + 1 => some (n, dBase j.dst * 2 ^ 18 + n * b.slotBytes + t * 128 % b.slotBytes)

/-- A slot has received bytes: at its size it becomes FULL (R129). -/
def Bobbin.fill (b : Bobbin) (i n : Nat) : Bobbin :=
  let b := { b with filled := mupd 0 b.filled i (· + n) }
  if b.slotBytes ≤ mget 0 b.filled i then { b.setTag i .full with filled := mset 0 b.filled i 0, filler := mset 0 b.filler i 0 } else b

/-- One sector of a bobbin copy's stream. -/
def State.putStream (s : State) (j : CopyJob) (t : Nat) : Got Unit :=
  match s.streamPlace j t with
  | none => .wait s
  | some (i, off) =>
    let n := min 128 (j.dstBytes - 128 * t)
    if !j.redirected && s.storesPending j.cl off n then .wait s else
    let b := j.sectorBits t false
    let bs := (bitsOver zeros128 b.1 b.2).take n
    .ok () (((s.copyTags j off n).updCopyClu j fun c =>
      let c := { c with bytes := putMasked c.bytes off bs, poison := mset false c.poison (off / 128) false }
      match c.bobbin (dBase j.dst) with
      | some b => c.setBobbin (dBase j.dst) (some (b.fill i n))
      | none => c).putImage j off)

/-- One destination sector of a copy: its sources are read, and it is written whole (R135, R142). -/
def State.copySector (s : State) (j : CopyJob) (k : Nat) (late : Bool) : Got Unit :=
  match s.srcSectors j.id (dSpace j.src == 1) (j.needs ((sectorElems j.dst j.drec k).map fun p => p.1)) with
  | .wait s' => .wait s'
  | .err c s' => .err c s'
  | .ok _ s1 =>
    let j := (s1.copyJob j.id).getD j
    if dSpace j.dst = 2 then s1.putStream j k
    else (s1.oldBytes j k).bind fun old s2 =>
      let b := j.sectorBits k late
      let bs := bitsOver old b.1 b.2
      if dSpace j.dst = 1 then s2.putSpad j (128 * k) bs else s2.putGlobal j (128 * k) bs

/-- May a copy write now? -/
def CopyJob.ready (j : CopyJob) : Bool :=
  j.phase == .started && j.susp.isNone && j.fail.isNone && (rXform j.srec == 0 || j.pinned) && !j.todo.isEmpty

/-- The sector that an event picks among those that remain. -/
def CopyJob.pick (j : CopyJob) (i : Nat) : Nat := j.todo.getD (i % max 1 j.todo.length) 0

/-- COPY_SECTOR_WRITE: one of the remaining sectors, in any order (R135); `ev.m` picks it. -/
def execCopySectorWrite (s : State) : Result :=
  match s.evCopy with
  | none => .next s
  | some j =>
    if let some c := j.fail then .next (s.failCopy j c)
    else if !j.ready then .next s
    else
      let k := j.pick s.ev.m
      match s.copySector j k s.ev.flag with
      | .wait s' => .next s'
      | .err c s' => .next (s'.failCopy ((s'.copyJob j.id).getD j) c)
      | .ok _ s' =>
        let party := if j.mill then 32 else s.partOf j.mcx
        let s' := (s'.countEv party 9 1).progress party
        .next ((s'.updCopy j.id fun j => { j with todo := j.todo.filter (· != k) }).copyProgress j.id)

/-- An uncorrectable error that the engine finds in what it reads (R439): of a shared frame's line it asks for the refetch, and otherwise the copy ends. -/
def State.copyFinds (s : State) (j : CopyJob) (v : Nat) : Option State :=
  if v % 8 = 5 then some (s.refetchFrame j.die (v / 8))
  else (foundLoc (v % 8) (v / 8) j.cl).map fun l =>
    (s.uncorrectable j.die (if j.mill then none else some j.mcx) j.who cMemUe .ue l 0).failCopy j cMemUe

/-- COPY_ERROR: a copy whose next access meets an error stops (R139); any other goes on as it was. `ev.v` names an uncorrectable error that it finds: the place
in the bits from 3 up, and in the lower ones what `foundLoc` says, or 5 for a line of a shared frame (R439). -/
def execCopyError (s : State) : Result :=
  match s.evCopy with
  | none => .next s
  | some j =>
    if !j.ready then .next s
    else match s.copyFinds j s.ev.v.toNat with
    | some s' => .next s'
    | none => match s.copySector j (j.pick s.ev.m) s.ev.flag with
      | .err c s' => .next (s'.failCopy ((s'.copyJob j.id).getD j) c)
      | _ => .next s

/-- BOBBIN_SLOT_START: the engine starts the slot at HEAD once it is EMPTY, in ring order (R129, R130). -/
def execBobbinSlotStart (s : State) : Result :=
  match s.evCopy with
  | none => .next s
  | some j =>
    if !j.ready || dSpace j.dst ≠ 2 then .next s
    else match (s.copyClu j).bobbin (dBase j.dst) with
      | none => .next s
      | some b =>
        if b.tag b.head ≠ .empty || j.dstBytes ≤ j.chunks * b.slotBytes then .next s
        else
          let h := b.head
          let b' := { b.setTag h .filling with head := (h + 1) % b.nslots, filled := mset 0 b.filled h 0, filler := mset 0 b.filler h j.id }
          .next ((s.updCopyClu j fun c => c.setBobbin (dBase j.dst) (some b')).updCopy j.id fun j =>
            { j with slots := mset 0 j.slots j.chunks (h + 1), chunks := j.chunks + 1 })

end Sys2Proof.Machine
end

