-- ==== Sys2Proof/Machine/Bobbin.lean ====
section
/-! DEFINITION. Bobbins and bank modes (R123 to R130, R232, R238). -/

namespace Sys2Proof.Machine

open Sys2Proof

/-! ## Bobbins (R128, R129, R232) -/

/-- The state word (R128). -/
def Bobbin.word (b : Bobbin) : Nat :=
  b.count .empty + b.count .full * 2 ^ 9 + b.head * 2 ^ 18 + b.tail * 2 ^ 26 + b.slotsm1 * 2 ^ 34 + b.slotlog * 2 ^ 42 + b.banksm1 * 2 ^ 45

/-- The live bobbin that starts at a bank, as the earlier slots of the bundle have left it. -/
def Env.bobbinNow (e : Env) (b : Nat) (o : Bobbin) : Bobbin := ((e.now.cluster e.cl).bobbin b).getD o

/-- The bank that EA names (R232): one that the group owns. -/
def Env.bankArg (e : Env) (f : LF) (k : Nat → Verdict) : Verdict :=
  let b := e.ea f
  if 32 ≤ b || !e.s.ownsBank e.sid b then e.trap cSpBound 0 b else k b

/-- The live bobbin that starts at the bank that EA names. -/
def Env.bobbinArg (e : Env) (f : LF) (k : Nat → Bobbin → Verdict) : Verdict :=
  e.bankArg f fun b => match (e.s.cluster e.cl).bobbin b with
    | some o => k b o
    | none => e.trap cSpBound 0 b

/-- BOBPOP claims the slot at TAIL (R129). -/
def Bobbin.pop (b : Bobbin) (sid : Nat) : Bobbin :=
  { b.setTag b.tail .draining with tail := (b.tail + 1) % b.nslots, owner := mset 0 b.owner b.tail (sid + 1) }

/-- BOBPOP: it blocks before issue while the slot at TAIL is not FULL (R129, R232). -/
def fxBobpop (f : LF) (e : Env) : Verdict :=
  e.guarded f (e.bobbinArg f fun b o =>
    let o := e.bobbinNow b o
    if o.tag o.tail ≠ .full then .block [.bobbin e.cl b 0] id
    else .ok { early := fun s => s.updCluster e.cl fun c => c.setBobbin b (some (o.pop e.sid))
               writes := [wr .x (f.reg.toNat % 64) (b * 2 ^ 18 + o.tail * o.slotBytes) 6] })
def execBobpop (f : LF) (s : State) : Result := s.issueAlone (.bobpop f) (fxBobpop f)

/-- BOBREL: the DRAINING slot whose first byte is at EA (R129, R232). -/
def fxBobrel (f : LF) (e : Env) : Verdict :=
  e.guarded f (
    let off := e.ea f
    if 2 ^ 23 ≤ off || !e.s.ownsBank e.sid (off / 2 ^ 18) then e.trap cSpBound 0 off
    else match (e.s.cluster e.cl).slotAt off with
      | none => e.trap cSpBound 0 off
      | some (b, o, i) =>
        if off ≠ b * 2 ^ 18 + i * o.slotBytes then e.trap cSpBound 0 off
        else
          let now := e.bobbinNow b o
          if o.tag i ≠ .draining || now.tag i ≠ .draining then e.trap cOwner 0 off
          else .ok { early := fun s => s.updCluster e.cl fun c =>
            c.setBobbin b (some { now.setTag i .empty with owner := mset 0 now.owner i 0 }) })
def execBobrel (f : LF) (s : State) : Result := s.issueAlone (.bobrel f) (fxBobrel f)

/-- BOBINIT: every slot EMPTY (R128, R232). -/
def fxBobinit (f : LF) (e : Env) : Verdict :=
  e.guarded f (e.bankArg f fun b =>
    let x := e.rx (f.reg.toNat % 64)
    let slotsm1 := x % 2 ^ 8
    let slotlog := x / 2 ^ 8 % 8
    let banksm1 := x / 2 ^ 11 % 32
    let banks := (List.range (banksm1 + 1)).map (b + ·)
    let c := e.s.cluster e.cl
    if slotlog = 7 || bitsOf x 63 16 ≠ 0 then e.trap cIllegal
    else if banks.any fun k => 32 ≤ k || !e.s.ownsBank e.sid k then e.trap cSpBound 0 b
    else if (banks.any fun k => (c.bank k).mode != .fifo || ((e.now.cluster e.cl).bobbinOf k).isSome)
        || decide ((banksm1 + 1) * 2 ^ 18 < (slotsm1 + 1) * (1024 * 2 ^ slotlog)) then e.trap cOwner 0 b
    else .ok { early := fun s => s.updCluster e.cl fun c => c.setBobbin b (some
      { slotsm1 := slotsm1, slotlog := slotlog, banksm1 := banksm1, tags := List.replicate (slotsm1 + 1) .empty }) })
def execBobinit (f : LF) (s : State) : Result := s.issueAlone (.bobinit f) (fxBobinit f)

/-- BOBSTAT (R232). -/
def fxBobstat (f : LF) (e : Env) : Verdict := e.guarded f (e.bobbinArg f fun _ o => okW [wr .x (f.reg.toNat % 64) o.word 6])
def execBobstat (f : LF) (s : State) : Result := s.issueAlone (.bobstat f) (fxBobstat f)

/-! ## Bank modes (R124, R125, R238) -/

def modeOf (n : Nat) : BankMode :=
  match n with
  | 0 => .cache | 1 => .scratch | _ => .fifo

/-- The condition of a transition (R124). -/
def State.transOk (s : State) (cl b : Nat) (m : BankMode) : Bool :=
  let c := s.cluster cl
  match (c.bank b).mode with
  | .cache => true
  | .scratch => m == .scratch || !(c.grans.any fun p => p.1 / 256 == b && p.2.eng.isSome)
  | .fifo => m == .fifo || (match c.bobbinOf b with
    | none => true
    | some (first, o) => !(o.tags.any fun t => t == .filling || t == .draining)
        && !(s.copyList.any fun j => j.cl == cl && dSpace j.dst == 2 && dBase j.dst == first && !j.redirected))

/-- A bank that enters a mode: it reads as zero, with no flag, mark or bobbin of the old one (R124, R125, R131, R440). -/
def Cluster.enterMode (c : Cluster) (b : Nat) (m : BankMode) : Cluster :=
  if (c.bank b).mode = m then c
  else
    let c := match c.bobbinOf b with
      | some (first, _) => c.setBobbin first none
      | none => c
    { c.setBank b { c.bank b with mode := m } with
      bytes := dropRange c.bytes (b * 2 ^ 18) (2 ^ 18)
      grans := dropRange c.grans (b * 256) 256
      marks := dropRange c.marks (b * 2 ^ 14) (2 ^ 14)
      poison := dropRange c.poison (b * 2 ^ 11) (2 ^ 11) }

/-- The tags of a bank's words are lost with them. -/
def State.dropTags (s : State) (cl b : Nat) : State :=
  let lo := (cl * 2 ^ 23 + b * 2 ^ 18) / 8 * 2
  { s with reltags := s.reltags.filter fun p => !(p.1 % 2 == 1 && lo ≤ p.1 && p.1 < lo + 2 ^ 16) }


/-- BANKMODE: the transition is asked for, and the strand waits, after issue, until it is complete (R238). One whose condition fails when no other
transition of the bank is due traps at once. -/
def fxBankmode (f : LF) (e : Env) : Verdict :=
  e.guarded f (e.bankArg f fun b =>
    let m := f.reg.toNat % 4
    let queued := (e.now.cluster e.cl).trans.any fun t => t.2.1 == b
    if e.mill then e.trap cSpBound 0 b
    else if !queued && !e.s.transOk e.cl b (modeOf m) then e.trap cOwner 0 b
    else if !queued && ((e.s.cluster e.cl).bank b).mode == modeOf m then nothing
    else .ok { early := fun s => s.updCluster e.cl fun c => { c with trans := c.trans ++ [(e.sid, b, m + 4 * e.slot)] }
               waits := [.bankmode e.cl b m], firm := true })
def execBankmode (f : LF) (s : State) : Result := s.issueAlone (.bankmode f) (fxBankmode f)

/-- Does a withheld store go to a bank? -/
def PStore.inBank (p : PStore) (cl b : Nat) : Bool :=
  match p.loc with
  | .spad c a => p.pend.isNone && c == cl && a / 2 ^ 18 == b
  | _ => false

/-- Does a strand wait for a transition of a bank? Its withheld stores are then those of the BANKMODE's own bundle (R337). -/
def Strand.inTransition (t : Strand) (cl b : Nat) : Bool := t.waits.any fun w => match w with
  | .bankmode c k _ => c == cl && k == b
  | _ => false

/-- Is a withheld store still due to a bank (R125)? -/
def State.bankStores (s : State) (cl b : Nat) : Bool :=
  s.strands.any fun t => !t.2.inTransition cl b && t.2.stores.any fun p => p.inBank cl b

/-- Stores that a BANKMODE's own bundle has made to a bank that leaves its mode are lost with its contents (R124; notes/assumptions/54.md). -/
def State.dropBankStores (s : State) (cl b : Nat) : State :=
  { s with strands := s.strands.map fun t => (t.1, if t.2.inTransition cl b then { t.2 with stores := t.2.stores.filter fun p => !p.inBank cl b } else t.2) }

/-- A bank enters a mode (R124): one that leaves CACHE writes its dirty sectors back. -/
def State.enterMode (s : State) (cl b : Nat) (m : BankMode) : State :=
  if ((s.cluster cl).bank b).mode = m then s
  else (((if ((s.cluster cl).bank b).mode = .cache then s.dropWayBank cl b else s).updCluster cl fun c => c.enterMode b m).dropTags cl b).dropBankStores cl b

/-- A strand's wait for a transition ends. -/
def State.transDone (s : State) (sid cl b m : Nat) : State :=
  s.updStrand sid fun t => { t with waits := t.waits.map fun w => if w == .bankmode cl b m then .resp else w }

/-- A trap of a bundle whose after-issue block is under way: the strand is taken back to before the bundle, and traps there. -/
def State.trapBlocked (s : State) (sid : Nat) (t : Trap) : State :=
  ((s.rollback sid).updStrand sid fun t => { t with st := .ready }).takeTrap sid t

/-- BANK_TRANSITION: the next transition of cluster `ev.n`'s bank `ev.m`, in arrival order: it is performed in one step, or traps OWNER (R124,
R125, R238). -/
def execBankTransition (s : State) : Result :=
  let cl := s.ev.n
  let b := s.ev.m
  match (s.cluster cl).trans.find? fun t => t.2.1 == b with
  | none => .next s
  | some t =>
    if s.bankStores cl b then .next s
    else
      let s1 := s.updCluster cl fun c => { c with trans := c.trans.erase t }
      let m := t.2.2 % 4
      if s.transOk cl b (modeOf m) then .next ((s1.enterMode cl b (modeOf m)).transDone t.1 cl b m)
      else if (s.strand t.1).waits.contains (.bankmode cl b m) then
        .next (s1.trapBlocked t.1 { cause := cOwner, slot := t.2.2 / 4, addr := b })
      else .next s1

end Sys2Proof.Machine
end

