-- ==== Sys2Proof/Machine/Tasks.lean ====
section
/-! DEFINITION. The whorl requests of the L slots (R45 to R56, R233 to R237), and the placement of tasks (R22 to R24, R30, R46). -/

namespace Sys2Proof.Machine

open Sys2Proof

/-- A whorl request of a tenant strand, under the guard: its group as the requests before it leave it (R213, R233). -/
def Env.whorlReq (e : Env) (f : LF) (k : Group → Verdict) : Verdict :=
  e.tenantOnly (e.guarded f (match e.now.group e.mcx with
    | some g => k g
    | none => e.trap cIllegal))

/-! ## SPAWN (R45, R50, R234) -/

/-- The status of a SPAWN into a scope; several causes are taken in the order 3, 2, 1 (R50). `g` is the group before the bundle, whose CANCEL refuses from the
next bundle on (R51), and `room` what the requests before it leave of the dynamic queue. -/
def Group.spawnStatus (g : Group) (own scope room : Nat) : Nat :=
  if g.ended.isSome then 3
  else match g.scope scope with
    | none => 2
    | some x =>
      if x.st = .cancelling || !g.inTree own scope then 2
      else if room = 0 then 1
      else 0

/-- The free entries of the dynamic queue (R45). -/
def Group.dynRoom (g : Group) : Nat := 1024 - (g.ready.filter fun t => t.dyn).length

/-- A task spawned into a scope (R45). One whose scope is cancelled by an earlier request of its bundle is removed at once (R51, R237). -/
def Group.addTask (g : Group) (t : Task) : Group :=
  match g.scope t.scope with
  | none => g
  | some x =>
    if x.st = .cancelling then g.countUp t.scope fun x => { x with removed := x.removed + 1 }
    else
      let g := match g.act t.act with
        | some y => g.setAct t.act (some { y with live := y.live + 1 })
        | none => g
      { g with ready := g.ready ++ [t] }

/-- SPAWN of a node with two arguments into a scope. -/
def Env.spawn (e : Env) (f : LF) (g : Group) (scope : Nat) : Verdict :=
  let node := f.off.toNat % 2 ^ 12
  let ws := e.s.nodeWords e.mcx node
  if bitsOf (e.s.hw e.mcx 10) 59 48 < node || nodeKind (ws.headD 0).toNat ≠ 1 then e.trap cIllegal
  else
    let a := f.xbase.toNat
    let args := [BitVec.ofNat 64 (e.rx a), BitVec.ofNat 64 (e.rx (a + 1))] ++ ws.drop 5
    let st := ((e.s.group e.mcx).getD g).spawnStatus e.t.scope scope g.dynRoom
    let t : Task := { nodeTask node e.t.act 0 scope ws args with dyn := true }
    let early := fun (s : State) => s.updGroup e.mcx fun g =>
      if st ≠ 0 then g.countUp scope fun x => { x with refused := x.refused + 1 } else g.addTask t
    .ok { early := early, writes := [wr .x (f.reg.toNat % 64) st 32] }

/-- SPAWN into the issuer's SCOPE (R234). -/
def fxSpawn (f : LF) (e : Env) : Verdict := e.whorlReq f fun g => e.spawn f g e.t.scope
def execSpawn (f : LF) (s : State) : Result := s.issueAlone (.spawn f) (fxSpawn f)

/-- SPAWN into the scope in x(a+2) (R234). -/
def fxSpawnSc (f : LF) (e : Env) : Verdict := e.whorlReq f fun g => e.spawn f g (e.rx (f.xbase.toNat + 2) % 2 ^ 12)
def execSpawnSc (f : LF) (s : State) : Result := s.issueAlone (.spawnSc f) (fxSpawnSc f)

/-! ## RANGENEXT (R46, R235) -/

def Activation.grain (x : Activation) : Nat := max 1 ((x.words.getD 5 0).toNat % 2 ^ 32)
def Activation.fin (x : Activation) : Nat := (x.words.getD 4 0).toNat
def Activation.width (x : Activation) : Nat := bitsOf (x.words.getD 2 0).toNat 15 0

/-- The victim of a steal: the placed task with the largest range of at least twice the grain; ties go to the lower identity word. -/
def Activation.victim (x : Activation) (thief : Option Nat) : Option (Nat × Nat × Nat) :=
  (x.ranges.foldl (fun (b : Option (Nat × Nat × Nat)) p => match p.2 with
    | none => b
    | some (lo, hi) => if some p.1 = thief then b
      else (match b with
        | some (_, l, h) => if h - l < hi - lo then some (p.1, lo, hi) else b
        | none => some (p.1, lo, hi))) none).filter fun b => 2 * x.grain ≤ b.2.2 - b.2.1

/-- A steal on behalf of a task: the activation after the split, and the thief's range (R46). -/
def Activation.steal (x : Activation) (thief : Option Nat) : Option (Activation × Nat × Nat) :=
  (x.victim thief).map fun v =>
    let s := v.2.1 + x.grain * ((v.2.2 - v.2.1) / (2 * x.grain))
    ({ x with ranges := mset none x.ranges v.1 (some (v.2.1, s)) }, s, v.2.2)

/-- RANGENEXT by a strand: the activation after it, and the chunk; none at the end of the range (R46). -/
def Activation.next (x : Activation) (sid : Nat) : Activation × Option (Nat × Nat) :=
  let take (x : Activation) (lo hi : Nat) : Activation × Option (Nat × Nat) :=
    let c := min x.grain (hi - lo)
    ({ x with ranges := mset none x.ranges sid (some (lo + c, hi)) }, some (lo, lo + c))
  let r := (mget none x.ranges sid).getD (0, 0)
  if r.1 < r.2 then take x r.1 r.2
  else match x.steal (some sid) with
    | some (y, lo, hi) => take y lo hi
    | none => (x, none)

/-- RANGENEXT (R235). -/
def fxRangenext (f : LF) (e : Env) : Verdict :=
  e.whorlReq f fun g => match g.act e.t.act with
    | none => e.trap cIllegal
    | some x =>
      if e.t.dyn || nodeKind (x.words.headD 0).toNat ≠ 6 then e.trap cIllegal
      else
        let r := x.next e.sid
        let c := r.2.getD (x.fin, x.fin)
        let d := f.reg.toNat % 64
        .ok { early := fun s => s.updGroup e.mcx fun g => g.setAct e.t.act (some r.1)
              writes := [wr .x d c.1 32, wr .x (d + 1) c.2 32] }
def execRangenext (f : LF) (s : State) : Result := s.issueAlone (.rangenext f) (fxRangenext f)

/-! ## Skeins (R32, R33, R236) -/

/-- The skein id that EA names. -/
def Env.skeinArg (e : Env) (f : LF) (k : Nat → Verdict) : Verdict :=
  e.whorlReq f fun _ => if 256 ≤ e.ea f then e.trap cIllegal else k (e.ea f)

/-- SKJOIN. -/
def fxSkjoin (f : LF) (e : Env) : Verdict :=
  e.skeinArg f fun k => .ok { early := fun s => s.skeinJoin e.mcx k e.sid }
def execSkjoin (f : LF) (s : State) : Result := s.issueAlone (.skjoin f) (fxSkjoin f)

/-- SKLEAVE. -/
def fxSkleave (f : LF) (e : Env) : Verdict :=
  e.skeinArg f fun k => .ok { early := fun s => s.skeinLeave e.mcx k e.sid }
def execSkleave (f : LF) (s : State) : Result := s.issueAlone (.skleave f) (fxSkleave f)

/-- The arrival of SKBAR, counted when its bundle is first presented (R236). -/
def State.skbarArrive (s : State) (mcx k sid : Nat) : State :=
  if (s.strand sid).skPend.contains k then s
  else (s.updStrand sid fun t => { t with skPend := t.skPend ++ [k] }).skeinArrive mcx k sid

/-- SKBAR: a member waits, before issue, until the phase completes (R33, R236). Its arrival is a full release: it follows the answers to the strand's
remote writes (R152). -/
def fxSkbar (f : LF) (e : Env) : Verdict :=
  e.skeinArg f fun k =>
    if e.t.skGo.contains k then
      .ok { early := fun s => s.updStrand e.sid fun t => { t with skPend := t.skPend.erase k, skGo := t.skGo.erase k } }
    else if (e.s.skeinsOf e.sid).contains k then
      (if e.s.remotePending e.sid then .block [.fence] id else .block [.skein k] fun s => s.skbarArrive e.mcx k e.sid)
    else nothing
def execSkbar (f : LF) (s : State) : Result := s.issueAlone (.skbar f) (fxSkbar f)

/-! ## Scopes (R47 to R55, R237) -/

/-- The id that SCOPENEW creates, or 0 (R47): the lowest that is not live. R47 leaves open which (DESIGN CHOICE, notes/assumptions/55.md). -/
def Group.newScope (g : Group) (own : Nat) : Nat :=
  match g.scope own with
  | none => 0
  | some x =>
    if 16 ≤ x.depth || x.st = .cancelling then 0
    else (((List.range 4095).map (· + 1)).find? fun i => (g.scope i).isNone).getD 0

/-- SCOPENEW (R237). -/
def fxScopenew (f : LF) (e : Env) : Verdict :=
  e.whorlReq f fun g =>
    let i := g.newScope e.t.scope
    let d := match g.scope e.t.scope with | some x => x.depth | none => 0
    let early := fun (s : State) => if i = 0 then s
      else s.updGroup e.mcx fun g => g.setScope i (some { parent := e.t.scope, depth := d + 1, creator := some e.sid })
    .ok { early := early, writes := [wr .x (f.reg.toNat % 64) i 32] }
def execScopenew (f : LF) (s : State) : Result := s.issueAlone (.scopenew f) (fxScopenew f)

/-- The acknowledgement word that EA names: checked as CANCEL checks it (R237). -/
def Env.ackPlace (e : Env) (f : LF) (k : Loc → Verdict) : Verdict :=
  let ea := e.ea f
  if ea % 8 ≠ 0 then e.trap cAlign 0 ea
  else if f.opx then
    match e.s.spadStoreCheck e.sid ea 8 8 with
    | some c => e.trap c 0 ea
    | none => if e.s.spadPoisoned e.cl ea 8 then e.spadUe ea else k (.spad e.cl ea)
  else e.gplace ea .write 1 fun pl => match e.s.readPlace pl 8 with
    | .error g => e.fault g 1
    | .ok _ => k pl.loc

/-- Acknowledgements that wait in a group (R50): of live scopes, and those whose write with DONE = 1 waits on a fault. -/
def Group.pendingAcks (g : Group) : Nat :=
  (g.scopes.map fun p => match p.2 with | some x => x.acks.length | none => 0).sum + (g.words.filter fun w => bitOf w.2.1 12).length

/-- The status of a CANCEL of a scope by a task of scope `own` (R50). -/
def Group.cancelStatus (g : Group) (own c : Nat) : Nat :=
  if c = 0 then 1
  else match g.scope c with
    | none => 2
    | some _ =>
      if !(g.inTree c own || g.inTree own c) then 1
      else if 64 ≤ g.pendingAcks then 3
      else 0

/-- An accepted CANCEL (R51): the word is zeroed and joins those of the scope; a scope not yet CANCELLING is cancelled with its descendants. -/
def State.acceptCancel (s : State) (mcx : Nat) (a : Ack) : State :=
  match s.group mcx with
  | none => s
  | some g =>
    let c := a.named
    match g.scope c with
    | none => s
    | some x =>
      let s := (s.ackWrite mcx a 0).updGroup mcx fun g => g.setScope c (some { x with acks := x.acks ++ [a] })
      let s := if c = g.root then s.updGroup mcx fun g => { g with cancelled := some (g.cancelled.getD cCancelled) } else s
      let s := if x.st = .cancelling then s else s.cancelScope mcx c
      s.whorl mcx

/-- CANCEL (R51, R237). -/
def fxCancel (f : LF) (e : Env) : Verdict :=
  e.whorlReq f fun g => e.ackPlace f fun l =>
    let r := f.reg.toNat % 64
    let c := e.rx r % 2 ^ 12
    let st := g.cancelStatus e.t.scope c
    let a : Ack := { loc := l, ea := e.ea f, named := c }
    let early := fun (s : State) =>
      let s := if f.opx then s else s.touch e.sid (e.ea f) .write
      match st with
      | 0 => s.acceptCancel e.mcx a
      | 2 => s.ackWrite e.mcx a (c + 2 ^ 12)
      | _ => s
    .ok { early := early, writes := [wr .x r st 32] }
def execCancel (f : LF) (s : State) : Result := s.issueAlone (.cancel f) (fxCancel f)

/-- CWAIT: it blocks before issue until DONE is 1, and then acquires without a scope check (R55, R152, R237). The word is seen under the strand's own withheld
stores (R73). A remote word is read by messages, and its answer stands among the pending results. -/
def fxCwait (f : LF) (e : Env) : Verdict :=
  e.whorlReq f fun _ => e.ackPlace f fun l =>
    let ea := e.ea f
    let r := f.reg.toNat % 64
    let done := fun (v : Nat) => Verdict.ok
      { early := fun s => s.updStrand e.sid fun t => { t with resp := [] }
        writes := [wr .x r v 1] }
    match l with
    | .remote home pa key =>
      let got := (e.t.resp.find? fun w => w.file == .x && w.reg == r).map fun w => w.val
      (match got with
        | some v => if bitOf v 12 then done v else .block [.cwait l r] id
        | none => .block [.cwait l r] fun s =>
          (s.updStrand e.sid fun t => { t with resp := t.resp ++ [wr .x r 0 1] }).sendAll (dieOf e.sid) [e.readReq home key pa ea 8 (respKey .x r) 0 0])
    | _ =>
      let v := match e.s.readLoc l 8 with | .ok bs => leNat (overlay e.t.stores l ea bs) | .error _ => 0
      if bitOf v 12 then (done v).also fun s => s.charge e.sid { loc := l, ea := ea, cache := e.s.cacheOf e.sid ea } 8 .read else .block [.cwait l r] id
def execCwait (f : LF) (s : State) : Result := s.issueAlone (.cwait f) (fxCwait f)

/-! ## Placement (R22 to R24, R30, R46) -/

/-- The strand slots that a context uses, in the order of placement: ascending GSP, then SLOT (R30, R313). -/
def State.taskSlots (s : State) (mcx : Nat) (g : Group) : List Nat :=
  g.sids.filter fun sid => slotOf sid ≤ s.hw mcx 3 / 2 ^ 8 % 4

/-- The slot that a task of a bank size is placed in. -/
def State.freeSlot (s : State) (mcx : Nat) (g : Group) (bank : Nat) : Option Nat :=
  (s.taskSlots mcx g).find? fun sid => (s.strand sid).st = .free && decide (bank ≤ (s.strand sid).bank)

/-- May the whorl place tasks of a group now (R341, R350)? -/
def State.placing (s : State) (mcx : Nat) : Bool :=
  (s.stop mcx).isNone && (match s.ctx mcx with | some c => c.st == .bound | none => false)

/-- The identity word (R23). -/
def identityWord (sid gsp gn node : Nat) (dyn : Bool) : Nat :=
  whoOf sid + gsp * 2 ^ 11 + gn * 2 ^ 18 + node * 2 ^ 25 + dyn.toNat * 2 ^ 37

/-- The registers at a task's first bundle (R22, R23, R24): the bank holds what the slot's last task left. Results still in flight to it land
there (R75). -/
def startCore (old : Core) (t : Task) (ident policy : Nat) : Core :=
  let x0 : AMap Word := []
  let x1 := (List.range 5).foldl (fun m k => mset 0 m (k + 1) (t.args.getD k 0)) x0
  { v := old.v
    flight := old.flight.filter fun f => f.file == .v && f.shadow.isNone
    x := mset 0 (mset 0 x1 6 (BitVec.ofNat 64 t.inst)) 7 (BitVec.ofNat 64 ident)
    pc := t.entry, mpc := t.mpc0, reelPolicy := BitVec.ofNat 2 policy }

/-- A task starts in a slot (R22). -/
def State.startTask (s : State) (mcx : Nat) (g : Group) (sid : Nat) (t : Task) : State :=
  let depth := match g.scope t.scope with | some x => x.depth | none => 1
  let ident := identityWord sid (g.gsp (gnumOf sid)) g.spindles.length t.node t.dyn
  let policy := bitsOf (s.hw mcx 14) 62 61
  s.updStrand sid fun o =>
    let c := startCore o.core t ident policy
    { st := .ready, core := c, ckpt := c, mcx := mcx, node := t.node, act := t.act, dyn := t.dyn, scope := t.scope, depth := depth
      bank := o.bank, tile0 := o.tile0, ntile := o.ntile, acc0 := o.acc0, nacc := o.nacc }

/-- The first task of a RANGE activation takes its range when it is placed (R46). -/
def Activation.placed (x : Activation) (sid : Nat) (dyn : Bool) : Activation :=
  match x.queued with
  | some r => if dyn then x else { x with queued := none, ranges := mset none x.ranges sid (some r) }
  | none => x

/-- TASK_PLACE: the head of the ready queue of context `ev.n`'s group is placed (R30, R42). -/
def execTaskPlace (s : State) : Result :=
  let mcx := s.ev.n
  let s := if s.placing mcx then s.whorl mcx else s
  match s.group mcx with
  | none => .next s
  | some g => match g.ready with
    | [] => .next s
    | t :: r =>
      if !s.placing mcx then .next s
      else match s.freeSlot mcx g t.bank with
        | none => .next s
        | some sid =>
          let s := s.updGroup mcx fun g =>
            let g := { g with ready := r }
            match g.act t.act with
            | some x => g.setAct t.act (some (x.placed sid t.dyn))
            | none => g
          .next (s.startTask mcx g sid t)

/-- RANGE_STEAL: a new task of RANGE activation `ev.m` of context `ev.n`, placed with the range that it steals (R46). An END node that is ready does not stop
it, since R44 speaks of nodes and of SPAWN alone (DESIGN CHOICE, notes/assumptions/55.md). -/
def execRangeSteal (s : State) : Result :=
  let mcx := s.ev.n
  match s.group mcx with
  | none => .next s
  | some g => match g.act s.ev.m with
    | none => .next s
    | some x =>
      let t := nodeTask x.node s.ev.m 0 g.root x.words (rangeArgs x.words)
      if !s.placing mcx || nodeKind (x.words.headD 0).toNat ≠ 6 || x.width ≤ x.live || !g.ready.isEmpty || g.cancelled.isSome then .next s
      else match s.freeSlot mcx g t.bank, x.steal none with
        | some sid, some (y, lo, hi) =>
          let y : Activation := { y with live := y.live + 1, ranges := mset none y.ranges sid (some (lo, hi)) }
          .next ((s.updGroup mcx fun g => g.setAct s.ev.m (some y)).startTask mcx g sid t)
        | _, _ => .next s

end Sys2Proof.Machine
end

