-- ==== Sys2Proof/Machine/Reel.lean ====
section
/-! DEFINITION. The reel (R262 to R279): push, pop and seal, the branch BRT (R275), and the events that write and decode frames. -/

namespace Sys2Proof.Machine

open Sys2Proof

/-! ## The channel's state -/

/-- Closed frames that wait to be written. -/
def Reel.closed (r : Reel) : Nat := (r.waiting.filter fun p => p.1 < 2 ^ 40).length

/-- The frames that the stack may use (R271, R276). -/
def reelCapacity (c : ReelCfg) (policy : Nat) : Nat := if policy = 0 then (c.spillmax + 1) * c.frames else c.frames

/-- The top frame's records, once they are held decoded: an empty frame gives way to the one below (R264). -/
inductive TopRecs where
  | empty
  | recs (r : Reel)
  /-- Frame n must be decoded first. -/
  | decode (n : Nat)
  | faulty

/-- Bring the records of the top frame to hand (R264, R273). -/
def Reel.topRecs : Nat → Reel → TopRecs
  | 0, _ => .empty
  | fuel + 1, r =>
    if !r.live then .empty
    else if r.coded then
      match r.replay.find? fun p => p.1 == r.top with
      | none => .decode r.top
      | some (_, none) => .faulty
      | some (_, some recs) =>
        if recs.isEmpty then (if r.top = 0 then .empty else Reel.topRecs fuel { r with top := r.top - 1, recs := [] })
        else .recs { r with recs := recs, coded := false }
    else .recs r

/-- Remove the top record (R264). -/
def Reel.drop (r : Reel) : Reel :=
  let recs := r.recs.dropLast
  if !recs.isEmpty then { r with recs := recs }
  else if r.top = 0 then { r with live := false, recs := [], coded := false }
  else { r with top := r.top - 1, recs := [], coded := true }

/-! ## Pops (R272) -/

/-- What a pop finds. -/
inductive Popped where
  | ok (vals : List Nat) (r : Reel)
  | trap (cause : Nat)
  | decode (n : Nat)

/-- The records of the expected tags, top first. -/
def Reel.pop : List Nat → Reel → Popped
  | [], r => .ok [] r
  | e :: es, r => match r.topRecs 64 with
    | .empty => .trap cDiverge
    | .decode n => .decode n
    | .faulty => .trap cDiverge
    | .recs r' => match r'.recs.getLast? with
      | none => .trap cDiverge
      | some x =>
        if x.tag = 6 then .trap cRecompute
        else if x.tag ≠ e then .trap cDiverge
        else match Reel.pop es r'.drop with
          | .ok vs r2 => .ok (x.val :: vs) r2
          | p => p

/-- RMARK.POP: a mark or a marker (R272). -/
def Reel.popMark (r : Reel) : Popped :=
  match r.topRecs 64 with
  | .empty => .trap cDiverge
  | .decode n => .decode n
  | .faulty => .trap cDiverge
  | .recs r' => match r'.recs.getLast? with
    | none => .trap cDiverge
    | some x =>
      if x.tag = 5 then .ok [x.val] r'.drop
      else if x.tag = 6 then .ok [two64 - 1] r'.drop
      else .trap cDiverge

/-! ## Pushes (R271) -/

/-- What a placement finds. -/
inductive Placed where
  | ok (r : Reel)
  | full
  /-- Two closed frames still wait to be written (R278). -/
  | busy
  | decode (n : Nat)
  | faulty

/-- Close the top frame: its bytes wait to be written to its ring slot, and its records stay at hand for the rest of the bundle. -/
def Reel.close (r : Reel) (c : ReelCfg) : Reel :=
  { r with
    replay := r.replay.filter (fun p => p.1 != r.top) ++ [(r.top, some r.recs)]
    waiting := r.waiting ++ [(r.top, frameBytes r.top r.recs false (c.slotAddr (r.top - 1)))]
    held := mset 0 r.held (r.top % c.frames) (r.top + 1) }

/-- Open frame n with a record; frame n - R is spilled first when the ring slot still holds it (R265). -/
def Reel.openFrame (r : Reel) (c : ReelCfg) (n : Nat) (x : ReelRec) : Reel :=
  let spill := c.frames ≤ n && mget 0 r.held (n % c.frames) == n - c.frames + 1
  { r with
    top := n, recs := [x], coded := false, live := true
    waiting := if spill then r.waiting ++ [(reelSpill (n - c.frames), [])] else r.waiting }

/-- Place (R271). `old` counts the closed frames that earlier bundles have left to be written: a push waits only while there is one of these (R278;
notes/assumptions/27.md). -/
def Reel.place (r : Reel) (c : ReelCfg) (policy old : Nat) (x : ReelRec) : Placed :=
  match r.topRecs 64 with
  | .decode n => .decode n
  | .faulty => .faulty
  | .empty => if 0 < reelCapacity c policy then .ok ({ r with top := 0, recs := [x], coded := false, live := true }) else .full
  | .recs r' =>
    if recFits r'.recs x then .ok { r' with recs := r'.recs ++ [x] }
    else if reelCapacity c policy ≤ r'.top + 1 then .full
    else if 2 ≤ r'.closed && 0 < old then .busy
    else .ok ((r'.close c).openFrame c (r'.top + 1) x)

/-- PlaceAll. -/
def Reel.placeAll (c : ReelCfg) (policy old : Nat) : Reel → List ReelRec → Placed
  | r, [] => .ok r
  | r, x :: xs => match r.place c policy old x with
    | .ok r' => Reel.placeAll c policy old r' xs
    | p => p

/-! ## Frames in memory (R263, R265) -/

/-- What the read of a frame finds. -/
inductive FrameGot where
  | ok (bs : List Byte)
  | fault (f : MemFault)
  /-- An uncorrectable error or a MAC mismatch (R278). -/
  | ue (err : MemErr) (l : Loc) (ea : Nat)
  /-- The sectors of a remote page must be asked for. -/
  | ask (home key pa : Nat) (sectors : List Nat)

/-- 512 bytes of the channel's areas. -/
def State.reelRead (s : State) (sid ea : Nat) : FrameGot :=
  match s.place sid ea .read with
  | .error f => .fault f
  | .ok (pl, _) => match pl.loc with
    | .remote home pa key =>
      if !s.reachable home then .fault { cause := cProt, addr := ea, remote := true }
      else
        let ks := sectorsOf pa 512
        let have_ := (s.strand sid).reelIn
        if ks.all fun k => mhas have_ k then .ok (ks.flatMap fun k => mget [] have_ k)
        else .ask home key pa (ks.filter fun k => !mhas have_ k)
    | l => match s.readLoc l 512 with
      | .ok bs => .ok (overlay (s.strand sid).stores l ea bs)
      | .error .poison => .fault { cause := cPoison, addr := ea }
      | .error e => .ue e l ea

/-- Where the channel finds frame n: its own waiting write, the ring slot, or the spill home (R265). The flag tells a refill. -/
def Reel.frameAt (r : Reel) (c : ReelCfg) (n : Nat) : (List Byte) ⊕ (Nat × Bool) :=
  match r.waiting.reverse.find? fun p => (p.1 == n || p.1 == reelBack n) && !p.2.isEmpty with
  | some p => .inl p.2
  | none =>
    if (r.waiting.any fun p => p.1 == reelSpill n) || mget 0 r.held (n % c.frames) == n + 1 then .inr (c.slotAddr n, false)
    else .inr (c.spillAddr n, true)

/-- A frame as the channel reads it, and whether it came from its spill home. -/
def State.reelFrame (s : State) (sid : Nat) (r : Reel) (c : ReelCfg) (n : Nat) : FrameGot × Bool :=
  match r.frameAt c n with
  | .inl bs => (.ok bs, false)
  | .inr (ea, refill) => (s.reelRead sid ea, refill)

/-- An uncorrectable error in the sector of a frame that the channel reads (R278, R439). -/
def State.reelUe (s : State) (sid : Nat) (r : Reel) (c : ReelCfg) (n : Nat) : FrameGot :=
  match r.frameAt c n with
  | .inl bs => .ok bs
  | .inr (ea, _) => match s.place sid ea .read with
    | .ok (pl, _) => .ue .ue pl.loc ea
    | .error f => .fault f

/-- Messages that ask for the sectors of a remote frame; `slot` 4096 marks their answers (R415). -/
def State.reelAsk (s : State) (sid home key pa : Nat) (ks : List Nat) : State :=
  if s.reachReqs.any fun p => match p.2 with | some q => q.who == sid && q.slot == 4096 | none => false then s
  else s.sendAll (dieOf sid) (ks.map fun k =>
    { kind := 1, home := home, key := key, pa := 128 * k, mcx := s.mcxOf sid, who := sid, ea := pa, slot := 4096, sector := k })

/-- An error of a frame access: the channel is suspended on a fault entry, or in the error state (R278). -/
def State.reelFail (s : State) (sid : Nat) (g : FrameGot) : State :=
  match g with
  | .ok _ => s
  | .fault f =>
    if f.cause = cMemUe then s.updReel sid fun r => { r with err := some cMemUe }
    else
      let r := s.addFault (dieOf sid) (s.mcxOf sid) f 6 (whoOf sid) true
      r.1.updReel sid fun x => { x with susp := some (dieOf sid, r.2) }
  | .ue e l ea => (s.uncorrectable (dieOf sid) (some (s.mcxOf sid)) (whoOf sid) cMemUe e l ea).updReel sid fun r => { r with err := some cMemUe }
  | .ask home key pa ks => s.reelAsk sid home key pa ks

/-! ## The checks of an instruction (R262, R278) -/

/-- CheckChannel. Within a bundle the channel acts on L0, then on L1, then on BRT (R275). -/
def Env.channel (e : Env) (k : Reel → ReelCfg → Verdict) : Verdict :=
  let c := e.s.reelCfg e.sid
  let r := (e.now.core e.sid).reel
  if !c.enabled then e.trap cIllegal
  else match r.err with
    | some cause => .trap { cause := cause, slot := 9 }
    | none => if e.held then .block [] id else if r.susp.isSome then .block [.reel] id else k r c

/-- The channel after an instruction. Its replay buffer serves what follows in the bundle, and is given up at issue (R273, R275). -/
def Env.setReel (e : Env) (r : Reel) (fx : Fx) : Verdict :=
  .ok { fx with early := fun s => fx.early (s.updStrand e.sid fun t => { t with core := { t.core with reel := r }, reelIn := [] })
                core := fun c => fx.core { c with reel := { c.reel with replay := [] } } }

/-- A pop of the expected records; a coded frame is decoded while the bundle waits before issue. -/
def Env.popped (e : Env) (p : Popped) (k : List Nat → Reel → Verdict) : Verdict :=
  match p with
  | .ok vs r => k vs r
  | .trap c => e.trap c
  | .decode n => .block [.reelFrame n] id

/-- The topmost M record at or below the top (R276): the channel cut back to it, or what stands in the way. -/
inductive MarkAt where
  | found (r : Reel)
  | none
  | stuck (g : FrameGot)
  | faulty

/-- Records up to the last mark of a list. -/
def upToMark (recs : List ReelRec) : List ReelRec := (recs.reverse.dropWhile fun x => x.tag != 5).reverse

/-- Search frames n, n - 1, … for a mark. -/
def State.markBelow (s : State) (sid : Nat) (r : Reel) (c : ReelCfg) : Nat → MarkAt
  | 0 => .none
  | n + 1 => match (s.reelFrame sid r c n).1 with
    | .ok bs => match decodeFrame n bs with
      | none => .faulty
      | some recs =>
        let m := upToMark recs
        if m.isEmpty then State.markBelow s sid r c n else .found { r with top := n, recs := m, coded := false }
    | g => .stuck g

/-- The channel with the records above its topmost mark removed. -/
def State.cutToMark (s : State) (sid : Nat) (r : Reel) (c : ReelCfg) : MarkAt :=
  if !r.live then .none
  else if r.coded then s.markBelow sid r c (r.top + 1)
  else if (upToMark r.recs).isEmpty then s.markBelow sid r c r.top
  else .found { r with recs := upToMark r.recs }

/-- The reads of frames lo to hi by a channel are charged (R373). -/
def State.chargeFrames (s : State) (sid : Nat) (r : Reel) (c : ReelCfg) (lo hi : Nat) : State :=
  ((List.range (hi + 1)).filter fun n => lo ≤ n).foldl (fun s n => match r.frameAt c n with
    | .inl _ => s
    | .inr (ea, _) => s.chargeAt (some (clusterOf sid)) (s.mcxOf sid) ea 512 .read) s

/-- DROPMARK's second attempt (R276). -/
def Env.dropMark (e : Env) (r : Reel) (c : ReelCfg) (old : Nat) (xs : List ReelRec) : Verdict :=
  match e.s.cutToMark e.sid r c with
  | .none => e.trap cReelFull
  | .faulty => e.trap cDiverge
  | .stuck g => .block [.reel] fun s => s.reelFail e.sid g
  | .found r' => match r'.placeAll c 2 old (⟨6, 0⟩ :: xs) with
    | .ok r2 => e.setReel r2 { early := fun s => if r'.top = r.top then s else s.chargeFrames e.sid r c r'.top (r.top - 1) }
    | .busy => .block [.reel] id
    | .decode n => .block [.reelFrame n] id
    | .faulty => e.trap cDiverge
    | .full => e.trap cReelFull

/-- Push (R271). -/
def Env.push (e : Env) (xs : List ReelRec) : Verdict :=
  e.channel fun r c =>
    let policy := e.c.reelPolicy.toNat
    let old := (e.s.core e.sid).reel.closed
    if r.shut then e.trap cIllegal
    else match r.placeAll c policy old xs with
      | .ok r' => e.setReel r' {}
      | .busy => .block [.reel] id
      | .decode n => .block [.reelFrame n] id
      | .faulty => e.trap cDiverge
      | .full => if policy = 2 then e.dropMark r c old xs else e.trap cReelFull

/-- The halves of a v register as values (R267). -/
def vLo (v : Nat) : Nat := v % 2 ^ 2048
def vHi (v : Nat) : Nat := v / 2 ^ 2048

/-- A reel instruction of a tenant strand, under its guard; a mill strand's is malformed whatever its guard (R213, R270, R286). -/
def Env.reelOp (e : Env) (f : LF) (k : Verdict) : Verdict := e.tenantOnly (e.guarded f k)

/-! ## Meanings (R270) -/

/-- RECV. -/
def fxRecv (f : LF) (e : Env) : Verdict :=
  e.reelOp f (e.vBound [f.reg.toNat] (
    let v := e.rv f.reg.toNat
    e.push [⟨0, vLo v⟩, ⟨1, vHi v⟩]))
def execRecv (f : LF) (s : State) : Result := s.issueAlone (.recv f) (fxRecv f)

/-- RECX. -/
def fxRecx (f : LF) (e : Env) : Verdict := e.reelOp f (e.push [⟨2, e.rx (f.reg.toNat % 64)⟩])
def execRecx (f : LF) (s : State) : Result := s.issueAlone (.recx f) (fxRecx f)

/-- RECP. -/
def fxRecp (f : LF) (e : Env) : Verdict := e.reelOp f (e.push [⟨3, e.rp (f.reg.toNat % 16)⟩])
def execRecp (f : LF) (s : State) : Result := s.issueAlone (.recp f) (fxRecp f)

/-- RMARK. -/
def fxRmark (f : LF) (e : Env) : Verdict := e.reelOp f (e.push [⟨5, f.off.toNat⟩])
def execRmark (f : LF) (s : State) : Result := s.issueAlone (.rmark f) (fxRmark f)

/-- RECB: the decision of a uniform predicate (R176, R270). -/
def fxRecb (f : LF) (e : Env) : Verdict :=
  e.reelOp f (e.uniform (f.reg.toNat % 16) fun u => e.push [⟨4, u.toNat⟩])
def execRecb (f : LF) (s : State) : Result := s.issueAlone (.recb f) (fxRecb f)

/-- RMARK.POP (R272). -/
def fxRmarkPop (f : LF) (e : Env) : Verdict :=
  e.reelOp f (e.channel fun r _ => e.popped r.popMark fun vs r' => e.setReel r' { writes := [wr .x (f.reg.toNat % 64) (vs.headD 0) 8] })
def execRmarkPop (f : LF) (s : State) : Result := s.issueAlone (.rmarkPop f) (fxRmarkPop f)

/-- RPOPV: VHI, then VLO (R272). -/
def fxRpopv (f : LF) (e : Env) : Verdict :=
  e.reelOp f (e.vBound [f.reg.toNat] (e.channel fun r _ => e.popped (r.pop [1, 0]) fun vs r' =>
    e.setReel r' { writes := [wr .v f.reg.toNat (vs.getD 1 0 + vs.headD 0 * 2 ^ 2048) 8] }))
def execRpopv (f : LF) (s : State) : Result := s.issueAlone (.rpopv f) (fxRpopv f)

/-- RPOPX (R272). -/
def fxRpopx (f : LF) (e : Env) : Verdict :=
  e.reelOp f (e.channel fun r _ => e.popped (r.pop [2]) fun vs r' => e.setReel r' { writes := [wr .x (f.reg.toNat % 64) (vs.headD 0) 8] })
def execRpopx (f : LF) (s : State) : Result := s.issueAlone (.rpopx f) (fxRpopx f)

/-- RPOPP (R272). -/
def fxRpopp (f : LF) (e : Env) : Verdict :=
  e.reelOp f (e.channel fun r _ => e.popped (r.pop [3]) fun vs r' => e.setReel r' { writes := [wr .p (f.reg.toNat % 16) (vs.headD 0) 8] })
def execRpopp (f : LF) (s : State) : Result := s.issueAlone (.rpopp f) (fxRpopp f)

/-- RCHK (R272). -/
def fxRchk (f : LF) (e : Env) : Verdict :=
  e.reelOp f (e.channel fun r _ => e.popped (r.pop [2]) fun vs r' =>
    if vs.headD 0 = e.rx (f.reg.toNat % 64) then e.setReel r' {} else e.trap cDiverge)
def execRchk (f : LF) (s : State) : Result := s.issueAlone (.rchk f) (fxRchk f)

/-- RCHK.v (R272). -/
def fxRchkV (f : LF) (e : Env) : Verdict :=
  e.reelOp f (e.vBound [f.reg.toNat] (e.channel fun r _ => e.popped (r.pop [1, 0]) fun vs r' =>
    let v := e.rv f.reg.toNat
    if vs.getD 1 0 = vLo v && vs.headD 0 = vHi v then e.setReel r' {} else e.trap cDiverge))
def execRchkV (f : LF) (s : State) : Result := s.issueAlone (.rchkV f) (fxRchkV f)

/-- RSEAL: it waits, after issue, until every frame has been written (R274). -/
def fxRseal (f : LF) (e : Env) : Verdict :=
  e.reelOp f (e.channel fun r c =>
    let xd := f.reg.toNat % 64
    let out (n : Nat) : Fx := { waits := [.seal], resp := [wr .x xd n 1] }
    if r.shut then .ok (out r.count)
    else match r.topRecs 64 with
      | .decode n => .block [.reelFrame n] id
      | .faulty => e.trap cDiverge
      | .empty => e.setReel { r with shut := true, count := 0, live := false } (out 0)
      | .recs r' => e.setReel (r'.seal c) (out (r'.top + 1)))
def execRseal (f : LF) (s : State) : Result := s.issueAlone (.rseal f) (fxRseal f)

/-- BRT (R275). -/
def fxBrt (f : BF) (e : Env) : Verdict :=
  e.channel fun r _ => e.popped (r.pop [4]) fun vs r' =>
    let taken := vs.headD 0 != 0
    let hit := taken == f.asm
    match e.resolve hit (if taken then e.transfer (e.target f) (fun c => c.resolve hit) else fallOn fun c => c.resolve hit) with
    | .ok fx => e.setReel r' fx
    | v => v
def execBrt (f : BF) (s : State) : Result := s.issueAlone (.brt f) (fxBrt f)

/-! ## Events -/

/-- May the channel make a waiting write now: it is committed, or it belongs to a seal that is not withheld (R274, R279)? -/
def Strand.reelMay (t : Strand) (w : Nat × List Byte) : Bool := t.waits.contains .seal || t.back.reel.waiting.contains w

/-- 512 bytes written to the channel's areas, charged as reel bytes (R265, R426). -/
def State.reelWrite (s : State) (sid ea : Nat) (bs : List Byte) : Except FrameGot State :=
  match s.place sid ea .write with
  | .error f => .error (.fault f)
  | .ok (pl, s1) => match pl.loc with
    | .remote home pa key =>
      if s1.reachable home then .ok ((s1.remoteStore sid home pa key ea bs).lea (s1.mcxOf sid) 7 512)
      else .error (.fault { cause := cProt, addr := ea, remote := true })
    | l => match s1.writeLoc l bs with
      | .ok s2 => .ok ((s2.charge sid pl 512 .write).lea (s2.mcxOf sid) 7 512)
      | .error e => .error (.ue e l ea)

/-- A waiting write has been made: the ring slot holds its frame (R265). -/
def Reel.wrote (r : Reel) (c : ReelCfg) (w : Nat × List Byte) : Reel :=
  let n := w.1 % 2 ^ 40
  { r with waiting := r.waiting.erase w
           held := if !w.2.isEmpty || w.1 / 2 ^ 40 = 1 then r.held else mset 0 r.held (n % c.frames) (n + 1) }

/-- A write of the channel, and its removal from those that wait. -/
def State.reelPut (s : State) (sid : Nat) (w : Nat × List Byte) (ea : Nat) (bs : List Byte) : State :=
  match s.reelWrite sid ea bs with
  | .ok s' => (s'.updReel sid fun r => r.wrote (s.reelCfg sid) w).updStrand sid fun t => { t with reelIn := [] }
  | .error g => s.reelFail sid g

/-- The read of 512 bytes of the channel's areas is charged (R373). -/
def State.chargeReel (s : State) (sid ea : Nat) : State := s.chargeAt (some (clusterOf sid)) (s.mcxOf sid) ea 512 .read

/-- Bytes that the channel has read at an address go to another: charged, and written as the waiting write asks (R265). -/
def State.reelMove (s : State) (sid : Nat) (w : Nat × List Byte) (from_ to_ : Nat) : State :=
  match s.reelRead sid from_ with
  | .ok bs => (s.chargeReel sid from_).reelPut sid w to_ bs
  | g => s.reelFail sid g

/-- FRAME_WRITE: the channel of the strand in focus makes its next waiting write (R265, R266, R274). A top frame held only in coded form is decoded first, and
one at its spill home goes back to its ring slot before that; one whose decode is faulty is not written, and the stream ends below it (DESIGN CHOICE,
notes/assumptions/27.md: R273's trap is an instruction's, and a seal at END or at a kill has none). -/
def execFrameWrite (s : State) : Result :=
  let sid := s.focus
  let t := s.strand sid
  let c := s.reelCfg sid
  let r := t.core.reel
  match r.waiting with
  | [] => .next s
  | w :: _ =>
    if r.susp.isSome || r.err.isSome || !t.reelMay w then .next s
    else if 2 ^ 41 ≤ w.1 then
      (if !w.2.isEmpty then .next (s.reelPut sid w (c.slotAddr (w.1 - 2 ^ 41)) w.2)
      else .next (s.reelMove sid w (c.spillAddr (w.1 - 2 ^ 41)) (c.slotAddr (w.1 - 2 ^ 41))))
    else if 2 ^ 40 ≤ w.1 then .next (s.reelMove sid w (c.slotAddr (w.1 - 2 ^ 40)) (c.spillAddr (w.1 - 2 ^ 40)))
    else if !w.2.isEmpty then .next (s.reelPut sid w (c.slotAddr w.1) w.2)
    else
      match s.reelFrame sid { r with waiting := r.waiting.tail } c w.1 with
      | (.ok bs, true) => .next ((s.chargeReel sid (c.spillAddr w.1)).updReel sid fun r =>
          { r with waiting := (reelBack w.1, bs) :: r.waiting, held := mset 0 r.held (w.1 % c.frames) (w.1 + 1) })
      | (.ok bs, false) => .next (match decodeFrame w.1 bs with
        | some recs => (s.chargeFrames sid { r with waiting := r.waiting.tail } c w.1 w.1).reelPut sid w (c.slotAddr w.1)
            (frameBytes w.1 recs true (c.slotAddr (w.1 - 1)))
        | none => s.updReel sid fun r => { r with waiting := r.waiting.erase w })
      | (g, _) => .next (s.reelFail sid g)

/-- The frame that a strand waits for. -/
def Strand.wantsFrame (t : Strand) : Option Nat :=
  t.waits.findSome? fun w => match w with
    | .reelFrame n => some n
    | _ => none

/-- The channel after a frame has been read and decoded; one that came from its spill home is written back, unless the channel is sealed, whose pops write
no memory (R265, R273, R274). -/
def Reel.decoded (r : Reel) (c : ReelCfg) (n : Nat) (bs : List Byte) (refill : Bool) : Reel :=
  { r with
    replay := r.replay.filter (fun p => p.1 != n) ++ [(n, decodeFrame n bs)]
    waiting := if refill && !r.shut then r.waiting ++ [(reelBack n, bs)] else r.waiting
    held := if refill && !r.shut then mset 0 r.held (n % c.frames) (n + 1) else r.held }

/-- FRAME_DECODE: the frame that the strand in focus waits for is decoded into the replay buffer (R273). With `ev.flag` its read meets an uncorrectable error:
the channel is in the error state, with MEMUE (R278, R439). A refill's write-back is withheld until the region that follows commits (R279). -/
def execFrameDecode (s : State) : Result :=
  let sid := s.focus
  let t := s.strand sid
  let c := s.reelCfg sid
  let r := t.core.reel
  match t.wantsFrame with
  | none => .next s
  | some n =>
    if r.susp.isSome || r.err.isSome then .next s
    else if s.ev.flag then .next (s.reelFail sid (s.reelUe sid r c n))
    else match s.reelFrame sid r c n with
      | (.ok bs, refill) => .next ((s.chargeFrames sid r c n n).updStrand sid fun t =>
          { t with core := { t.core with reel := t.core.reel.decoded c n bs refill }
                   reelAt := if refill && !r.shut then some (t.reelAt.getD r) else t.reelAt
                   reelIn := [] })
      | (g, _) => .next (s.reelFail sid g)

end Sys2Proof.Machine
end

