-- ==== Sys2Proof/Machine/Matrix.lean ====
section
/-! DEFINITION. The matrix unit: routines (R250, R251, R261), the queue and its windows (R240 to R242), MCALL, repeat sequences and MWAIT (R243 to
R245), call errors (R247), the start of a call, and the shadow comparison (R119, R120). -/

namespace Sys2Proof.Machine

open Sys2Proof

/-! ## Routines -/

/-- A routine's micro-ops; none where a word names none (R253). -/
abbrev Uops := List (Option Instr)

/-- The selectors tn0, tn1 and an0 (R250). -/
def tn0 : BitVec 5 := 16
def tn1 : BitVec 5 := 17
def an0 : BitVec 3 := 4

/-- FLAGS bit 0 zeroes an0 first (R261). -/
def libHead : List Instr := [.skipf { bit := 0, en := false }, .azero { acc := an0 }]
/-- FLAGS bit 1 stores all of an0 through m2 at the end (R261). -/
def libStore : Instr := .astore { acc := an0, arg := 2, rows := 127, cols := 127 }
def libTail : List Instr := [.skipf { bit := 1, en := false }, libStore, .uopEnd {}]
def libLoad : List Instr := [.tload { sel := tn0, arg := 0 }, .tload { sel := tn1, arg := 1 }]
/-- A step between its MSTEPs (R261). -/
def libStep (step : Instr) : List Instr := [.mstep { slive := 3 }, step, .mstep {}]
def libOp : Instr := .opstep { acc := an0, ta := tn0, tb := tn1 }

/-- The routines MMK to MMKS: `pre` before the loop, which runs m3 times (R261). -/
def libMmk (pre : List Instr) (step : Instr) : List Instr :=
  libHead ++ pre ++ [.uopLoop { en := true, arg := 3, last := BitVec.ofNat 14 (9 + pre.length) }] ++ libLoad ++ libStep step
    ++ [.addrLo { arg := 0, mode := 2, argb := 4 }, .addrHi { arg := 1, mode := 3, argb := 4 }] ++ libTail

/-- The Jalmet library (R261). -/
def libRoutine (n : Nat) : Option (List Instr) :=
  match n with
  | 0 => some (libHead ++ libStep libOp ++ libTail)
  | 1 => some (libHead ++ libLoad ++ libStep libOp ++ libTail)
  | 2 => some (libMmk [] libOp)
  | 3 => some (libMmk [.zpc { arg := 6, argb := 5, en := true }] libOp)
  | 4 => some (libMmk [.bsc { arg := 6, argb := 5, en := true }] libOp)
  | 5 => some (libMmk [] (.spstep { acc := an0, ta := tn0, tb := tn1 }))
  | 6 => some (libHead ++ [.azero { acc := an0 }] ++ libTail)
  | 7 => some (libHead ++ [libStore] ++ libTail)
  | 8 => some (libHead ++ [.cvt { sel := tn0, en := true, ta := 4 }] ++ libTail)
  | _ => none

/-- The entries of the routine directory of an image: routine, first micro-op and length (R305). -/
def State.directory (s : State) (mcx : Nat) : Except MemFault (List (Nat × Nat × Nat)) :=
  (s.imageWords mcx ((List.range (s.hw mcx 13 / 2 ^ 48 % 2 ^ 10)).map fun k => s.hw mcx 13 % 2 ^ 48 + 8 * k)).map fun ws =>
    ws.map fun w => (w % 2 ^ 10, w / 2 ^ 10 % 2 ^ 14, w / 2 ^ 24 % 2 ^ 12 + 1)

/-- Micro-ops that the image routines of a store hold. -/
def storeSize (m : AMap (List Word)) : Nat := (m.map fun p => p.2.length).sum

/-- The image of a context, as its routines are numbered in a store. -/
def State.imageNo (s : State) (mcx : Nat) : Nat := s.hw mcx 2 / 2 ^ 16 % 2 ^ 16

/-- Are the routines of a context's image resident on a spindle (R314)? -/
def State.resident (s : State) (mcx g : Nat) : Bool := (s.spindle g).routines.any fun p => p.1 / 1024 == s.imageNo mcx

/-- The routines of an image, from its directory (R251, R305), or the fault of reading them. -/
def State.routineTable (s : State) (mcx : Nat) : Except MemFault (AMap (List Word)) :=
  let base := s.hw mcx 13 % 2 ^ 48 + 8 * (s.hw mcx 13 / 2 ^ 48 % 2 ^ 10)
  match s.directory mcx with
  | .error f => .error f
  | .ok es => es.foldl (fun r e => match r, s.imageWords mcx ((List.range e.2.2).map fun i => base + 8 * (e.2.1 + i)) with
    | .ok m, .ok ws => .ok (mset [] m (1024 * s.imageNo mcx + e.1) (ws.map (BitVec.ofNat 64)))
    | .error f, _ => .error f
    | _, .error f => .error f) (.ok [])

/-- The reads of an image's directory and routines are charged (R373). -/
def State.chargeRoutines (s : State) (mcx : Nat) : State :=
  let base := s.hw mcx 13 % 2 ^ 48
  let n := s.hw mcx 13 / 2 ^ 48 % 2 ^ 10
  match s.directory mcx with
  | .error _ => s
  | .ok es => s.chargeImage mcx ((List.range n).map (fun k => base + 8 * k)
      ++ es.flatMap fun e => (List.range e.2.2).map fun i => base + 8 * n + 8 * (e.2.1 + i))

/-- The routines of an image loaded into a spindle, unless they are resident; others give way where space is needed (R251, R314 step 4). -/
def State.loadRoutines (s : State) (mcx g : Nat) (new : AMap (List Word)) : State :=
  if s.resident mcx g then s
  else
    let have_ := (s.spindle g).routines
    let keep := if storeSize have_ + storeSize new ≤ 12288 then have_ else []
    s.updSpindle g fun x => { x with routines := new.foldl (fun m p => mset [] m p.1 p.2) keep }

/-- The routine table as a strand's spindle holds it for the strand's image (R251). Nothing brings the routines of firmware's image id 0 into a mill spindle's
store, since no rule gives them a place (DESIGN CHOICE, notes/assumptions/7.md). -/
def State.routine (s : State) (sid rout : Nat) : Option Uops :=
  if rout < 64 then (libRoutine rout).map fun l => l.map some
  else
    let k := 1024 * s.imageOf sid + rout
    let x := s.spindle (gnumOf sid)
    if mhas x.routines k then some ((mget [] x.routines k).map fun w => decodeU w.toNat) else none

/-- The fields of a micro-op. -/
def uopFields (i : Instr) : UF :=
  match i.code with
  | .u _ f => f
  | _ => {}

/-- OP of a micro-op (R253). -/
def uopCode (i : Instr) : Nat :=
  match i.code with
  | .u c _ => c
  | _ => 0

/-! ## Selectors and footprints (R243, R250) -/

/-- The tile that a selector names. -/
def tileSel (imm s : Nat) : Nat := if s < 16 then s else imm / 2 ^ (4 * (s - 16)) % 16
/-- The accumulator that a selector names. -/
def accSel (imm s : Nat) : Nat := if s < 4 then s else if s = 4 then bitsOf imm 17 16 else bitsOf imm 19 18

/-- The tiles in a 16-bit mask. -/
def maskBits (n m : Nat) : List Nat := (List.range n).filter fun i => bitOf m i

/-- The tiles that a micro-op names. -/
def uopTiles (imm : Nat) (i : Instr) : List Nat :=
  let f := uopFields i
  match uopCode i with
  | 0x01 | 0x02 => [tileSel imm f.sel.toNat]
  | 0x06 => tileSel imm f.sel.toNat :: (if f.en then [] else [tileSel imm f.ta.toNat])
  | 0x07 | 0x08 => [tileSel imm f.ta.toNat, tileSel imm f.tb.toNat]
  | 0x0E => maskBits 16 f.tlive.toNat ++ (maskBits 5 f.slive.toNat).map fun k => tileSel imm (16 + k)
  | _ => []

/-- The accumulators that a micro-op names. -/
def uopAccs (imm : Nat) (i : Instr) : List Nat :=
  let f := uopFields i
  match uopCode i with
  | 0x03 | 0x04 | 0x05 | 0x07 | 0x08 | 0x0B => [accSel imm f.acc.toNat]
  | 0x06 => if f.en then [accSel imm (f.ta.toNat % 8)] else []
  | 0x0F => maskBits 4 f.amask.toNat ++ (maskBits 2 f.smask.toNat).map fun k => accSel imm (4 + k)
  | _ => []

/-- The tiles of a routine's footprint (R243). -/
def fpTiles (us : Uops) (imm : Nat) : List Nat := sortNats (us.reduceOption.flatMap (uopTiles imm))
/-- The accumulators of a routine's footprint. -/
def fpAccs (us : Uops) (imm : Nat) : List Nat := sortNats (us.reduceOption.flatMap (uopAccs imm))

/-- Does a routine write an accumulator under FLAGS (R119)? The count is made at the call's start, so that the routine's micro-ops decide, less those
that SKIPF removes (DESIGN CHOICE, notes/assumptions/58.md). -/
def writesAcc (flags : Nat) : Bool → Uops → Bool
  | _, [] => false
  | true, _ :: r => writesAcc flags false r
  | false, none :: r => writesAcc flags false r
  | false, some i :: r =>
    if uopCode i = 0x10 then writesAcc flags (bitOf flags (uopFields i).bit.toNat == (uopFields i).en) r
    else [0x03, 0x04, 0x07, 0x08, 0x0B].contains (uopCode i) || writesAcc flags false r

/-! ## Windows (R242) -/

/-- The window that m7 names: its first granule and number, or the cause of its refusal. -/
def State.window (s : State) (sid m7 : Nat) : Except Nat (Option (Nat × Nat)) :=
  let g := bitsOf m7 22 10
  let n := bitsOf m7 31 23
  if m7 % 2 ^ 10 ≠ 0 then .error cAlign
  else if n = 0 then .ok none
  else if g / 256 ≠ (g + n - 1) / 256 || !s.ownsBank sid (g / 256)
      || ((s.cluster (clusterOf sid)).bank (g / 256)).mode != .scratch then .error cSpBound
  else .ok (some (g, n))

/-- The granules of a window. -/
def winGrans (w : Option (Nat × Nat)) : List Nat :=
  match w with
  | some (g, n) => (List.range n).map (g + ·)
  | none => []

/-- The granules of a window that are ENGINE. -/
def State.winBusy (s : State) (cl : Nat) (w : Option (Nat × Nat)) : List Nat :=
  (winGrans w).filter fun g => ((s.cluster cl).gran g).eng.isSome

/-- A call enters the queue, and its window becomes ENGINE (R240, R242). -/
def State.enqueue (s : State) (c : Call) : State :=
  let g := gnumOf c.sid
  (s.updSpindle g fun x => { x with queue := x.queue ++ [c] }).updCluster (clusterOf c.sid) fun k =>
    (winGrans c.win).foldl (fun k n => k.setGran n { eng := some (.call c.id) }) k

/-! ## MCALL (R243, R244) -/

/-- The repeat sequence of a strand. -/
def State.repeatOf (s : State) (sid : Nat) : Option Repeat := mget none (s.spindle (gnumOf sid)).rpts (slotOf sid)

/-- MCALL of n calls. -/
def Env.mcall (e : Env) (f : MF) (n : Nat) : Verdict :=
  if n = 0 then .ok { mpc := 1 }
  else match e.s.routine e.sid f.rout.toNat with
    | none => e.trap cIllegal
    | some us =>
      let body : Verdict :=
        let imm := (if f.bpi then e.bpWord else f.imm.toNat) % 2 ^ 20
        let bad := (fpTiles us imm).filter (fun t => e.t.ntile ≤ t) ++ (fpAccs us imm).filter (fun a => e.t.nacc ≤ a)
        match bad with
        | r :: _ => e.trap cRegBank r
        | [] => match e.s.window e.sid (mget 0 e.c.m 7).toNat with
          | .error c => e.trap c
          | .ok w =>
            let ws : List Wait :=
              (if 8 ≤ (e.s.spindle (gnumOf e.sid)).queue.length then [.queue] else [])
                ++ (if (e.s.repeatOf e.sid).isSome then [.rpt] else [])
                ++ (e.s.winBusy e.cl w).map fun g => .granule e.cl g
            if !ws.isEmpty then .block ws id
            else
              let id_ := e.s.nextId
              let c : Call :=
                { id := id_, sid := e.sid, rout := f.rout.toNat, imm := BitVec.ofNat 20 imm, flags := f.flags, fmt := e.c.fmt
                  tshape := e.c.tshape, m := e.c.m, mpc := e.c.mpc, pc := e.c.pc, win := w }
              let rep : Repeat := { k := 1, n := n, call := c, strides := e.c.mstride }
              .ok { mpc := n, post := fun s =>
                let c := { c with id := s.nextId }
                let s := ({ s with nextId := s.nextId + 1 }).enqueue c
                if 1 < n then s.updSpindle (gnumOf e.sid) fun x => { x with rpts := mset none x.rpts (slotOf e.sid) (some rep) } else s }
      if f.bpi then e.bpBound body else body

/-- MCALL (R243). -/
def fxMcall (f : MF) (e : Env) : Verdict := e.mcall f 1
def execMcall (f : MF) (s : State) : Result := s.issueAlone (.mcall f) (fxMcall f)

/-- MCALL in an MRPT bundle (R244). -/
def fxMcallRpt (f : MF) (e : Env) : Verdict := e.mcall f e.c.mrc.toNat
def execMcallRpt (f : MF) (s : State) : Result := s.issueAlone (.mcallRpt f) (fxMcallRpt f)

/-- NOP of the M slot: it advances MPC (R77, R91). -/
def fxMNop (_ : MF) (_ : Env) : Verdict := .ok { mpc := 1 }
def execMNop (f : MF) (s : State) : Result := s.issueAlone (.mNop f) (fxMNop f)

/-! ## MWAIT (R245) -/

/-- The outstanding calls of a strand, each as its routine and immediate; the calls of a repeat sequence are counted one by one. -/
def State.outstanding (s : State) (sid : Nat) : List (Nat × Nat) :=
  let own := ((s.spindle (gnumOf sid)).queue.filter fun c => c.sid == sid).map fun c => (c.rout, c.imm.toNat)
  match s.repeatOf sid with
  | some r => own ++ List.replicate (r.n - r.k) (r.call.rout, r.call.imm.toNat)
  | none => own

/-- Are the conditions of an MWAIT met? -/
def State.mwaitMet (s : State) (sid n tmask amask : Nat) : Bool :=
  let out := s.outstanding sid
  decide (out.length ≤ n) && !(out.dedup.any fun c => match s.routine sid c.1 with
    | none => false
    | some us => (fpTiles us c.2).any (fun t => bitOf tmask t) || (fpAccs us c.2).any (fun a => bitOf amask a))

/-- MWAIT (R245). -/
def fxMwait (f : MF) (e : Env) : Verdict :=
  let n := f.flags.toNat % 8
  let tmask := f.imm.toNat % 2 ^ 16
  let amask := f.imm.toNat / 2 ^ 16
  let bad := (maskBits 16 tmask).filter (fun t => e.t.ntile ≤ t) ++ (maskBits 4 amask).filter (fun a => e.t.nacc ≤ a)
  match bad with
  | r :: _ => e.trap cRegBank r
  | [] => if e.s.mwaitMet e.sid n tmask amask then .ok { mpc := 1 } else .block [.mwait n tmask amask] id
def execMwait (f : MF) (s : State) : Result := s.issueAlone (.mwait f) (fxMwait f)

/-! ## Calls that end -/

/-- The running call of a spindle: the head of its queue, once it has started and until it has stopped (R240). -/
def Spindle.runningCall (x : Spindle) : Option Call :=
  match x.queue with
  | c :: _ => if c.started && !c.halted then some c else none
  | [] => none

def State.setCall (s : State) (g : Nat) (c : Call) : State :=
  s.updSpindle g fun x => { x with queue := x.queue.map fun d => if d.id = c.id then c else d }

/-- A call leaves the queue; its window flips and its sticky bits reach STATUS (R117, R242). -/
def State.leaveQueue (s : State) (g : Nat) (c : Call) (e : EndKind) : State :=
  ((s.updSpindle g fun x => { x with queue := x.queue.filter fun d => d.id != c.id }).releaseCall (g / 8) c.id e).postSticky c.sid c.sticky

/-! ## Starting calls and repeats -/

/-- Is a pre-emption or a debug stop of a context under way, other than a step OVER that waits (R341, R355)? -/
def State.stopping (s : State) (mcx : Nat) : Bool :=
  match s.stop mcx with
  | some x => !x.stepOver
  | none => false

/-- Is a pre-emption pending for the calls of a strand (R240, R259)? A mill strand belongs to no context (R286). -/
def State.callStops (s : State) (sid : Nat) : Bool := !isMill sid && s.stopping (s.mcxOf sid)

/-- The accumulators of a strand's share, as the spindle numbers their elements. -/
def Spindle.shareAccs (x : Spindle) (t : Strand) : AMap (BitVec 32) :=
  x.accs.filter fun p => 16384 * t.acc0 ≤ p.1 && p.1 < 16384 * (t.acc0 + t.nacc)

/-- Integer or float mode (R114). -/
def intFmt (k : Nat) : Bool := k == 0x8 || k == 0xA
def Call.afmt (c : Call) : Nat := bitsOf c.fmt.toNat 3 0
def Call.bfmt (c : Call) : Nat := bitsOf c.fmt.toNat 7 4
def Call.ofmt (c : Call) : Nat := bitsOf c.fmt.toNat 11 8
def Call.qgroup (c : Call) : Nat := bitsOf c.fmt.toNat 13 12
def Call.ornd (c : Call) : Rnd := Rnd.ofCode (bitsOf c.fmt.toNat 15 14)
def Call.onan (c : Call) : Bool := bitOf c.fmt.toNat 16
def Call.intMode (c : Call) : Bool := intFmt c.afmt && intFmt c.bfmt

/-- A call has started: the shadow counter counts it, and a rollback does not take that back (R119, R338). -/
def Strand.countShadow (t : Strand) : Strand :=
  { t with core := { t.core with shcount := t.core.shcount + 1 }, ckpt := { t.ckpt with shcount := t.ckpt.shcount + 1 } }

/-- The start of a call: the shadow counter and the selection of the call (R119). -/
def State.startCall (s : State) (g : Nat) (c : Call) : State :=
  let us := (s.routine c.sid c.rout).getD []
  let t := s.strand c.sid
  if !writesAcc c.flags.toNat false us then s.setCall g { c with started := true }
  else
    let n := t.core.shcount + 1
    let s := s.updStrand c.sid Strand.countShadow
    let sel := t.core.shadown != 0 && n.toNat % t.core.shadown.toNat == 0
    if !sel then s.setCall g { c with started := true }
    else
      let start := (s.spindle g).shareAccs t
      s.setCall g { c with
        started := true, shadowed := some n.toNat, skipped := (s.spindle g).shadowBusy.isSome, startAcc := start
        shAcc := start.map fun p => (p.1, if c.intMode then BitVec.ofInt 64 p.2.toInt else BitVec.ofNat 64 p.2.toNat) }

/-- The microprogram store of a spindle meets an uncorrectable error as a call starts: the routines of the call's image are loaded again, and a library routine
comes from ROM (R439); none while their reading faults. -/
def State.reloadStore (s : State) (g : Nat) (c : Call) : Option State :=
  let mcx := s.mcxOf c.sid
  if isMill c.sid || c.rout < 64 then some (s.madeGood (dieOf c.sid) 3 (s.ctxOf c.sid) (whoOf c.sid) 0)
  else match s.routineTable mcx with
    | .error _ => none
    | .ok rs =>
      let s := (s.chargeRoutines mcx).updSpindle g fun x =>
        { x with routines := rs.foldl (fun m p => mset [] m p.1 p.2) (x.routines.filter fun p => p.1 / 1024 != s.imageNo mcx) }
      some (s.madeGood (dieOf c.sid) 3 (some mcx) (whoOf c.sid) 0)

/-- CALL_START: the head of the queue of spindle `ev.n` starts (R240). With `ev.flag` the store of its routine has an uncorrectable error (R439). -/
def execCallStart (s : State) : Result :=
  let g := s.ev.n
  match (s.spindle g).queue with
  | [] => .next s
  | c :: _ =>
    if c.started || s.callStops c.sid then .next s
    else match (if s.ev.flag then s.reloadStore g c else some s) with
      | some s' => .next (s'.startCall g c)
      | none => .next s

/-- The arguments of repeat k (R244). -/
def Repeat.args (r : Repeat) : AMap Word :=
  (List.range 8).foldl (fun m i => mset 0 m i
    (mget 0 r.call.m i + BitVec.ofInt 64 ((r.k : Int) * sext 32 (mget 0 r.strides i).toNat))) []

/-! ## The shadow comparison (R120) -/

/-- An accumulator element as a number: FP32, or a signed integer. -/
def accNum (int : Bool) (x : BitVec 32) : XNum := if int then intNum x.toInt else decodeF fp32 x.toNat

/-- The shadow's element: an integer is saturated to S32 (R119). -/
def shadowNum (int : Bool) (x : Word) : XNum :=
  if int then intNum (clampInt x.toInt (-2 ^ 31) (2 ^ 31 - 1)) else decodeF fp32 (x.toNat % 2 ^ 32)

/-- |c - t| of finite values, as a fraction. -/
def absDiff (c t : XNum) : Nat × Nat :=
  match numAdd .rne c t.negate with
  | .fin _ n d => (n, d)
  | _ => (0, 1)

/-- What a comparison has found: MAXABS with its accumulator, row and column, MAXREL, and NONFINITE. -/
structure Deviation where
  abs : Option (Nat × Nat × Nat × Nat × Nat) := none
  rel : Nat × Nat := (0, 1)
  nonfinite : Bool := false
  deriving DecidableEq, Repr

def fracLt (a b : Nat × Nat) : Bool := decide (a.1 * b.2 < b.1 * a.2)

def Deviation.add (d : Deviation) (a i j : Nat) (c t : XNum) : Deviation :=
  match c, t with
  | .fin .., .fin _ tn td =>
    let x := absDiff c t
    let abs := match d.abs with
      | some (n, m, p) => if fracLt (n, m) x then some (x.1, x.2, a, i, j) else some (n, m, p)
      | none => some (x.1, x.2, a, i, j)
    let r := (x.1 * td, x.2 * tn)
    { d with abs := abs, rel := if tn != 0 && fracLt d.rel r then r else d.rel }
  | .nan, .nan => d
  | .inf x, .inf y => if x = y then d else { d with nonfinite := true }
  | _, _ => { d with nonfinite := true }

/-- The entry of a finished shadowed call (R120); `acc0` is the first accumulator of its strand's share. Elements of one row and column are taken in
the order of their accumulators (DESIGN CHOICE, notes/assumptions/58.md). -/
def ShadowJob.entry (j : ShadowJob) (acc0 : Nat) : List Nat :=
  let c := j.call
  let accs := sortNats (c.shList.getD c.wrote)
  let dev := if c.skipped then {} else
    (List.range 128).foldl (fun d i => (List.range 128).foldl (fun d k => accs.foldl (fun d a =>
      let e := 16384 * (acc0 + a) + 128 * i + k
      d.add a i k (accNum c.intMode (mget 0 j.result e)) (shadowNum c.intMode (mget 0 c.shAcc e))) d) d) ({} : Deviation)
  let f32 (n d : Nat) : Nat := (roundF fp32 .rne .ieee false n d).1
  let w0 := 1 + c.rout * 2 ^ 8 + slotOf c.sid * 2 ^ 18 + gnumOf c.sid % 8 * 2 ^ 20 + clusterOf c.sid % 12 * 2 ^ 23 + dieOf c.sid * 2 ^ 27
    + c.skipped.toNat * 2 ^ 29 + dev.nonfinite.toNat * 2 ^ 30 + c.intMode.toNat * 2 ^ 31
  let w24 := match dev.abs with
    | some (n, d, a, i, k) => [f32 n d, f32 dev.rel.1 dev.rel.2, i + k * 2 ^ 7 + a * 2 ^ 14]
    | none => [0, 0, 0]
  [w0, c.shadowed.getD 0] ++ w24 ++ [c.mpc.toNat, c.pc.toNat, 0]

/-- A shadow entry written to the context's telemetry ring. -/
def State.shadowEntry (s : State) (j : ShadowJob) : State :=
  if isMill j.call.sid then s
  else s.telemetry (s.mcxOf j.call.sid) j.call.sid (j.entry (s.strand j.call.sid).acc0)

/-- The end of a shadowed call, by END or on an error: its result goes to the shadow path, or an entry says that it was skipped (R119, R120, R240). -/
def State.shadowEnd (s : State) (g : Nat) (c : Call) : State :=
  if c.shadowed.isNone then s
  else
    let j : ShadowJob := { call := c, result := (s.spindle g).shareAccs (s.strand c.sid) }
    if c.skipped then s.shadowEntry j else s.updSpindle g fun x => { x with shadowBusy := some j }

/-! ## Errors of a call (R247) -/

/-- A call that runs is dropped: its window flips with ERR (notes/assumptions/60.md). -/
def State.dropRunning (s : State) (sid cause : Nat) : State :=
  let g := gnumOf sid
  ((s.spindle g).queue.filter fun c => c.sid == sid && c.started).foldl (fun s c => (s.leaveQueue g c (.err cause)).shadowEnd g c) s

/-- A strand has met a call error (R247 steps 3 and 4): its other outstanding calls are dropped, and it traps at the next bundle it presents. -/
def State.callFault (s : State) (sid cause : Nat) : State :=
  ((s.dropRunning sid cause).dropCalls sid (.err cause)).updStrand sid fun t =>
    { t with engTrap := if t.st = .halted then t.engTrap else some (t.engTrap.getD cause) }

/-- A call ends on an error (R247). -/
def State.callError (s : State) (g : Nat) (c : Call) (cause : Nat) : State :=
  ((s.leaveQueue g c (.err cause)).shadowEnd g c).callFault c.sid cause

/-! ## Repeats (R244) -/

/-- What a slot's repeat sequence can do now: nothing, end on a refused window, or, with an entry free, make its next call (R244). -/
def State.repeatStep (s : State) (sid : Nat) (free : Bool) : Option State :=
  match s.repeatOf sid with
  | none => none
  | some r =>
    let m := r.args
    match s.window sid (mget 0 m 7).toNat with
    | .error cause => some (s.callFault sid cause)
    | .ok w =>
      if !free || !(s.winBusy (clusterOf sid) w).isEmpty then none
      else
        let c := { r.call with id := s.nextId, m := m, mpc := r.call.mpc + BitVec.ofNat 32 r.k, win := w }
        let nxt : Option Repeat := if r.k + 1 < r.n then some { r with k := r.k + 1 } else none
        some ((({ s with nextId := s.nextId + 1 }).enqueue c).updSpindle (gnumOf sid) fun x =>
          { x with rpts := mset none x.rpts (slotOf sid) nxt })

/-- REPEAT_ENQUEUE: a free entry of spindle `ev.n` goes to the repeat sequence of the lowest slot that can take it (R240, R244). -/
def execRepeatEnqueue (s : State) : Result :=
  let g := s.ev.n
  let free := decide ((s.spindle g).queue.length < 8)
  match (strandsOf g).findSome? fun sid => if s.callStops sid then none else s.repeatStep sid free with
  | some s' => .next s'
  | none => .next s

/-- SHADOW_COMPARE: the shadow path of spindle `ev.n` writes the entry of the finished call it holds (R120). -/
def execShadowCompare (s : State) : Result :=
  let g := s.ev.n
  match (s.spindle g).shadowBusy with
  | none => .next s
  | some j => .next ((s.shadowEntry j).updSpindle g fun x => { x with shadowBusy := none })

end Sys2Proof.Machine
end

