-- ==== Sys2Proof/Machine/MicroOps.lean ====
section
/-! DEFINITION. The micro-ops of a matrix routine (R246 to R259), on the running call of the spindle of the strand in focus. -/

namespace Sys2Proof.Machine

open Sys2Proof

/-- The outcome of a micro-op: it is done, it waits for a source granule (R246), its read of the placement word faults (R258), or its call ends on an
error (R247). -/
inductive UopOut where
  | done (s : State) (c : Call)
  | wait
  | fault (f : MemFault)
  | err (cause : Nat)

/-- The micro-op after p, with the ends of loop bodies (R257). The innermost loop stands first, as its count, first and last micro-op. -/
def Call.after (c : Call) (p : Nat) : Call :=
  match c.loops with
  | [] => { c with idx := p + 1 }
  | (n, first, last) :: r =>
    if p ≠ last then { c with idx := p + 1 }
    else if 1 < n then { c with idx := first, loops := (n - 1, first, last) :: r }
    else match r with
      | (m, first', last') :: r' =>
        if p ≠ last' then { c with idx := p + 1, loops := r }
        else if 1 < m then { c with idx := first', loops := (m - 1, first', last') :: r' }
        else { c with idx := p + 1, loops := r' }
      | [] => { c with idx := p + 1, loops := [] }

/-- A call that stops withdraws from the fault entry on which it waits (R366). -/
def State.callWithdraw (s : State) (c : Call) : State :=
  match c.susp with
  | some (d, k) => s.withdraw d k
  | none => s

/-- A call stopped by a kill (R53, R259). -/
def State.stopKilled (s : State) (g : Nat) (c : Call) : State := (s.callWithdraw c).leaveQueue g c .abandon

/-- A call stopped for a pre-emption after an MSTEP that lists tiles (R259). -/
def State.stopSaved (s : State) (g : Nat) (c : Call) (listed : List Nat) : State :=
  let us := (s.routine c.sid c.rout).getD []
  ((s.callWithdraw c).setCall g { c with
    halted := true, susp := none, sticky := 0, dead := (fpTiles us c.imm.toNat).filter fun t => !listed.contains t }).postSticky c.sid c.sticky

/-- A waiting call may be stopped as at an MSTEP that lists every tile of the footprint (R257). -/
def State.callWait (s : State) (g : Nat) (c : Call) : State :=
  if c.killed then s.stopKilled g c else if s.callStops c.sid then s.stopSaved g c (List.range 16) else s

/-- A call's read of its placement word faults: the call waits on the fault's entry, as an engine does; an uncorrectable error ends it (R363, R366, R389;
notes/assumptions/60.md). -/
def State.callFaults (s : State) (g : Nat) (c : Call) (f : MemFault) : State :=
  let d := dieOf c.sid
  match f.refetch with
  | some fr => s.refetchFrame d fr
  | none => match f.ue with
    | some (e, l) => (s.uncorrectable d (some (s.mcxOf c.sid)) (whoOf c.sid) cMemUe e l f.addr).callError g c cMemUe
    | none =>
      let r := s.addFault d (s.mcxOf c.sid) f 7 (whoOf c.sid) true
      r.1.setCall g { c with susp := some (d, r.2) }

/-- An uncorrectable error that a call finds in the scratchpad sector at `ev.v`, or, with `ev.n` other than 3, in a tile or an accumulator: the call ends on an error
(R247, R439). -/
def State.callFinds (s : State) (g : Nat) (c : Call) : State :=
  let s := match foundLoc (if s.ev.n = 3 then 3 else 4) s.ev.v.toNat (clusterOf c.sid) with
    | some l => s.uncorrectable (dieOf c.sid) (s.ctxOf c.sid) (whoOf c.sid) cMemUe .ue l 0
    | none => s.arrayError (dieOf c.sid) (s.ctxOf c.sid) (whoOf c.sid)
  (s.callWithdraw c).callError g c cMemUe

/-- A micro-op of the running call (R251, R255): the one that SKIPF removes acts as NOP. One that ends its call on an error leaves none of its own effects in
the tiles, the accumulators and the window (DESIGN CHOICE, notes/assumptions/33.md: R247 keeps what the call has left in them). -/
def State.uop (s : State) (f : State → Call → UopOut) : Result :=
  let g := gnumOf s.focus
  match (s.spindle g).runningCall with
  | none => .next s
  | some c =>
    if c.susp.isSome then .next (s.callWait g c)
    else if c.skipNext then .next (s.setCall g ({ c with skipNext := false }.after c.idx))
    else match f s c with
      | .done s' c' => .next (s'.setCall g (c'.after c.idx))
      | .wait => .next (s.callWait g c)
      | .fault fm => .next (s.callFaults g c fm)
      | .err cause => .next (s.callError g c cause)

/-! ## Scratchpad access (R246, R254) -/

/-- An outcome that goes on with a value. -/
inductive Got' (α : Type) where
  | ok (a : α)
  | wait
  | err (cause : Nat)

def Got'.bind {α β : Type} (x : Got' α) (f : α → Got' β) : Got' β :=
  match x with
  | .ok a => f a
  | .wait => .wait
  | .err c => .err c

def Got'.out (x : Got' UopOut) : UopOut :=
  match x with
  | .ok o => o
  | .wait => .wait
  | .err c => .err c

/-- All of a list's outcomes, in order. -/
def Got'.all {α β : Type} (f : α → Got' β) : List α → Got' (List β)
  | [] => .ok []
  | x :: xs => (f x).bind fun y => (Got'.all f xs).bind fun ys => .ok (y :: ys)

/-- Does a granule hold back a read of the running call (R246)? -/
def State.callWaits (s : State) (c : Call) (g : Nat) : Bool :=
  match ((s.cluster (clusterOf c.sid)).gran g).eng with
  | none => false
  | some (.copy _) => true
  | some (.call id_) => !((s.spindle (gnumOf c.sid)).queue.any fun d => d.id == id_)

/-- A call's read of scratchpad bytes. -/
def State.callRead (s : State) (c : Call) (off n : Nat) : Got' (List Byte) :=
  let cl := clusterOf c.sid
  if (s.spadCheck c.sid off n 1).isSome then .err cSpBound
  else if (granules off n).any fun g => s.callWaits c g then .wait
  else if s.spadPoisoned cl off n then .err cPoison
  else .ok (getBytes (s.cluster cl).bytes off n)

/-- The address that argument k and an offset form. -/
def Call.addrOf (c : Call) (k : Nat) (off : Int) : Got' Nat :=
  let m := (mget 0 c.m k).toNat
  let a : Int := (m % 2 ^ 23 : Nat) + off
  if bitsOf m 31 23 ≠ 0 || a < 0 || (2 : Int) ^ 23 ≤ a then .err cSpBound else .ok a.toNat

/-- The pitch: PITCH, or the argument's when PITCH is 0. -/
def Call.pitchOf (c : Call) (k : Nat) (pitch : BitVec 16) : Nat :=
  if pitch = 0 then bitsOf (mget 0 c.m k).toNat 47 32 else pitch.toNat

/-- The start and pitch of a transfer of rows of rb bytes. Of several conditions of R247's table the one tested first gives the cause: the address, the pitch,
the alignment, then the rows' own places (DESIGN CHOICE, notes/assumptions/33.md: R247 gives no order). -/
def Call.rowsAt (c : Call) (k : Nat) (off pitch : BitVec 16) (rb : Nat) : Got' (Nat × Nat) :=
  (c.addrOf k (sext 16 off.toNat)).bind fun a =>
    let p := c.pitchOf k pitch
    if p < rb then .err cLayout
    else if a % 4 ≠ 0 || p % 4 ≠ 0 then .err cAlign
    else .ok (a, p)

/-- Rows of bytes written into the window. -/
def State.windowRows (s : State) (c : Call) (a p : Nat) (rows : List (List Byte)) : Got' State :=
  let cl := clusterOf c.sid
  match c.win with
  | none => .err cSpBound
  | some (g, n) =>
    let rb := (rows.headD []).length
    if 1024 * n < a + (rows.length - 1) * p + rb then .err cSpBound
    else
      rows.zipIdx.foldl (fun (r : Got' State) q => r.bind fun s =>
        match s.writeLoc (.spad cl (1024 * g + a + q.2 * p)) q.1 with
        | .ok s' => .ok s'
        | .error _ => .err cPoison) (.ok s)

/-! ## Tiles and accumulators (R248) -/

/-- The shape of a tile as the call captured it. -/
structure TShape where
  fmt : Nat
  rows : Nat
  cols : Nat

def Call.shape (c : Call) (t : Nat) : Got' TShape :=
  let v := (mget 0 c.tshape t).toNat
  if v % 16 = 0xF then .err cIllegal else .ok ⟨v % 16, bitsOf v 10 4 + 1, bitsOf v 20 11 + 1⟩

def TShape.width (h : TShape) : Nat := fmtBits h.fmt
/-- Bytes of a row, which must be whole. -/
def TShape.rowBytes (h : TShape) : Got' Nat := if h.cols * h.width % 8 ≠ 0 then .err cLayout else .ok (h.cols * h.width / 8)

/-- The bit string of a strand's tile. -/
def State.tile (s : State) (sid t : Nat) : Nat := mget 0 (s.spindle (gnumOf sid)).tiles ((s.strand sid).tile0 + t)
def State.setTile (s : State) (sid t v : Nat) : State :=
  s.updSpindle (gnumOf sid) fun x => { x with tiles := mset 0 x.tiles ((s.strand sid).tile0 + t) v }
/-- Element (i, k) of a tile. -/
def TShape.elem (h : TShape) (bits i k : Nat) : Nat := bits / 2 ^ (h.width * (i * h.cols + k)) % 2 ^ h.width

/-- The index of an accumulator element. -/
def State.accIdx (s : State) (sid a i j : Nat) : Nat := 16384 * ((s.strand sid).acc0 + a) + 128 * i + j
def State.accAt (s : State) (sid a i j : Nat) : BitVec 32 := mget 0 (s.spindle (gnumOf sid)).accs (s.accIdx sid a i j)

/-- Elements of an accumulator replaced: row, column and value. -/
def State.setAcc (s : State) (sid a : Nat) (es : List (Nat × Nat × BitVec 32)) : State :=
  s.updSpindle (gnumOf sid) fun x => { x with accs := es.foldl (fun m e => mset 0 m (s.accIdx sid a e.1 e.2.1) e.2.2) x.accs }

/-- A call that writes an accumulator, and its shadow's elements (R119, R120). -/
def Call.wroteAcc (c : Call) (a : Nat) (idx : Nat → Nat → Nat) (es : List (Nat × Nat × Word)) : Call :=
  { c with
    wrote := if c.wrote.contains a then c.wrote else c.wrote ++ [a]
    shAcc := if c.shadowed.isSome && !c.skipped then es.foldl (fun m e => mset 0 m (idx e.1 e.2.1) e.2.2) c.shAcc else c.shAcc }

/-- The pairs of indices below two bounds. -/
def grid (m n : Nat) : List (Nat × Nat) := (List.range m).flatMap fun i => (List.range n).map fun j => (i, j)

/-- A raw accumulator word as the shadow holds it. -/
def Call.shWord (c : Call) (x : BitVec 32) : Word := if c.intMode then BitVec.ofInt 64 x.toInt else BitVec.ofNat 64 x.toNat

/-! ## Moves (R255) -/

/-- NOP. -/
def uopNop' (_ : UF) (s : State) (c : Call) : UopOut := .done s c
def execUopNop (f : UF) (s : State) : Result := s.uop (uopNop' f)

/-- TLOAD. -/
def uopTload (f : UF) (s : State) (c : Call) : UopOut :=
  let t := tileSel c.imm.toNat f.sel.toNat
  ((c.shape t).bind fun h => h.rowBytes.bind fun rb => (c.rowsAt f.arg.toNat f.off f.pitch rb).bind fun q =>
    (Got'.all (fun i => s.callRead c (q.1 + i * q.2) rb) (List.range h.rows)).bind fun rows =>
      let bs := rows.flatten
      .ok (.done (s.setTile c.sid t (setField (s.tile c.sid t) 0 (8 * bs.length) (leNat bs))) c)).out
def execTload (f : UF) (s : State) : Result := s.uop (uopTload f)

def isQ (fmt : Nat) : Bool := fmt == 0x9 || fmt == 0xB

/-- TSTORE: a Q8 or Q4 tile is no store format (R100, R247). -/
def uopTstore (f : UF) (s : State) (c : Call) : UopOut :=
  let t := tileSel c.imm.toNat f.sel.toNat
  ((c.shape t).bind fun h => if isQ h.fmt then .err cIllegal else h.rowBytes.bind fun rb => (c.rowsAt f.arg.toNat f.off f.pitch rb).bind fun q =>
    (s.windowRows c q.1 q.2 ((List.range h.rows).map fun i => leBytes rb (s.tile c.sid t / 2 ^ (8 * rb * i)))).bind fun s' =>
      .ok (.done s' c)).out
def execTstore (f : UF) (s : State) : Result := s.uop (uopTstore f)

/-- AZERO. -/
def uopAzero (f : UF) (s : State) (c : Call) : UopOut :=
  let a := accSel c.imm.toNat f.acc.toNat
  let base := s.accIdx c.sid a 0 0
  .done (s.updSpindle (gnumOf c.sid) fun x => { x with accs := dropRange x.accs base 16384 })
    { c.wroteAcc a (s.accIdx c.sid a) [] with shAcc := dropRange c.shAcc base 16384 }
def execAzero (f : UF) (s : State) : Result := s.uop (uopAzero f)

/-- ALOAD: raw 32-bit words. -/
def uopAload (f : UF) (s : State) (c : Call) : UopOut :=
  let a := accSel c.imm.toNat f.acc.toNat
  let rows := f.rows.toNat + 1
  let cols := f.cols.toNat + 1
  ((c.rowsAt f.arg.toNat f.off f.pitch (4 * cols)).bind fun q =>
    (Got'.all (fun i => s.callRead c (q.1 + i * q.2) (4 * cols)) (List.range rows)).bind fun bs =>
      let es := (grid rows cols).map fun p =>
        (p.1, p.2, BitVec.ofNat 32 (leNat (((bs.getD p.1 []).drop (4 * p.2)).take 4)))
      .ok (.done (s.setAcc c.sid a es) (c.wroteAcc a (s.accIdx c.sid a) (es.map fun e => (e.1, e.2.1, c.shWord e.2.2))))).out
def execAload (f : UF) (s : State) : Result := s.uop (uopAload f)

/-- The .nan form of a store (R112): it acts for BF16, FP16, E4M3 and E5M2 only. -/
def Call.nanForm (c : Call) (fmt : Nat) : Bool := c.onan && [1, 2, 3, 4].contains fmt

/-- An accumulator element converted into a format that is not block-scaled (R117). DEDUCED, notes/assumptions/15.md: ONAN acts in float
mode only. -/
def Call.storeElem (c : Call) (fmt : Nat) (x : BitVec 32) : Nat × Sticky :=
  if c.intMode then convert (.int 32 true 0 0) (cvtFmt fmt) c.ornd false x.toNat
  else convert (.flt fp32) (cvtFmt fmt) c.ornd (c.nanForm fmt) x.toNat

/-- Element codes packed as a bit string, in whole bytes (R110). -/
def packBytes (w : Nat) (xs : List Nat) : List Byte := leBytes ((w * xs.length + 7) / 8) (packLanes w xs)

/-- A row stored in a block-scaled format: elements, then SC8 bytes (R109, R255). -/
def Call.blockRow (c : Call) (fmt : Nat) (xs : List (BitVec 32)) : List Byte × Sticky :=
  let q := (List.range (xs.length / 4)).map fun i =>
    blockConvert (if fmt = 0xC then e4m3 else e2m1) c.ornd (((xs.drop (4 * i)).take 4).map fun x => accNum c.intMode x)
  (packBytes (fmtBits fmt) (q.flatMap fun b => b.2.1) ++ q.map fun b => BitVec.ofNat 8 b.1, q.foldl (fun a b => a ||| b.2.2) 0)

def Call.storeRow (c : Call) (fmt : Nat) (xs : List (BitVec 32)) : List Byte × Sticky :=
  if fmt = 0xC || fmt = 0xD then c.blockRow fmt xs
  else
    let es := xs.map (c.storeElem fmt)
    (packBytes (fmtBits fmt) (es.map Prod.fst), es.foldl (fun a e => a ||| e.2) 0)

/-- ASTORE. -/
def uopAstore (f : UF) (s : State) (c : Call) : UopOut :=
  let a := accSel c.imm.toNat f.acc.toNat
  let rows := f.rows.toNat + 1
  let cols := f.cols.toNat + 1
  let o := c.ofmt
  let block := o == 0xC || o == 0xD
  let bits := cols * fmtBits o + (if block then 2 * cols else 0)
  if o = 0x9 || o = 0xB || o = 0xF then .err cIllegal
  else if (block && cols % 4 != 0) || bits % 8 != 0 then .err cLayout
  else
    ((c.rowsAt f.arg.toNat f.off f.pitch (bits / 8)).bind fun q =>
      let rs := (List.range rows).map fun i => c.storeRow o ((List.range cols).map fun j => s.accAt c.sid a i j)
      (s.windowRows c q.1 q.2 (rs.map Prod.fst)).bind fun s' =>
        .ok (.done s' { c with sticky := rs.foldl (fun x r => x ||| r.2) c.sticky })).out
def execAstore (f : UF) (s : State) : Result := s.uop (uopAstore f)

/-- A format that CVT takes on neither side. -/
def noCvt (fmt : Nat) : Bool := [0x9, 0xB, 0xC, 0xD].contains fmt

/-- A tile rewritten with elements, row by row; the rest of its bits stay. -/
def State.putTile (s : State) (sid t : Nat) (h : TShape) (es : List Nat) : State :=
  s.setTile sid t (setField (s.tile sid t) 0 (h.width * es.length) (packLanes h.width es))

/-- CVT. -/
def uopCvt (f : UF) (s : State) (c : Call) : UopOut :=
  let t := tileSel c.imm.toNat f.sel.toNat
  ((c.shape t).bind fun h =>
    let finish (es : List (Nat × Sticky)) : Got' UopOut :=
      .ok (.done (s.putTile c.sid t h (es.map Prod.fst)) { c with sticky := es.foldl (fun x e => x ||| e.2) c.sticky })
    if noCvt h.fmt then .err cIllegal
    else if f.en then
      (if 128 < h.cols then .err cLayout
      else finish ((grid h.rows h.cols).map fun p => c.storeElem h.fmt (s.accAt c.sid (accSel c.imm.toNat (f.ta.toNat % 8)) p.1 p.2)))
    else
      let u := tileSel c.imm.toNat f.ta.toNat
      (c.shape u).bind fun k =>
        if noCvt k.fmt then .err cIllegal
        else if k.rows ≠ h.rows || k.cols ≠ h.cols then .err cLayout
        else
          let bits := s.tile c.sid u
          finish ((grid h.rows h.cols).map fun p => convert (cvtFmt k.fmt) (cvtFmt h.fmt) c.ornd (c.nanForm h.fmt) (k.elem bits p.1 p.2))).out
def execCvt (f : UF) (s : State) : Result := s.uop (uopCvt f)

/-! ## Steps (R115, R116, R256, R258) -/

/-- The group size along K (R105). -/
def Call.group (c : Call) : Nat := 32 * 2 ^ c.qgroup

/-- An operand of a step as it is read: its format and shape, its bits, and its parameter words or scale bytes by row. -/
structure Operand where
  fmt : Nat
  shape : TShape
  bits : Nat
  params : List Nat

/-- The parameter words or scale bytes of an operand of r rows and dense extent K (R258). -/
def State.readParams (s : State) (c : Call) (fmt r k : Nat) (zp bs : Option Nat) : Got' (List Nat) :=
  if isQ fmt then
    if c.qgroup = 3 then .err cIllegal
    else match zp with
      | none => .err cIllegal
      | some cur =>
        if k % c.group ≠ 0 then .err cLayout
        else Got'.all (fun i => (s.callRead c (cur + 4 * i) 4).bind fun b => .ok (leNat b)) (List.range (r * (k / c.group)))
  else if isBlock fmt then
    match bs with
    | none => .err cIllegal
    | some cur =>
      if k % 4 ≠ 0 then .err cLayout
      else Got'.all (fun i => (s.callRead c (cur + i) 1).bind fun b => .ok (leNat b)) (List.range (r * (k / 4)))
  else .ok []

/-- The value of an element code at dense index k of row i (R102 to R108). -/
def Operand.val (o : Operand) (g kk i k code : Nat) : XNum :=
  if isQ o.fmt then qElem (o.fmt == 0xB) (o.params.getD (i * (kk / g) + k / g) 0) code
  else if isBlock o.fmt then blockElem (o.params.getD (i * (kk / 4) + k / 4) 0) (if o.fmt = 0xC then e4m3 else e2m1) code
  else if o.fmt = 0x8 then intNum (sext 8 code)
  else if o.fmt = 0xA then intNum (sext 4 code)
  else decodeF (ffmtOf o.fmt) code

/-- The products of one group in float mode (R115): the group sum as an FP32 value. The flag says that an operand was NaN. -/
def groupSum (ps : List XNum) (nanOp : Bool) : XNum × Sticky :=
  if (ps.any XNum.isNan) || ((ps.any fun p => p.isInf && p.isNeg) && (ps.any fun p => p.isInf && !p.isNeg)) then
    (.nan, if nanOp then 0 else stNan)
  else match ps.find? XNum.isInf with
    | some i => (i, 0)
    | none =>
      let nz : List (Bool × Nat × Nat) := ps.filterMap fun p => match p with
        | .fin s n d => if n = 0 then none else some (s, n, d)
        | _ => none
      match nz with
      | [] => (.fin false 0 1, 0)
      | (_, n0, d0) :: _ =>
        let emax := nz.foldl (fun m x => max m (floorLog2 x.2.1 x.2.2)) (floorLog2 n0 d0)
        let q := pow2 (emax - 40)
        let ts := nz.map fun x =>
          let n := x.2.1 * q.2
          let d := x.2.2 * q.1
          (if x.1 then -((n / d : Nat) : Int) else (n / d : Nat), n % d != 0)
        let sum := (ts.map Prod.fst).sum
        let lost := ts.any Prod.snd
        let r := roundF fp32 .rne .ieee (sum < 0) (sum.natAbs * q.1) q.2
        (decodeF fp32 r.1, r.2 ||| (if lost then stInexact else 0))

/-- One term of a sum: the factors, or a product of +0 that a sparse step skips (R116). -/
abbrev Term := Option (XNum × XNum)

def Term.product (t : Term) : XNum :=
  match t with
  | some (a, b) => numMul a b
  | none => .fin false 0 1

def Term.nanOp (t : Term) : Bool :=
  match t with
  | some (a, b) => a.isNan || b.isNan
  | none => false

/-- A list cut into runs of 32. -/
def groups32 {α : Type} (xs : List α) : List (List α) := (List.range ((xs.length + 31) / 32)).map fun g => (xs.drop (32 * g)).take 32

/-- The exact integer value of a product in integer mode. -/
def XNum.toInt' (x : XNum) : Int :=
  match x with
  | .fin s n d => finInt s (n / d)
  | _ => 0

/-- AccumulateElement (R115). -/
def accumulate (int : Bool) (c : BitVec 32) (ts : List Term) : BitVec 32 × Sticky :=
  (groups32 ts).foldl (fun (r : BitVec 32 × Sticky) g =>
    if int then
      let v := satInt (-2 ^ 31) (2 ^ 31 - 1) (r.1.toInt + ((g.map fun t => t.product.toInt').sum))
      (BitVec.ofInt 32 v.1, r.2 ||| v.2)
    else
      let s := groupSum (g.map Term.product) (g.any Term.nanOp)
      let c := decodeF fp32 r.1.toNat
      let x := numAdd .rne c s.1
      let y := roundNum fp32 .rne x
      (BitVec.ofNat 32 y.1, r.2 ||| s.2 ||| y.2 ||| invalidBit x [c, s.1])) (c, 0)

/-- The shadow's element after a step (R119): products and additions one at a time in ascending k, or exactly in 64 bits. -/
def shadowStep (int : Bool) (c : Word) (ts : List Term) : Word :=
  if int then BitVec.ofInt 64 (c.toInt + (ts.map fun t => t.product.toInt').sum)
  else ts.foldl (fun c t =>
    let p := (roundNum fp32 .rne t.product).1
    BitVec.ofNat 64 (roundNum fp32 .rne (numAdd .rne (decodeF fp32 (c.toNat % 2 ^ 32)) (decodeF fp32 p))).1) c

/-- The multiply-accumulates of a step in INT8 equivalents (R17, R426). -/
def macCost (fa fb m n k : Nat) (sparse : Bool) : Nat :=
  let w := max (fmtBits fa) (fmtBits fb)
  let q := if w = 32 then 1024 else if w = 16 then 8192 else if w = 4 then 32768 else 16384
  let q := if sparse then 2 * q else q
  (m * n * k * 16384 + q - 1) / q

/-- The placement word, the metadata word at the call's MPC, as the call's first SPSTEP reads it (R258). -/
def State.placementWord (s : State) (c : Call) : UopOut :=
  let m := s.mcxOf c.sid
  if isMill c.sid || s.hw m 9 % 2 ^ 32 ≤ c.mpc.toNat then .err cBadTarget
  else match s.ctxPlace m (s.hw m 8 % 2 ^ 48 + 4 * c.mpc.toNat) .fetch with
    | .error f => .fault f
    | .ok (pl, s') => match s'.readPlace pl 4 with
      | .error f => .fault f
      | .ok bs => .done (s'.chargeCtx (some (clusterOf c.sid)) m pl 4 .read) { c with placement := some (BitVec.ofNat 32 (leNat bs)), maskCur := leNat bs % 2 ^ 23 }

/-- Where in a row of stored values each dense element stands, from the row's masks (R258). -/
def expandMasks (nsp : Nat) (masks : List Nat) : List (Option Nat) :=
  masks.zipIdx.flatMap fun m => (List.range 8).map fun p =>
    if bitOf m.1 p then some (m.2 * nsp + ((List.range p).filter fun r => bitOf m.1 r).length) else none

/-- The columns of B for each row and dense index of a step: none where a sparse step skips it. -/
def State.columns (s : State) (c : Call) (sparse : Bool) (nb kk bcols : Nat) : Got' (List (List (Option Nat))) :=
  if !sparse then
    if bcols ≠ kk then .err cLayout else .ok (List.replicate nb ((List.range kk).map some))
  else
    let w := ((c.placement).getD 0).toNat
    let nsp := bitsOf w 25 23
    if bitsOf w 31 26 ≠ 0 || nsp = 0 || 4 < nsp then .err cIllegal
    else if kk % 8 ≠ 0 || bcols * 8 ≠ kk * nsp then .err cLayout
    else
      (Got'.all (fun j => Got'.all (fun b => (s.callRead c (c.maskCur + b * nb + j) 1).bind fun x => .ok (leNat x)) (List.range (kk / 8)))
        (List.range nb)).bind fun ms =>
          if ms.any fun row => row.any fun m => nsp < (maskBits 8 m).length then .err cCodec
          else .ok (ms.map (expandMasks nsp))

/-- The cursors after a step (R258). -/
def Call.advance (c : Call) (fa fb m n k : Nat) (sparse : Bool) : Call :=
  let add (x : Option (Nat × Nat)) (a b : Nat) : Option (Nat × Nat) := x.map fun p => (p.1 + a, p.2 + b)
  { c with
    zpc := add c.zpc (if isQ fa then 4 * m * k / c.group else 0) (if isQ fb then 4 * n * k / c.group else 0)
    bsc := add c.bsc (if isBlock fa then m * k / 4 else 0) (if isBlock fb then n * k / 4 else 0)
    maskCur := if sparse then c.maskCur + n * k / 8 else c.maskCur }

/-- The terms of an element's sum. -/
def stepTerms (a b : Operand) (g kk i j : Nat) (cols : List (Option Nat)) : List Term :=
  cols.zipIdx.map fun p => p.1.map fun col =>
    (a.val g kk i p.2 (a.shape.elem a.bits i p.2), b.val g kk j p.2 (b.shape.elem b.bits j col))

/-- The tiles of a step, with the formats that FMT gives them (R256). -/
def Call.stepShapes (c : Call) (f : UF) : Got' (TShape × TShape) :=
  if c.afmt = 0xE || c.afmt = 0xF || c.bfmt = 0xE || c.bfmt = 0xF then .err cIllegal
  else (c.shape (tileSel c.imm.toNat f.ta.toNat)).bind fun ha => (c.shape (tileSel c.imm.toNat f.tb.toNat)).bind fun hb =>
    if ha.fmt ≠ c.afmt || hb.fmt ≠ c.bfmt then .err cLayout else .ok (ha, hb)

/-- OPSTEP and SPSTEP (R256). An SPSTEP has its placement word. -/
def uopStep (sparse : Bool) (f : UF) (s : State) (c : Call) : UopOut :=
  let acc := accSel c.imm.toNat f.acc.toNat
  let ta := tileSel c.imm.toNat f.ta.toNat
  let tb := tileSel c.imm.toNat f.tb.toNat
  let fa := c.afmt
  let fb := c.bfmt
  ((c.stepShapes f).bind fun h =>
    let ha := h.1
    let hb := h.2
    let kk := ha.cols
    (s.columns c sparse hb.rows kk hb.cols).bind fun cols =>
    (s.readParams c fa ha.rows kk (c.zpc.map Prod.fst) (c.bsc.map Prod.fst)).bind fun pa =>
    (s.readParams c fb hb.rows kk (c.zpc.map Prod.snd) (c.bsc.map Prod.snd)).bind fun pb =>
      let a : Operand := ⟨fa, ha, s.tile c.sid ta, pa⟩
      let b : Operand := ⟨fb, hb, s.tile c.sid tb, pb⟩
      let out := (grid ha.rows hb.rows).map fun p =>
        let ts := stepTerms a b c.group kk p.1 p.2 (cols.getD p.2 [])
        (p, accumulate c.intMode (s.accAt c.sid acc p.1 p.2) ts,
          shadowStep c.intMode (mget 0 c.shAcc (s.accIdx c.sid acc p.1 p.2)) ts)
      let n := macCost fa fb ha.rows hb.rows kk sparse
      let s1 := s.setAcc c.sid acc (out.map fun o => (o.1.1, o.1.2, o.2.1.1))
      let s2 := (if isMill c.sid then s1 else s1.lea (s.mcxOf c.sid) 1 n).countEv (s.partyOf c.sid) 2 n
      let c1 := c.wroteAcc acc (s.accIdx c.sid acc) (out.map fun o => (o.1.1, o.1.2, o.2.2))
      let c2 := c1.advance fa fb ha.rows hb.rows kk sparse
      .ok (.done s2 { c2 with sticky := out.foldl (fun x o => x ||| o.2.1.2) c2.sticky })).out

/-- OPSTEP. -/
def execOpstep (f : UF) (s : State) : Result := s.uop (uopStep false f)
/-- SPSTEP: the call's first one reads the placement word once its tiles are in order (R258). -/
def uopSpstep (f : UF) (s : State) (c : Call) : UopOut :=
  match c.placement, c.stepShapes f with
  | none, .ok _ => (match s.placementWord c with
    | .done s' c' => uopStep true f s' c'
    | o => o)
  | _, _ => uopStep true f s c
def execSpstep (f : UF) (s : State) : Result := s.uop (uopSpstep f)

/-- Both cursors that a micro-op sets. -/
def Call.cursors (c : Call) (f : UF) : Nat × Nat := ((mget 0 c.m f.arg.toNat).toNat % 2 ^ 23, (mget 0 c.m f.argb.toNat).toNat % 2 ^ 23)

/-- ZPC. -/
def uopZpc (f : UF) (s : State) (c : Call) : UopOut :=
  let q := c.cursors f
  if !f.en then .done s { c with zpc := none }
  else if q.1 % 4 ≠ 0 || q.2 % 4 ≠ 0 then .err cAlign
  else .done s { c with zpc := some q }
def execZpc (f : UF) (s : State) : Result := s.uop (uopZpc f)

/-- BSC. -/
def uopBsc (f : UF) (s : State) (c : Call) : UopOut := .done s { c with bsc := if f.en then some (c.cursors f) else none }
def execBsc (f : UF) (s : State) : Result := s.uop (uopBsc f)

/-- The 128 factors of SCALE that an argument names, or ones. -/
def State.scaleVec (s : State) (c : Call) (on : Bool) (k : Nat) : Got' (List XNum) :=
  if !on then .ok (List.replicate 128 numOne)
  else (c.addrOf k 0).bind fun a =>
    if a % 4 ≠ 0 then .err cAlign
    else Got'.all (fun i => (s.callRead c (a + 4 * i) 4).bind fun b => .ok (decodeF fp32 (leNat b))) (List.range 128)

/-- SCALE: the exact product, rounded once (R256). -/
def uopScale (f : UF) (s : State) (c : Call) : UopOut :=
  let acc := accSel c.imm.toNat f.acc.toNat
  if c.intMode then .err cIllegal
  else
    ((s.scaleVec c f.en f.arg.toNat).bind fun rv => (s.scaleVec c f.enb f.argb.toNat).bind fun cv =>
      let out := (grid 128 128).map fun p =>
        let r := rv.getD p.1 numOne
        let k := cv.getD p.2 numOne
        let go (x : Nat) : Nat × Sticky :=
          let a := decodeF fp32 x
          let y := numMul (numMul a r) k
          let z := roundNum fp32 .rne y
          (z.1, z.2 ||| invalidBit y [a, r, k])
        (p, go (s.accAt c.sid acc p.1 p.2).toNat, (go ((mget 0 c.shAcc (s.accIdx c.sid acc p.1 p.2)).toNat % 2 ^ 32)).1)
      let c1 := c.wroteAcc acc (s.accIdx c.sid acc) (out.map fun o => (o.1.1, o.1.2, BitVec.ofNat 64 o.2.2))
      .ok (.done (s.setAcc c.sid acc (out.map fun o => (o.1.1, o.1.2, BitVec.ofNat 32 o.2.1.1)))
        { c1 with sticky := out.foldl (fun x o => x ||| o.2.1.2) c1.sticky })).out
def execScale (f : UF) (s : State) : Result := s.uop (uopScale f)

/-! ## Arguments and flow (R255, R257, R259) -/

/-- The address forms: `new` gives the argument's new value. -/
def Call.setArg (c : Call) (k : Nat) (v : Word) : Call := { c with m := mset 0 c.m k v }
/-- An offset added to the low 23 bits of an argument. -/
def Call.addArg (c : Call) (k : Nat) (d : Int) : Call :=
  let m := (mget 0 c.m k).toNat
  c.setArg k (BitVec.ofNat 64 (setField m 0 23 (toBits 23 ((m % 2 ^ 23 : Nat) + d))))

/-- What ADDR does in each of its modes (R255): MODE 0 sets the argument; MODE 1 to 3 add IMM32, or the low or high half of M[s]. -/
def uopAddr (f : UF) (s : State) (c : Call) : UopOut :=
  let k := f.arg.toNat
  let m := (mget 0 c.m f.argb.toNat).toNat
  .done s (match f.mode.toNat with
    | 0 => c.setArg k (BitVec.ofInt 64 (sext 32 f.imm.toNat))
    | 1 => c.addArg k (sext 32 f.imm.toNat)
    | 2 => c.addArg k (sext 32 m)
    | _ => c.addArg k (sext 32 (m / 2 ^ 32)))
/-- ADDR. -/
def execAddr (f : UF) (s : State) : Result := s.uop (uopAddr { f with mode := 0 })
/-- ADDR.add. -/
def execAddrAdd (f : UF) (s : State) : Result := s.uop (uopAddr { f with mode := 1 })
/-- ADDR.lo. -/
def execAddrLo (f : UF) (s : State) : Result := s.uop (uopAddr { f with mode := 2 })
/-- ADDR.hi. -/
def execAddrHi (f : UF) (s : State) : Result := s.uop (uopAddr { f with mode := 3 })

/-- LOOP (R257): a count of 0 goes on after LAST. -/
def execUopLoop (f : UF) (s : State) : Result :=
  let g := gnumOf s.focus
  match (s.spindle g).runningCall with
  | none => .next s
  | some c =>
    let n := if f.en then (mget 0 c.m f.arg.toNat).toNat % 2 ^ 32 else f.pitch.toNat
    let last := f.last.toNat
    if c.skipNext then .next (s.setCall g ({ c with skipNext := false }.after c.idx))
    else if n = 0 then .next (s.setCall g (c.after last))
    else .next (s.setCall g { c with idx := c.idx + 1, loops := (n, c.idx + 1, last) :: c.loops })

/-- MSTEP: a pending kill or pre-emption stops the call (R259). -/
def execMstep (f : UF) (s : State) : Result :=
  let g := gnumOf s.focus
  match (s.spindle g).runningCall with
  | none => .next s
  | some c =>
    let next := { c with skipNext := false }.after c.idx
    if c.skipNext then .next (s.setCall g next)
    else if c.killed then .next (s.stopKilled g c)
    else if s.callStops c.sid then
      .next (s.stopSaved g next (maskBits 16 f.tlive.toNat ++ (maskBits 5 f.slive.toNat).map fun k => tileSel c.imm.toNat (16 + k)))
    else .next (s.setCall g next)

/-- SHADOW: the comparison covers the listed accumulators (R255). -/
def uopShadow (f : UF) (s : State) (c : Call) : UopOut :=
  .done s { c with shList := some (maskBits 4 f.amask.toNat ++ (maskBits 2 f.smask.toNat).map fun k => accSel c.imm.toNat (4 + k)) }
def execShadow (f : UF) (s : State) : Result := s.uop (uopShadow f)

/-- SKIPF. -/
def uopSkipf (f : UF) (s : State) (c : Call) : UopOut := .done s { c with skipNext := bitOf c.flags.toNat f.bit.toNat == f.en }
def execSkipf (f : UF) (s : State) : Result := s.uop (uopSkipf f)

/-- END: the window flips and the sticky bits reach STATUS (R117, R242, R255). -/
def execUopEnd (_ : UF) (s : State) : Result :=
  let g := gnumOf s.focus
  match (s.spindle g).runningCall with
  | none => .next s
  | some c =>
    if c.skipNext then .next (s.setCall g ({ c with skipNext := false }.after c.idx))
    else .next ((s.leaveQueue g c .done).shadowEnd g c)

/-- The micro-op that a running call executes next; none when its word names none or the routine has been left (R252, R253). -/
def State.nextUop (s : State) (c : Call) : Option Instr := (((s.routine c.sid c.rout).getD [])[c.idx]?).getD none

end Sys2Proof.Machine
end

