-- ==== Sys2Proof/Machine/Strands.lean ====
section
/-! DEFINITION. The events of a strand and its spindle: the end of a block (R25), the selection of a strand (R26), idle cycles and stalls (R75,
R76), and a pending FMT write (R118). -/

namespace Sys2Proof.Machine

open Sys2Proof

/-! ## The end of a block (R25) -/

/-- The register of a pending result given its value. -/
def Strand.fillResp (t : Strand) (f : RFile) (r v : Nat) : Strand :=
  { t with resp := t.resp.map fun w => if w.file = f && w.reg = r then { w with val := v } else w }

/-- A strand taken back to before the bundle that blocks it, which it presents again. -/
def State.replay (s : State) (sid : Nat) : State := (s.rollback sid).updStrand sid fun t => { t with st := .ready }

/-- Does a word of the scratchpad lie in an ENGINE granule, where no strand reads (R126, R154)? -/
def State.wordHeld (s : State) (l : Loc) : Bool :=
  match l with
  | .spad cl off => s.engineOwned cl off 8
  | _ => false

/-- The acquire of an ACQ that has read its word (R149, R224). -/
def State.acquired (s : State) (sid : Nat) (l : Loc) (reg : Nat) (sc : ScopeAt) (v : Nat) : State :=
  (s.updStrand sid fun t => t.fillResp .x reg v).updCore sid fun c => c.stick (missBit (scopeMiss sid sc (s.relTag l v)))

/-- The place of an ACQ's word as its strand reads it now: each read is an access of its own, which translates afresh (R300, R362). -/
def State.acqPlace (s : State) (sid : Nat) (l : Loc) (ea : Nat) : Except MemFault (Place × State) :=
  match l with
  | .spad .. => .ok ({ loc := l, ea := ea }, s)
  | _ => s.place sid ea .read

/-- Is a REL still to write through an entry that a TLBINV has invalidated (R300)? -/
def Wait.relInval (w : Wait) : Bool :=
  match w with
  | .rel _ _ _ _ b => b
  | _ => false

/-- The word of a CWAIT has DONE = 1 (R55, R237). -/
def State.ackDone (s : State) (l : Loc) : Bool :=
  match s.readLoc l 8 with
  | .ok bs => bitOf (leNat bs) 12
  | .error _ => true

/-- Has the channel of a strand made room, or its fault been served (R271, R278)? -/
def State.reelClear (s : State) (sid : Nat) : Bool :=
  let r := (s.core sid).reel
  r.err.isSome || (r.susp.isNone && decide (r.closed < 2) && !(s.reachReqs.any fun p => match p.2 with
    | some q => q.who == sid && q.slot == 4096
    | none => false))

/-- Is a frame decoded (R273)? -/
def Reel.decodedAt (r : Reel) (n : Nat) : Bool :=
  r.err.isSome || r.replay.any fun p => p.1 == n

/-- Have the calls of a saved strand's cluster stopped, can its copies read the rest of their scratchpad sources, and are its channel's
closed frames written (R279, R344, R346)? -/
def State.enginesStopped (s : State) (sid : Nat) : Bool :=
  let mcx := s.mcxOf sid
  let sps := (List.range 8).map fun k => clusterOf sid * 8 + k
  let r := (s.core sid).reel
  (r.waiting.isEmpty || r.err.isSome) && sps.all fun g => !((s.spindle g).queue.any fun c => !isMill c.sid && s.mcxOf c.sid == mcx && c.started && !c.halted)
    && s.copyList.all fun j => j.redirected || !j.ofCtx mcx || j.cl != clusterOf sid || s.sourceReady j

/-- The condition of a wait, without what its end does. -/
def State.waitClear (s : State) (sid : Nat) (w : Wait) : Bool :=
  let t := s.strand sid
  match w with
  | .resp => true
  | .acq .. => false
  | .drain ch => !s.drainWaits sid ch
  | .bankmode .. => false
  | .seal => t.core.reel.err.isSome || (t.core.reel.waiting.isEmpty && t.core.reel.susp.isNone)
  | .halt => s.evPend (dieOf sid) &&& t.core.evmask != 0
  | .barrier cl off ph => !(((s.cluster cl).mark off).armed && (s.cluster cl).barPhase off == ph)
  | .skein k => t.skGo.contains k
  | .cwait l _ => (match l with
    | .remote .. => false
    | _ => s.ackDone l)
  | .bobbin cl b _ => (match (s.cluster cl).bobbin b with
    | some o => o.tag o.tail == .full
    | none => true)
  | .granule cl g => ((s.cluster cl).gran g).eng.isNone
  | .queue => decide ((s.spindle (gnumOf sid)).queue.length < 8)
  | .rpt => (s.repeatOf sid).isNone
  | .mwait n tmask amask => s.mwaitMet sid n tmask amask
  | .chan ch => decide ((s.channelCopies sid ch).length < 16)
  | .reel => s.reelClear sid
  | .reelFrame n => t.core.reel.decodedAt n
  | .fault _ _ => false
  | .reach d tag => (mget none s.reachReqs (d * 2 ^ 16 + tag)).isNone
  | .refetch _ => false
  | .rel .. => false
  | .fence => !s.remotePending sid
  | .snapsave .. => false
  | .snapload .. => false
  | .inval => !(s.strands.any fun p => p.2.stores.any (fun q => q.inval) || p.2.waits.any Wait.relInval) && !(s.reachReqs.any fun p => p.2.any fun q => q.inval && q.susp.isNone)

/-- Results delivered at the end of an after-issue block: each register, or shadow entry, takes its value (R25, R186). -/
def Core.deliver (c : Core) (rs : List RW) : Core := (flightsOf rs).foldl Core.land c

/-- The end of a strand's block: an after-issue block delivers its results, a checkpoint completes, and BREAK is raised where a BRK stands beside the block
(R25, R184, R337). -/
def State.unblock (s : State) (sid : Nat) : State :=
  let t := s.strand sid
  let st := if t.st = .blocked then SlotState.ready else t.st
  if t.after then
    let s := s.updStrand sid fun t =>
      { t with st := st, waits := [], after := false, firm := false, ckptDue := false, brk := none, resp := [], core := t.core.deliver t.resp }
    let s := if !t.ckptDue then s else match s.commitRegion sid with
      | .ok s' => s'
      | .error _ => s
    match t.brk with
    | some k => s.takeTrap sid { cause := cBreak, slot := 7, info := k }
    | none => s
  else s.updStrand sid fun t => { t with st := st, waits := [] }

/-! ## Selection (R26) -/

/-- The slots in the order of selection. -/
def Spindle.order (x : Spindle) : List Nat :=
  match x.last with
  | none => [0, 1, 2, 3]
  | some c => [(c + 1) % 4, (c + 2) % 4, (c + 3) % 4, c]

/-- May a slot be selected: issue is not gated, or the slot is the one that a debug step releases (R350, R355)? -/
def Spindle.open? (x : Spindle) (k : Nat) : Bool := !x.gate || x.stepSlot == some k

/-- The slot that a spindle selects. -/
def State.pickSlot (s : State) (g : Nat) : Option Nat :=
  let x := s.spindle g
  x.order.find? fun k => (s.strand (4 * g + k)).st = .ready && x.open? k

/-- STRAND_SELECT: spindle `ev.n` selects a READY slot; two cycles pass when the slot changes (R26, R432). -/
def execStrandSelect (s : State) : Result :=
  let g := s.ev.n
  let x := s.spindle g
  if x.running.isSome || s.held then .next s
  else match s.pickSlot g with
    | none => .next s
    | some k =>
      let switched := x.last.isSome && x.last != some k
      let s := if switched then (((s.cycle g).cycle g).countEv (match x.mcx with | some m => s.partOf m | none => 32) 5 1) else s
      .next ((s.updSpindle g fun x => { x with running := some k, last := some k }).updStrand (4 * g + k) fun t => { t with st := .running })

/-! ## Cycles and stalls -/

/-- Does a strand of a spindle issue a bundle in this cycle, if nothing prevents it? -/
def State.spindleBusy (s : State) (g : Nat) : Bool :=
  match (s.spindle g).running with
  | some k => s.canIssue (4 * g + k)
  | none => false

/-- Does a spindle that runs no slot select one in this cycle (R26)? -/
def State.selects (s : State) (g : Nat) : Bool := (s.spindle g).running.isNone && !s.held && (s.pickSlot g).isSome

/-- RESULT_LAND: a cycle of spindle `ev.n` in which no bundle issues, at whose end results land (R75, R194). A READY slot is selected first (R26). -/
def execResultLand (s : State) : Result :=
  let g := s.ev.n
  if (s.spindle g).stalled || s.spindleBusy g || s.selects g then .next s else .next (s.cycle g)

/-- A dictionary entry brought into a spindle's cache (R60). -/
def Spindle.cacheEntry (x : Spindle) (key w : Nat) : Spindle :=
  { x with dict := ((key, w) :: x.dict.filter fun p => p.1 != key).take dictSize }

/-- The stall cycles of a spindle: no count of a latency advances (R76, R319, R426, R432). -/
def State.stallCycles (s : State) (g n : Nat) : State :=
  if (s.spindle g).asleep then s.asleepCycles g n
  else match (s.spindle g).mcx with
  | none => s.countEv 32 4 n
  | some m => ((s.lea m 5 n).chargeClass m n).countEv (s.partOf m) 4 n

/-- An uncorrectable error in a resident dictionary entry: the entry is invalidated, and the next fetch of it loads it from its image (R439). -/
def State.dropEntry (s : State) (g key : Nat) : State :=
  let x := s.spindle g
  if x.dict.any fun p => p.1 == key then
    (s.updSpindle g fun x => { x with dict := x.dict.filter fun p => p.1 != key }).madeGood (dieOfSp g) 3 x.mcx (whoOf (4 * g)) 0
  else s

/-- STALL_END: the stall of spindle `ev.n` ends after `ev.m` cycles. The dictionary entry that it waited for is resident; a spindle that waits for none has stalled
for a bank conflict or a fetch delay (R60, R76). With `ev.flag` the entry with tag `ev.v` has met an uncorrectable error (R439). -/
def execStallEnd (s : State) : Result :=
  let g := s.ev.n
  let x := s.spindle g
  if !x.stalled then
    let s1 := s.stallCycles g s.ev.m
    .next (if s.ev.flag then s1.dropEntry g s.ev.v.toNat else s1)
  else
    let s := (s.stallCycles g s.ev.m).updSpindle g fun x => { x with stalled := false }
    match x.running with
    | none => .next s
    | some k =>
      let sid := 4 * g + k
      match s.codeWord sid (s.core sid).pc.toNat with
      | .ok w s1 =>
        if 0xFFFE ≤ w then .next s1
        else (match s1.dictWord sid w with
          | .ok v s2 => .next (s2.updSpindle g fun x => x.cacheEntry (dictKey (s2.imageOf sid) w) v)
          | f => s1.fetchStop sid f)
      | f => s.fetchStop sid f

/-! ## FMT (R118) -/

/-- A pending write that is due at the next bundle takes effect. -/
def Core.fmtDue (c : Core) : Core :=
  { c with
    fmt := c.fmtPend.foldl (fun f q => if q.2 = 1 then q.1 else f) c.fmt
    fmtPend := c.fmtPend.filter fun q => q.2 != 1 }

/-- FMT_TAKE_EFFECT: a pending FMT write of the strand in focus takes effect for the bundle that it issues next (R118). -/
def execFmtTakeEffect (s : State) : Result := .next (s.updCore s.focus Core.fmtDue)

end Sys2Proof.Machine
end

