-- ==== Sys2Proof/Machine/Counters.lean ====
section
/-! DEFINITION. The lea counters and their flush (R426 to R428), the signed lea report (R429, R430), the counter sessions (R431 to R434), and the
error on a link (R438). -/

namespace Sys2Proof.Machine

open Sys2Proof

/-! ## Lea counters -/

/-- A 64-bit count that saturates (R426). -/
def satAdd64 (a : Word) (n : Nat) : Word := BitVec.ofNat 64 (min (a.toNat + n) (2 ^ 64 - 1))

/-- The accumulator of lea counter k of a context (R428). -/
def State.leaPart (s : State) (mcx k : Nat) : Nat := mget 0 s.leaAcc (8 * mcx + k)

/-- Every accumulator of a context added to its cached device line (R428); to that of the table while the context is not cached, where the table's copy is the
current one (R310). -/
def State.leaFlush (s : State) (mcx : Nat) : State :=
  let s1 : State := { s with leaAcc := dropRange s.leaAcc (8 * mcx) 8 }
  match s.ctx mcx with
  | some _ => s1.updCtx mcx fun c => { c with lea := (List.range 8).foldl (fun m k => mset 0 m k (satAdd64 (mget 0 m k) (s.leaPart mcx k))) c.lea }
  | none =>
    if (List.range 8).all fun k => s.leaPart mcx k == 0 then s1
    else
      let a := s.recAddr mcx + 576
      (s1.chargeSectors 32 none a 64 .write).physWrite a
        ((List.range 8).flatMap fun k => leBytes 8 (satAdd64 (BitVec.ofNat 64 (s.recWord mcx (72 + k))) (s.leaPart mcx k)).toNat)

/-- LEA_FLUSH: the accumulators of context `ev.n` (R428). -/
def execLeaFlush (s : State) : Result := .next (s.leaFlush s.ev.n)

/-! ## Counter sessions -/

/-- What PCIe enumeration reads of a function: its identities, the sizes of its BARs (BAR2 is the HBM window) and its MSI-X vectors (R417). -/
structure PciFn where
  vendor : Nat := 0x1FD3
  device : Nat
  classCode : Nat := 0x120000
  bar0 : Nat := 0x10000
  bar2 : Option Nat := none
  vectors : Nat
  deriving DecidableEq, Repr

/-- The 64 functions: the PF is 0, and each VF is alike (R417). -/
def pciFn (f : Nat) : PciFn :=
  if f = 0 then { device := 0xC900, bar2 := some 0x100000000, vectors := 64 } else { device := 0xC901, vectors := 4 }

/-- SR-IOV: the number of VFs, their stride and first offset (R417). -/
def sriov : Nat × Nat × Nat := (63, 1, 1)

/-- The routing number, within the device, of VF k, counted from 1 (R417). -/
def vfNumber (k : Nat) : Nat := sriov.2.2 + (k - 1) * sriov.2.1

/-- MSI-X vectors of a function (R417). -/
def vectors (f : Nat) : Nat := (pciFn f).vectors

/-- The mask bit of an entry of a function's MSI-X table, which is set at reset (PRESUMED, notes/assumptions/45.md). -/
def HostFn.masked (x : HostFn) (vec : Nat) : Bool := (mget 0x100000000 x.mtab (2 * vec + 1)).getLsbD 32

/-- An MSI-X vector sent; a vector beyond the function's count sends nothing, and a masked one becomes pending (R417, R431; notes/assumptions/45.md). -/
def State.sendMsix (s : State) (f vec : Nat) : State :=
  if vectors f ≤ vec then s
  else if (s.fn f).masked vec then s.setFn f { s.fn f with pba := (s.fn f).pba ||| BitVec.ofNat 64 (2 ^ vec) }
  else { s with msix := s.msix ++ [(f, vec)] }

/-- Does the session of a function count the events of a party (R432)? -/
def State.sessionHas (s : State) (f party : Nat) : Bool := f == 0 || (decide (party < 32) && (s.part party).vfmask.getLsbD f)

/-- One counter of a session has n added (R434). -/
def State.addCount (s : State) (f k n : Nat) : State :=
  let x := s.fn f
  let sel := mget 0 x.cntsel k
  let total := (mget 0 x.cnt k).toNat + n
  let wrap := decide (2 ^ 48 ≤ total)
  let s := s.setFn f { x with
    cnt := mset 0 x.cnt k (BitVec.ofNat 48 total)
    cntsel := if wrap then mset 0 x.cntsel k (sel ||| 0x80) else x.cntsel }
  if wrap && !sel.getLsbD 7 then s.sendMsix f x.cntvec.toNat else s

/-- Counts of one event of a party added to the sessions of the functions that `who` names (R432, R434). -/
def State.addEvent (s : State) (who : Nat → Bool) (event n : Nat) : State :=
  if n = 0 || event = 0 || 13 < event then s
  else (List.range 64).foldl (fun s f => if !who f then s
    else (List.range 4).foldl (fun s k =>
      let sel := mget 0 (s.fn f).cntsel k
      if sel.getLsbD 6 && sel.toNat % 64 == event then s.addCount f k n else s) s) s

/-- The stacked-cache hits and misses of a party added to the sessions: of a VF's, those in banks of its own partitions (R433, R434). -/
def State.flushHits (s : State) (party : Nat) : State :=
  let s1 := (s.hitAcc.filter fun p => p.1 / 66 == party).foldl (fun s p =>
    s.addEvent (fun f => s.sessionHas f party && s.sessionHas f (p.1 / 2 % 33)) (6 + p.1 % 2) p.2) s
  { s1 with hitAcc := dropRange s1.hitAcc (66 * party) 66 }

/-- The local counts of a party added to the sessions (R432 to R434). -/
def State.flushParty (s : State) (party : Nat) : State :=
  let s1 := (List.range 14).foldl (fun s e =>
    s.addEvent (fun f => s.sessionHas f party && (f == 0 || decide (e < 12))) e (mget 0 s.evAcc (16 * party + e))) s
  { s1 with evAcc := dropRange s1.evAcc (16 * party) 16 }.flushHits party

/-- The counts of a context's partition added at a world switch (R434). -/
def State.worldSwitch (s : State) (mcx : Nat) : State := (s.leaFlush mcx).flushParty (s.partOf mcx)

/-- COUNTER_FLUSH: the local counts of party `ev.n` are added (R434). The flits of the die-to-die links since the last flush, which time decides, come in `ev.v`
(R432). -/
def execCounterFlush (s : State) : Result :=
  if 32 < s.ev.n then .next s else .next ((s.addEvent (fun f => f == 0) 12 s.ev.v.toNat).flushParty s.ev.n)

/-! ## Signed lea reports (R429, R430) -/

/-- Is a life-cycle state one of PROVISIONED, DEPLOYED and RMA (R396)? -/
def reportsIn (lcs : Nat) : Bool := 1 ≤ lcs && lcs ≤ 3

def CtxState.code (c : CtxState) : Nat :=
  match c with
  | .empty => 0 | .idle => 1 | .bound => 2 | .saved => 3 | .broken => 4

/-- The state of a context: of its cached record, or of the table (R308). -/
def State.ctxCode (s : State) (mcx : Nat) : Nat :=
  match s.ctx mcx with
  | some c => c.st.code
  | none => s.recWord mcx 64 % 16

/-- A field of the device line of a context: its saved and bound counts (R307). -/
def State.saveCtr (s : State) (mcx : Nat) : Nat := match s.ctx mcx with
  | some c => c.savectr.toNat
  | none => s.recWord mcx 66

def State.nreqOf (s : State) (mcx : Nat) : Nat := match s.ctx mcx with
  | some c => c.nreq.toNat
  | none => s.recWord mcx 67

def State.leaOf (s : State) (mcx k : Nat) : Nat := match s.ctx mcx with
  | some c => (mget 0 c.lea k).toNat
  | none => s.recWord mcx (72 + k)

/-- The signed part of a lea report (R430). -/
def State.leaBody (s : State) (mcx : Nat) (nonce : List Byte) : List Byte :=
  let k := s.keng
  leBytes 8 (0x4A4C + 0x01 * 2 ^ 16 + k.lcs.toNat * 2 ^ 24 + k.dbg.toNat * 2 ^ 27) ++ leBytes 8 k.devid.toNat
    ++ leBytes 8 (mcx + (s.tenant mcx).getD 0 * 2 ^ 16 + s.ctxCode mcx * 2 ^ 32) ++ leBytes 8 (s.hw mcx 0)
    ++ leBytes 8 (s.nreqOf mcx) ++ leBytes 8 (s.saveCtr mcx) ++ leBytes 8 k.rseq.toNat ++ leBytes 8 k.bootid.toNat
    ++ (List.range 8).flatMap (fun i => leBytes 8 (s.leaOf mcx i)) ++ nonce ++ List.replicate 64 0

/-- The completion of a lea report: LRSTAT.RESULT, and the report when it is made. -/
def State.leaReport (s : State) (mcx a : Nat) : State :=
  let stop (s : State) (r : Nat) : State := { s with keng := { s.keng with lrcmd := none, lrresult := BitVec.ofNat 8 r } }
  if !reportsIn s.keng.lcs.toNat then stop s 3
  else if s.ctxCode mcx = 0 then stop s 5
  else if hbmEnd < a + 768 then stop s 5
  else if (s.sect (a / 128)).poison then stop s 6
  else
    let s := s.leaFlush mcx
    let s : State := { s with keng := { s.keng with rseq := s.keng.rseq + 1 } }
    let body := s.leaBody mcx (s.physRead a 64)
    stop (((s.chargeSectors 32 none a 64 .read).chargeSectors 32 none a 768 .write).physWrite a (body ++ Config.sign s.keng.dik body)) 0

/-- LEA_REPORT: a write of LRCMD starts a report; the row runs again, with the flag set, when the report is made (R429, R430). -/
def execLeaReport (s : State) : Result :=
  if s.ev.flag then
    (match s.keng.lrcmd with
      | some mcx => .next (s.leaReport mcx s.ev.n)
      | none => .next s)
  else if s.keng.lrcmd.isSome then .next s
  else .next ({ s with keng := { s.keng with lrcmd := some (s.ev.v.toNat % 2 ^ 14) } }.later { ev := { flag := true, n := s.keng.lraddr.toNat }, i := .leaReport })

/-! ## Links -/

/-- LINK_ERROR: an error on a link of die `ev.n`, or on one of its Ethernet ports when the flag is set, is logged (R438). -/
def execLinkError (s : State) : Result := .next (s.logError (s.ev.n % 4) 0x08 (if s.ev.flag then 5 else 4) none 0 0 0 0)

end Sys2Proof.Machine
end

