-- ==== Sys2Proof/Machine/Records.lean ====
section
/-! DEFINITION. Micro-context records and the distaff caches (R304 to R310), and tile groups: placement (R313), bind (R312, R314), release (R316),
and the reservation of spindles and banks. -/

namespace Sys2Proof.Machine

open Sys2Proof

/-! ## The record (R304 to R307) -/

def CtxState.ofCode (n : Nat) : CtxState :=
  match n with
  | 1 => .idle | 2 => .bound | 3 => .saved | 4 => .broken | _ => .empty

/-- The device line, E0 to E63 (R307). -/
def Ctx.line (c : Ctx) : List Nat :=
  [c.st.code + c.root * 2 ^ 4 + c.bcause * 2 ^ 16, c.qhead + c.qtail * 2 ^ 8 + c.qcount * 2 ^ 16, c.savectr.toNat, c.nreq.toNat,
    c.spn0 + c.gn * 2 ^ 9, 0, 0, 0] ++ (List.range 8).map (fun k => (mget 0 c.lea k).toNat) ++ List.replicate 48 0

/-- The device line written to the table (R307, R310): an access of the distaff, charged to the system party (notes/assumptions/66.md). -/
def State.writeLine (s : State) (mcx : Nat) (c : Ctx) : State :=
  (s.chargeSectors 32 none (s.recAddr mcx + 512) 512 .write).physWrite (s.recAddr mcx + 512) (c.line.flatMap (leBytes 8))

/-- The bits of a host doubleword that a record may set (R305). -/
def hostMask (k : Nat) : Nat :=
  match k with
  | 0 => 2 ^ 64 - 1
  | 2 => 2 ^ 50 - 1
  | 3 => 2 ^ 54 - 1 - 0xE0
  | 4 => 2 ^ 48 - 1
  | 6 => 2 ^ 48 - 1
  | 9 => 2 ^ 32 - 1
  | 10 => 2 ^ 60 - 1
  | 11 => 2 ^ 57 - 1
  | 12 => 2 ^ 61 - 1
  | 13 => 2 ^ 58 - 1
  | 14 => 2 ^ 63 - 1
  | 16 => 2 ^ 64 - 1
  | 17 => 2 ^ 53 - 1
  | 19 => 2 ^ 61 - 1
  | 1 | 5 | 7 | 8 | 15 | 18 | 20 => 2 ^ 48 - 1
  | _ => 0

/-- Vector registers, tiles and accumulators of slot k (R305, R80), from H3. -/
def bankRegs (h3 k : Nat) : Nat := (h3 / 2 ^ (10 + 3 * k) % 8 + 1) * 64
def tileCount (h3 k : Nat) : Nat := h3 / 2 ^ (22 + 5 * k) % 32
def accCount (h3 k : Nat) : Nat := h3 / 2 ^ (42 + 3 * k) % 8
def slotsM1 (h3 : Nat) : Nat := h3 / 2 ^ 8 % 4

/-- The sum of a share over slots 0 to k - 1. -/
def shareSum (f : Nat → Nat) (k : Nat) : Nat := ((List.range k).map f).sum

/-- The alignments of the base addresses of a host line (R305). -/
def basesOk (h : Nat → Nat) : Bool :=
  [(1, 4096), (5, 512), (7, 512), (8, 4), (10, 64), (11, 64), (12, 4), (13, 8), (14, 65536), (15, 65536), (16, 4096), (18, 64), (19, 4096),
    (20, 4096)].all fun p => h p.1 % 2 ^ 48 % p.2 == 0

/-! ## Placement (R10, R313) -/

/-- The compute spindles of a cluster of a die (R9, R10). -/
def computeSpindles (die cl : Nat) : List Nat := ((List.range 8).filter fun k => !(cl == 0 && k == 0)).map fun k => die * 96 + cl * 8 + k

/-- A group of 2^g spindles in one cluster: the blocks in order. -/
def blocks (die cl g : Nat) : List (List Nat) :=
  ((List.range (8 / 2 ^ g)).filter fun b => !(cl == 0 && b == 0)).map fun b => (List.range (2 ^ g)).map fun k => die * 96 + cl * 8 + b * 2 ^ g + k

/-- The candidate placements of a shape, in their order, given which spindles are free (R313). -/
def candidates (die : Nat) (cls : List Nat) (h3 : Nat) (free : Nat → Bool) : List (List Nat) :=
  let size := h3 / 2 % 16
  if h3 % 2 = 0 then (if size ≤ 3 then cls.flatMap fun cl => blocks die cl size else [])
  else
    let ok := (cls.filter fun cl => (computeSpindles die cl).all free).take size
    if 2 ≤ size && size ≤ 12 && ok.length == size then [ok.flatMap (computeSpindles die)] else []

/-- The banks of BANKMASK that a group owns in a cluster; bits 0 and 1 are ignored in cluster 0 of a die (R313). -/
def maskBanks (h4 cluster : Nat) : List Nat :=
  (List.range 32).filter fun b => bitOf h4 b && !(cluster % 12 == 0 && decide (b < 2))

/-- The clusters that a partition owns. -/
def Part.clusterList (q : Part) : List Nat := (List.range 12).filter fun k => q.clusters.getLsbD k

/-- Is a spindle free, or held by the group that is to be pre-empted? -/
def State.spindleFree (s : State) (victim : Option Nat) (g : Nat) : Bool :=
  let m := (s.spindle g).mcx
  m.isNone || (victim.isSome && m == victim)

/-- Are the banks that a context needs in a cluster free? -/
def State.banksFree (s : State) (victim : Option Nat) (h4 cluster : Nat) : Bool :=
  (maskBanks h4 cluster).all fun b => match ((s.cluster cluster).bank b).owner with
    | .none => true
    | .ctx m => victim == some m
    | .mill => false

/-- The clusters of a placement. -/
def clustersOf (sps : List Nat) : List Nat := (sps.map (· / 8)).dedup

/-- The first placement of a context that is free, with what a victim would free (R313, R320). -/
def State.findPlace (s : State) (mcx : Nat) (victim : Option Nat) : Option (List Nat) :=
  let q := s.part (s.partOf mcx)
  (candidates q.die.toNat q.clusterList (s.hw mcx 3) (s.spindleFree victim)).find? fun sps =>
    sps.all (s.spindleFree victim) && (clustersOf sps).all fun c => s.banksFree victim (s.hw mcx 4) c

/-! ## Loading a record (R306, R310) -/

/-- Is the page of an address a private page of the context with a host line (R122, R306, R383)? Its leaf. -/
def State.privateLeaf (s : State) (h : Nat → Nat) (ea : Nat) : Option (Nat × Nat) :=
  let tenant := (s.keySlot (h 2 % 2 ^ 16)).map fun k => k.tenant.toNat
  if 2 ^ 48 ≤ ea then none
  else match s.walkFrom ea [1, 2, 3, 4] (h 1 % 2 ^ 48) with
    | .ok (e, lvl) => if leafPrivate e && (s.keyCheckOf tenant e).isNone then some (e, lvl) else none
    | .error _ => none

/-- The 64 KiB pages of a range. -/
def pagesOf (a n : Nat) : List Nat := if n = 0 then [] else (List.range ((a + n - 1) / 2 ^ 16 - a / 2 ^ 16 + 1)).map fun i => (a / 2 ^ 16 + i) * 2 ^ 16

/-- The pages that a cached record pins (R306, R367). -/
def pinnedPages (h : Nat → Nat) : List Nat :=
  let bytes := (h 19 / 2 ^ 53 % 256 + 1) * 2 ^ (h 19 / 2 ^ 48 % 32)
  (pagesOf (h 18 % 2 ^ 48) 64 ++ pagesOf (h 19 % 2 ^ 48) bytes ++ pagesOf (h 20 % 2 ^ 48) bytes).dedup

/-- The pinned translations, or none when a page is not a mapped private page. -/
def State.makePins (s : State) (mcx : Nat) (h : Nat → Nat) : Option (List TlbEnt) :=
  (pinnedPages h).foldl (fun r ea => match r, s.privateLeaf h ea with
    | some l, some (e, lvl) =>
      let leaf := setField e 28 32 (bitsOf e 59 28 + ea % 2 ^ pageBits lvl / 2 ^ 16)
      some (l ++ [TlbEnt.mk mcx ea (2 ^ 16) (BitVec.ofNat 64 leaf)])
    | _, _ => none) (some [])

/-- The walks that a load makes for the pages it pins are charged to the context's partition (R373). -/
def State.chargePins (s : State) (mcx : Nat) (h : Nat → Nat) : State :=
  ((pinnedPages h).flatMap fun ea => s.walkReads ea [1, 2, 3, 4] (h 1 % 2 ^ 48)).foldl
    (fun s pa => s.hbmSector (h 2 / 2 ^ 43 % 32) (some mcx) (pa / 128) .read) s

/-- The checks of a host line, but for the pages (R305, R306, R382). -/
def State.hostOk (s : State) (h : Nat → Nat) : Bool :=
  let q := s.part (h 2 / 2 ^ 43 % 32)
  let n := slotsM1 (h 3) + 1
  ((List.range 64).all fun k => h k &&& (2 ^ 64 - 1 - hostMask k) == 0)
    && h 0 != 0 && h 2 / 2 ^ 16 % 2 ^ 16 != 0
    && !(candidates q.die.toNat q.clusterList (h 3) fun _ => true).isEmpty
    && decide (shareSum (bankRegs (h 3)) n ≤ 1024) && decide (shareSum (tileCount (h 3)) n ≤ 16) && decide (shareSum (accCount (h 3)) n ≤ 4)
    && basesOk h && (!bitOf (h 2) 49 || (16 ≤ h 14 / 2 ^ 48 % 32 && h 14 / 2 ^ 48 % 32 ≤ 30))
    && q.enable
    && decide (h 2 % 2 ^ 16 < 16384) && (match s.keySlot (h 2 % 2 ^ 16) with
      | some k => !k.model
      | none => false)

/-- The checks of a device line (R306). -/
def deviceOk (h19 : Nat) (e : Nat → Nat) : Bool :=
  let n := h19 / 2 ^ 53 % 256 + 1
  decide (e 0 % 16 ≤ 4) && decide (e 0 < 2 ^ 24) && decide (e 1 < 2 ^ 25) && decide (e 4 < 2 ^ 16)
    && ([5, 6, 7].all fun k => e k == 0) && ((List.range 48).all fun k => e (16 + k) == 0)
    && decide (e 1 % 256 < n) && decide (e 1 / 2 ^ 8 % 256 < n) && decide (e 1 / 2 ^ 16 ≤ n)

/-- The cache entry built from the two lines (R306). -/
def mkCtx (die : Nat) (h e : Nat → Nat) (pins : List TlbEnt) : Ctx :=
  { die := die, host := (List.range 64).map fun k => BitVec.ofNat 64 (h k), st := CtxState.ofCode (e 0 % 16)
    root := e 0 / 2 ^ 4 % 2 ^ 12, bcause := e 0 / 2 ^ 16 % 256, qhead := e 1 % 256, qtail := e 1 / 2 ^ 8 % 256, qcount := e 1 / 2 ^ 16 % 512
    savectr := BitVec.ofNat 64 (e 2), nreq := BitVec.ofNat 64 (e 3), spn0 := e 4 % 2 ^ 9, gn := e 4 / 2 ^ 9 % 2 ^ 7
    lea := (List.range 8).foldl (fun m k => mset 0 m k (BitVec.ofNat 64 (e (8 + k)))) [], pins := pins }

/-- The records that the distaff of a die holds. -/
def State.cached (s : State) (d : Nat) : List (Nat × Ctx) :=
  s.ctxs.filterMap fun p => match p.2 with
    | some c => if c.die = d then some (p.1, c) else none
    | none => none

/-- May an entry be evicted (R310)? That of a context whose bind is under way may not (notes/assumptions/57.md). -/
def State.evictable (s : State) (mcx : Nat) (c : Ctx) : Bool :=
  c.st != .bound && (s.stop mcx).isNone && c.qcount == 0 && (c.st == .saved || (s.group mcx).isNone)

/-- An entry evicted: its accumulators and its device line are written back (R310, R428). -/
def State.evict (s : State) (mcx : Nat) : State :=
  let s := s.leaFlush mcx
  match s.ctx mcx with
  | none => s
  | some c => (s.writeLine mcx c).setCtx mcx none

/-- Room for one more record on a die: an entry is evicted when all 512 are in use; none when none may be (R310). -/
def State.makeRoom (s : State) (d : Nat) : Option State :=
  let l := s.cached d
  if l.length < 512 then some s
  else (l.foldl (fun (b : Option (Nat × Nat)) p =>
    if !s.evictable p.1 p.2 then b
    else match b with
      | none => some (p.1, p.2.lastBound)
      | some (m, t) => if p.2.lastBound < t then some (p.1, p.2.lastBound) else some (m, t)) none).map fun p => s.evict p.1

/-- What the load of a record comes to (R306, R310). -/
inductive LoadRes where
  | loaded (s : State)
  | fails (s : State)
  /-- No entry may be evicted. -/
  | waits

/-- The record of a context loaded into the cache of its die (R306). -/
def State.loadCtx (s : State) (mcx : Nat) : LoadRes :=
  if (s.ctx mcx).isSome then .loaded s
  else
    let h := s.recWord mcx
    let e := fun k => s.recWord mcx (64 + k)
    let s1 := s.chargeSectors 32 none (s.recAddr mcx) 1024 .read
    if !s.hostOk h || !deviceOk (h 19) e then .fails s1
    else match s.makePins mcx h with
      | none => .fails (s1.chargePins mcx h)
      | some pins =>
        let d := (s.part (h 2 / 2 ^ 43 % 32)).die.toNat
        match (s1.chargePins mcx h).makeRoom d with
        | none => .waits
        | some s' => .loaded (s'.setCtx mcx (some (mkCtx d h e pins)))

/-! ## Accesses of the distaff and the cipher engines to a context's rings (R312, R314, R410) -/

/-- The place of an address of a context, through a pin if one covers it (R367). Its leaf must allow the access (R360, R383), and a remote home must be
reachable (R416). -/
def State.pinPlace (s : State) (mcx ea : Nat) (c : AccClass) : Except MemFault Place :=
  let pin : Option TlbEnt := match s.ctx mcx with
    | some x => x.pins.find? fun t => t.base ≤ ea && ea < t.base + t.size
    | none => none
  let at_ (pl : Place) : Except MemFault Place := match pl.loc with
    | .remote home _ _ => if s.reachable home then .ok pl else .error { cause := cProt, addr := ea, remote := true }
    | _ => .ok pl
  match pin with
  | some t => (match s.leafCheck mcx t.leaf.toNat c with
    | some cause => .error { cause := cause, addr := ea }
    | none => at_ (s.placeOf ea t.leaf.toNat 4))
  | none => match s.translate mcx ea c with
    | .ok (e, lvl) => at_ (s.placeOf ea e lvl)
    | .error f => .error f

/-- Where the answer of a message of the distaff goes: a write to a ring or to the bind block, and a read of a reply (R369, R415). -/
def slotRingWrite : Nat := 4101
def slotRingRead : Nat := 4102

/-- Bytes written for a context, a sector at a time, or the fault of the first that fails. A sector in a remote page is written at its home; `order` is that of
the request whose payload it holds, or 0 for a bind block (R312, R369). -/
def State.ctxWrite (s : State) (mcx order : Nat) : List (Nat × List Byte) → Except MemFault State
  | [] => .ok s
  | (a, bs) :: r => match s.pinPlace mcx a .write with
    | .error f => .error f
    | .ok pl => match pl.loc with
      | .remote home pa key =>
        let off := pa % 128
        let q : ReachReq := { kind := 2, home := home, key := key, pa := pa, mcx := mcx, who := 2 ^ 20, ea := a, slot := slotRingWrite, sector := order }
        State.ctxWrite (s.reachRequest (s.faultDie mcx) q 0 ((2 ^ bs.length - 1) * 2 ^ off)
          (some (List.replicate off 0 ++ bs ++ List.replicate (128 - off - bs.length) 0))).1 mcx order r
      | l => match s.writeLoc l bs with
        | .error .poison => .error { cause := cPoison, addr := a }
        | .error e => .error { cause := cMemUe, addr := a, ue := some (e, l) }
        | .ok s' => State.ctxWrite (s'.chargeCtx none mcx pl bs.length .write) mcx order r

/-- What a read for a context finds: its bytes, the fault of the first sector that fails, or the sectors in remote pages that must be asked for: home, address,
key and virtual address (R369). -/
inductive CtxGot where
  | ok (bs : List Byte)
  | err (f : MemFault)
  | ask (qs : List (Nat × Nat × Nat × Nat))
  deriving DecidableEq, Repr

/-- What two reads, one after the other, find. -/
def CtxGot.append : CtxGot → CtxGot → CtxGot
  | .err c, _ => .err c
  | _, .err c => .err c
  | .ask l, .ask m => .ask (l ++ m)
  | .ask l, .ok _ => .ask l
  | .ok _, .ask m => .ask m
  | .ok a, .ok b => .ok (a ++ b)

/-- Where a sector of a ring that has come from its home is kept. -/
def ringKey (mcx ea : Nat) : Nat := 2 ^ 90 + mcx * 2 ^ 60 + ea / 128

/-- One sector of a read for a context. -/
def State.ctxPart (s : State) (mcx a n : Nat) : CtxGot :=
  match s.pinPlace mcx a .read with
  | .error f => .err f
  | .ok pl => match pl.loc with
    | .remote home pa key =>
      let got := mget [] s.reachIn (ringKey mcx a)
      if got.isEmpty then .ask [(home, pa, key, a)]
      else if got.length = 1 then .err { cause := leNat got, addr := a, remote := true } else .ok ((got.drop (pa % 128)).take n)
    | l => match s.readLoc l n with
      | .error .poison => .err { cause := cPoison, addr := a }
      | .error e => .err { cause := cMemUe, addr := a, ue := some (e, l) }
      | .ok bs => .ok bs

/-- Bytes read for a context. -/
def State.ctxRead (s : State) (mcx a n : Nat) : CtxGot :=
  (cutAt a (List.replicate n 0)).foldl (fun r p => r.append (s.ctxPart mcx p.1 p.2.length)) (.ok [])

/-- A read for a context is charged to it (R373). -/
def State.chargeRead (s : State) (mcx a n : Nat) : State :=
  (cutAt a (List.replicate n 0)).foldl (fun s p => match s.pinPlace mcx p.1 .read with
    | .ok pl => s.chargeCtx none mcx pl p.2.length .read
    | .error _ => s) s

/-- Sectors asked for at their homes, once each. -/
def State.askRing (s : State) (mcx : Nat) (qs : List (Nat × Nat × Nat × Nat)) : State :=
  qs.foldl (fun s q =>
    if s.reachReqs.any fun p => p.2.any fun r => r.mcx == mcx && r.slot == slotRingRead && r.ea == q.2.2.2 then s
    else (s.reachRequest (s.faultDie mcx)
      { kind := 1, home := q.1, key := q.2.2.1, pa := q.2.1, mcx := mcx, who := 2 ^ 20, ea := q.2.2.2, slot := slotRingRead } 0 0 none).1) s

/-- The ring slots (R305). -/
def State.slotSize (s : State) (mcx : Nat) : Nat := 2 ^ (s.hw mcx 19 / 2 ^ 48 % 32)
def State.ringSize (s : State) (mcx : Nat) : Nat := s.hw mcx 19 / 2 ^ 53 % 256 + 1
def State.reqAddr (s : State) (mcx slot : Nat) : Nat := s.hw mcx 19 % 2 ^ 48 + slot * s.slotSize mcx
def State.replyAddr (s : State) (mcx slot : Nat) : Nat := s.hw mcx 20 % 2 ^ 48 + slot * s.slotSize mcx
def State.bindAddr (s : State) (mcx : Nat) : Nat := s.hw mcx 18 % 2 ^ 48

/-! ## Reserving and releasing a group (R314, R316) -/

/-- The shares of a slot, by the layout of R80. -/
def shareStrand (mcx h3 k : Nat) : Strand :=
  { mcx := mcx, bank := bankRegs h3 k, tile0 := shareSum (tileCount h3) k, ntile := tileCount h3 k, acc0 := shareSum (accCount h3) k
    nacc := accCount h3 k }

/-- The strand slots of a spindle as a bind leaves them: FREE, with their shares; a slot that is not used has none (R24, R313). -/
def State.bindSlots (s : State) (mcx g : Nat) : State :=
  let h3 := s.hw mcx 3
  (List.range 4).foldl (fun s k => s.setStrand (4 * g + k) (if k ≤ slotsM1 h3 then shareStrand mcx h3 k else {})) s

/-- The spindles and banks of a placement reserved for a context (R314 step 1). -/
def State.reserve (s : State) (mcx : Nat) (sps : List Nat) (gate : Bool) : State :=
  let s := sps.foldl (fun s g => (s.bindSlots mcx g).updSpindle g fun x =>
    { x with mcx := some mcx, gate := gate, stepSlot := none, running := none, last := none, stalled := false, asleep := gate }) s
  (clustersOf sps).foldl (fun s cl => s.updCluster cl fun c =>
    (maskBanks (s.hw mcx 4) cl).foldl (fun c b => c.setBank b { c.bank b with owner := .ctx mcx }) c) s

/-- A bank that leaves a group: it returns to CACHE, and what it held is discarded (R124, R125, R316). -/
def State.freeBank (s : State) (cl b : Nat) : State :=
  let s := s.enterMode cl b .cache
  s.updCluster cl fun c => { c.setBank b {} with trans := c.trans.filter fun t => t.2.1 != b }

/-- The files of a spindle cleared: registers, tiles and accumulators are zero (R316). Dictionary entries and routines stay (R60). -/
def State.clearSpindle (s : State) (g : Nat) : State :=
  let s := (List.range 4).foldl (fun s k => s.setStrand (4 * g + k) {}) s
  s.updSpindle g fun x =>
    { x with running := none, last := none, stalled := false, queue := [], rpts := [], tiles := [], accs := [], shadowBusy := none, mcx := none,
             gate := false, asleep := false, stepSlot := none }

/-- The spindles and banks of a context released (R316 steps 1 and 2). -/
def State.unreserve (s : State) (mcx : Nat) (sps : List Nat) : State :=
  let s := (clustersOf sps).foldl (fun s cl => (List.range 32).foldl (fun s b =>
    if ((s.cluster cl).bank b).owner == .ctx mcx then s.freeBank cl b else s) s) s
  sps.foldl (fun s g => s.clearSpindle g) s

/-! ## Bind (R312, R314) -/

/-- The bind block (R312). -/
def State.bindBlock (s : State) (mcx : Nat) (r : Req) (seq : Nat) : List Byte :=
  leBytes 8 r.id ++ leBytes 8 (s.reqAddr mcx r.slot) ++ leBytes 8 (r.len + r.port * 2 ^ 32 + r.host.toNat * 2 ^ 35)
    ++ leBytes 8 (s.replyAddr mcx r.slot) ++ leBytes 8 0 ++ leBytes 8 seq ++ leBytes 16 0

/-- A waiting request leaves the queue for its bind (R311). -/
def State.takeReq (s : State) (mcx : Nat) (r : Req) (rest : List Req) : State :=
  { s.updCtx mcx fun c => { c with qhead := (r.slot + 1) % s.ringSize mcx, qcount := c.qcount - 1 } with waiting := mset [] s.waiting mcx rest }

/-- The node number that stands for steps 4 to 6 of a bind while one of its accesses waits on a fault (R314, R366). -/
def bindNode : Nat := 4096

/-- The sync table of an image (R145, R146). -/
def State.syncTable (s : State) (mcx : Nat) : Except MemFault (List Word) :=
  (s.imageWords mcx ((List.range (s.syncCount mcx)).map fun i => s.hw mcx 11 % 2 ^ 48 + 64 * i)).map fun ws => ws.map (BitVec.ofNat 64)

/-- An access of a bind that faults is entered and waits for its outcome, or for a refetch; an uncorrectable error is handled and ends the request (R336, R366,
R368, R439). -/
def State.bindFault (s : State) (mcx : Nat) (f : MemFault) : State := s.nodeFault mcx bindNode f

/-- Are writes of a group's bind block, or of its request's payload, unanswered by their homes (R312)? -/
def State.bindAsks (s : State) (mcx : Nat) (g : Group) : Bool :=
  s.reachReqs.any fun p => p.2.any fun q => q.mcx == mcx && q.slot == slotRingWrite && (q.sector == 0 || q.sector == g.req.order)

/-- The end of steps 5 and 6 of a bind (R314): with the bind block written, NREQ advances, the context is BOUND, and node 0 is ready. While a home has not
answered a write, the bind waits. -/
def State.bindEnd (s : State) (mcx : Nat) : State :=
  match s.group mcx with
  | none => s
  | some g =>
    if s.bindAsks mcx g then s.updGroup mcx fun g => { g with conds := g.conds ++ [(bindNode, none)] }
    else
      let f := s.fresh
      let s := f.2.updCtx mcx fun c => { c with nreq := c.nreq + 1, st := .bound, lastBound := f.1 }
      let s := g.spindles.foldl (fun s k => s.updSpindle k fun x => { x with gate := false, asleep := false }) (s.lea mcx 6 1)
      (s.updGroup mcx fun g => { g with waiting := g.waiting ++ [0] }).whorl mcx

/-- Steps 4 to 6 of a bind (R314): the sync table and the routines are loaded, the bind block is written, and node 0 is ready. -/
def State.bindRest (s : State) (mcx : Nat) : State :=
  match s.group mcx with
  | none => s
  | some g =>
    let here := g.spindles.all (s.resident mcx)
    match s.syncTable mcx, (if here then .ok [] else s.routineTable mcx) with
    | .error f, _ => s.bindFault mcx f
    | _, .error f => s.bindFault mcx f
    | .ok sync, .ok rs =>
      let s := s.chargeImage mcx ((List.range (s.syncCount mcx)).map fun i => s.hw mcx 11 % 2 ^ 48 + 64 * i)
      let s := g.spindles.foldl (fun s k => s.loadRoutines mcx k rs) (if here then s else s.chargeRoutines mcx)
      match s.ctxWrite mcx 0 (cutAt (s.bindAddr mcx) (s.bindBlock mcx g.req (s.nreqOf mcx + 1))) with
      | .error f => s.bindFault mcx f
      | .ok s' => (s'.updGroup mcx fun g => { g with sync := some sync }).bindEnd mcx

/-- A request bound to a placement (R312, R314): steps 1 and 2, and what follows from them. The group's spindles start once the context is BOUND. -/
def State.bind (s : State) (mcx : Nat) (r : Req) (sps : List Nat) : State :=
  let s := ((s.worldSwitch mcx).reserve mcx sps true).updCtx mcx fun c => { c with spn0 := sps.headD 0, gn := sps.length, root := 1 }
  (s.setGroup mcx (some { spindles := sps, root := 1, scopes := [(1, some {})], req := r })).bindRest mcx

end Sys2Proof.Machine
end

