-- ==== Sys2Proof/Machine/Distaff.lean ====
section
/-! DEFINITION. The distaff: requests and their ends (R311, R410, R411), the choice of work and pre-emption (R317 to R322), the retirement of a strand
and the end of a request (R29, R44, R316), the arrival of kills (R51 to R56), and the requests to firmware (R322). -/

namespace Sys2Proof.Machine

open Sys2Proof

/-! ## Requests (R311) -/

/-- The status of a request that timed out: CANCELLED, told apart for its answer (R57, R411). -/
def stTimeout : Nat := 0x170

/-- NRP error codes (R407). -/
def nrpTimeout : Nat := 0x08
def nrpCancelled : Nat := 0x09
def nrpFailed : Nat := 0x0A
def nrpUnavailable : Nat := 0x05

/-- The error code and the cause that the ERROR of an ended request carries (R411). -/
def errorOf (status : Nat) : Nat × Nat :=
  if status = stTimeout then (nrpTimeout, 0) else if status = cCancelled then (nrpCancelled, 0) else (nrpFailed, status)

/-- A command of a host completes; its completion is written later (R326). -/
def State.cmdDone (s : State) (c status result : Nat) : State :=
  match s.cmd c with
  | some x => if x.done.isSome then s else s.setCmd c (some { x with done := some (status, result) })
  | none => s

/-- A request ends with an error: an ERROR packet is due, or its LAUNCH completes (R324, R411). -/
def State.failReq (s : State) (mcx : Nat) (r : Req) (code cause : Nat) : State :=
  if r.host then s.cmdDone r.cmd (if code = nrpFailed then cause else cCancelled) 0
  else { s with replies := s.replies ++ [{ mcx := mcx, req := r, done := .inr (code, cause) }] }

/-- What the end of a request reads: RPLEN, as the tasks left it in the bind block (R312), and for a request of a port the reply's bytes, as the cipher engine
reads them while the pages are pinned: steps 1 and 2 of R410 (R367). -/
def State.replyBody (s : State) (mcx : Nat) (r : Req) : CtxGot :=
  match s.ctxRead mcx (s.bindAddr mcx + 32) 4 with
  | .ok n =>
    if r.host then .ok n
    else if s.slotSize mcx < leNat n then .err { cause := cLayout, addr := s.bindAddr mcx } else s.ctxRead mcx (s.replyAddr mcx r.slot) (leNat n)
  | g => g

/-- The reads of a request's end are charged to its context (R373). -/
def State.chargeReply (s : State) (mcx : Nat) (r : Req) (n : Nat) : State :=
  let s := s.chargeRead mcx (s.bindAddr mcx + 32) 4
  if r.host then s else s.chargeRead mcx (s.replyAddr mcx r.slot) n

/-- An uncorrectable error that the distaff has found in a ring or in the bind block is handled (R439). -/
def State.ringUe (s : State) (mcx : Nat) (f : MemFault) : State :=
  match f.ue with
  | some (e, l) => s.uncorrectable (s.faultDie mcx) (some mcx) (s.whorlWho mcx) cMemUe e l f.addr
  | none => s

/-- A request ends with its graph: its reply is due, or its LAUNCH completes (R410). What stands in remote pages is read from its home first (R369). The flag
says that the request has ended. -/
def State.endReq (s : State) (mcx : Nat) (r : Req) (code : Nat) : State × Bool :=
  match s.replyBody mcx r with
  | .ask qs => (s.askRing mcx qs, false)
  | .ok bs =>
    let s := s.chargeReply mcx r bs.length
    (if r.host then s.cmdDone r.cmd 0 (code + leNat bs % 2 ^ 24 * 2 ^ 8)
      else { s with replies := s.replies ++ [{ mcx := mcx, req := r, done := .inl code, body := bs }] }, true)
  | .err f =>
    let s := s.ringUe mcx f
    (if r.host then s.cmdDone r.cmd 0 code else s.failReq mcx r nrpFailed f.cause, true)

def State.waitingOf (s : State) (mcx : Nat) : List Req := mget [] s.waiting mcx

/-- QHEAD skips dead slots (R311). -/
def State.skipDead (s : State) (mcx : Nat) : State :=
  let l := s.waitingOf mcx
  let dead := l.takeWhile fun r => r.dead
  if dead.isEmpty then s
  else { s.updCtx mcx fun c => { c with qhead := (c.qhead + dead.length) % s.ringSize mcx, qcount := c.qcount - dead.length } with
    waiting := mset [] s.waiting mcx (l.drop dead.length) }

/-- The oldest waiting request leaves for its bind, and QHEAD skips the dead slots behind it (R311). -/
def State.takeOldest (s : State) (mcx : Nat) (r : Req) : State :=
  (s.takeReq mcx r ((s.waitingOf mcx).filter fun x => x.order != r.order)).skipDead mcx

/-- Waiting requests marked dead, with their answers (R311). -/
def State.markDead (s : State) (mcx : Nat) (p : Req → Bool) (code : Nat) (cause : Nat := 0) : State :=
  let l := s.waitingOf mcx
  let hit := l.filter fun r => !r.dead && p r
  if hit.isEmpty then s
  else
    let s1 : State := { s with waiting := mset [] s.waiting mcx (l.map fun r => if p r then { r with dead := true } else r) }
    (hit.foldl (fun s r => s.failReq mcx r code cause) s1).skipDead mcx

/-! ## The choice of work (R317 to R320) -/

def State.prioOf (s : State) (mcx : Nat) : Nat := s.hw mcx 2 / 2 ^ 32 % 4
def State.classOf (s : State) (mcx : Nat) : Nat := s.hw mcx 2 / 2 ^ 34 % 512
def State.weightOf (s : State) (d c : Nat) : Nat := (mget 1 (s.die d).weight c).toNat
def State.deficitOf (s : State) (d c : Nat) : Int := mget 0 (s.die d).deficit c

/-- Is a context held for debug (R352)? -/
def State.heldForDebug (s : State) (d mcx : Nat) : Bool := (s.die d).dbgHold && (s.die d).dbgMcx.toNat == mcx

/-- The arrival of the request by which a context is a candidate (R317). -/
def State.candidate (s : State) (d mcx : Nat) : Option Nat :=
  if (s.stop mcx).isSome || !(mget [] s.restoring mcx).isEmpty || s.weightOf d (s.classOf mcx) = 0 then none
  else match s.ctxCode mcx with
    | 1 => if (s.ctx mcx).isNone || (s.group mcx).isSome then none
      else ((s.waitingOf mcx).find? fun r => !r.dead).map fun r => r.order
    | 3 => if s.heldForDebug d mcx then none else (s.group mcx).map fun g => g.req.order
    | _ => none

/-- The contexts that a partition's dispatch looks at. -/
def State.contextsOf (s : State) (q : Nat) : List Nat :=
  (sortNats (s.ctxs.map (fun p => p.1) ++ s.groups.map (fun p => p.1))).filter fun m => s.partOf m == q

/-- The candidates of a partition: context and arrival. -/
def State.candidates (s : State) (q : Nat) : List (Nat × Nat) :=
  let d := (s.part q).die.toNat
  (s.contextsOf q).filterMap fun m => (s.candidate d m).map fun o => (m, o)

/-- Rounds of refills until some class of a list has a positive deficit (R318); none when no refill would help. -/
def refillRounds (quant : Nat) (cs : List (Int × Nat)) : Option Nat :=
  if cs.any fun c => decide (0 < c.1) then some 0
  else cs.foldl (fun r c =>
    let inc := c.2 * quant
    if inc = 0 then r
    else
      let n := (-c.1).toNat / inc + 1
      match r with
      | none => some n
      | some m => some (min m n)) none

/-- Select (R318). -/
def State.select (s : State) (d p : Nat) (cs : List Nat) : Option (Nat × State) :=
  let quant := (s.die d).quant.toNat
  match refillRounds quant (cs.map fun c => (s.deficitOf d c, s.weightOf d c)) with
  | none => none
  | some n =>
    let s := if n = 0 then s else s.updDie d fun x =>
      { x with deficit := cs.foldl (fun m c =>
          let inc : Int := s.weightOf d c * quant
          mset 0 m c (min (mget 0 m c + inc * n) inc)) x.deficit }
    let ptr := mget 0 (s.die d).ptr p
    let good := cs.filter fun c => decide (0 < s.deficitOf d c)
    match good.insertionSort (fun a b => (a + 512 - ptr) % 512 ≤ (b + 512 - ptr) % 512) with
    | [] => none
    | c :: _ => some (c, s.updDie d fun x => { x with ptr := mset 0 x.ptr p ((c + 1) % 512) })

/-- A class with no candidate and no bound group of its die has no deficit (R319). A SAVED context whose restore is under way is a candidate still. -/
def State.sweepDeficits (s : State) (d : Nat) : State :=
  let parts := (List.range 32).filter fun q => (s.part q).die.toNat == d
  let live := parts.flatMap fun q => (s.candidates q).map (fun p => s.classOf p.1)
    ++ ((s.contextsOf q).filter fun m => !(mget [] s.restoring m).isEmpty).map s.classOf
  let bound := (s.cached d).filterMap fun p => if p.2.st == .bound || (p.2.st == .idle && (s.group p.1).isSome) then some (s.classOf p.1) else none
  s.updDie d fun x => { x with deficit := x.deficit.filter fun p => live.contains p.1 || bound.contains p.1 }

/-- The bytes of a strand image of slot k and of a bank image (R346). -/
def strandImageSize (h3 k : Nat) : Nat :=
  48 * 1024 + (h3 / 2 ^ (10 + 3 * k) % 8 + 1) * 32 * 1024 + tileCount h3 k * 16 * 1024 + accCount h3 k * 128 * 1024
def bankImageSize (h4 cluster primary : Nat) : Nat :=
  40 * 1024 + (maskBanks h4 cluster).length * 258 * 1024 + (if cluster = primary then 128 * 1024 else 0)

/-- The save bound of a group (R346). -/
def saveBound (h3 h4 : Nat) (sps : List Nat) : Nat :=
  sps.length * shareSum (strandImageSize h3) (slotsM1 h3 + 1) + ((clustersOf sps).map fun c => bankImageSize h4 c (sps.headD 0 / 8)).sum

/-- Can a group be saved (R346)? -/
def State.saveFits (s : State) (mcx : Nat) (g : Group) : Bool :=
  s.hw mcx 16 % 2 ^ 48 != 0 && decide (saveBound (s.hw mcx 3) (s.hw mcx 4) g.spindles ≤ s.hw mcx 16 / 2 ^ 48 * 4096)

/-- Where a candidate would be placed: a SAVED context on its own spindles and no others (R313). -/
def State.placeFor (s : State) (mcx : Nat) (victim : Option Nat) : Option (List Nat) :=
  if s.ctxCode mcx = 3 then
    match s.group mcx with
    | none => none
    | some g => if g.spindles.all (s.spindleFree victim) && (clustersOf g.spindles).all fun c => s.banksFree victim (s.hw mcx 4) c then
        some g.spindles else none
  else s.findPlace mcx victim

/-- The group that a candidate pre-empts (R320): lowest priority, then lowest class deficit, then highest context number. -/
def State.victimFor (s : State) (d mcx : Nat) : Option Nat :=
  let ok := (s.contextsOf (s.partOf mcx)).filter fun v =>
    s.ctxCode v == 2 && (s.stop v).isNone && decide (s.prioOf v < s.prioOf mcx)
      && (match s.group v with | some g => s.saveFits v g | none => false) && (s.placeFor mcx (some v)).isSome
  let before (a b : Nat) : Bool :=
    if s.prioOf a ≠ s.prioOf b then s.prioOf a < s.prioOf b
    else if s.deficitOf d (s.classOf a) ≠ s.deficitOf d (s.classOf b) then s.deficitOf d (s.classOf a) < s.deficitOf d (s.classOf b)
    else b < a
  (ok.insertionSort fun a b => before a b).head?

/-- DQENT (R322). -/
def dqEntry (kind mcx spn0 gn : Nat) : Word := BitVec.ofNat 64 (kind + mcx * 2 ^ 2 + spn0 * 2 ^ 16 + gn * 2 ^ 25)

/-- A save or restore request posted to firmware (R290, R322). -/
def State.postDq (s : State) (d kind mcx : Nat) (sps : List Nat) : State :=
  (s.updDie d fun x => { x with dq := x.dq ++ [dqEntry kind mcx (sps.headD 0) sps.length] }).setEv d 0x400

/-- The strands that a restore brings back, or a save takes away (R322). -/
def State.groupSlots (s : State) (mcx : Nat) (sps : List Nat) : List Nat :=
  (sps.flatMap strandsOf).filter fun sid => slotOf sid ≤ slotsM1 (s.hw mcx 3)

/-- A SAVED context's spindles are reserved, and its restore is posted (R321). -/
def State.restore (s : State) (d mcx : Nat) (sps : List Nat) : State :=
  let s := s.reserve mcx sps true
  ({ s with restoring := mset [] s.restoring mcx (s.groupSlots mcx sps) }).postDq d 2 mcx sps

/-- Binds are made only in DEPLOYED (R396). -/
def State.mayBind (s : State) : Bool := s.keng.lcs == 2

/-! ## The end of a request (R44, R316) -/

/-- What is left of a request's saved form is discarded. -/
def State.dropImages (s : State) (mcx : Nat) : State :=
  { s with images := s.images.filter fun i => i.mcx != mcx
           redirects := s.redirects.filter fun p => p.1 / 64 != mcx
           restoring := mset [] s.restoring mcx [] }

/-- A device line changed: in the cache, or in the table while the context is not cached (R307, R310). -/
def State.updLine (s : State) (mcx : Nat) (f : Ctx → Ctx) : State :=
  match s.ctx mcx with
  | some _ => s.updCtx mcx f
  | none => s.writeLine mcx (f (mkCtx (s.part (s.partOf mcx)).die.toNat (s.recWord mcx) (fun k => s.recWord mcx (64 + k)) []))

/-- What the whorl and the distaff have asked of other modules for a group that is gone, with what has come of it: condition words, its bind block and its
request's payload, and its reply. -/
def State.dropAsks (s : State) (mcx order : Nat) : State :=
  { s with
    reachReqs := s.reachReqs.filter fun p => !p.2.any fun q =>
      q.mcx == mcx && (q.slot == 4097 || q.slot == slotRingRead || (q.slot == slotRingWrite && (q.sector == 0 || q.sector == order)))
    reachIn := s.reachIn.filter fun p => p.1 / 2 ^ 60 != 2 ^ 30 + mcx }

/-- The context becomes IDLE; its group is gone (R316 step 3, R308). -/
def State.toIdle (s : State) (mcx : Nat) : State :=
  let s := match s.group mcx with
    | some g => s.dropAsks mcx g.req.order
    | none => s
  (((s.setGroup mcx none).setStop mcx none).dropImages mcx).updLine mcx fun c => { c with st := .idle, root := 0, spn0 := 0, gn := 0 }

/-- The group's spindles finish their shadow entries, are cleared and freed, with their banks (R120, R316). -/
def State.releaseGroup (s : State) (mcx : Nat) (g : Group) : State :=
  let s := g.spindles.foldl (fun s sp => match (s.spindle sp).shadowBusy with
    | some j => s.shadowEntry j
    | none => s) s
  ((s.worldSwitch mcx).unreserve mcx g.spindles).toIdle mcx

/-- May the request of a group complete: its graph has ended, or its root scope is cancelling, and no task lives (R44)? -/
def State.finishes (s : State) (mcx : Nat) (g : Group) : Bool :=
  (g.ended.isSome || g.cancelled.isSome) && s.liveTasks mcx g == 0 && g.pendingAcks == 0 && g.words.isEmpty && (s.stop mcx).isNone
    && (mget [] s.restoring mcx).isEmpty

/-- The request of a group completes (R44). -/
def State.finishGroup (s : State) (mcx : Nat) : State :=
  match s.group mcx with
  | none => s
  | some g =>
    if !s.finishes mcx g then s
    else
      let r := match g.cancelled with
        | some st => (s.failReq mcx g.req (errorOf st).1 (errorOf st).2, true)
        | none => s.endReq mcx g.req (g.ended.getD 0)
      if !r.2 then r.1
      else
        let s := r.1.progress (r.1.partOf mcx)
        if s.isSaved mcx then s.toIdle mcx else s.releaseGroup mcx g

/-! ## Dispatch (R317) -/

/-- What an attempt to start a candidate comes to. -/
inductive Tried where
  | bound (s : State)
  /-- The island must wake first (R381). -/
  | wake
  /-- It fits, but its record load or the queue of restores has no free entry yet (R310, R322). -/
  | wait
  /-- The record of the SAVED context fails its checks (R306; notes/assumptions/57.md). -/
  | failed (s : State)
  /-- It does not fit (R313). -/
  | no

/-- Bind or restore a candidate if it fits (R314, R321, R381). -/
def State.tryStart (s : State) (d q mcx : Nat) : Tried :=
  match s.placeFor mcx none with
  | none => .no
  | some sps =>
    if (s.part q).istate ≠ 0 then .wake
    else if s.ctxCode mcx = 3 then
      (match s.loadCtx mcx with
        | .loaded s' => if 64 ≤ (s.die d).dq.length then .wait else .bound (s'.restore d mcx sps)
        | .waits => .wait
        | .fails s' => .failed s')
    else match (s.waitingOf mcx).find? fun r => !r.dead with
      | none => .no
      | some r => .bound (((s.takeOldest mcx r).bind mcx r sps).finishGroup mcx)

/-- A wake asked of an island (R381). -/
def State.askWake (s : State) (q : Nat) : State :=
  let a : Act := { ev := { n := q }, i := .islandWake }
  if s.agenda.contains a then s else s.later a

def State.setLatch (s : State) (d q : Nat) (l : Option Latch) : State := s.updDie d fun x => { x with latched := mset none x.latched q l }

/-- A selected request that does not fit is latched; a victim is stopped if there is one (R317, R320). -/
def State.latchOrPreempt (s : State) (d q : Nat) (l : Latch) : State :=
  match s.victimFor d l.mcx with
  | none => s.setLatch d q (some l)
  | some v => (s.setLatch d q (some { l with victim := some v })).stopGroup v {}

/-- The choice of a candidate (R317, R318): the highest priority that has one, the class that Select gives, the earliest request. -/
def State.choose (s : State) (d q : Nat) : Option (Nat × State) :=
  let cs := s.candidates q
  [3, 2, 1, 0].findSome? fun p =>
    let here := cs.filter fun c => s.prioOf c.1 == p
    if here.isEmpty then none
    else match s.select d p (sortNats (here.map fun c => s.classOf c.1)) with
      | none => none
      | some (k, s') =>
        (((here.filter fun c => s.classOf c.1 == k).insertionSort fun a b => a.2 ≤ b.2).head?).map fun c => (c.1, s')

/-- A selected request is bound or restored, or stays latched (R317). -/
def State.startOrLatch (s : State) (d q : Nat) (l : Latch) : State :=
  match s.tryStart d q l.mcx with
  | .bound s' => s'.setLatch d q none
  | .wake => (s.setLatch d q (some l)).askWake q
  | .wait => s.setLatch d q (some l)
  | .failed s' => s'.setLatch d q none
  | .no => s.latchOrPreempt d q l

/-- One dispatch of a partition (R317), with the context that it has bound or restored. A latched request that was removed or cancelled unlatches. -/
def State.dispatchOnce (s : State) (q : Nat) : State × Option Nat :=
  let d := (s.part q).die.toNat
  let s := s.sweepDeficits d
  let latch := (mget none (s.die d).latched q).filter fun l => s.candidate d l.mcx == some l.order && s.partOf l.mcx == q
  let s := s.setLatch d q latch
  let go (s : State) (l : Latch) : State × Option Nat :=
    let s := s.startOrLatch d q l
    (s, if (mget none (s.die d).latched q).isNone then some l.mcx else none)
  match latch with
  | some l => if l.victim.any (fun v => (s.stop v).isSome) then (s, none) else go s l
  | none => match s.choose d q with
    | none => (s, none)
    | some (mcx, s') => go s' { mcx := mcx, order := (s'.candidate d mcx).getD 0 }

/-- A dispatch, and another for each group that its bind has released at once (R317). -/
def State.dispatchN (s : State) (q : Nat) : Nat → State
  | 0 => s
  | n + 1 =>
    let r := s.dispatchOnce q
    match r.2 with
    | some mcx => if (r.1.group mcx).isNone && r.1.ctxCode mcx == 1 then State.dispatchN r.1 q n else r.1
    | none => r.1

def State.dispatch (s : State) (q : Nat) : State :=
  if (s.part q).enable && s.mayBind then s.dispatchN q ((s.waiting.map fun p => p.2.length).sum + 1) else s.sweepDeficits (s.part q).die.toNat

/-- The whorl's work after an event, the end of the request, and the dispatch that a release brings (R44, R317). -/
def State.settle (s : State) (mcx : Nat) : State :=
  let s1 := (s.whorl mcx).finishGroup mcx
  if (s.group mcx).isSome && (s1.group mcx).isNone then s1.dispatch (s1.partOf mcx) else s1

/-- A request accepted: it is enqueued in the slot at QTAIL, and the distaff dispatches (R311, R317). -/
def State.enqueueReq (s : State) (mcx : Nat) (r : Req) : State :=
  let f := s.fresh
  let slot := match f.2.ctx mcx with | some c => c.qtail | none => 0
  let s := f.2.updCtx mcx fun c => { c with qtail := (c.qtail + 1) % s.ringSize mcx, qcount := c.qcount + 1 }
  let s : State := { s with waiting := mset [] s.waiting mcx (s.waitingOf mcx ++ [{ r with slot := slot, order := f.1 }]) }
  s.dispatch (s.partOf mcx)

/-- The context of a function key (R309). -/
def State.keyFind (s : State) (fkey : Nat) : Option Nat := (s.keyIndex.find? fun k => k.1 == fkey).map fun k => k.2.1

/-- Is a command a LAUNCH for a context (R323, R324)? -/
def Cmd.launches (c : Cmd) (mcx : Nat) : Bool := (c.ws.headD 0).toNat % 2 ^ 8 == 3 && (c.ws.headD 0).toNat / 2 ^ 18 % 2 ^ 14 == mcx

/-! ## Cancels and timeouts of requests (R57, R311) -/

/-- The bound or saved request of a context ends, unless its graph has ended (R57, R412). -/
def State.cancelBound (s : State) (mcx status : Nat) (p : Req → Bool) : Option State :=
  match s.group mcx with
  | none => none
  | some g => if p g.req && g.ended.isNone && g.cancelled.isNone then some ((s.endRequest mcx status).settle mcx) else none

/-- The requests of a context that a cancel names; none when it names no request (R311, R408). -/
def State.cancelReqs (s : State) (mcx : Nat) (p : Req → Bool) : Option State :=
  let waiting := (s.waitingOf mcx).any fun r => !r.dead && p r
  let s1 := s.markDead mcx p nrpCancelled
  match s1.cancelBound mcx cCancelled p with
  | some s2 => some s2
  | none => if waiting then some (s1.dispatch (s1.partOf mcx)) else none

/-- REQUEST_TIMEOUT: the TMO count of the request in ring slot `ev.m` of context `ev.n` expires: of the one that waits there, or, with the flag, of the one that
was bound from it, whose slot another may have taken since (R311). -/
def execRequestTimeout (s : State) : Result :=
  let mcx := s.ev.n
  let p (r : Req) : Bool := r.slot == s.ev.m
  if s.hw mcx 4 / 2 ^ 32 % 2 ^ 16 = 0 then .next s
  else if !s.ev.flag && (s.waitingOf mcx).any fun r => !r.dead && p r then .next ((s.markDead mcx p nrpTimeout).dispatch (s.partOf mcx))
  else .next ((s.cancelBound mcx stTimeout p).getD s)

/-- Does a record wait to be loaded: for a REQUEST, CANCEL or LAUNCH that has arrived for its context, or for its selection while SAVED (R310)? -/
def State.loadWanted (s : State) (mcx : Nat) : Bool :=
  (s.ctx mcx).isNone && s.ctxCode mcx != 4
    && ((s.agenda.any fun a => (a.i == .nrpRequest || a.i == .nrpCancel) && s.keyFind (leNat (a.ev.bytes.take 32) / 2 ^ 32 % 2 ^ 64) == some mcx)
      || (s.cmds.any fun p => p.2.any fun c => c.launches mcx && !c.started && c.done.isNone)
      || (s.ctxCode mcx == 3 && (mget none (s.die (s.part (s.partOf mcx)).die.toNat).latched (s.partOf mcx)).any fun l => l.mcx == mcx))

/-- CONTEXT_RECORD_LOAD: the record of context `ev.n` is loaded once an entry is free, for what has arrived for it or for its selection (R306, R310). -/
def execContextRecordLoad (s : State) : Result :=
  if !s.loadWanted s.ev.n then .next s
  else match s.loadCtx s.ev.n with
    | .loaded s' => .next (s'.dispatch (s'.partOf s.ev.n))
    | .fails s' => .next s'
    | .waits => .next s

/-! ## Retirement (R29) -/

/-- The conditions of R29, and that every result in flight has landed (R75; notes/assumptions/68.md). -/
def State.drained (s : State) (sid : Nat) : Bool :=
  let t := s.strand sid
  let x := s.spindle (gnumOf sid)
  t.st == .halted && t.waits.isEmpty && t.core.flight.isEmpty && !(s.copyList.any fun j => j.sid == sid) && !(x.queue.any fun c => c.sid == sid)
    && (mget none x.rpts (slotOf sid)).isNone && (t.core.reel.waiting.isEmpty || t.core.reel.err.isSome) && t.core.reel.susp.isNone
    && t.stores.isEmpty && t.arvPend.isEmpty && !s.asking sid fun _ => true

/-- The slot after its task: FREE, with its shares, and what its registers hold until the next task is placed (R22, R24). -/
def Strand.retired (t : Strand) : Strand :=
  { core := { x := t.core.x, p := t.core.p, v := t.core.v }
    mcx := t.mcx, bank := t.bank, tile0 := t.tile0, ntile := t.ntile, acc0 := t.acc0, nacc := t.nacc }

/-- STRAND_RETIRE: the HALTED strand in focus has drained, and its slot becomes FREE (R29, R32, R42, R48). -/
def execStrandRetire (s : State) : Result :=
  let sid := s.focus
  if !s.drained sid then .next s
  else
    let t := s.strand sid
    let s := s.setStrand sid t.retired
    if isMill sid then .next s
    else
      let s := (s.skeinLeaveAll t.mcx sid).updGroup t.mcx fun g =>
        { g with scopes := g.scopes.map fun p => (p.1, p.2.map fun x => if x.creator = some sid then { x with creator := none } else x) }
      .next ((s.taskGone t.mcx t.act (some sid)).settle t.mcx)

/-! ## Kills (R51 to R56) -/

/-- The strands of a spindle in a cancelled subtree. -/
def State.subtreeStrands (s : State) (mcx : Nat) (g : Group) (c sp : Nat) : List Nat :=
  (strandsOf sp).filter fun sid => let t := s.strand sid; t.st != .free && t.mcx == mcx && g.inTree c t.scope

/-- The cluster that a context's bank image holds, changed (R348). -/
def State.updImageCluster (s : State) (mcx cl : Nat) (f : Cluster → Cluster) : State :=
  { s with images := s.images.map fun i => if i.mcx == mcx && i.cl == cl then { i with cluster := i.cluster.map f } else i }

/-- Force the flip of a barrier in a bank image unless this cancel has flipped it already (R53, R56). -/
def State.forceFlipSaved (s : State) (mcx cl off : Nat) (seen : List Nat) : State × List Nat :=
  if seen.contains (barKey cl off) || !((s.imageCluster mcx cl).any fun k => (k.mark off).armed) then (s, seen)
  else (s.updImageCluster mcx cl fun k => k.barAbandon off, barKey cl off :: seen)

/-- A redirect record acts as its copy's end would have acted (R350 step 3). -/
def Cluster.applyRedirect (c : Cluster) (r : Redirect) : Cluster :=
  let flip (x : Gran) : Gran := { x with eng := none, err := r.err, abandon := r.abandon }
  let c := { c with grans := r.grans.foldl (fun m g => mupd {} m g flip) c.grans }
  match r.bar with
  | none => c
  | some off => if r.abandon then c else c.barSub off r.bytes (if r.err then some r.ecause else none)

/-- The redirect records of a cluster's bank image that have not acted yet act on it, in list order: what ended before a kill has ended before it (R53, R56). -/
def State.applyRecords (s : State) (mcx cl : Nat) : State :=
  let k := mcx * 64 + cl
  let rs := mget [] s.redirects k
  let s1 : State := { s with redirects := mset [] s.redirects k (rs.map fun r => { r with applied := true }) }
  s1.updImageCluster mcx cl fun c => (rs.filter fun r => !r.applied).foldl Cluster.applyRedirect c

/-- Force the flip of a barrier of a SAVED context: in the bank image of its cluster, or in the cluster once its banks have been loaded (R53, R56, R350). -/
def State.flipSaved (s : State) (mcx cl off : Nat) (seen : List Nat) : State × List Nat :=
  if (s.imageCluster mcx cl).isSome then s.forceFlipSaved mcx cl off seen else s.forceFlip cl off seen

/-- The copies of a SAVED strand are discarded, and the armed barriers that they name flip (R53, R56). -/
def State.killSavedCopies (s : State) (mcx sid : Nat) (seen : List Nat) : State × List Nat :=
  (s.copyList.filter fun j => j.sid == sid && j.mcx == mcx).foldl (fun p j =>
    let s := p.1.endCopy j .abandon
    match j.bar with
    | some off => s.flipSaved mcx j.cl off p.2
    | none => (s, p.2)) (s.applyRecords mcx (clusterOf sid), seen)

/-- The remote writes that the tasks and copies of a strand have left unanswered are no longer its slot's: the acknowledgement words of the cancel wait for them
(R55). -/
def State.orphan (s : State) (mcx sid : Nat) : State :=
  { s with reachReqs := s.reachReqs.map fun p => (p.1, p.2.map fun q =>
      if q.mcx == mcx && q.who == sid && q.kind == 2 && q.slot != 4099 then { q with who := 2 ^ 20, cid := 0, slot := 4100 } else q) }

/-- A strand that a SNAPLOAD has put back into its slot, and that a kill takes out again before the gate opens (R56, R350). -/
def State.unload (s : State) (mcx sid : Nat) : State :=
  if !s.loadedBack mcx sid then s
  else ((s.updSpindle (gnumOf sid) fun x => { x with queue := x.queue.filter (fun c => c.sid != sid), rpts := mset none x.rpts (slotOf sid) none }).setStrand sid
    (shareStrand mcx (s.hw mcx 3) (slotOf sid)))

/-- The slots that a strand drains return to EMPTY: in the bank image of its cluster, or in the cluster once its banks have been loaded (R53, R56, R350). -/
def State.undrainSaved (s : State) (mcx sid : Nat) : State :=
  let cl := clusterOf sid
  if (s.imageCluster mcx cl).isSome then s.updImageCluster mcx cl fun k => k.undrain sid
  else if s.loadedBack mcx sid then s.updCluster cl fun k => k.undrain sid else s

/-- A SAVED strand of a cancelled subtree is killed without being restored (R56). -/
def State.killSaved (s : State) (mcx sid : Nat) (t : Strand) (seen : List Nat) : State × List Nat :=
  let r := s.killSavedCopies mcx sid seen
  let s := ((r.1.undrainSaved mcx sid).orphan mcx sid).unload mcx sid
  let spOf : Nat → Nat := fun k => match s.group mcx with
    | some g => g.spindles.getD k 0
    | none => 0
  let s : State := { s with images := s.images.map fun i =>
      if i.mcx == mcx && i.cluster.isNone && 4 * spOf i.gsp + i.slot == sid then
        { i with strand := none, calls := [], rpt := none, tiles := [], accs := [] }
      else i }
  let s := s.skeinLeaveAll mcx sid
  let s := s.updGroup mcx fun g => g.countUp t.scope fun x => { x with killed := x.killed + 1 }
  (s.taskGone mcx t.act (some sid), r.2)

/-- The barriers of a saved cluster that a cancelled subtree armed, and that have not flipped since, flip in its bank image, or in the cluster once its banks
have been loaded (R53, R56, R350). -/
def State.killSavedBarriers (s : State) (mcx cl : Nat) (g : Group) (c : Nat) (seen : List Nat) : State × List Nat :=
  match (s.applyRecords mcx cl).imageCluster mcx cl with
  | none => s.killBarriers cl mcx g c seen
  | some k =>
    (k.marks.filterMap fun p => if p.2.armed then some (16 * p.1) else none).foldl (fun p off =>
      if !k.barFlipped off && g.inTree c (k.barScope off) then p.1.forceFlipSaved mcx cl off p.2 else p) (s.applyRecords mcx cl, seen)

/-- The kill of scope c reaches a spindle: its strands of the subtree, and the barriers of its cluster. -/
def State.killSpindle (s : State) (mcx : Nat) (g : Group) (c sp : Nat) (seen : List Nat) : State × List Nat :=
  if s.isSaved mcx then
    let hit := (s.members mcx g).filter fun p => gnumOf p.1 == sp && g.inTree c p.2.scope
    let r := hit.foldl (fun r p => r.1.killSaved mcx p.1 p.2 r.2) (s, seen)
    r.1.killSavedBarriers mcx (sp / 8) g c r.2
  else
    let r := (s.subtreeStrands mcx g c sp).foldl (fun r sid => r.1.killAt sid r.2) (s, seen)
    r.1.killBarriers (sp / 8) mcx g c r.2

/-- KILL_ARRIVAL: the kill of a cancel of context `ev.n` reaches spindle `ev.m` (R51, R52). While the context is being saved the kill waits, and while it is
SAVED or being restored its strands are killed as SAVED (R56). -/
def execKillArrival (s : State) : Result :=
  let mcx := s.ev.n
  let sp := s.ev.m
  match s.group mcx with
  | none => .next s
  | some g =>
    if (s.stop mcx).isSome then .next s
    else match g.kills.find? fun k => k.2.1.contains sp with
      | none => .next s
      | some (c, left, seen) =>
        let r := s.killSpindle mcx g c sp seen
        let s := r.1.updGroup mcx fun g =>
          { g with kills := (g.kills.map fun k => if k.1 = c && k.2.1 = left then (c, left.filter (· != sp), r.2) else k).filter fun k => !k.2.1.isEmpty }
        .next (s.settle mcx)

/-! ## Saves and restores (R320 to R322) -/

/-- Every slot of a group is in a save state (R341). -/
def State.allSaved (s : State) (mcx : Nat) (g : Group) : Bool := (s.groupSlots mcx g.spindles).all fun sid => (s.strand sid).st == .saved

/-- SAVE_POST: the stop of context `ev.n` is complete, and its save is posted (R320, R322, R341). -/
def execSavePost (s : State) : Result :=
  let mcx := s.ev.n
  match s.stop mcx, s.group mcx with
  | some st, some g =>
    if st.posted || st.stepOver then .next s
    else
      let s := (s.groupSlots mcx g.spindles).foldl State.saveSlot s
      let d := g.spindles.headD 0 / 96
      if !s.allSaved mcx g || 64 ≤ (s.die d).dq.length then .next s
      else .next ((s.setStop mcx (some { st with posted := true })).postDq d 1 mcx g.spindles)
  | _, _ => .next s

/-- The save of a group is complete: SAVECTR advances, the context is SAVED, and its spindles are free (R316, R320, R345, R349). A debug stop then sets
its status (R353). -/
def State.saveDone (s : State) (d mcx : Nat) (g : Group) : State :=
  let dbg := match s.stop mcx with | some st => (st.debug).isSome | none => false
  let s := (s.worldSwitch mcx).unreserve mcx g.spindles
  let s := s.updCtx mcx fun c => { c with st := .saved, savectr := c.savectr + 1 }
  let s := s.updDie d fun x => { x with latched := x.latched.map fun p => (p.1, p.2.map fun l => if l.victim = some mcx then { l with victim := none } else l) }
  if dbg then s.push { ev := { n := mcx }, i := .debugStop } else (s.setStop mcx none).dispatch (s.partOf mcx)

/-- An arrival that waited for remote writes of its strand, all answered while it was SAVED, is made (R158, R228). -/
def State.arriveNow (s : State) (sid : Nat) : State :=
  if s.remotePending sid then s
  else ((s.strand sid).arvPend.foldl (fun s p => s.updCluster p.1 fun c => c.barArrive p.2) s).updStrand sid fun t => { t with arvPend := [] }

/-- A saved request is cancelled because its image may not be restored, and its redirected copies are discarded (R56, R302, R349). -/
def State.refuseRestore (s : State) (d mcx : Nat) (g : Group) : State :=
  let s := (s.copyList.filter fun j => j.ofCtx mcx).foldl (fun s j => s.setCopy j.id none) s
  let s := (s.unreserve mcx g.spindles).logError d 0x07 6 (some mcx) 0 0 0 0
  ((s.failReq mcx g.req nrpCancelled 0).toIdle mcx).dispatch (s.partOf mcx)

/-- The gate opens: the context is BOUND again, and every result in flight counts from here (R349, R350). With a debug step only TARGET may issue (R355); one whose
level has been reset stops again before any bundle (R394). -/
def State.openLoaded (s : State) (d mcx : Nat) (g : Group) : State :=
  let f := s.fresh
  let s := (f.2.worldSwitch mcx).updCtx mcx fun c => { c with st := .bound, savectr := c.savectr + 1, lastBound := f.1 }
  let x := s.die d
  let step := (x.stepOf mcx).1 != 0 && s.debugPermits mcx
  let target := sidOfWho (x.stepOf mcx).2
  let s := g.spindles.foldl (fun s sp => s.updSpindle sp fun y =>
    { y with gate := step, asleep := false, stepSlot := if step && gnumOf target == sp then some (slotOf target) else none, since := s.nextId }) s
  let s := g.sids.foldl State.arriveNow (s.dropImages mcx)
  if x.dbgRun.any fun r => r.1 == mcx && r.2.1 == 0 then ((s.updDie d fun x => x.stepEnds mcx).stopGroup mcx {}).settle mcx else s.settle mcx

/-- The end of a restore: a record that has been evicted since is loaded again, and while no entry is free the restore is posted once more; one that fails its
checks ends the request (R306, R310; notes/assumptions/57.md). -/
def State.openGate (s : State) (d mcx : Nat) (g : Group) : State :=
  match s.loadCtx mcx with
  | .loaded s' => s'.openLoaded d mcx g
  | .waits => s
  | .fails s' => s'.refuseRestore d mcx g

/-- DQACK: firmware acknowledges the oldest entry of its die's queue with the worst status it met (R322). `ev.n` is the register's address. -/
def execDqack (s : State) : Result :=
  let d := s.ev.n / 2 ^ 40 % 4
  match (s.die d).dq with
  | [] => .next s
  | e :: rest =>
    let v := s.ev.v.toNat
    if v % 2 ^ 56 ≠ e.toNat % 2 ^ 56 then .next s
    else
      let status := v / 2 ^ 56
      let mcx := e.toNat / 2 ^ 2 % 2 ^ 14
      let s := s.updDie d fun x => { x with dq := rest }
      let again (s : State) (q : Nat) : State := if (s.part q).die.toNat == d && (mget none (s.die d).latched q).isSome then s.dispatch q else s
      let go (s : State) : Result := .next ((List.range 32).foldl again s)
      match s.group mcx with
      | none => go s
      | some g =>
        if e.toNat % 4 = 1 then
          (if status ≠ 3 && (s.groupSlots mcx g.spindles).all fun sid => (s.strand sid).imaged then go ((s.saveDone d mcx g).settle mcx)
          else go (s.postDq d 1 mcx g.spindles))
        else if (mget [] s.restoring mcx).isEmpty then
          (if s.ctxCode mcx = 3 && (s.spindle (g.spindles.headD 0)).mcx = some mcx then
            (let s' := s.openGate d mcx g
            go (if s'.ctxCode mcx = 3 && (s'.group mcx).isSome then s'.postDq d 2 mcx g.spindles else s'))
          else go s)
        else if status = 5 then go (s.refuseRestore d mcx g)
        else go (s.postDq d 2 mcx g.spindles)

end Sys2Proof.Machine
end

