-- ==== Sys2Proof/Machine/System.lean ====
section
/-! DEFINITION. Privileged instructions of the B slot (R294 to R297) and, of the L slot, those for records and wipes (R298, R299, R303); the delivery of
an IPI and the start of a mill strand (R291, R296). -/

namespace Sys2Proof.Machine

open Sys2Proof

/-- A privileged code traps PRIV in TENANT mode, whatever its guard holds (R213, R287). -/
def Env.millOnly (e : Env) (k : Verdict) : Verdict := if e.mill then k else e.trap cPriv

/-- A privileged L-slot instruction (R213, R287, R298). -/
def Env.privL (e : Env) (f : LF) (k : Verdict) : Verdict := e.millOnly (e.guarded f k)

/-- The operand register of a privileged L-slot instruction (R298). -/
def Env.opReg (e : Env) (f : LF) : Nat := e.rx (f.reg.toNat % 64)

/-- An instruction that blocks after issue until it completes, and leaves a status (R298): that of its act on what the operations before it in the bundle have
left (R73, R299). -/
def Env.withStatus (e : Env) (f : LF) (act : State → State × Nat) : Verdict :=
  awaitMem [wr .x (f.reg.toNat % 64) (act e.now).2 1] (fun s => (act s).1) true [.resp, .fence]

/-- A physical range of HBM, aligned (R286, R298, R303). -/
def Env.hbmRange (e : Env) (ea n align : Nat) (k : Verdict) : Verdict :=
  if ea % align ≠ 0 then e.trap cAlign 0 ea
  else if hbmEnd < ea + n then e.fault { cause := cProt, addr := ea % 2 ^ 48 } 0
  else k

/-! ## The B slot -/

/-- IPI: event bit x[4:2] of die x[1:0] is on its way (R296). -/
def fxIpi (f : BF) (e : Env) : Verdict :=
  e.millOnly (
    let v := e.rx (xc f)
    if v / 2 ^ 5 ≠ 0 then e.trap cIllegal
    else .ok { post := fun s => s.updDie (v % 4) fun x => { x with ipis := x.ipis ++ [v / 4 % 8] } })
def execIpi (f : BF) (s : State) : Result := s.issueAlone (.ipi f) (fxIpi f)

/-- ERET (R294): with no handler to leave, or with stacks below their depths at trap entry, it traps ILLEGAL. -/
def fxEret (_ : BF) (e : Env) : Verdict :=
  e.millOnly (
    if !e.c.intrap || e.c.loops.length < e.c.mldepth || e.c.rets.length < e.c.mrdepth then e.trap cIllegal
    else .ok { b := some { next := some (e.c.epc.toNat % 2 ^ 32), taken := true, core := Core.eret } })
def execEret (f : BF) (s : State) : Result := s.issueAlone (.eret f) (fxEret f)

/-- HALT: it blocks after issue until an enabled event is pending (R295). -/
def fxHalt (_ : BF) (e : Env) : Verdict :=
  e.millOnly (if e.s.evPend (dieOf e.sid) &&& e.c.evmask != 0 then nothing else .ok { waits := [.halt], firm := true })
def execHalt (f : BF) (s : State) : Result := s.issueAlone (.halt f) (fxHalt f)

/-- IPI_DELIVER: bit `ev.m` of an IPI sent to die `ev.n` is set in EVPEND (R296). -/
def execIpiDeliver (s : State) : Result :=
  let d := s.ev.n % 4
  let k := s.ev.m
  if !(s.die d).ipis.contains k then .next s
  else .next ((s.updDie d fun x => { x with ipis := x.ipis.erase k }).setEv d (BitVec.ofNat 13 (2 ^ (k % 8))))

/-- MSPAWN: a write of it on die `ev.n` starts slot `ev.m` at `ev.v`, if that slot is FREE (R291). -/
def execMspawn (s : State) : Result := .next (s.mspawn (s.ev.n % 4) s.ev.m s.ev.v.toNat)

/-! ## Records (R299) -/

/-- The doublewords of a record read at a physical address. -/
def State.readRecord (s : State) (ea : Nat) : Nat → Nat :=
  let bs := s.physRead ea 1024
  fun k => leNat ((bs.drop (8 * k)).take 8)

/-- MCXLD of a context from a record (R299, R306): the state, and the status. Its reads are a mill strand's (R373). -/
def State.loadRecord (s : State) (d mcx ea : Nat) : State × Nat :=
  let w := s.readRecord ea
  let e := fun k => w (64 + k)
  if s.ctxCode mcx = 2 && (s.ctx mcx).isSome then (s, 2)
  else if !s.hostOk w || !deviceOk (w 19) e then (s.chargeSectors 32 none ea 1024 .read, 1)
  else match s.makePins mcx w with
    | none => ((s.chargeSectors 32 none ea 1024 .read).chargePins mcx w, 1)
    | some pins =>
      let s := (s.chargeSectors 32 none ea 1024 .read).chargePins mcx w
      match s.ctx mcx with
      | some _ => (s.updCtx mcx fun c => { c with host := (List.range 64).map fun k => BitVec.ofNat 64 (w k), pins := pins }, 0)
      | none => match s.makeRoom d with
        | none => (s, 3)
        | some s' => (s'.setCtx mcx (some (mkCtx d w e pins)), 0)

/-- MCXST of a context to a record (R299): the state, and the status. -/
def State.storeRecord (s : State) (mcx ea : Nat) (evict : Bool) : State × Nat :=
  match s.ctx mcx with
  | none => (s, 1)
  | some c0 =>
    let s := if evict then s.leaFlush mcx else s
    let c := (s.ctx mcx).getD c0
    let s := (s.physWrite (ea + 512) (c.line.flatMap (leBytes 8))).chargeSectors 32 none (ea + 512) 512 .write
    if c.st = .bound then (s, 2) else (if evict then s.setCtx mcx none else s, 0)

/-- The context number that an operand register holds: its other bits must be zero (R298). -/
def Env.mcxReg (e : Env) (f : LF) (k : Nat → Verdict) : Verdict :=
  if 2 ^ 14 ≤ e.opReg f then e.trap cIllegal else k (e.opReg f)

/-- MCXLD (R299). -/
def fxMcxld (f : LF) (e : Env) : Verdict :=
  e.privL f (e.mcxReg f fun mcx => e.hbmRange (e.ea f) 1024 1024 (e.withStatus f fun s => s.loadRecord (dieOf e.sid) mcx (e.ea f)))
def execMcxld (f : LF) (s : State) : Result := s.issueAlone (.mcxld f) (fxMcxld f)

/-- MCXST (R299). -/
def Env.mcxst (e : Env) (f : LF) (evict : Bool) : Verdict :=
  e.privL f (e.mcxReg f fun mcx => e.hbmRange (e.ea f) 1024 1024 (e.withStatus f fun s => s.storeRecord mcx (e.ea f) evict))

def fxMcxst (f : LF) (e : Env) : Verdict := e.mcxst f false
def execMcxst (f : LF) (s : State) : Result := s.issueAlone (.mcxst f) (fxMcxst f)

/-- MCXST.evict (R299). -/
def fxMcxstEvict (f : LF) (e : Env) : Verdict := e.mcxst f true
def execMcxstEvict (f : LF) (s : State) : Result := s.issueAlone (.mcxstEvict f) (fxMcxstEvict f)

/-! ## Wipes (R303, R400) -/

/-- A range of HBM cleared: its sectors have CLR = 1, and no word in it carries a release tag. -/
def State.wipeHbm (s : State) (a n : Nat) : State :=
  { s.hbmClear a n with reltags := s.reltags.filter fun p => p.1 % 2 == 1 || p.1 / 2 < a / 8 || (a + n) / 8 ≤ p.1 / 2 }

/-- A bank of cluster SRAM cleared. -/
def Cluster.wipeBank (c : Cluster) (b : Nat) : Cluster :=
  { c with bytes := dropRange c.bytes (b * 2 ^ 18) (2 ^ 18), poison := dropRange c.poison (b * 2 ^ 11) (2 ^ 11) }

/-- WIPE.sram of the named banks of a cluster: the state, and the status. -/
def State.wipeBanks (s : State) (cl mask : Nat) : State × Nat :=
  let named := (List.range 32).filter fun b => bitOf mask b
  if named.any fun b => ((s.cluster cl).bank b).owner != .none then (s, 1)
  else (s.updCluster cl fun c => named.foldl Cluster.wipeBank c, 0)

/-- WIPE: memory (R303). -/
def fxWipe (f : LF) (e : Env) : Verdict :=
  e.privL f (
    let n := e.opReg f
    let ea := e.ea f
    if n % 2 ^ 16 ≠ 0 then e.trap cAlign 0 ea
    else e.hbmRange ea n (2 ^ 16) (e.withStatus f fun s => (s.wipeHbm ea n, 0)))
def execWipe (f : LF) (s : State) : Result := s.issueAlone (.wipe f) (fxWipe f)

/-- WIPE.sram: the named banks of a cluster of the issuer's die (R303). -/
def fxWipeSram (f : LF) (e : Env) : Verdict :=
  e.privL f (
    let mask := e.opReg f
    let ea := e.ea f
    if 2 ^ 32 ≤ mask || 12 ≤ ea then e.trap cIllegal
    else e.withStatus f fun s => s.wipeBanks (12 * dieOf e.sid + ea) mask)
def execWipeSram (f : LF) (s : State) : Result := s.issueAlone (.wipeSram f) (fxWipeSram f)

end Sys2Proof.Machine
end

