-- ==== Sys2Proof/Machine/Translate.lean ====
section
/-! DEFINITION. Translation and the fault queue: the walk for a withheld store (R361, R363), posting, FQPOP and FQDONE (R301, R364 to R366), and TLBINV
(R300, R367). -/

namespace Sys2Proof.Machine

open Sys2Proof

/-! ## The walk of a withheld store (R361, R363) -/

/-- The withheld stores with the first missed translation replaced. -/
def resolveFirst : List PStore → PStore → List PStore
  | [], _ => []
  | p :: ps, q => if p.pend.isSome then q :: ps else p :: resolveFirst ps q

/-- The translation of the oldest withheld store that waits for one (R337 step 1). A fault rolls the strand back and is posted (R336, R338). -/
def State.walkStore (s : State) (sid : Nat) (p : PStore) : State :=
  match s.resolveStore sid ((s.strand sid).stores.takeWhile fun q => q.pend.isNone) p with
  | .ok (p', s') => s'.updStrand sid fun t => { t with stores := resolveFirst t.stores p' }
  | .error f => s.takeFault sid f 1 p.slot false

/-- TLB_MISS_WALK: the walk for a withheld store of the strand in focus completes (R361, R363). With `ev.flag` the TLBs replace the translation
`ev.n`, and the next access to its page walks again: R362 leaves open when (notes/assumptions/24.md). -/
def execTlbMissWalk (s : State) : Result :=
  if s.ev.flag then .next { s with tlb := s.tlb.eraseIdx s.ev.n } else
  let sid := s.focus
  let t := s.strand sid
  match t.stores.find? fun p => p.pend.isSome with
  | some p => .next (if t.st = .ready || t.st = .running then s.walkStore sid p else s)
  | none => .next s

/-! ## The fault queue (R364, R365) -/

/-- The doublewords of an entry as it is posted (R364). -/
def FaultEnt.words (e : FaultEnt) : List Nat :=
  [e.addr % 2 ^ 48 + e.mcx * 2 ^ 48,
    e.access + e.cause * 2 ^ 3 + (e.level - 1) * 2 ^ 11 + e.badpte.toNat * 2 ^ 13 + e.remote.toNat * 2 ^ 14 + e.nowalk.toNat * 2 ^ 15 + 2 ^ 16,
    e.who + e.engine.toNat * 2 ^ 11 + min e.waiters 0xFFFF * 2 ^ 16,
    e.pteaddr]

/-- The slot of the next entry of a die (R365). -/
def Die.fqSlot (x : Die) : Nat := x.fqbase.toNat + 32 * (x.fqposted.toNat % 2 ^ x.fqlog.toNat)

/-- The keys that stand in the 64 entries of the miss table; a miss beyond them waits until one frees (R362, R363). -/
def Die.missTable (x : Die) : List Nat := ((x.faults.filter fun e => !e.nowalk).take 64).map fun e => e.key

/-- The fault that is posted next, if its slot is closed (R365); one without a walk needs no entry of the miss table (R363). -/
def Die.postable (x : Die) : Option FaultEnt :=
  if x.fqbase = 0 || x.faults.any fun e => e.posted == some x.fqSlot then none
  else x.faults.find? fun e => e.posted.isNone && (e.nowalk || x.missTable.contains e.key)

/-- FAULT_POST: the oldest fault of die `ev.n` that is not yet posted is written to the queue, and FQNE rises (R290, R364, R365). -/
def execFaultPost (s : State) : Result :=
  let d := s.ev.n % 4
  let x := s.die d
  match x.postable with
  | none => .next s
  | some e =>
    let s := (s.physWrite x.fqSlot (e.words.flatMap (leBytes 8))).chargeSectors 32 none x.fqSlot 32 .write
    .next ((s.updDie d fun y =>
      { y with fqposted := y.fqposted + 1, faults := y.faults.map fun k => if k.key == e.key then { k with posted := some x.fqSlot, seq := x.fqposted.toNat } else k }).countEv
      (s.partOf e.mcx) 10 1)

/-- STATE of an entry in memory (R364). -/
def State.setFqState (s : State) (a st : Nat) : State :=
  (s.chargeSectors 32 none (a + 8) 8 .write).physWrite (a + 8) (leBytes 8 (setField (leNat (s.physRead (a + 8) 8)) 16 2 st))

/-- The oldest entry of a die's fault queue that is not popped, by the order of the posts (R301, R365); that order is modulo 2^32, as fqposted counts. -/
def Die.unpopped (x : Die) : Option FaultEnt :=
  let age (e : FaultEnt) : Nat := (x.fqposted.toNat + 2 ^ 32 - 1 - e.seq) % 2 ^ 32
  ((x.faults.filter fun e => e.posted.isSome && !e.popped).insertionSort fun a b => age b ≤ age a).head?

/-- An entry taken into service. -/
def State.popFault (s : State) (d : Nat) : State :=
  match (s.die d).unpopped with
  | none => s
  | some e => (s.setFqState (e.posted.getD 0) 2).updDie d fun x =>
      { x with faults := x.faults.map fun k => if k.key == e.key then { k with popped := true } else k }

/-- FQPOP: latency 32 (R75, R301). -/
def fxFqpop (f : LF) (e : Env) : Verdict :=
  e.privL f (
    let d := dieOf e.sid
    let a := match (e.now.die d).unpopped with
      | some k => k.posted.getD 0
      | none => 0
    .ok { early := fun s => s.popFault d, writes := [wr .x (f.reg.toNat % 64) a 32] })
def execFqpop (f : LF) (s : State) : Result := s.issueAlone (.fqpop f) (fxFqpop f)

/-! ## FQDONE (R301, R366) -/

/-- A strand that waits on an entry: it replays, or ends with the outcome. -/
def State.serveStrand (s : State) (sid outcome : Nat) : State :=
  if outcome = 0 then s.updStrand sid fun t => { t with st := if t.st = .blocked then .ready else t.st, waits := [] }
  else s.deliverEnd sid outcome

/-- The reel channel of a strand resumes, or enters the error state (R278). -/
def Reel.served (r : Reel) (d key outcome : Nat) : Reel :=
  if r.susp == some (d, key) then { r with susp := none, err := if outcome = 0 then r.err else some outcome } else r

def State.serveReels (s : State) (d key outcome : Nat) : State :=
  (s.strands.filterMap fun p => if p.2.core.reel.susp == some (d, key) then some p.1 else none).foldl
    (fun s sid => s.updReel sid fun r => r.served d key outcome) s

/-- A copy leg resumes at its sector, or the copy ends on an error (R138, R139). -/
def State.serveCopy (s : State) (j : CopyJob) (outcome : Nat) : State :=
  if outcome = 0 then s.updCopy j.id fun j => { j with susp := none } else s.failCopy { j with susp := none } outcome

/-- The whorl accesses of a context that waited on an entry are made again, or its request ends (R37, R366). -/
def State.serveWhorl (s : State) (mcx d key outcome : Nat) (g : Group) : State :=
  let nodes := g.conds.filterMap fun c => if c.2 = some (d, key) then some c.1 else none
  let words := g.words.filter fun w => w.2.2 = (d, key)
  if nodes.isEmpty && words.isEmpty then s
  else
    let s := s.updGroup mcx fun g =>
      { g with conds := g.conds.filter (fun c => c.2 != some (d, key)), words := g.words.filter (fun w => w.2.2 != (d, key))
               waiting := if outcome = 0 then nodes.filter (· != bindNode) ++ g.waiting else g.waiting }
    let s := if outcome = 0 then words.foldl (fun s w => s.ackWrite mcx w.1 w.2.1) s else s.endRequest mcx outcome
    (if outcome = 0 && nodes.contains bindNode then s.bindRest mcx else s).settle mcx

/-- A call whose read of its placement word waited reads it again, or ends with the outcome (R258; notes/assumptions/60.md). -/
def State.serveCall (s : State) (g : Nat) (c : Call) (outcome : Nat) : State :=
  let c := { c with susp := none }
  if outcome = 0 then s.setCall g c else s.callError g c outcome

def State.serveCalls (s : State) (d key outcome : Nat) : State :=
  s.spindles.foldl (fun s p => (p.2.queue.filter fun c => c.susp == some (d, key)).foldl (fun s c => s.serveCall p.1 c outcome) s) s

/-- A host COPY that waits on an entry goes on, or completes with the outcome (R324, R363, R366). -/
def State.serveCmds (s : State) (d key outcome : Nat) : State :=
  s.cmds.foldl (fun s p => match p.2 with
    | some c =>
      if c.susp ≠ some (d, key) then s
      else
        let s := s.setCmd p.1 (some { c with susp := none })
        if outcome = 0 then s else s.cmdDone p.1 outcome 0
    | none => s) s

/-- The party of the messages of a host COPY; `slot` is the command. -/
def hostWho : Nat := 2 ^ 21 + 8

/-- Where an answer for a COPY is kept: the sector, or the one byte of a cause. -/
def copyKey (k ea : Nat) : Nat := 2 ^ 110 + k * 2 ^ 60 + ea / 128

/-- What has come for a sector of a COPY. -/
def State.copyCame (s : State) (k ea : Nat) (bs : List Byte) : State := { s with reachIn := mset [] s.reachIn (copyKey k ea) bs }

/-- The die of a message's party, and the party as a fault entry names it (R364). -/
def State.reqDie (s : State) (q : ReachReq) : Nat := if q.who < 2 ^ 20 then dieOf q.who else s.faultDie q.mcx
def ReachReq.party (q : ReachReq) : Nat := if q.who < 2 ^ 20 then whoOf q.who else 0

/-- A write to a remote page that has failed at its home, or gone unanswered, is entered, and waits for the outcome; its strand goes on (R369;
notes/assumptions/41.md). -/
def State.parkWrite (s : State) (k : Nat) (q : ReachReq) (f : MemFault) : State :=
  let d := s.reqDie q
  let r := s.addFault d q.mcx f (if q.who = hostWho then 5 else 1) q.party true
  { r.1 with reachReqs := mset none r.1.reachReqs k (some { q with susp := some (d, r.2) }) }

/-- A write that ends with a cause: the COPY that made it gets the cause, and the request of a strand's ends (R335, R336, R366). -/
def State.endWrite (s : State) (q : ReachReq) (cause : Nat) : State :=
  if q.who = hostWho then s.copyCame q.slot q.ea [BitVec.ofNat 8 cause]
  else if (s.strand q.who).st != .free && s.mcxOf q.who == q.mcx then s.deliverEnd q.who cause else (s.endRequest q.mcx cause).whorl q.mcx

/-- A write that waited is made again, at the place that its address has now (R366, R369). -/
def State.rewrite (s : State) (k : Nat) (q : ReachReq) : State :=
  let s := { s with reachReqs := mset none s.reachReqs k none }
  let q := { q with susp := none, sent := 1, inval := false }
  match s.ctxPlace q.mcx q.ea .write with
  | .error f => s.parkWrite k q f
  | .ok (pl, s') => match pl.loc with
    | .remote home pa key =>
      let off := pa % 128
      if s.reachable home then
        (s'.reachRequest (s.reqDie q) { q with home := home, pa := pa, key := key } 0 ((2 ^ q.data.length - 1) * 2 ^ off)
          (some (List.replicate off 0 ++ q.data ++ List.replicate (128 - off - q.data.length) 0))).1
      else s.parkWrite k q { cause := cProt, addr := q.ea, remote := true }
    | l => match s'.writeLoc l q.data with
      | .error e => (s'.uncorrectable (s.reqDie q) (some q.mcx) q.party cMemUe e l q.ea).endWrite q cMemUe
      | .ok s2 =>
        let s2 := s2.chargeCtx (if q.who < 2 ^ 20 then some (clusterOf q.who) else none) q.mcx pl q.data.length .write
        match q.sync with
        | some sc => s2.setTag q.who sc l (leNat q.data)
        | none => s2

/-- The writes that wait on an entry are made again, or end with its outcome. -/
def State.serveWrites (s : State) (d key outcome : Nat) : State :=
  s.reachReqs.foldl (fun s p => match p.2 with
    | some q =>
      if q.susp ≠ some (d, key) then s
      else if outcome = 0 then s.rewrite p.1 q else { s with reachReqs := mset none s.reachReqs p.1 none }.endWrite q outcome
    | none => s) s

/-- The waiters of an entry act on its outcome (R366). -/
def State.serveFault (s : State) (d key outcome : Nat) : State :=
  let sids := s.strands.filterMap fun p => if p.2.waits.contains (.fault d key) then some p.1 else none
  let s := sids.foldl (fun s sid => s.serveStrand sid outcome) s
  let s := (((s.serveReels d key outcome).serveCalls d key outcome).serveCmds d key outcome).serveWrites d key outcome
  let s := (s.copyList.filter fun j => j.susp == some (d, key)).foldl (fun s j => s.serveCopy j outcome) s
  s.groups.foldl (fun s p => match p.2 with
    | some g => s.serveWhorl p.1 d key outcome g
    | none => s) s

/-- The entry in service at a physical address, with its die (R301). -/
def State.inService (s : State) (a : Nat) : Option (Nat × FaultEnt) :=
  [0, 1, 2, 3].findSome? fun d => ((s.die d).faults.find? fun e => e.popped && e.posted == some a).map fun e => (d, e)

/-- The outcomes of FQDONE (R301). -/
def outcomeOk (v : Nat) : Bool := v == 0 || (0x10 ≤ v && v ≤ 0x13)

/-- An entry is closed and freed (R363, R366). -/
def State.closeFault (s : State) (d : Nat) (e : FaultEnt) (outcome : Nat) : State :=
  let s := (s.setFqState (e.posted.getD 0) 3).updDie d fun x => { x with faults := x.faults.filter fun k => k.key != e.key }
  s.serveFault d e.key outcome

/-- An instruction that first waits as FENCE.device does (R300 step 1). -/
def Env.afterFence (e : Env) (v : Verdict) : Verdict := if e.s.remotePending e.sid then .block [.fence] id else v

/-- FQDONE (R301). -/
def fxFqdone (f : LF) (e : Env) : Verdict :=
  e.privL f (
    let v := e.opReg f
    match e.now.inService (e.ea f) with
    | none => e.trap cIllegal
    | some (d, k) =>
      if !outcomeOk v then e.trap cIllegal
      else e.afterFence (.ok { early := fun s => s.closeFault d k v, waits := [.resp], firm := true }))
def execFqdone (f : LF) (s : State) : Result := s.issueAlone (.fqdone f) (fxFqdone f)

/-! ## TLBINV (R300) -/

/-- Does an entry cover an address? -/
def TlbEnt.covers (t : TlbEnt) (ea : Nat) : Bool := t.base ≤ ea && decide (ea < t.base + t.size)

/-- Does a TLBINV of a kind name an address of a context? `ts` are the entries that it removes. -/
def invalNames (ts : List TlbEnt) (kind mcx ea m a : Nat) : Bool :=
  match kind with
  | 0 => m == mcx && (a / 2 ^ 16 == ea / 2 ^ 16 || ts.any fun t => t.covers a)
  | 1 => m == mcx
  | _ => true

/-- The misses of a die's table that are not posted and that a TLBINV names walk again (R300 step 2). -/
def State.restartWalks (s : State) (ts : List TlbEnt) (kind mcx ea d : Nat) : State :=
  let gone (e : FaultEnt) : Bool := e.posted.isNone && !e.nowalk
    && (invalNames ts kind mcx ea e.mcx e.addr || (e.mcx == mcx && e.addr / 2 ^ pageBits e.level == ea / 2 ^ pageBits e.level))
  let es := (s.die d).faults.filter gone
  let s := s.updDie d fun x => { x with faults := x.faults.filter fun e => !gone e }
  es.foldl (fun s e => s.serveFault d e.key 0) s

/-- A REL that waits to write through an entry that a TLBINV has invalidated. -/
def Wait.invalidate (w : Wait) (names : Nat → Bool) : Wait :=
  match w with
  | .rel l ea v sc b => .rel l ea v sc (b || ((match l with | .hbm _ _ => true | .remote _ _ _ => true | _ => false) && names ea))
  | w => w

/-- The accesses translated through what a TLBINV removes: the withheld stores, the RELs that wait, and the unanswered messages (R300 step 3). Those of a
pinned user are not among them (R367). -/
def State.markInval (s : State) (ts : List TlbEnt) (kind mcx ea : Nat) : State :=
  let hit (sid : Nat) (t : Strand) (p : PStore) : Bool :=
    !isMill sid && p.pend.isNone && (match p.loc with | .hbm _ _ => true | .remote _ _ _ => true | _ => false) && invalNames ts kind mcx ea t.mcx p.ea
  let pinned (cid : Nat) : Bool := (s.copyJob cid).any fun j => j.pinned
  { s with
    strands := s.strands.map fun q => (q.1, { q.2 with
      stores := q.2.stores.map fun p => if hit q.1 q.2 p then { p with inval := true } else p
      waits := q.2.waits.map fun w => w.invalidate fun a => !isMill q.1 && invalNames ts kind mcx ea q.2.mcx a })
    reachReqs := s.reachReqs.map fun r => (r.1, r.2.map fun q => if !pinned q.cid && invalNames ts kind mcx ea q.mcx q.ea then { q with inval := true } else q) }

/-- The translations that a kind names are removed; pins stay (R300, R367). -/
def State.tlbInvalidate (s : State) (kind mcx ea : Nat) : State :=
  let hit (t : TlbEnt) : Bool := match kind with
    | 0 => t.mcx == mcx && t.covers ea
    | 1 => t.mcx == mcx
    | _ => true
  let ts := s.tlb.filter hit
  let s := { s with tlb := s.tlb.filter fun t => !hit t }.markInval ts kind mcx ea
  [0, 1, 2, 3].foldl (fun s d => s.restartWalks ts kind mcx ea d) s

/-- TLBINV (R300): it waits for the writes published to its strand, invalidates, and completes when what was translated before has been performed. -/
def fxTlbinv (f : LF) (e : Env) : Verdict :=
  e.privL f (
    let v := e.opReg f
    let kind := v / 2 ^ 16
    if v / 2 ^ 14 % 4 ≠ 0 || 3 ≤ kind then e.trap cIllegal
    else e.afterFence (.ok { early := fun s => s.tlbInvalidate kind (v % 2 ^ 14) (e.ea f), waits := [.resp, .inval], firm := true }))
def execTlbinv (f : LF) (s : State) : Result := s.issueAlone (.tlbinv f) (fxTlbinv f)

end Sys2Proof.Machine
end

