-- ==== Sys2Proof/Machine/Roving.lean ====
section
/-! DEFINITION. The roving engine: source locators and units (R423), the stream ring (R424, R425), and the refetch of shared frames (R368). -/

namespace Sys2Proof.Machine

open Sys2Proof

/-! ## Sources (R423) -/

def locWhere (l : Nat) : Nat := l % 2 ^ 48
def locPeer (l : Nat) : Nat := l / 2 ^ 48 % 64
def locDrive (l : Nat) : Nat := l / 2 ^ 54 % 4
def locSrc (l : Nat) : Nat := l / 2 ^ 62 % 4

/-- A locator that names a source (R423). -/
def locOk (l : Nat) : Bool := l / 2 ^ 56 % 64 == 0 && (locSrc l == 1 || (locSrc l == 2 && locWhere l % 2 ^ 16 == 0))

/-- The blocks of a drive's namespace: 4 TiB in blocks of 4 KiB (R12, R328). -/
def State.driveBlocks (s : State) (k : Nat) : Nat := mget (2 ^ 30) s.drives k

/-- The key of a byte of a drive. -/
def flashKey (drive a : Nat) : Nat := drive * 2 ^ 64 + a

/-- Bytes of a drive, from a block. -/
def State.flashRead (s : State) (drive lba n : Nat) : List Byte := getBytes s.flash (flashKey drive (4096 * lba)) n

def State.flashWrite (s : State) (drive lba : Nat) (bs : List Byte) : State :=
  { s with flash := putBytes s.flash (flashKey drive (4096 * lba)) bs }

/-- The sectors of a peer fetch, by die and unit: the identity that its messages carry (R425). -/
def rovingWho (d : Nat) : Nat := 2 ^ 21 + d

/-- The place of an answered sector. -/
def rovingKey (d unit k : Nat) : Nat := (d * 2 ^ 40 + unit) * 512 + k

/-- The unit number of a refetch, beside those of the ring. -/
def refetchUnit (frame : Nat) : Nat := 2 ^ 16 + frame

/-- The 512 READs of a peer fetch (R425). -/
def State.askPeer (s : State) (d unit loc key : Nat) : State :=
  (List.range 512).foldl (fun s k => (s.reachRequest d
    { kind := 1, home := locPeer loc, key := key, pa := locWhere loc + 128 * k, who := rovingWho d, slot := unit, sector := k } 0 0 none).1) s

/-- What has arrived of a unit: its bytes, none while a sector is missing. An answer that failed stands as a single byte. -/
def State.peerBytes (s : State) (d unit : Nat) : Option (List Byte) :=
  let parts := (List.range 512).map fun k => if mhas s.reachIn (rovingKey d unit k) then some (mget [] s.reachIn (rovingKey d unit k)) else none
  if parts.any Option.isNone then none else some (parts.flatMap fun p => p.getD [])

/-- The buffers and the messages of a unit are dropped. -/
def State.dropPeer (s : State) (d unit : Nat) : State :=
  { s with reachIn := dropRange s.reachIn (rovingKey d unit 0) 512
           reachReqs := s.reachReqs.filter fun p => match p.2 with
             | some q => !(q.who == rovingWho d && q.slot == unit)
             | none => true }

/-- What a unit's fetch has come to: its 64 KiB of plaintext, a failure of the source, or not yet all of it. -/
inductive Fetched where
  | bytes (bs : List Byte)
  | failed
  | waits

/-- The unit of a locator (R425 step 2). -/
def State.fetchUnit (s : State) (d unit loc : Nat) : Fetched :=
  if locSrc loc = 1 then
    (if locWhere loc + 16 ≤ s.driveBlocks (locDrive loc) then .bytes (s.flashRead (locDrive loc) (locWhere loc) 65536) else .failed)
  else match s.peerBytes d unit with
    | none => .waits
    | some bs => if bs.length = 65536 then .bytes bs else .failed

/-! ## Shared-frame records (R368) -/

/-- A shared-frame record. -/
structure FrameRec where
  hash : List Byte
  key : Nat
  loc : Nat
  ok : Bool

/-- The record at a physical address; none when it cannot be read. -/
def State.frameRec (s : State) (a : Nat) : Option FrameRec :=
  match s.hbmRead a 0 64 with
  | .error _ => none
  | .ok bs =>
    let d (k : Nat) : Nat := leNat ((bs.drop (8 * k)).take 8)
    some { hash := bs.take 32, key := d 4 % 2 ^ 14, loc := d 5
           ok := bitOf (d 4) 62 && d 4 / 2 ^ 14 % 2 ^ 48 == 0 && d 6 == 0 && d 7 == 0 }

/-- A unit written under a key index (R388, R425), charged to the system party (R373); none when the write meets an error (R389). -/
def State.putUnit (s : State) (dest key : Nat) (bs : List Byte) : Option State :=
  match s.hbmWrite dest key bs with
  | .ok s' => some (s'.chargeSectors 32 none dest bs.length .write)
  | .error _ => none

/-- Every sector of a frame poisoned, and POISONED set in its record (R368 step 4). -/
def State.poisonFrame (s : State) (ra frame : Nat) : State :=
  let s := (List.range 512).foldl (fun s k => s.poisonSect (512 * frame + k)) s
  (s.chargeSectors 32 none (ra + 32) 8 .write).physWrite (ra + 32) (leBytes 8 (setField (leNat (s.physRead (ra + 32) 8)) 63 1 1))

/-- The waiters of a refetch make their accesses again (R336, R368): they read the unit, or fault POISON. Strands present their bundles again, and the whorls read
their nodes and condition words again. -/
def State.refetched (s : State) (frame : Nat) : State :=
  let s := (List.range 4).foldl (fun s d => s.updDie d fun x => { x with refetch := x.refetch.filter (· != frame) }) s
  let s := (s.strands.filterMap fun p => if p.2.waits.contains (.refetch frame) then some p.1 else none).foldl (fun s sid =>
    s.updStrand sid fun t => { t with st := if t.st = .blocked then .ready else t.st, waits := [] }) s
  (List.range 4).foldl (fun s d => s.groups.foldl (fun s p => match p.2 with
    | some g => s.serveWhorl p.1 d (refetchKey frame) 0 g
    | none => s) s) s

/-- The end of a refetch: success when its bytes hash as the record says. -/
def State.refetchEnd (s : State) (ra frame : Nat) (r : Option FrameRec) (bs : Option (List Byte)) : State :=
  let got := match r, bs with
    | some r, some bs => if r.ok && Config.sha512t bs == r.hash then s.putUnit (65536 * frame) r.key bs else none
    | _, _ => none
  (got.getD (s.poisonFrame ra frame)).refetched frame

/-- SHARED_FRAME_REFETCH: the refetch of 64 KiB frame `ev.m`, begun on die `ev.n` (R368). With the flag set, its source or its write meets an error. A peer
is asked first; the row runs again when its answers are in. -/
def execSharedFrameRefetch (s : State) : Result :=
  let d := s.ev.n % 4
  let frame := s.ev.m
  let unit := refetchUnit frame
  if !(s.die d).refetch.contains frame then .next s
  else
    let ra := (s.die d).shdir.toNat + 64 * frame
    let r := s.frameRec ra
    let s := s.chargeSectors 32 none ra 64 .read
    match r with
    | none => .next (s.refetchEnd ra frame none none)
    | some x =>
      if s.ev.flag || !x.ok || !locOk x.loc then .next ((s.dropPeer d unit).refetchEnd ra frame none none)
      else match s.fetchUnit d unit x.loc with
        | .bytes bs => .next ((s.dropPeer d unit).refetchEnd ra frame r (some bs))
        | .failed => .next ((s.dropPeer d unit).refetchEnd ra frame none none)
        | .waits =>
          if s.reachReqs.any fun p => match p.2 with
            | some q => q.who == rovingWho d && q.slot == unit
            | none => false
          then .next s
          else if !s.reachable (locPeer x.loc) then .next (s.refetchEnd ra frame none none)
          else .next ((s.dropPeer d unit).askPeer d unit x.loc x.key)

/-! ## The stream ring (R424, R425) -/

/-- RVTAIL: a write of it, with its address in `ev.n` and its value in `ev.v`, hands descriptors to the engine (R424). -/
def execRvtail (s : State) : Result := .next (s.updDie (s.ev.n / 2 ^ 40 % 4) fun x => { x with rvtail := BitVec.ofNat 16 s.ev.v.toNat })

/-- The next descriptor to start, an index of the ring. -/
def Die.rvNext (x : Die) : Option Nat :=
  let n := 2 ^ x.rvlog.toNat
  if x.rvhead.toNat % n = x.rvtail.toNat % n then none else some (x.rvhead.toNat % n)

/-- DSTAT written (R424). -/
def State.putDstat (s : State) (a v : Nat) : State := (s.chargeSectors 32 none a 1 .write).physWrite a [BitVec.ofNat 8 v]

/-- The reads of a descriptor and of the record that it names are charged (R373). -/
def State.chargeUnit (s : State) (a : Nat) : State :=
  (s.chargeSectors 32 none a 24 .read).chargeSectors 32 none (leNat (s.physRead a 8)) 64 .read

/-- The unit of a descriptor: its record and locator checked (R425 steps 1 and 2); otherwise the DSTAT that it gets. -/
def State.rvUnit (s : State) (a idx : Nat) : RvUnit ⊕ Nat :=
  let d (k : Nat) : Nat := leNat (s.physRead (a + 8 * k) 8)
  if d 0 / 2 ^ 48 ≠ 0 || d 1 / 2 ^ 48 ≠ 0 || d 1 % 2 ^ 16 ≠ 0 || hbmEnd < d 1 + 2 ^ 16 || d 2 ≠ 0 then .inr 5
  else match s.frameRec (d 0) with
    | none => .inr 4
    | some r =>
      if !r.ok then .inr 5
      else if !locOk r.loc || (locSrc r.loc = 2 && !s.reachable (locPeer r.loc)) then .inr 3
      else .inl { idx := idx, dstat := a + 24, dest := d 1, key := r.key, loc := r.loc, hash := r.hash }

/-- UNIT_STREAM: the engine of die `ev.n` starts the next descriptor's unit, unless 32 are in flight; refetches go ahead of the ring (R424, R425). -/
def execUnitStream (s : State) : Result :=
  let d := s.ev.n % 4
  let x := s.die d
  match x.rvNext with
  | none => .next s
  | some i =>
    if 32 ≤ x.rvfly.length || !x.refetch.isEmpty then .next s
    else
      let a := x.rvbase.toNat + 32 * i
      let s := (s.chargeUnit a).updDie d fun x => { x with rvhead := BitVec.ofNat 16 ((i + 1) % 2 ^ x.rvlog.toNat) }
      match s.rvUnit a i with
      | .inr v => .next (s.putDstat (a + 24) v)
      | .inl u =>
        let s := s.updDie d fun x => { x with rvfly := x.rvfly ++ [u] }
        .next (if locSrc u.loc = 2 then s.askPeer d i u.loc u.key else s)

/-- A unit leaves flight with a DSTAT. -/
def State.endUnit (s : State) (d : Nat) (u : RvUnit) (v : Nat) : State :=
  ((s.dropPeer d u.idx).updDie d fun x => { x with rvfly := x.rvfly.filter fun y => y.idx != u.idx }).putDstat u.dstat v

/-- UNIT_DONE: the unit of descriptor `ev.m` of die `ev.n` has arrived; with the flag set its source reports an error (R422, R425). -/
def execUnitDone (s : State) : Result :=
  let d := s.ev.n % 4
  match (s.die d).rvfly.find? fun u => u.idx == s.ev.m with
  | none => .next s
  | some u =>
    if s.ev.flag then .next (s.endUnit d u 3)
    else match s.fetchUnit d u.idx u.loc with
      | .waits => .next s
      | .failed => .next (s.endUnit d u 3)
      | .bytes bs =>
        if Config.sha512t bs != u.hash then .next (s.endUnit d u 2)
        else match s.putUnit u.dest u.key bs with
          | some s' => .next (s'.endUnit d u 1)
          | none =>
            let bad := ((sectorsOf u.dest 65536).find? fun n => s.otherTag n u.key).getD (u.dest / 128)
            .next ((s.uncorrectable d none 0 cMemUe .mac (.hbm (128 * bad) u.key) 0).endUnit d u 4)

end Sys2Proof.Machine
end

