-- ==== Sys2Proof/Machine/Snapshot.lean ====
section
/-! DEFINITION. Save images: their place and layout (R346 to R348), SNAPSAVE and SNAPLOAD (R302, R343, R344, R349 to R351), and debug stops and single
steps (R352 to R355). -/

namespace Sys2Proof.Machine

open Sys2Proof

/-! ## The save area (R346) -/

def State.saveArea (s : State) (mcx : Nat) : Nat := s.hw mcx 16 % 2 ^ 48

/-- The index of a strand image, and its offset in the save area. -/
def strandImageAt (h3 gsp slot : Nat) : Nat × Nat :=
  let n := slotsM1 h3 + 1
  (gsp * n + slot, gsp * shareSum (strandImageSize h3) n + shareSum (strandImageSize h3) slot)

/-- The index of a cluster's bank image, and its offset in the save area. -/
def bankImageAt (h3 h4 : Nat) (sps : List Nat) (cl : Nat) : Nat × Nat :=
  let n := slotsM1 h3 + 1
  let before := (sortNats (clustersOf sps)).filter (· < cl)
  (sps.length * n + before.length,
    sps.length * shareSum (strandImageSize h3) n + (before.map fun c => bankImageSize h4 c (sps.headD 0 / 8)).sum)

/-- The context's function key and the module's identity stand in D3 and D4; D0 to D4 are authenticated and not ciphered. -/
def State.imageHead (s : State) (mcx kind gsp slot : Nat) : List Nat :=
  [0x4A53 + 2 ^ 16 + kind * 2 ^ 24, ((s.ctx mcx).map fun c => (c.savectr + 1).toNat).getD 0, mcx + gsp * 2 ^ 14 + slot * 2 ^ 21, s.hw mcx 0,
    s.keng.devid.toNat]

def wordBytes (ws : List Nat) : List Byte := ws.flatMap (leBytes 8)

/-! ## The strand image (R347, R348) -/

/-- A snapshot tag and its 512-byte entry. -/
def Core.snapEntry (c : Core) (f : Flight) : Nat × List Byte :=
  let file := match f.shadow, f.file with
    | some _, _ => 3
    | none, .p => 1
    | none, .v => 2
    | none, _ => 0
  let poison := (f.shadow.map fun e => (c.shadow e).poison).getD none
  let tag := f.reg + file * 2 ^ 9 + f.shadow.getD 0 * 2 ^ 11 + f.d * 2 ^ 17 + 2 ^ 23 + f.sticky.toNat * 2 ^ 24
    + (match poison with | some (k, _) => 2 ^ 32 + k * 2 ^ 33 | none => 0)
  (tag, match poison with | some (_, a) => leBytes 8 f.val ++ leBytes 8 a ++ leBytes 496 0 | none => leBytes 512 f.val)

/-- The results in flight that an image holds; the d registers have no code in a snapshot tag (notes/assumptions/61.md). -/
def Core.snapshots (c : Core) : List (Nat × List Byte) := ((c.flight.filter fun f => f.file != .d).take 64).map c.snapEntry

/-- A call record of 32 doublewords. -/
def Call.record (c : Call) : List Nat :=
  [c.rout + c.imm.toNat * 2 ^ 10 + c.flags.toNat * 2 ^ 30, c.fmt.toNat] ++ ((List.range 16).map fun t => (mget 0 c.tshape t).toNat)
    ++ ((List.range 8).map fun k => (mget 0 c.m k).toNat) ++ [c.mpc.toNat, 0, 0, 0, 0, 0]

/-- The continuation of a stopped call. -/
def Call.continuation (c : Call) : List Nat :=
  let lp (k : Nat) : List Nat := match c.loops[k]? with
    | some (n, first, last) => [n % 2 ^ 32 + last * 2 ^ 32, first]
    | none => [0, 0]
  let pair (p : Option (Nat × Nat)) : List Nat := match p with
    | some (a, b) => [a, b]
    | none => [0, 0]
  [c.idx] ++ lp 0 ++ lp 1 ++ pair c.zpc ++ pair c.bsc ++ [c.maskCur, ((c.placement).map fun w => w.toNat).getD 0, c.shadowed.isSome.toNat]

/-- A repeat sequence. -/
def Repeat.record (r : Repeat) : List Nat := [r.k + r.n * 2 ^ 32] ++ ((List.range 8).map fun k => (mget 0 r.strides k).toNat) ++ r.call.record

/-- The call records of an image: a stopped call's captured state stands in record 0, ahead of the queued calls (notes/assumptions/56.md). -/
def callRecords (calls : List Call) : List Call := (calls.filter fun k => k.halted) ++ calls.filter fun k => !k.halted

/-! ## The registers saved (R343) -/

/-- The live mask of the CKPT bundle at an address, from the image's safe-point table; the PCs ascend, so that no table has more than 2^32 entries
(R343). -/
def State.liveMask (s : State) (mcx : Nat) (pc : Nat) : Option (Nat → Bool) :=
  let tab := (s.hw mcx 5 % 2 ^ 48 + 2 * (s.hw mcx 6 % 2 ^ 32) + 63) / 64 * 64
  let n := s.imageWord mcx tab
  ((List.range (min n (2 ^ 32))).find? fun k => s.imageWord mcx (tab + 8 + 72 * k) == pc).map fun k =>
    fun r => bitOf (s.imageWord mcx (tab + 8 + 72 * k + 8 + r / 64 * 8)) (r % 64)

/-- The reads of the safe-point table are charged: its count, the PCs up to the one that matches, and that entry's mask (R343, R373). -/
def State.chargeMask (s : State) (t : Strand) : State :=
  match t.livePc with
  | none => s
  | some pc =>
    let tab := (s.hw t.mcx 5 % 2 ^ 48 + 2 * (s.hw t.mcx 6 % 2 ^ 32) + 63) / 64 * 64
    let n := min (s.imageWord t.mcx tab) (2 ^ 32)
    match (List.range n).find? fun k => s.imageWord t.mcx (tab + 8 + 72 * k) == pc.toNat with
    | none => s.chargeImage t.mcx (tab :: (List.range n).map fun k => tab + 8 + 72 * k)
    | some j => s.chargeImage t.mcx (tab :: ((List.range (j + 1)).map (fun k => tab + 8 + 72 * k) ++ (List.range 8).map fun i => tab + 16 + 72 * j + 8 * i))

/-- Is a vector register of the bank saved: LIVE and W (R343)? -/
def State.saves (s : State) (t : Strand) (r : Nat) : Bool :=
  match t.livePc.bind fun pc => s.liveMask t.mcx pc.toNat with
  | none => true
  | some live => live r || t.written.contains r

/-- The vector registers that a strand saves; the others are zero after the restore (R343). -/
def State.savedRegs (s : State) (t : Strand) : List Nat := (List.range t.bank).filter fun r => t.sstate != 0 && s.saves t r

/-- D5 to D509 of a strand image. -/
def State.strandHead (s : State) (sid : Nat) (t : Strand) (calls : List Call) (rpt : Option Repeat) : List Nat :=
  let c := t.core
  let snaps := c.snapshots
  let cfg := s.reelCfg sid
  let recs := callRecords calls
  let pend (k : Nat) : Nat := match c.fmtPend[k]? with
    | some (v, n) => v.toNat + n * 2 ^ 17 + 2 ^ 20
    | none => 0
  let r := c.reel
  let saved : Nat := ((s.savedRegs t).map fun r => 2 ^ r).sum
  let ent (k : Nat) : List Nat := let l := c.loopEnt k; [l.start + l.last * 2 ^ 32, l.count]
  let dw (x k : Nat) : Nat := x / 2 ^ (64 * k) % 2 ^ 64
  let addr (e : Nat) : Nat := match (c.shadow e).poison with | some (_, a) => a | none => 0
  let val (e : Nat) : Nat := if (c.shadow e).live && (c.shadow e).ready then (c.shadow e).val else 0
  [t.sstate + snaps.length * 2 ^ 3 + recs.length * 2 ^ 10 + (calls.any fun k => k.halted).toNat * 2 ^ 14 + rpt.isSome.toNat * 2 ^ 15
      + (!t.skPend.isEmpty).toNat * 2 ^ 16 + t.skPend.headD 0 * 2 ^ 17,
    c.pc.toNat + c.mpc.toNat * 2 ^ 32, c.statusWord false, c.cause.toNat, c.epc.toNat, c.fmt.toNat, pend 0, pend 1, pend 2, pend 3, c.mrc.toNat]
    ++ ((List.range 8).map fun k => (mget 0 c.mstride k).toNat) ++ ((List.range 16).map fun k => (mget 0 c.tshape k).toNat)
    ++ [c.reelPolicy.toNat + cfg.ringlog * 2 ^ 3 + cfg.spillmax * 2 ^ 8 + r.shut.toNat * 2 ^ 16 + cfg.enabled.toNat * 2 ^ 17, c.shadown.toNat,
      t.core.shcount.toNat]
    ++ (List.range 4).flatMap ent ++ [c.loops.length + c.rets.length * 2 ^ 4]
    ++ ((List.range 16).map fun k => (c.retEnt k).addr + (c.retEnt k).depth * 2 ^ 32)
    ++ ((List.range 64).map fun k => (c.rx k).toNat) ++ (List.range 16).flatMap (fun k => [dw (c.rp k).toNat 0, dw (c.rp k).toNat 1])
    ++ ((List.range 8).map fun k => (mget 0 c.m k).toNat)
    ++ (List.range 8).flatMap (fun k => (List.range 4).map fun i => dw (mget 0 c.d k).toNat i)
    ++ ((List.range 8).map (dw saved)) ++ ((List.range 36).map c.bshTag) ++ ((List.range 16).map fun e => val (e + 16))
    ++ (List.range 4).flatMap (fun e => [dw (val (e + 32)) 0, dw (val (e + 32)) 1]) ++ ((List.range 36).map addr)
    ++ ((List.range 64).map fun k => ((snaps[k]?).map fun p => p.1).getD 0)
    ++ [r.top + (if r.coded then 0 else r.recs.length * 2 ^ 32 + (encRecs [] r.recs).length * 2 ^ 41) + r.err.getD 0 * 2 ^ 50 + r.err.isSome.toNat * 2 ^ 58
      + (!r.live).toNat * 2 ^ 59, pend 4] ++ List.replicate 136 0

/-- The regions of a strand image after D0 to D4, with their offsets. -/
def State.strandParts (s : State) (sid : Nat) (t : Strand) (calls : List Call) (rpt : Option Repeat) (tiles : AMap Nat) (accs : AMap (BitVec 32)) :
    List (Nat × List Byte) :=
  let c := t.core
  let r := c.reel
  let recs := callRecords calls
  let frame := if r.live && !r.coded then frameBytes r.top r.recs false ((s.reelCfg sid).slotAddr (r.top - 1)) else []
  let pad (n : Nat) (bs : List Byte) : List Byte := bs ++ List.replicate (n - bs.length) 0
  let val (e : Nat) : Nat := if (c.shadow e).live && (c.shadow e).ready then (c.shadow e).val else 0
  let tileAt := 0xC000 + 512 * t.bank
  let accAt := tileAt + 16384 * t.ntile
  let start := (calls.find? fun k => k.halted && k.shadowed.isSome).map fun k => k.startAcc
  let plane (m : AMap (BitVec 32)) (a : Nat) : List Byte := (List.range 16384).flatMap fun i => leBytes 4 (mget 0 m (16384 * (t.acc0 + a) + i)).toNat
  [(0x28, wordBytes (s.strandHead sid t calls rpt)),
    (0x1000, pad 0x8000 (c.snapshots.flatMap fun p => p.2)),
    (0x9000, pad 0x800 (recs.flatMap fun k => wordBytes k.record)),
    (0x9800, pad 0x100 (((calls.find? fun k => k.halted).map fun k => wordBytes k.continuation).getD [])),
    (0x9900, pad 0x300 ((rpt.map fun x => wordBytes x.record).getD [])),
    (0x9C00, pad 0x400 frame),
    (0xA000, (List.range 16).flatMap fun e => leBytes 512 (val e))]
    ++ ((s.savedRegs t).map fun r => (0xC000 + 512 * r, leBytes 512 (c.rv r).toNat))
    ++ ((List.range t.ntile).map fun k => (tileAt + 16384 * k, leBytes 16384 (mget 0 tiles (t.tile0 + k))))
    ++ ((List.range t.nacc).map fun a => (accAt + 65536 * a, plane accs a))
    ++ (match start with
      | some m => (List.range t.nacc).map fun a => (accAt + 65536 * (t.nacc + a), plane m a)
      | none => [])

/-! ## The bank image (R348) -/

/-- The regions of a bank image after D0 to D4, with their offsets, but for the redirect list. -/
def State.bankParts (s : State) (mcx cl : Nat) (c : Cluster) (primary : Bool) (seed : Nat) : List (Nat × List Byte) :=
  let banks := maskBanks (s.hw mcx 4) cl
  let code (b : Nat) : Nat := if !banks.contains b then 3 else match (c.bank b).mode with | .cache => 0 | .scratch => 1 | .fifo => 2
  let redirected (g : Nat) : Bool := match (c.gran g).eng with
    | some (.copy k) => (s.copyJob k).any fun j => j.redirected
    | _ => false
  let nib (g : Nat) : Nat :=
    (c.gran g).eng.isSome.toNat + (c.gran g).err.toNat * 2 + (c.gran g).abandon.toNat * 4 + (redirected g).toNat * 8
  let whorl := if primary then [(0xA000, (List.range 0x20000).map (Config.whorlByte seed))] else []
  let bankAt := 0xA000 + (if primary then 0x20000 else 0)
  let data := (banks.zipIdx.filter fun p => (c.bank p.1).mode != .cache).map fun p =>
    (bankAt + 2 ^ 18 * p.2, getBytes c.bytes (2 ^ 18 * p.1) (2 ^ 18))
  let marks := banks.zipIdx.map fun p =>
    let bit (k : Nat) : Nat := ((c.bank p.1).mode == .scratch && (c.mark (2 ^ 18 * p.1 + 16 * k)).armed).toNat
    (bankAt + 2 ^ 18 * banks.length + 2048 * p.2,
      (List.range 2048).map fun i => BitVec.ofNat 8 ((List.range 8).map fun k => bit (8 * i + k) * 2 ^ k).sum)
  [(0x28, wordBytes (((List.range 32).map fun b => code b * 4 ^ b).sum :: 0
      :: ((List.range 32).map fun b => match c.bobbin b with | some o => o.word | none => 0) ++ List.replicate 471 0)),
    (0x1000, (List.range 4096).map fun i => BitVec.ofNat 8 (nib (2 * i) + nib (2 * i + 1) * 16))]
    ++ whorl ++ data ++ marks

/-! ## Sealing and writing -/

/-- The parts of an image sealed: D0 to D4 as they are, the ciphertext in the parts' places, and the tag (R346). -/
def State.sealImage (s : State) (mcx i : Nat) (head : List Nat) (parts : List (Nat × List Byte)) : List (Nat × List Byte) :=
  let aad := wordBytes head
  let iv := leBytes 12 (head.getD 1 0 * 2 ^ 32 + i % 2 ^ 32)
  let c := Config.gcmSeal (s.kgcm (s.hw mcx 2 % 2 ^ 16)) iv aad (parts.flatMap fun p => p.2)
  let cut := parts.foldl (fun (r : List (Nat × List Byte) × List Byte) p => (r.1 ++ [(p.1, r.2.take p.2.length)], r.2.drop p.2.length)) ([], c.1)
  (0, aad) :: cut.1 ++ [(0xFF0, c.2)]

/-- Bytes of an image in one sector, which the snapshot engine writes whole under the context's key (R346, R388, R451). -/
def State.imagePut (s : State) (key pa : Nat) (bs : List Byte) : State :=
  (if s.otherTag (pa / 128) key then { s with hbm := putBytes s.hbm pa bs }.forgetLines (pa / 512) 1 else { s with hbm := putBytes s.hbm pa bs }).setSect
    (pa / 128) { live := true, key := key, kxts := s.kxts key, kmac := s.kmac key }

/-- Parts of an image written to memory, for the context's partition (R373, R427). -/
def State.writeParts (s : State) (mcx base : Nat) (parts : List (Nat × List Byte)) : State :=
  parts.foldl (fun s p =>
    ((cutAt (base + p.1) p.2).foldl (fun s q => s.imagePut (s.hw mcx 2 % 2 ^ 16) q.1 q.2) s).chargeSectors (s.partOf mcx) none (base + p.1) p.2.length .write) s

/-! ## SNAPSAVE -/

/-- The strand as its image keeps it. A suspended channel withdraws its access and makes it again after the restore (R341). -/
def State.imageStrand (s : State) (t : Strand) : Strand :=
  { t with core := { t.core with v := t.core.v.filter fun p => s.saves t p.1, reel := { t.core.reel with susp := none, replay := [] } } }

/-- A cluster as a bank image keeps it: the banks that the context owns (R344, R348). -/
def Cluster.onlyBanks (c : Cluster) (own : Nat → Bool) : Cluster :=
  { banks := c.banks.filter fun p => own p.1
    bytes := c.bytes.filter fun p => own (p.1 / 2 ^ 18)
    grans := c.grans.filter fun p => own (p.1 / 256)
    marks := c.marks.filter fun p => own (p.1 / 2 ^ 14)
    bobbins := c.bobbins.filter fun p => own p.1
    poison := c.poison.filter fun p => own (p.1 / 2 ^ 11) }

/-- A copy of a saved cluster: it reads what is left of a scratchpad source, and writes of a scratchpad destination go to the image (R344). -/
def State.redirectCopy (s : State) (j : CopyJob) : State :=
  let r := s.srcSectors j.id true j.sourcesLeft
  match r with
  | .err c s' => s'.failCopy ((s'.copyJob j.id).getD j) c
  | .wait s' => s'
  | .ok _ s' =>
    if dSpace j.dst = 0 then s'
    else
      let filling := match (s'.cluster j.cl).bobbin (dBase j.dst) with
        | some b => b.fillingOf j.id
        | none => 0
      s'.updCopy j.id fun k => { k with redirected := true, base := k.chunks - filling }

/-- The release tags of a cluster's banks (R149): what was published before the save stays so after the restore (R158). -/
def State.tagsOfBanks (s : State) (cl : Nat) (own : Nat → Bool) : AMap (Option RelTag) :=
  s.reltags.filter fun p => p.1 % 2 == 1 && p.1 / 2 * 8 / 2 ^ 23 == cl && own (p.1 / 2 * 8 % 2 ^ 23 / 2 ^ 18)

/-- The bank image of a cluster is written (R344, R346, R348). -/
def State.saveBanks (s : State) (mcx : Nat) (g : Group) (cl : Nat) : State :=
  let s := (s.copyList.filter fun j => j.ofCtx mcx && j.cl == cl && !j.redirected).foldl State.redirectCopy s
  let own (b : Nat) : Bool := ((s.cluster cl).bank b).owner == .ctx mcx
  let c := (s.cluster cl).onlyBanks own
  let place := bankImageAt (s.hw mcx 3) (s.hw mcx 4) g.spindles cl
  let head := s.imageHead mcx 2 (cl % 12) 0
  let parts := s.sealImage mcx place.1 head (s.bankParts mcx cl c (cl == g.primary) (head.getD 1 0))
  let im : Image :=
    { addr := s.saveArea mcx + place.2, parts := parts, mcx := mcx, ctr := BitVec.ofNat 64 (head.getD 1 0), devid := s.keng.devid
      key := s.kgcm (s.hw mcx 2 % 2 ^ 16), gsp := 0, slot := 0, cl := cl, cluster := some c
      bankAt := 0xA000 + (if cl = g.primary then 0x20000 else 0), banks := maskBanks (s.hw mcx 4) cl, tags := s.tagsOfBanks cl own }
  let s := s.writeParts mcx im.addr (parts ++ [(0x2000, List.replicate 0x8000 0)])
  { s with images := s.images.filter (fun i => !(i.mcx == mcx && i.cluster.isSome && i.cl == cl)) ++ [im] }

/-- Is a strand the one whose SNAPSAVE and SNAPLOAD carry the bank image of its cluster (R346)? -/
def Group.carriesBanks (g : Group) (sid : Nat) : Bool :=
  slotOf sid == 0 && (g.spindles.find? fun sp => sp / 8 == clusterOf sid) == some (gnumOf sid)

/-- The image of a strand is written, and its slot awaits the end of the save (R302, R343, R344). -/
def State.saveStrand (s : State) (mcx : Nat) (g : Group) (sid : Nat) : State :=
  let x := s.spindle (gnumOf sid)
  let s := match x.shadowBusy with
    | some j => (s.shadowEntry j).updSpindle (gnumOf sid) fun y => { y with shadowBusy := none }
    | none => s
  let s := if g.carriesBanks sid then s.saveBanks mcx g (clusterOf sid) else s
  let s := (s.withdrawReel sid).chargeMask (s.strand sid)
  let t := s.imageStrand (s.strand sid)
  let mine (k : Nat) (lo n : Nat) : Bool := lo ≤ k && k < lo + n
  let calls := x.queue.filter fun c => c.sid == sid
  let dead := (calls.flatMap fun c => c.dead).map (t.tile0 + ·)
  let live := t.sstate != 0
  let tiles := x.tiles.filter fun p => live && mine p.1 t.tile0 t.ntile && !dead.contains p.1
  let accs := x.accs.filter fun p => live && mine p.1 (16384 * t.acc0) (16384 * t.nacc)
  let rpt := s.repeatOf sid
  let gsp := g.gsp (gnumOf sid)
  let place := strandImageAt (s.hw mcx 3) gsp (slotOf sid)
  let head := s.imageHead mcx 1 gsp (slotOf sid)
  let parts := s.sealImage mcx place.1 head (s.strandParts sid t calls rpt tiles accs)
  let im : Image :=
    { addr := s.saveArea mcx + place.2, parts := parts, mcx := mcx, ctr := BitVec.ofNat 64 (head.getD 1 0), devid := s.keng.devid
      key := s.kgcm (s.hw mcx 2 % 2 ^ 16), gsp := gsp, slot := slotOf sid, strand := if t.sstate = 0 then none else some t
      calls := calls, rpt := rpt, tiles := tiles, accs := accs }
  let s := s.writeParts mcx im.addr parts
  let s : State := { s with images := s.images.filter (fun i => !(i.mcx == mcx && i.cluster.isNone && i.gsp == gsp && i.slot == slotOf sid)) ++ [im] }
  (s.updSpindle (gnumOf sid) fun y =>
    { y with queue := y.queue.filter fun c => c.sid != sid, rpts := mset none y.rpts (slotOf sid) none }).updStrand sid fun t => { t with imaged := true }

/-- The target that an operand register names (R302): none for an identity that names no strand. -/
def Env.snapTarget (e : Env) (f : LF) (k : Option Nat → Verdict) : Verdict :=
  let v := e.opReg f
  if 2 ^ 11 ≤ v then e.trap cIllegal
  else if !whoOk v then k none
  else if isMill (sidOfWho v) then e.trap cIllegal
  else k (some (sidOfWho v))

/-- The context whose save a strand awaits (R302, R341). -/
def State.awaitsSave (s : State) (sid : Nat) : Option (Nat × Group) :=
  let t := s.strand sid
  match (s.spindle (gnumOf sid)).mcx with
  | none => none
  | some m => match s.stop m, s.group m with
    | some st, some g => if st.posted && t.st == .saved && !t.imaged then some (m, g) else none
    | _, _ => none

/-- A SNAPSAVE of a target into an address, with `err` when the snapshot engine meets an uncorrectable error: the state and the status; none while the engines of
the target have not stopped (R302, R344, R346 to R349). -/
def State.snapsave (s : State) (tgt : Option Nat) (ea : Nat) (err : Bool) : Option (State × Nat) :=
  match tgt with
  | none => some (s, 1)
  | some sid => match s.awaitsSave sid with
    | none => some (s, 1)
    | some (m, g) =>
      if ea ≠ s.saveArea m + (strandImageAt (s.hw m 3) (g.gsp (gnumOf sid)) (slotOf sid)).2 then some (s, 2)
      else if err then some (s, 3)
      else if !s.enginesStopped sid then none
      else some (s.saveStrand m g sid, 0)

/-- An instruction that blocks after issue, with its register captured, until the wait that it makes is over (R25, R298). -/
def Env.snapWait (e : Env) (f : LF) (w : Option Nat → Nat → Nat → Bool → Wait) (tgt : Option Nat) : Verdict :=
  let r := f.reg.toNat % 64
  awaitMem [wr .x r 0 1] id true [w tgt (e.ea f) r e.s.ev.flag, .fence]

/-- SNAPSAVE (R298, R302, R346 to R349). With the event's flag set, the snapshot engine meets an uncorrectable error: status 3. -/
def fxSnapsave (f : LF) (e : Env) : Verdict := e.privL f (e.snapTarget f fun tgt => e.hbmRange (e.ea f) 4096 4096 (e.snapWait f .snapsave tgt))
def execSnapsave (f : LF) (s : State) : Result := s.issueAlone (.snapsave f) (fxSnapsave f)

/-! ## SNAPLOAD -/

/-- The sectors of a bank image that its tag does not cover: its redirect list, and those that redirected copies have written (R344, R346, R350). -/
def Image.keyed (i : Image) : List Nat := if i.cluster.isNone then [] else sectorsOf (i.addr + 0x2000) 0x8000 ++ i.redir

/-- The error of a sector of a save image, or bytes that are not the ones sealed (R302, R350 step 2, R351, R389). -/
def State.imageFault (s : State) (i : Image) : Option Nat :=
  let sealed : List (Nat × List Byte) := (i.parts.flatMap fun p => cutAt (i.addr + p.1) p.2).filter fun p => !i.redir.contains (p.1 / 128)
  let errs : List MemErr := (List.map (fun p : Nat × List Byte => p.1 / 128) sealed ++ i.keyed).filterMap fun n => s.sectCheck n (s.hw i.mcx 2 % 2 ^ 16)
  if errs.any (· != MemErr.mac) then some 3
  else if !errs.isEmpty || (sealed.any fun p => (List.range p.2.length).map (fun k => s.plainByte (s.hw i.mcx 2 % 2 ^ 16) (p.1 + k)) != p.2) || i.devid != s.keng.devid
      || i.key != s.kgcm (s.hw i.mcx 2 % 2 ^ 16) then some 4
  else none

/-- The banks of an image loaded, with the redirect records that have not acted yet applied (R350 steps 2 and 3). The bank image is then spent. -/
def State.loadBanks (s : State) (mcx cl : Nat) (i : Image) (c : Cluster) : State :=
  let off (n : Nat) : Nat := let o := 128 * n - i.addr - i.bankAt; i.banks.getD (o / 2 ^ 18) 0 * 2 ^ 18 + o % 2 ^ 18
  let c := { c with bytes := i.redir.foldl (fun m n => putBytes m (off n) (getBytes s.hbm (128 * n) 128)) c.bytes }
  let own (b : Nat) : Bool := (maskBanks (s.hw mcx 4) cl).contains b
  let put (k : Cluster) : Cluster :=
    let keep := k.onlyBanks fun b => !own b
    let add {α : Type} (d : α) [DecidableEq α] (m n : AMap α) : AMap α := n.foldl (fun m p => mset d m p.1 p.2) m
    { banks := add {} keep.banks c.banks, bytes := add 0 keep.bytes c.bytes, grans := add {} keep.grans c.grans, marks := add {} keep.marks c.marks,
      bobbins := add none keep.bobbins c.bobbins, poison := add false keep.poison c.poison, trans := k.trans }
  let rs := (mget [] s.redirects (mcx * 64 + cl)).filter fun r => !r.applied
  let s := s.updCluster cl fun k => rs.foldl Cluster.applyRedirect (put k)
  { s with redirects := mset [] s.redirects (mcx * 64 + cl) [], reltags := i.tags.foldl (fun m p => mset none m p.1 p.2) s.reltags
           images := s.images.filter fun i => !(i.mcx == mcx && i.cluster.isSome && i.cl == cl) }

/-- A wait as a restore leaves it: the answer to a CWAIT's messages was discarded with the save, so its bundle is presented again. -/
def Wait.restored (w : Wait) : Wait :=
  match w with
  | .cwait (.remote _ _ _) _ => .resp
  | w => w

/-- The state that a saved slot takes (R341, R350). -/
def Strand.restored (t : Strand) : Strand :=
  let st : SlotState := match t.sstate with
    | 1 => .ready | 2 => .blocked | 3 => .halted | 4 => .blocked | _ => .free
  { t with st := st, waits := if t.sstate = 2 then t.waits.map Wait.restored else if t.sstate = 4 then [.resp] else [], resp := [], ckpt := t.core
           sstate := 0, imaged := false, frozen := false }

/-- A strand image restored into its slot (R350 step 4). A strand killed while it was SAVED leaves its slot FREE (R56). -/
def State.loadStrand (s : State) (sid : Nat) (i : Image) : State :=
  let s := match i.strand with
    | some t => s.setStrand sid t.restored
    | none => s
  let again (c : Call) : Call := { c with halted := false, dead := [] }
  s.updSpindle (gnumOf sid) fun x =>
    { x with queue := x.queue ++ i.calls.map again, rpts := mset none x.rpts (slotOf sid) i.rpt
             tiles := i.tiles.foldl (fun m p => mset 0 m p.1 p.2) x.tiles, accs := i.accs.foldl (fun m p => mset 0 m p.1 p.2) x.accs }

/-- A restore that fails: the context is BROKEN, what was restored is cleared, and the request ends with the cause (R302, R351). -/
def State.breakRestore (s : State) (mcx : Nat) (g : Group) (cause : Nat) : State :=
  let s := (s.copyList.filter fun j => j.ofCtx mcx).foldl (fun s j => (s.withdrawCopy j).setCopy j.id none) s
  let s := (s.failReq mcx g.req nrpFailed cause).unreserve mcx g.spindles
  let s := (s.toIdle mcx).updCtx mcx fun c => { c with st := .broken, bcause := cause }
  s.dispatch (s.partOf mcx)

/-- The context that a FREE target slot waits to be restored for. -/
def State.awaitsRestore (s : State) (sid : Nat) : Option (Nat × Group) :=
  match (s.spindle (gnumOf sid)).mcx with
  | none => none
  | some m => match s.group m with
    | some g => if s.ctxCode m == 3 && (s.strand sid).st == .free && (mget [] s.restoring m).contains sid then some (m, g) else none
    | none => none

/-- The reads of an image are charged to its context's partition, and to no lea counter (R373, R427). -/
def State.chargeOpen (s : State) (i : Image) : State := i.parts.foldl (fun s p => s.chargeSectors (s.partOf i.mcx) none (i.addr + p.1) p.2.length .read) s

/-- A bank image, then the strand image, opened and restored; the last strand of a group opens its gate (R349, R350). -/
def State.loadImages (s : State) (d mcx : Nat) (g : Group) (sid : Nat) (broken : Bool) : State × Nat :=
  let gsp := g.gsp (gnumOf sid)
  let si := s.images.find? fun i => i.mcx == mcx && i.cluster.isNone && i.gsp == gsp && i.slot == slotOf sid
  let bi := if g.carriesBanks sid then s.images.find? fun i => i.mcx == mcx && i.cluster.isSome && i.cl == clusterOf sid else none
  let bad := if broken then some 3 else
    match si with
    | none => some 4
    | some i => (match bi with
      | some b => s.imageFault b
      | none => none).orElse fun _ => s.imageFault i
  match bad, si with
  | some st, _ => (s.breakRestore mcx g (if st = 3 then cMemUe else cKey), st)
  | none, none => (s, 4)
  | none, some i =>
    let s := s.chargeOpen i
    let s := match bi with
      | some b => (match b.cluster with
        | some c => (s.chargeOpen b).loadBanks mcx (clusterOf sid) b c
        | none => s)
      | none => s
    let s := s.loadStrand sid i
    let left := (mget [] s.restoring mcx).filter (· != sid)
    let s : State := { s with restoring := mset [] s.restoring mcx left }
    (if left.isEmpty then s.openGate d mcx g else s, 0)

/-- The error of the sector of an image's head (R389, R451): 3 an uncorrectable error, 4 a mismatch. -/
def State.headFault (s : State) (mcx a : Nat) : Option Nat :=
  (s.sectCheck (a / 128) (s.hw mcx 2 % 2 ^ 16)).map fun e => if e = .mac then 4 else 3

/-- The counter that a memory image carries in D1. -/
def State.imageCtr (s : State) (a : Nat) : Nat := leNat (getBytes s.hbm (a + 8) 8)

/-- The addresses of the images that a SNAPLOAD of a strand opens: its own, and its cluster's bank image (R346, R350). -/
def State.imagesOf (s : State) (mcx : Nat) (g : Group) (sid ea : Nat) : List Nat :=
  ea :: if g.carriesBanks sid then [s.saveArea mcx + (bankImageAt (s.hw mcx 3) (s.hw mcx 4) g.spindles (clusterOf sid)).2] else []

/-- Is an image that a SNAPLOAD opens not the current one (R349)? -/
def State.staleImage (s : State) (mcx : Nat) (g : Group) (sid ea : Nat) : Bool := (s.imagesOf mcx g sid ea).any fun a => s.imageCtr a != s.saveCtr mcx

/-- Do copies still write into the bank image of a cluster (R350 step 1)? -/
def State.redirecting (s : State) (mcx cl : Nat) : Bool := s.copyList.any fun j => j.redirected && j.mcx == mcx && j.cl == cl

/-- A SNAPLOAD of a target from an address, with `err` when the read of the image meets an uncorrectable error: the state and the status; none while copies are
still redirected into the bank image that it opens (R302, R349 to R351). The heads are read, with their MACs checked, before the counters that they carry are
looked at (R389, R451). -/
def State.snapload (s : State) (tgt : Option Nat) (ea : Nat) (err : Bool) : Option (State × Nat) :=
  match tgt with
  | none => some (s, 1)
  | some sid => match s.awaitsRestore sid with
    | none => some (s, 1)
    | some (m, g) =>
      if ea ≠ s.saveArea m + (strandImageAt (s.hw m 3) (g.gsp (gnumOf sid)) (slotOf sid)).2 then some (s, 2)
      else match (s.imagesOf m g sid ea).findSome? (s.headFault m) with
        | some st => some (s.breakRestore m g (if st = 3 then cMemUe else cKey), st)
        | none =>
          if s.staleImage m g sid ea then some (s, 5)
          else if g.carriesBanks sid && s.redirecting m (clusterOf sid) then none
          else some (s.loadImages (gnumOf sid / 96) m g sid err)

/-- SNAPLOAD (R298, R302, R349 to R351). With the event's flag set, the read of the image meets an uncorrectable error: status 3. -/
def fxSnapload (f : LF) (e : Env) : Verdict := e.privL f (e.snapTarget f fun tgt => e.hbmRange (e.ea f) 4096 4096 (e.snapWait f .snapload tgt))
def execSnapload (f : LF) (s : State) : Result := s.issueAlone (.snapload f) (fxSnapload f)

/-! ## The debug unit (R352 to R355) -/

/-- DBGCTL: a write at `ev.n` of `ev.v` (R352, R393). -/
def execDbgctl (s : State) : Result :=
  let d := s.ev.n / 2 ^ 40 % 4
  let v := s.ev.v.toNat
  let mcx := v % 2 ^ 14
  if !s.debugPermits mcx || (s.part (s.partOf mcx)).die.toNat ≠ d then .next s
  else
    let s := s.updDie d fun x =>
      { x with dbgMcx := BitVec.ofNat 14 v, dbgHold := bitOf v 14, dbgBrk := bitOf v 15
               dbgStep := if v / 2 ^ 16 % 4 = 3 then 0 else BitVec.ofNat 2 (v / 2 ^ 16), dbgTarget := BitVec.ofNat 11 (v / 2 ^ 18) }
    .next (s.dispatch (s.partOf mcx))

/-- Has everything that the bundle of a step OVER launched ended, and has every result that it issued landed (R355)? -/
def State.stepDone (s : State) (mcx : Nat) (st : Stop) : Bool :=
  let x := s.spindle (gnumOf st.target)
  !(s.strand st.target).after && (s.strand st.target).resp.isEmpty && !(s.copyList.any fun j => j.mcx == mcx && j.sid == st.target && st.since ≤ j.id)
    && !(x.queue.any fun c => c.sid == st.target && st.since ≤ c.id) && (s.repeatOf st.target).isNone && (s.core st.target).flight.isEmpty

/-- DEBUG_STOP of context `ev.n`: a step OVER whose work has ended stops the group, and a stop whose save is complete sets the status (R353, R355). -/
def execDebugStop (s : State) : Result :=
  let mcx := s.ev.n
  match s.stop mcx with
  | none => .next s
  | some st => match st.debug with
    | none => .next s
    | some (reason, noissue) =>
      if st.stepOver then .next (if s.stepDone mcx st then s.stopGroup mcx { debug := some (reason, noissue) } else s)
      else if s.ctxCode mcx ≠ 3 then .next s
      else
        let d := (s.part (s.partOf mcx)).die.toNat
        let s := (s.updDie d fun x =>
          { x with dbgHold := true, dbgStopped := true, dbgReason := BitVec.ofNat 8 reason, dbgNoissue := noissue }).setStop mcx none
        .next (s.dispatch (s.partOf mcx))

end Sys2Proof.Machine
end

