-- ==== Sys2Proof/Machine/Blocks.lean ====
section
/-! DEFINITION. The end of a block (R25): of an ACQ and a REL (R224, R225), of a SNAPSAVE and a SNAPLOAD (R298, R302), and of the conditions that
`State.waitClear` decides. -/

namespace Sys2Proof.Machine

open Sys2Proof

/-- What a wait has come to. -/
inductive WaitRes where
  | over (s : State)
  | keep (s : State) (w : Wait)
  /-- The access that the strand waits for has faulted. -/
  | fail (s : State)

/-- The end of an ACQ on a word of this module (R149, R224). Where the word can no longer be read here, the bundle is presented again. -/
def State.acqEnd (s : State) (sid : Nat) (l : Loc) (ea thr reg : Nat) (sc : ScopeAt) : WaitRes :=
  if s.wordHeld l then .keep s (.acq l ea thr reg sc)
  else match s.acqPlace sid l ea with
  | .error _ => .fail (s.replay sid)
  | .ok (pl, s') => match pl.loc, s'.readPlace pl 8 with
    | .remote .., _ => .fail (s.replay sid)
    | _, .error _ => .fail (s.replay sid)
    | l', .ok bs =>
      if leNat bs < thr then .keep s (.acq l' ea thr reg sc)
      else .over ((s'.acquired sid l' reg sc (leNat bs)).charge sid pl 8 .read)

/-- The end of a SNAPSAVE: its status, by what its target has come to, and its effect (R302). -/
def State.saveEnd (s : State) (sid : Nat) (tgt : Option Nat) (ea reg : Nat) (err : Bool) : WaitRes :=
  match s.snapsave tgt ea err with
  | none => .keep s (.snapsave tgt ea reg err)
  | some (s', st) => .over (s'.updStrand sid fun t => t.fillResp .x reg st)

/-- The end of a SNAPLOAD (R302). -/
def State.loadEnd (s : State) (sid : Nat) (tgt : Option Nat) (ea reg : Nat) (err : Bool) : WaitRes :=
  match s.snapload tgt ea err with
  | none => .keep s (.snapload tgt ea reg err)
  | some (s', st) => .over (s'.updStrand sid fun t => t.fillResp .x reg st)

/-- One wait of a strand: its condition, and what its end does. -/
def State.waitEnd (s : State) (sid : Nat) (w : Wait) : WaitRes :=
  match w with
  | .acq l ea thr reg sc => (match l with
    | .remote .. => .keep s w
    | _ => s.acqEnd sid l ea thr reg sc)
  | .rel l ea v sc inval =>
    if s.remotePending sid then .keep s w
    else (match l with
      | .remote home pa key => .keep (s.releaseRemote sid sc home pa key ea v inval) .fence
      | _ => .over (s.release sid sc l ea v))
  | .snapsave tgt ea reg err => s.saveEnd sid tgt ea reg err
  | .snapload tgt ea reg err => s.loadEnd sid tgt ea reg err
  | _ => if s.waitClear sid w then .over s else .keep s w

/-- The waits of a strand, each in turn; none once one has failed. -/
def State.endWaits (sid : Nat) : State → List Wait → State × Option (List Wait)
  | s, [] => (s, some [])
  | s, w :: ws => match s.waitEnd sid w with
    | .fail s' => (s', none)
    | .over s' => State.endWaits sid s' ws
    | .keep s' w' => let r := State.endWaits sid s' ws; (r.1, r.2.map fun l => w' :: l)

/-- An error that ends a strand's access (R439): 2 in the HBM sector at `ev.v`, 3 in the scratchpad sector there, 4 in a register, tile or accumulator, 5 in line
`ev.v` of a shared frame, 6 in the dirty line of the stacked cache at `ev.v`. -/
def State.foundError (s : State) (sid : Nat) : State :=
  let v := s.ev.v.toNat
  match s.ev.n with
  | 4 => (s.arrayError (dieOf sid) (s.ctxOf sid) (whoOf sid)).takeFault sid { cause := cMemUe, addr := 0 } 0 8 false
  | 5 => s.takeFault sid { cause := cMemUe, addr := 0, refetch := some v } 0 5 false
  | 6 => s.dirtyLineError sid v
  | k => s.takeFault sid { cause := cMemUe, addr := 0, ue := (foundLoc k v (clusterOf sid)).map fun l => (.ue, l) } 0 5 false

/-- BLOCK_END: the conditions of the blocked strand in focus have cleared, and it becomes READY (R25). With `ev.n` = 1 the access has found an error that
was corrected, in unit `ev.m` at `ev.v`; with 2 to 6 one that could not be, and with 7 one in the clean line at `ev.v`, which is read again (R439). -/
def execBlockEnd (s : State) : Result :=
  let sid := s.focus
  let t := s.strand sid
  if t.waits.isEmpty || t.st = .saved then .next s
  else
    let s := if s.ev.n = 1 then s.corrected (dieOf sid) s.ev.m s.ev.v.toNat
      else if s.ev.n = 7 then s.cleanLineError sid s.ev.v.toNat else s
    match s.endWaits sid t.waits with
    | (s', none) => .next s'
    | (s', some ws) =>
      if !ws.isEmpty then .next (s'.updStrand sid fun t => { t with waits := ws })
      else if 2 ≤ s.ev.n && s.ev.n ≤ 6 && t.after && t.st = .blocked then .next (s'.foundError sid)
      else .next (s'.unblock sid)

end Sys2Proof.Machine
end

