-- ==== Sys2Proof/Machine/Reach.lean ====
section
/-! DEFINITION. The reach domain: the home's side of READ, WRITE and ATOMIC, the answers at the requester, and the timeout (R369, R413 to R416). Each
message comes in `ev.bytes` at port `ev.n` (notes/assumptions/1.md). -/

namespace Sys2Proof.Machine

open Sys2Proof

/-! ## Messages (R414) -/

/-- Bits lo up of a header, w of them. -/
def hdrField (h lo w : Nat) : Nat := h / 2 ^ lo % 2 ^ w

/-- The header of the message that has arrived. -/
def State.reachHdr (s : State) : Nat := leNat (s.ev.bytes.take 32)

/-- A datagram is dropped and counted (R403). -/
def State.drop (s : State) (p code : Nat) : State := s.updPort p fun x => { x with drops := mset 0 x.drops code (mget 0 x.drops code + 1) }

/-- A message of a type for this module, at a port that is on; anything else is dropped. It counts as received (R432). -/
def State.reachIn? (s : State) (type : Nat) (k : State → Nat → Result) : Result :=
  let h := s.reachHdr
  let p := s.ev.n % 8
  if !(s.port p).on then .next s
  else if s.ev.bytes.length < 32 || hdrField h 0 8 != type || hdrField h 16 6 != s.modnum || hdrField h 22 2 != 0 || hdrField h 62 2 != 0
      || hdrField h 120 8 != 0 then .next (s.drop p 0)
  else k (s.countEv 32 13 1) h

/-! ## The home (R369, R415) -/

/-- The home's checks of a request's address and key (R369): the key is loaded, and a WRITE or an ATOMIC names no model key (R383). No message names a tenant
(notes/assumptions/41.md). -/
def State.homeCheck (s : State) (h : Nat) : Option Nat :=
  let pa := hdrField h 64 48
  let key := hdrField h 48 14
  if pa % 128 ≠ 0 || hbmEnd < pa + 128 then some cProt
  else if key = 0 then (if hdrField h 0 8 = 1 then none else some cProt)
  else if s.keng.cmd == some (2, key) then some cKey
  else match s.keySlot key with
    | none => some cKey
    | some x => if x.model && hdrField h 0 8 ≠ 1 then some cProt else none

/-- The way back to the source of a datagram: its address, and REACHPORT with the tag of reach traffic (R413). -/
def Port.reachBack (p : Port) (src : Nat) : Nat :=
  srcCode (srcV6 src) p.reachPort 0 (if p.reachPcp = 0 then none else some (p.reachPcp * 2 ^ 13)) (src / 2 ^ 40)

/-- An answer returns to the sender through the port of its request, to the address that the request came from (R413). -/
def State.reachAnswer (s : State) (h type status : Nat) (payload : Nat → List Byte) : State :=
  let p := s.ev.n % 8
  let hdr := reachHeader type s.modnum (p / 2) (hdrField h 8 6) status (hdrField h 32 16) (hdrField h 48 14) (hdrField h 64 48) 0 0
  s.reachOut p ((s.port p).reachBack s.ev.m) none (leBytes 32 hdr ++ (if status = 0 then payload hdr else []))

/-- The 128 stored bytes of a sector, and its MAC, whatever key the message names. A cleared sector is sent as zeros stored under the message's key, so that it
opens to zeros (R389, R415). -/
def State.storedSector (s : State) (n key : Nat) : List Byte × BitVec 32 :=
  if (s.sect n).live || key = 0 then (s.physRead (128 * n) 128, s.macOf n)
  else
    let bs := (List.range 128).map fun i => Config.xtsEnc (s.kxts key) n 0 i
    (bs, Config.sectorMac (s.kmac key) (128 * n) key (leNat bs))

/-- READ: the sector as stored, with its MAC (R415). -/
def execRead (s : State) : Result :=
  s.reachIn? 0x01 fun s h =>
    let pa := hdrField h 64 48
    let key := hdrField h 48 14
    match s.homeCheck h with
    | some c => .next (s.reachAnswer h 0x81 c fun _ => [])
    | none =>
      if (s.sect (pa / 128)).poison then .next (s.reachAnswer h 0x81 cPoison fun _ => [])
      else
        let x := s.storedSector (pa / 128) key
        .next ((s.chargeSectors 32 none pa 128 .read).reachAnswer h 0x81 0 fun _ => x.1 ++ leBytes 4 x.2.toNat ++ leBytes 4 0)

/-- The plaintext of the sealed part of a message (R414). -/
def State.reachOpen (s : State) (h : Nat) : Option (List Byte) :=
  let b := s.ev.bytes.drop 32
  let n := b.length - 28
  if b.length < 28 then none
  else Config.gcmOpen (s.kgcm (hdrField h 48 14)) (b.take 12) (leBytes 32 h) ((b.drop 12).take n) (b.drop (12 + n))

/-- Runs of a sector written under a key index, as a plain store does. -/
def State.writeRuns (s : State) (pa key : Nat) : List (Nat × List Byte) → Except MemErr State
  | [] => .ok s
  | (o, bs) :: r => match s.writeLoc (.hbm (pa + o) key) bs with
    | .ok s' => State.writeRuns s' pa key r
    | .error e => .error e

/-- The status of an error of the sector, which the home handles (R439). -/
def State.homeError (s : State) (h type : Nat) (e : MemErr) : State :=
  let pa := hdrField h 64 48
  if e = .poison then s.reachAnswer h type cPoison fun _ => []
  else (s.uncorrectable (s.ev.n % 8 / 2) none 0 cMemUe e (.hbm pa (hdrField h 48 14)) 0).reachAnswer h type cMemUe fun _ => []

/-- WRITE: the bytes of its mask (R415). -/
def execWrite (s : State) : Result :=
  s.reachIn? 0x02 fun s h =>
    let pa := hdrField h 64 48
    let key := hdrField h 48 14
    match s.homeCheck h with
    | some c => .next (s.reachAnswer h 0x82 c fun _ => [])
    | none => match s.reachOpen h with
      | none => .next (s.reachAnswer h 0x82 cMemUe fun _ => [])
      | some bs =>
        let masked := (List.range 128).map fun i => if bitOf h (128 + i) then some (bs.getD i 0) else none
        match s.writeRuns pa key (byteRuns 0 masked) with
        | .error e => .next (s.homeError h 0x82 e)
        | .ok s' => .next ((s'.chargeSectors 32 none pa 128 .write).reachAnswer h 0x82 0 fun _ => [])

/-- The new value that an atomic writes (R222, R223), by its L-slot code; none where ACAS writes nothing. -/
def atomicNew (code old v arg2 : Nat) : Option Nat :=
  match code with
  | 0x28 => some ((old + v) % two64)
  | 0x29 => some (if sint old ≤ sint v then old else v)
  | 0x2A => some (min old v)
  | 0x2B => some (if sint old ≤ sint v then v else old)
  | 0x2C => some (max old v)
  | 0x2D => some (old &&& v)
  | 0x2E => some (old ||| v)
  | 0x2F => some (old ^^^ v)
  | 0x30 => some v
  | 0x31 => if old = v then some arg2 else none
  | _ => none

/-- ATOMIC on the word that MASK[134:131] names (R415). -/
def execAtomic (s : State) : Result :=
  s.reachIn? 0x03 fun s h =>
    let pa := hdrField h 64 48
    let key := hdrField h 48 14
    let word := pa + 8 * hdrField h 131 4
    let code := hdrField h 112 8
    match s.homeCheck h with
    | some c => .next (s.reachAnswer h 0x83 c fun _ => [])
    | none =>
      if code < 0x28 || 0x31 < code || hdrField h 128 3 ≠ 0 || hdrField h 135 121 ≠ 0 then .next (s.reachAnswer h 0x83 cProt fun _ => [])
      else match s.reachOpen h with
        | none => .next (s.reachAnswer h 0x83 cMemUe fun _ => [])
        | some bs => match s.readLoc (.hbm word key) 8 with
          | .error e => .next (s.homeError h 0x83 e)
          | .ok old =>
            let s := match atomicNew code (leNat old) (leNat (bs.take 8)) (leNat ((bs.drop 8).take 8)) with
              | some v => (s.writeLoc (.hbm word key) (leBytes 8 v)).toOption.getD s
              | none => s
            let s := s.chargeSectors 32 none pa 128 .atomic
            .next (s.reachAnswer h 0x83 0 fun hdr => s.reachSeal (s.ev.n % 8 / 2) key hdr old)

/-! ## The requester (R415) -/

/-- The message that an answer belongs to, with its key. -/
def State.asked (s : State) (h kind : Nat) : Option (Nat × ReachReq) :=
  let k := s.ev.n % 8 / 2 * 2 ^ 16 + hdrField h 32 16
  match mget none s.reachReqs k with
  | some q => if q.kind = kind && q.home = hdrField h 8 6 then some (k, q) else none
  | none => none

def State.dropReach (s : State) (k : Nat) : State := { s with reachReqs := mset none s.reachReqs k none }

/-- Does the strand of a message still wait for it? What was discarded with a rollback or a stop is not (R341). -/
def State.stillAsks (s : State) (k : Nat) (q : ReachReq) : Bool :=
  let t := s.strand q.who
  t.mcx == q.mcx && (t.st == .blocked || t.st == .halted) && t.waits.any fun w => match w with
    | .reach d tag => d * 2 ^ 16 + tag == k
    | .cwait (.remote _ _ _) r => respKey .x r == q.slot
    | _ => false

/-- A boosted load whose access fails poisons its entry, with the first failure of several; one to x0 leaves nothing (R189). -/
def Strand.poisonResp (t : Strand) (slot cause addr : Nat) : Strand :=
  (t.resp.filter fun w => respKey w.file w.reg == slot).foldl (fun t w => match w.shadow with
    | some k => { t with core := t.core.setShadow k { t.core.shadow k with poison := (t.core.shadow k).poison.getD (cause, addr) } }
    | none => t) t

/-- Does a group wait for an answer from another module for a node? -/
def State.awaitsNode (s : State) (mcx node : Nat) : Bool := (s.group mcx).any fun g => g.conds.contains (node, none)

/-- A node no longer waits for its answer. -/
def State.nodeAnswered (s : State) (mcx node : Nat) : State := s.updGroup mcx fun g => { g with conds := g.conds.erase (node, none) }

/-- The condition word of a node arrives from its home (R37). -/
def State.condArrived (s : State) (mcx node : Nat) (b : Bool) : State :=
  if s.awaitsNode mcx node then ((s.nodeAnswered mcx node).condGoes mcx node b).settle mcx else s

/-- A write of a bind block or of a payload has been answered: the bind goes on once all of its writes have been (R312, R314). -/
def State.bindAnswered (s : State) (mcx : Nat) : State :=
  match s.group mcx with
  | none => s
  | some g => if s.awaitsNode mcx bindNode && !s.bindAsks mcx g then ((s.nodeAnswered mcx bindNode).bindEnd mcx).settle mcx else s

/-- A write of a bind block or of a payload fails at its home (R366, R369): the bind's write waits on a fault; the payload's request ends with the cause (R411). -/
def State.ringFail (s : State) (q : ReachReq) (cause : Nat) : State :=
  if q.sector = 0 then
    (if s.awaitsNode q.mcx bindNode then ((s.nodeAnswered q.mcx bindNode).nodeFault q.mcx bindNode { cause := cause, addr := q.ea, remote := true }).settle q.mcx
    else s)
  else if (s.waitingOf q.mcx).any fun r => r.order == q.sector && !r.dead then
    (s.markDead q.mcx (fun r => r.order == q.sector) nrpFailed cause).dispatch (s.partOf q.mcx)
  else if (s.group q.mcx).any fun g => g.req.order == q.sector then (s.endRequest q.mcx cause).settle q.mcx
  else s

/-- An access of the whorl fails at its home: a condition read or an acknowledgement word (R366, R369). -/
def State.whorlFail (s : State) (q : ReachReq) (cause : Nat) : State :=
  let f : MemFault := { cause := cause, addr := q.ea, remote := true }
  let asks := q.slot ≠ 4097 || s.awaitsNode q.mcx q.sector
  let s := if q.slot = 4097 then s.nodeAnswered q.mcx q.sector else s
  if (s.group q.mcx).isNone || !asks then s
  else if cause = cMemUe then (s.endRequest q.mcx cMemUe).settle q.mcx
  else if q.slot = 4097 then s.nodeFault q.mcx q.sector f
  else s.ackFault q.mcx { loc := .remote q.home q.pa q.key, ea := q.ea, named := q.atom.1 } q.sector f

/-- An access fails at its home, or has no answer (R369). -/
def State.reachFail (s : State) (k : Nat) (q : ReachReq) (cause : Nat) : State :=
  let asks := s.stillAsks k q
  let s := s.dropReach k
  if q.cid ≠ 0 then (match s.copyJob q.cid with
    | some j =>
      let s := if cause = cMemUe then s else s.postCopyFault j { cause := cause, addr := q.ea, remote := true } (if q.kind = 2 || q.slot = 1 then 5 else 4)
      s.failCopy j cause
    | none => s)
  else if q.who = hostWho then
    (if q.kind = 2 && cause ≠ cMemUe then s.parkWrite k q { cause := cause, addr := q.ea, remote := true }
    else s.copyCame q.slot q.ea [BitVec.ofNat 8 cause])
  else if 2 ^ 21 ≤ q.who then { s with reachIn := mset [] s.reachIn (rovingKey (q.who - 2 ^ 21) q.slot q.sector) [BitVec.ofNat 8 cause] }
  else if q.slot = 4097 || q.slot = 4098 then s.whorlFail q cause
  else if q.slot = 4099 then s
  else if q.slot = 4100 then s.settle q.mcx
  else if q.slot = slotRingWrite then s.ringFail q cause
  else if q.slot = slotRingRead then { s with reachIn := mset [] s.reachIn (ringKey q.mcx q.ea) [BitVec.ofNat 8 cause] }.settle q.mcx
  else if 2 ^ 20 ≤ q.who then s
  else if q.kind = 2 then (if cause = cMemUe then s.lateFault q.who cause else s.parkWrite k q { cause := cause, addr := q.ea, remote := true })
  else if q.slot = 4096 then s.reelFail q.who (.fault { cause := cause, addr := q.ea, remote := true })
  else if asks && cause ≠ cMemUe && q.boost then s.updStrand q.who fun t => t.poisonResp q.slot cause q.ea
  else if asks then
    let s : State := { s with reachReqs := s.reachReqs.filter fun p => match p.2 with
      | some r => !(r.who == q.who && r.kind != 2 && r.slot != 4096)
      | none => true }
    s.takeFault q.who { cause := cause, addr := q.ea, remote := true } (if q.kind = 3 then 2 else 0) q.lslot false
  else s

/-- A pending result with the bytes of an answer in their places. -/
def RW.fillFrom (w : RW) (q : ReachReq) (bs : List Byte) : RW :=
  if respKey w.file w.reg = q.slot then
    let v := q.fill.foldl (fun v p => setField v p.2.2 (8 * p.2.1) (leNat ((bs.drop p.1).take p.2.1))) w.val
    { w with val := if q.sx = 0 then v else signExt64 q.sx v }
  else w

/-- A message sent again for a word that has not come to what is waited for (R224, R237). -/
def State.askAgain (s : State) (k : Nat) (q : ReachReq) : State :=
  let d := k / 2 ^ 16
  let tag := (s.die d).reachTag.toNat
  ((s.reachRequest d { q with sent := 1 } 0 0 none).1).updStrand q.who fun t =>
    { t with waits := t.waits.map fun w => if w = .reach d (k % 2 ^ 16) then .reach d tag else w }

/-- The wait of an ACQ with its word at another place. -/
def Wait.acqMoved (w : Wait) (l : Loc) : Wait :=
  match w with
  | .acq _ ea thr reg sc => .acq l ea thr reg sc
  | w => w

/-- An ACQ reads its word again: an access of its own, which translates afresh (R224, R300, R362). Where that faults the bundle is presented again. -/
def State.acqAgain (s : State) (k : Nat) (q : ReachReq) : State :=
  let move (s : State) (l : Loc) : State := s.updStrand q.who fun t => { t with waits := t.waits.map fun w => w.acqMoved l }
  match s.place q.who q.ea .read with
  | .error _ => s.replay q.who
  | .ok (pl, s') => match pl.loc with
    | .remote home pa key =>
      if s.reachable home then (move s' pl.loc).askAgain k { q with home := home, pa := pa, key := key, inval := false } else s.replay q.who
    | l => (move s' l).updStrand q.who fun t => { t with waits := t.waits.filter (· != .reach (k / 2 ^ 16) (k % 2 ^ 16)) }

/-- Is a wait that of the ACQ or the CWAIT that sent a message? -/
def Wait.asks (w : Wait) (q : ReachReq) : Bool :=
  match w with
  | .acq (.remote _ _ _) _ _ r _ => respKey .x r == q.slot
  | .cwait (.remote _ _ _) r => respKey .x r == q.slot
  | _ => false

/-- The answer of a load of a strand: the result, as the bundles before it have left the word at its home (R73); and what the ACQ or the CWAIT that sent the
message does with it. -/
def State.strandAnswer (s : State) (k : Nat) (q : ReachReq) (bs : List Byte) : State :=
  let t := s.strand q.who
  let word := leNat ((bs.drop (q.pa % 128)).take 8)
  match t.waits.find? fun w => w.asks q with
  | some (.acq l _ thr reg sc) =>
    if word < thr then s.acqAgain k q
    else (s.acquired q.who l reg sc word).updStrand q.who fun t => { t with waits := t.waits.filter fun w => !w.asks q }
  | some _ =>
    if !bitOf word 12 then s.askAgain k q
    else s.updStrand q.who fun t => { t with resp := t.resp.map fun w => w.fillFrom q bs, waits := t.waits.map fun w => if w.asks q then .resp else w }
  | none => s.updStrand q.who fun t => { t with resp := t.resp.map fun w => w.fillFrom q bs }

/-- A sector that has been opened goes to the party that asked for it. -/
def State.gotSector (s : State) (k : Nat) (q : ReachReq) (bs : List Byte) : State :=
  let asks := s.stillAsks k q
  let s := s.dropReach k
  if q.cid ≠ 0 then s.updCopy q.cid fun j =>
    if q.slot = 1 then { j with olds := mset [] j.olds q.sector bs, asked := j.asked.filter (· != 2 ^ 60 + q.sector) }
    else { j with cache := mset [] j.cache q.sector bs, asked := j.asked.filter (· != q.sector) }
  else if q.who = hostWho then s.copyCame q.slot q.ea bs
  else if 2 ^ 21 ≤ q.who then { s with reachIn := mset [] s.reachIn (rovingKey (q.who - 2 ^ 21) q.slot q.sector) bs }
  else if q.slot = 4096 then s.updStrand q.who fun t => { t with reelIn := mset [] t.reelIn q.sector bs }
  else if q.slot = 4097 then s.condArrived q.mcx q.sector (leNat ((bs.drop (q.pa % 128)).take 8) != 0)
  else if q.slot = slotRingRead then { s with reachIn := mset [] s.reachIn (ringKey q.mcx q.ea) bs }.settle q.mcx
  else if asks then s.strandAnswer k q bs
  else s

/-- The plaintext of a READRSP's sector; none when its MAC does not match (R388, R415). -/
def State.openSector (s : State) (q : ReachReq) (b : List Byte) : Option (List Byte) :=
  let bs := b.take 128
  let n := q.pa / 128
  if bs.length ≠ 128 then none
  else if q.key = 0 then some bs
  else if Config.sectorMac (s.kmac q.key) (128 * n) q.key (leNat bs) ≠ BitVec.ofNat 32 (leNat ((b.drop 128).take 4)) then none
  else some ((List.range 128).map fun i => Config.xtsDec (s.kxts q.key) n (leNat bs) i)

/-- An answer that arrives: its message, and what its status comes to. -/
def State.answer (s : State) (type kind : Nat) (k : State → Nat → ReachReq → State) : Result :=
  s.reachIn? type fun s h => match s.asked h kind with
    | none => .next s
    | some (key, q) =>
      let s := match q.ctx? with
        | some m => s.lea m 4 s.ev.bytes.length
        | none => s
      let s := match q.susp with
        | some (d, e) => s.withdraw d e
        | none => s
      if hdrField h 24 8 ≠ 0 then .next (s.reachFail key q (hdrField h 24 8)) else .next (k s key q)

/-- The party that a message names in the error log: a strand, or the whorl of its context. -/
def State.askedBy (s : State) (q : ReachReq) : Nat := if 2 ^ 20 ≤ q.who then s.whorlWho q.mcx else whoOf q.who

/-- A sector of another module whose MAC does not match: it is logged as an uncorrectable error of kind 0x03, with the error notice (R389, R415, R439). -/
def State.remoteMac (s : State) (k : Nat) (q : ReachReq) : State :=
  (s.logError (k / 2 ^ 16) 0x03 0 q.ctx? 0 (q.pa / 128 * 128) (s.askedBy q) cMemUe).errorNotice q.ctx? (s.askedBy q) cMemUe q.ea

/-- READRSP (R415). A MAC mismatch is an uncorrectable error. -/
def execReadrsp (s : State) : Result :=
  s.answer 0x81 1 fun s k q => match s.openSector q (s.ev.bytes.drop 32) with
    | none => (s.remoteMac k q).reachFail k q cMemUe
    | some bs => s.gotSector k q bs

/-- A plain store of a strand to a remote page has been performed: the words that it wrote carry no release tag (R149). -/
def State.storeAnswered (s : State) (q : ReachReq) : State :=
  if q.sync.isNone && q.who < 2 ^ 20 && q.slot != 4099 then s.clearTags (.remote q.home q.pa q.key) q.data.length else s

/-- WRITEACK: the write has been performed at its home (R147, R228, R415). -/
def execWriteack (s : State) : Result :=
  s.answer 0x82 2 fun s k q =>
    let s := (s.dropReach k).storeAnswered q
    if q.cid ≠ 0 then (s.updCopy q.cid fun j => { j with acks := j.acks - 1 }).copyProgress q.cid
    else if q.slot = 4100 then s.settle q.mcx
    else if q.slot = slotRingWrite then s.bindAnswered q.mcx
    else if 2 ^ 20 ≤ q.who || s.mcxOf q.who ≠ q.mcx || (s.strand q.who).st = .saved then s
    else s.arriveNow q.who

/-- The acquire and the release of an atomic on a sync word in a remote page, once it has been performed (R148, R149). -/
def State.atomicSync (s : State) (q : ReachReq) (old : Nat) : State :=
  match q.sync with
  | none => s
  | some sc =>
    let l : Loc := .remote q.home q.pa q.key
    let s := s.updCore q.who fun c => c.stick (missBit (scopeMiss q.who sc (s.relTag l old)))
    match atomicNew q.atom.1 old q.atom.2.1 q.atom.2.2 with
    | some v => s.setTag q.who sc l v
    | none => s

/-- ATOMICRSP: the old value (R415). -/
def execAtomicrsp (s : State) : Result :=
  s.answer 0x83 3 fun s k q => match s.reachOpen s.reachHdr with
    | none => s.reachFail k q cMemUe
    | some bs =>
      let asks := s.stillAsks k q
      let s := s.dropReach k
      let s := s.atomicSync q (leNat bs)
      if q.slot = 4099 then s.telemetryPut q.mcx q.who (leNat bs) (q.fill.map fun p => p.1)
      else if asks then s.updStrand q.who fun t => { t with resp := t.resp.map fun w => w.fillFrom q bs } else s

/-- REACH_TIMEOUT: the message with tag `ev.m` of die `ev.n` has had no answer within REACHTMO: a READ is sent again up to three times, and then, or for any
other kind, the access faults PROT (R415). -/
def execReachTimeout (s : State) : Result :=
  let d := s.ev.n % 4
  let k := d * 2 ^ 16 + s.ev.m % 2 ^ 16
  match mget none s.reachReqs k with
  | none => .next s
  | some q =>
    if q.susp.isSome then .next s
    else if q.kind = 1 && q.sent < 4 then
      .next ({ s with reachReqs := mset none s.reachReqs k (some { q with sent := q.sent + 1 }) }.reachSend d q.home q.ctx? q.msg)
    else .next (s.reachFail k q cProt)

end Sys2Proof.Machine
end

