-- ==== Sys2Proof/Machine/Links.lean ====
section
/-! DEFINITION. The Ethernet ports: NRP packets, their checks and answers (R404 to R409), replies (R410, R411), and the frames that a port accepts or
answers itself (R401, R402). -/

namespace Sys2Proof.Machine

open Sys2Proof

/-- The destination of an answer: a tagged one carries NRPPCP (R410). -/
def Port.answerTo (p : Port) (src : Nat) : Nat := if bitOf src 23 then setField src 37 3 p.nrpPcp else src

/-! ## NRP packets (R404 to R406) -/

/-- A header. -/
def nrpHeader (opc flags fkey reqid len nonce : Nat) : List Byte :=
  leBytes 32 (1 + 0x4E5 * 2 ^ 4 + opc * 2 ^ 16 + flags * 2 ^ 24 + fkey * 2 ^ 32 + reqid % 2 ^ 32 * 2 ^ 96 + len * 2 ^ 128 + nonce * 2 ^ 160)

/-- The nonce of segment k of a reply, and of an authenticated error (R406). -/
def replyNonce (n k : Nat) : Nat := 2 ^ 95 + k % 2 ^ 15 * 2 ^ 80 + n % 2 ^ 80
def errorNonce (n : Nat) : Nat := replyNonce n 0x7FFF

/-- A packet leaves its port; its payload counts to the context (R426). -/
def State.nrpOut (s : State) (x : Option Nat × Packet) : State :=
  let s1 : State := { s with sent := s.sent ++ [x.2] }
  match x.1 with
  | some m => s1.lea m 4 x.2.bytes.length
  | none => s1

/-- An NRP packet goes to where a request came from, from NRPPORT (R410). While its port does not send it waits there (R401). -/
def State.nrpSend (s : State) (p src : Nat) (mcx : Option Nat) (bs : List Byte) : State :=
  let x := (mcx, s.packet p ((s.port p).answerTo src) (s.port p).nrpPort bs)
  if (s.port p).on then s.nrpOut x else { s with outbox := s.outbox ++ [x] }

/-- A port that can send again sends what waits for it, in order. -/
def State.flushPort (s : State) (p : Nat) : State :=
  if !(s.port p).on then s
  else (s.outbox.filter fun x => x.2.port == p).foldl State.nrpOut { s with outbox := s.outbox.filter fun x => x.2.port != p }

/-- A payload sealed behind its header. -/
def State.nrpSeal (s : State) (mcx nonce : Nat) (hdr plain : List Byte) : List Byte :=
  let c := Config.gcmSeal (s.kgcm (s.hw mcx 2 % 2 ^ 16)) (leBytes 12 nonce) hdr plain
  hdr ++ c.1 ++ c.2

/-- An authenticated ERROR (R406, R409, R411). -/
def State.errorPacket (s : State) (mcx p src reqid nonce code cause : Nat) : State :=
  s.nrpSend p src (some mcx)
    (s.nrpSeal mcx (errorNonce nonce) (nrpHeader 0x83 2 (s.hw mcx 0) reqid (code + cause % 256 * 2 ^ 8) (errorNonce nonce)) [])

/-- A plaintext ERROR, while the port's allowance lasts (R406, R409). -/
def State.plainError (s : State) (mcx : Option Nat) (p src fkey reqid nonce code : Nat) : State :=
  let x := s.port p
  if x.rate.toNat ≤ x.used then s.setPort p { x with dropRate := x.dropRate + 1 }
  else (s.setPort p { x with used := x.used + 1 }).nrpSend p src mcx (nrpHeader 0x83 0 fkey reqid code nonce ++ List.replicate 16 0)

/-- PERRATE_WINDOW: the window of port `ev.n` ends (R403, R409). -/
def execPerrateWindow (s : State) : Result := .next (s.updPort (s.ev.n % 8) fun x => { x with used := 0 })

/-! ## Replies (R410, R411) -/

/-- The ERROR of an ended request. -/
def State.replyError (s : State) (r : Reply) (code cause : Nat) : State := s.errorPacket r.mcx r.req.port r.req.src r.req.id r.req.nonce code cause

/-- The largest payload of a segment (R410). -/
def Port.segment (p : Port) (v6 : Bool) : Nat := p.mtu - (if v6 then 40 else 20) - 8 - 48

/-- The segments of a reply, from segment k at an offset. -/
def State.replySegments (s : State) (r : Reply) (code size : Nat) : Nat → Nat → Nat → List Byte → State
  | 0, _, _, _ => s
  | fuel + 1, k, off, bs =>
    let more := decide (size < bs.length)
    let nonce := replyNonce r.req.nonce k
    let hdr := nrpHeader 0x81 more.toNat (s.hw r.mcx 0) r.req.id (off % 2 ^ 24 + code % 256 * 2 ^ 24) nonce
    let s := s.nrpSend r.req.port r.req.src (some r.mcx) (s.nrpSeal r.mcx nonce hdr (bs.take size))
    if more then State.replySegments s r code size fuel (k + 1) (off + size) (bs.drop size) else s

/-- A reply, or an error in its place (R410, R411). -/
def State.sendReply (s : State) (r : Reply) : State :=
  match r.done with
  | .inr (code, cause) => s.replyError r code cause
  | .inl code =>
    let size := (s.port r.req.port).segment (srcV6 r.req.src)
    s.replySegments r code size (r.body.length / size + 1) 0 0 r.body

/-- Every answer of a context that waits is sent. -/
def State.flushReplies (s : State) (mcx : Nat) : State :=
  let mine := s.replies.filter fun r => r.mcx == mcx
  mine.foldl State.sendReply { s with replies := s.replies.filter fun r => r.mcx != mcx }

/-- REPLY_SEND: of the answers that wait, the one with number `ev.n` leaves, once its port can send (R401, R410, R411) -/
def execReplySend (s : State) : Result :=
  match s.replies[s.ev.n % max 1 s.replies.length]? with
  | none => .next s
  | some r =>
    if !(s.port r.req.port).on then .next s
    else .next ({ s with replies := s.replies.eraseIdx (s.ev.n % max 1 s.replies.length) }.sendReply r)

/-! ## The parser (R407, R408) -/

/-- Are packets and commands served: the state is DEPLOYED, and no LCREQ runs (R396, R397)? -/
def State.serving (s : State) : Bool := s.keng.lcs == 2 && !(s.keng.cmd.any fun c => c.1 == 6)

/-- An accepted REQUEST: its payload goes to the slot at QTAIL, and it is enqueued (R309, R311). A write that fails ends it with the cause; one to a remote
page that fails later carries the number by which the request arrives. -/
def State.acceptRequest (s : State) (mcx p src reqid nonce : Nat) (plain : List Byte) : State :=
  let slot := ((s.ctx mcx).map fun c => c.qtail).getD 0
  match s.ctxWrite mcx (s.fresh).1 (cutAt (s.reqAddr mcx slot) plain) with
  | .error f => (s.ringUe mcx f).errorPacket mcx p src reqid nonce nrpFailed f.cause
  | .ok s' => s'.enqueueReq mcx { id := reqid, nonce := nonce, len := plain.length, port := p, src := src }

/-- What a REQUEST with a bad tag leaves in its slot is undefined (R309). Its writes carry a number of no request. -/
def State.spoilSlot (s : State) (mcx len : Nat) : State :=
  match s.ctx mcx with
  | none => s
  | some c =>
    if s.ringSize mcx ≤ c.qcount then s
    else
      let n := s.tick
      let o := n.2.fresh
      let bs := (List.range (min len (s.slotSize mcx))).map (Config.freeByte n.1)
      match o.2.ctxWrite mcx o.1 (cutAt (s.reqAddr mcx c.qtail) bs) with
      | .ok s' => s'
      | .error f => s.ringUe mcx f

/-- Steps 7 to 10 of R407 for a context. `again` is the packet, presented again when its record waits for room (R310). -/
def State.nrpContext (s : State) (mcx p src : Nat) (b : List Byte) (again : Act) : State :=
  let h := leNat (b.take 32)
  let fkey := hdrField h 32 64
  let reqid := hdrField h 96 32
  let len := hdrField h 128 24
  let nonce := hdrField h 160 96
  let drop (code : Nat) (s : State) : State := (s.drop p code).plainError (some mcx) p src fkey reqid nonce code
  match (if s.ctxCode mcx = 4 then LoadRes.fails s else s.loadCtx mcx) with
  | .waits => s.later again
  | .fails s' => drop nrpUnavailable s'
  | .loaded s =>
    match Config.gcmOpen (s.kgcm (s.hw mcx 2 % 2 ^ 16)) (leBytes 12 nonce) (b.take 32) ((b.drop 32).take (b.length - 48)) (b.drop (b.length - 16)) with
    | none => (if hdrField h 16 8 = 1 then (drop 0x04 s).spoilSlot mcx len else drop 0x04 s)
    | some plain =>
      let s := s.lea mcx 4 b.length
      if hdrField h 16 8 = 2 then (s.cancelReqs mcx fun r => r.id == reqid).getD s
      else if s.slotSize mcx < len then (s.drop p 0x07).errorPacket mcx p src reqid nonce 0x07 0
      else if s.ringSize mcx ≤ ((s.ctx mcx).map fun c => c.qcount).getD 0 then (s.drop p 0x06).errorPacket mcx p src reqid nonce 0x06 0
      else s.acceptRequest mcx p src reqid nonce plain

/-- The checks of R407 on the packet `ev.bytes` that port `ev.n` has received from the source `ev.m`. -/
def State.nrpPacket (s : State) (again : Instr) : Result :=
  let p := s.ev.n % 8
  let src := s.ev.m
  let b := s.ev.bytes
  let h := leNat (b.take 32)
  let opc := hdrField h 16 8
  let drop (code : Nat) : State := (s.drop p code).plainError none p src (hdrField h 32 64) (hdrField h 96 32) (hdrField h 160 96) code
  if !(s.port p).on then .next s
  else if b.length < 48 || hdrField h 4 12 ≠ 0x4E5 then .next (s.drop p 0)
  else if !s.serving then .next (drop 0x0C)
  else if opc ≠ 1 && opc ≠ 2 then .next (drop 0x01)
  else if hdrField h 0 4 ≠ 1 || hdrField h 24 8 ≠ 0 || hdrField h 152 8 ≠ 0 || hdrField h 240 16 ≠ 0 then .next (drop 0x02)
  else if (opc = 1 && hdrField h 128 24 ≠ b.length - 48) || (opc = 2 && b.length ≠ 48) then .next (drop 0x02)
  else match s.keyFind (hdrField h 32 64) with
    | none => .next (drop 0x03)
    | some mcx => .next (s.nrpContext mcx p src b { ev := s.ev, i := again })

/-- NRP_REQUEST (R407). -/
def execNrpRequest (s : State) : Result := s.nrpPacket .nrpRequest

/-- NRP_CANCEL (R408). -/
def execNrpCancel (s : State) : Result := s.nrpPacket .nrpCancel

/-! ## Frames (R402). The layouts of the network layers are those of their standards (notes/assumptions/72.md). -/

def beBytes (n x : Nat) : List Byte := (leBytes n x).reverse
/-- n bytes of a list from an offset, as a big-endian number. -/
def beAt (bs : List Byte) (o n : Nat) : Nat := beNat ((bs.drop o).take n)

/-- One byte of the CRC of an Ethernet frame check. -/
def crcByte (c : BitVec 32) (b : Byte) : BitVec 32 :=
  (List.range 8).foldl (fun c _ => if c.getLsbD 0 then (c >>> 1) ^^^ 0xEDB88320 else c >>> 1) (c ^^^ b.zeroExtend 32)
/-- The FCS of a frame. -/
def fcs (bs : List Byte) : List Byte := leBytes 4 (~~~(bs.foldl crcByte 0xFFFFFFFF)).toNat

/-- The sum of the 16-bit words of a list, by which the checksums of the Internet layers are made. -/
def wordSum : List Byte → Nat
  | a :: b :: r => a.toNat * 256 + b.toNat + wordSum r
  | [a] => a.toNat * 256
  | [] => 0
def sumOk (n : Nat) : Bool := n % 65535 == 0
def sumField (n : Nat) : List Byte := beBytes 2 (65535 - n % 65535)

/-- A frame with its addresses, tag, type and body. -/
structure Eth where
  dst : Nat
  src : Nat
  tci : Option Nat
  etype : Nat
  body : List Byte

def Eth.parse (b : List Byte) : Option Eth :=
  if b.length < 18 || fcs (b.take (b.length - 4)) != b.drop (b.length - 4) then none
  else
    let b := b.take (b.length - 4)
    let t := beAt b 12 2
    if t ≠ 0x8100 then some ⟨beAt b 0 6, beAt b 6 6, none, t, b.drop 14⟩
    else if beAt b 16 2 = 0x8100 then none
    else some ⟨beAt b 0 6, beAt b 6 6, some (beAt b 14 2), beAt b 16 2, b.drop 18⟩

def Eth.bytes (e : Eth) : List Byte :=
  let b := beBytes 6 e.dst ++ beBytes 6 e.src ++ (match e.tci with | some t => beBytes 2 0x8100 ++ beBytes 2 t | none => []) ++ beBytes 2 e.etype ++ e.body
  let b := b ++ List.replicate (60 - b.length) 0
  b ++ fcs b

/-- A frame that the port makes itself; its destination is written as 2^168. -/
def State.sendFrame (s : State) (p : Nat) (e : Eth) : State := { s with sent := s.sent ++ [{ port := p, dst := 2 ^ 168, bytes := e.bytes }] }

/-- Is a frame an IEEE 802.1Qbb pause frame for a priority that the port honours (R402)? Its layout is that of its standard (notes/assumptions/72.md). -/
def Eth.pauses (e : Eth) (p : Port) : Bool :=
  e.etype == 0x8808 && e.tci.isNone && e.dst == 0x0180C2000001 && beAt e.body 0 2 == 0x0101 && (beAt e.body 2 2 % 2 ^ 8 &&& p.pfcen) != 0

/-- An answer to a frame. -/
def Eth.answer (e : Eth) (p : Port) (body : List Byte) : Eth := { e with dst := e.src, src := p.mac.toNat, body := body }

/-- The answer to an ARP request for the port's address. -/
def Eth.arp (e : Eth) (p : Port) : Option Eth :=
  let b := e.body
  if beAt b 0 8 = 0x0001080006040001 && p.ip4 ≠ 0 && beAt b 24 4 = p.ip4.toNat then
    some (e.answer p (beBytes 8 0x0001080006040002 ++ beBytes 6 p.mac.toNat ++ beBytes 4 p.ip4.toNat ++ (b.drop 8).take 10))
  else none

/-- What an IP packet holds: version 6, source, DSCP, protocol and payload. -/
structure Ip where
  v6 : Bool
  src : Nat
  dscp : Nat
  proto : Nat
  data : List Byte

/-- The IP packet of a frame, if the port accepts it (R402). -/
def Eth.ip (e : Eth) (p : Port) : Option Ip :=
  let b := e.body
  if e.etype = 0x0800 then
    let len := beAt b 2 2
    if beAt b 0 1 = 0x45 && beAt b 6 2 % 2 ^ 14 = 0 && sumOk (wordSum (b.take 20)) && p.ip4 ≠ 0 && beAt b 16 4 = p.ip4.toNat && 20 ≤ len && len ≤ b.length
        && len ≤ p.mtu then
      some ⟨false, beAt b 12 4, beAt b 1 1 / 4, beAt b 9 1, (b.take len).drop 20⟩
    else none
  else if e.etype = 0x86DD then
    let len := 40 + beAt b 4 2
    let own := p.ip6lo.toNat + p.ip6hi.toNat * 2 ^ 64
    if beAt b 0 1 / 16 = 6 && own ≠ 0 && beAt b 24 16 = own && len ≤ b.length && len ≤ p.mtu then
      some ⟨true, beAt b 8 16, beAt b 0 2 / 64 % 64, beAt b 6 1, (b.take len).drop 40⟩
    else none
  else none

/-- The sum of the pseudo-header of a datagram. -/
def Ip.pseudo (i : Ip) (p : Port) : Nat :=
  let own := if i.v6 then beBytes 16 (p.ip6lo.toNat + p.ip6hi.toNat * 2 ^ 64) else beBytes 4 p.ip4.toNat
  wordSum (beBytes (if i.v6 then 16 else 4) i.src ++ own) + i.proto + i.data.length

/-- The IP packet of an ICMP answer. -/
def Ip.reply (i : Ip) (p : Port) (data : List Byte) : List Byte :=
  if i.v6 then
    beBytes 2 (6 * 2 ^ 12 + i.dscp * 2 ^ 6) ++ beBytes 2 0 ++ beBytes 2 data.length ++ beBytes 1 58 ++ beBytes 1 255
      ++ beBytes 16 (p.ip6lo.toNat + p.ip6hi.toNat * 2 ^ 64) ++ beBytes 16 i.src ++ data
  else
    let h := beBytes 2 (0x4500 + i.dscp * 4) ++ beBytes 2 (20 + data.length) ++ beBytes 4 0 ++ beBytes 1 64 ++ beBytes 1 1
    let a := beBytes 4 p.ip4.toNat ++ beBytes 4 i.src
    h ++ sumField (wordSum (h ++ a)) ++ a ++ data

/-- The answers to ICMP and ICMPv6 echo requests and to a neighbour solicitation for the port's address (R402). -/
def Ip.icmp (i : Ip) (p : Port) : Option (List Byte) :=
  let d := i.data
  if !i.v6 then
    if i.proto = 1 && beAt d 0 2 = 0x0800 && sumOk (wordSum d) then
      some (i.reply p (beBytes 2 0 ++ sumField (wordSum (d.drop 4)) ++ d.drop 4))
    else none
  else if i.proto ≠ 58 || !sumOk (i.pseudo p + wordSum d) then none
  else
    let make (head rest : List Byte) : List Byte :=
      let n := head.length + 2 + rest.length
      i.reply p (head ++ sumField ({ i with data := List.replicate n 0 }.pseudo p + wordSum (head ++ beBytes 2 0 ++ rest)) ++ rest)
    if beAt d 0 2 = 0x8000 then some (make (beBytes 2 0x8100) (d.drop 4))
    else if beAt d 0 2 = 0x8700 && beAt d 8 16 = p.ip6lo.toNat + p.ip6hi.toNat * 2 ^ 64 then
      some (make (beBytes 2 0x8800) (beBytes 4 0x60000000 ++ (d.drop 8).take 16 ++ beBytes 2 0x0201 ++ beBytes 6 p.mac.toNat))
    else none

/-- The UDP payload of an accepted datagram: source port, destination port, payload (R402). -/
def Ip.udp (i : Ip) (p : Port) : Option (Nat × Nat × List Byte) :=
  let d := i.data
  if i.proto = 17 && 8 ≤ d.length && beAt d 4 2 = d.length && ((!i.v6 && beAt d 6 2 = 0) || (beAt d 6 2 ≠ 0 && sumOk (i.pseudo p + wordSum d))) then
    some (beAt d 0 2, beAt d 2 2, d.drop 8)
  else none

/-- The row of a reach message. -/
def reachRow (b : List Byte) : Option Instr :=
  match (b.getD 0 0).toNat with
  | 0x01 => some .read | 0x02 => some .write | 0x03 => some .atomic | 0x81 => some .readrsp | 0x82 => some .writeack | 0x83 => some .atomicrsp
  | _ => none

/-- ETHERNET_FRAME: port `ev.n` receives the frame `ev.bytes`, its check sequence last (R402). A datagram's own row runs next. -/
def execEthernetFrame (s : State) : Result :=
  let n := s.ev.n % 8
  let p := s.port n
  let dropped : Result := .next (s.drop n 0)
  if !p.on then .next s
  else match Eth.parse s.ev.bytes with
    | none => dropped
    | some e =>
      if e.pauses p then .next s
      else if e.etype = 0x0806 && (e.dst = p.mac.toNat || e.dst = 2 ^ 48 - 1) then (match e.arp p with
        | some a => .next (s.sendFrame n a)
        | none => dropped)
      else if e.dst ≠ p.mac.toNat then dropped
      else match e.ip p with
        | none => dropped
        | some i => match i.icmp p with
          | some body => .next (s.sendFrame n (e.answer p body))
          | none => match i.udp p with
            | none => dropped
            | some (sp, dp, data) =>
              let src := srcCode i.v6 sp i.dscp e.tci i.src
              if dp = p.nrpPort then
                .next (s.push { ev := { n := n, m := src, bytes := data }, i := if (data.getD 2 0) = 2 then .nrpCancel else .nrpRequest })
              else if dp = p.reachPort then (match reachRow data with
                | some r => .next (s.push { ev := { n := n, m := src, bytes := data }, i := r })
                | none => dropped)
              else dropped

/-- LINK_STATE_CHANGE: the link of port `ev.n` comes up if the flag is set, and goes down otherwise (R401). -/
def execLinkStateChange (s : State) : Result := .next ((s.updPort (s.ev.n % 8) fun x => { x with up := s.ev.flag }).flushPort (s.ev.n % 8))

end Sys2Proof.Machine
end

