-- ==== Sys2Proof/Machine/HostCmd.lean ====
section
/-! DEFINITION. Host management: the queues of the functions and their doorbells (R323, R418, R419, R421), the interval table (R325), the commands (R324, R328)
and their completions (R326, R327), and the partition watchdog with the partition reset (R329, R330). A command's row names the command in `ev.n`. -/

namespace Sys2Proof.Machine

open Sys2Proof

/-! ## Host memory, by function and IOVA (notes/assumptions/75.md) -/

def hostKey (f a : Nat) : Nat := f * 2 ^ 64 + a % 2 ^ 64
def State.hostRead (s : State) (f a n : Nat) : List Byte := getBytes s.hostMem (hostKey f a) n
def State.hostWrite (s : State) (f a : Nat) (bs : List Byte) : State := { s with hostMem := putBytes s.hostMem (hostKey f a) bs }

/-! ## Commands (R323) -/

def Cmd.w (c : Cmd) (k : Nat) : Nat := (c.ws.getD k 0).toNat
def Cmd.opc (c : Cmd) : Nat := c.w 0 % 2 ^ 8
def Cmd.nrange (c : Cmd) : Nat := c.w 0 / 2 ^ 8 % 4
def Cmd.mcx (c : Cmd) : Nat := c.w 0 / 2 ^ 18 % 2 ^ 14
def Cmd.cid (c : Cmd) : Nat := c.w 0 / 2 ^ 32
def Cmd.arg (c : Cmd) : Nat := c.w 1
def Cmd.base (c : Cmd) (k : Nat) : Nat := c.w (2 + 2 * k) % 2 ^ 48
def Cmd.inHost (c : Cmd) (k : Nat) : Bool := bitOf (c.w (2 + 2 * k)) 62
def Cmd.wr (c : Cmd) (k : Nat) : Bool := bitOf (c.w (2 + 2 * k)) 63
def Cmd.len (c : Cmd) (k : Nat) : Nat := c.w (3 + 2 * k) % 2 ^ 48

/-- Two ranges conflict (R325). -/
def Cmd.conflict (c d : Cmd) : Bool :=
  (List.range c.nrange).any fun i => (List.range d.nrange).any fun j =>
    (c.inHost i == d.inHost j) && (c.inHost i || c.mcx == d.mcx) && (c.wr i || d.wr j)
      && decide (c.base i < d.base j + d.len j) && decide (d.base j < c.base i + c.len i)

/-- The commands of the table. -/
def State.cmdList (s : State) : List (Nat × Cmd) := s.cmds.filterMap fun p => p.2.map fun c => (p.1, c)

/-- Are host commands served (R396, R397)? -/
def State.hostServing (s : State) : Bool := s.keng.lcs != 4 && !(s.keng.cmd.any fun c => c.1 == 6)

/-- May an admitted command start: commands are served, and no earlier one of its function conflicts with it, or, for MARK, is still uncompleted (R324, R325,
R397)? -/
def State.mayStart (s : State) (c : Cmd) : Bool :=
  s.hostServing && (s.cmdList.all fun p => !(p.2.fn == c.fn && decide (p.2.order < c.order) && (c.opc == 6 || p.2.conflict c)))

/-- The ranges that each command declares (R324, R328): count, and for each its HOSTMEM and WR. -/
def rangesOk (c : Cmd) : Bool :=
  let shape (l : List (Option Bool × Bool)) : Bool := c.nrange == l.length && l.zipIdx.all fun p =>
    (match p.1.1 with | some h => c.inHost p.2 == h | none => true) && c.wr p.2 == p.1.2
  match c.opc with
  | 0x00 => true
  | 0x01 => shape [(some true, false)] && c.len 0 == 512
  | 0x03 => c.nrange != 0 && c.inHost 0 && !c.wr 0 && (List.range c.nrange).all fun k => k == 0 || !c.inHost k
  | 0x05 => shape [(none, false), (none, true)] && c.len 0 == c.len 1
  | 0x02 | 0x04 | 0x06 | 0x82 => c.nrange == 0
  | 0x80 => shape [(some true, false)]
  | 0x81 | 0x83 => shape [(some true, true)]
  | _ => false

/-- The must-be-zero bits of a submission entry (R323). -/
def Cmd.bitsOk (c : Cmd) : Bool :=
  c.w 0 / 2 ^ 10 % 2 ^ 8 == 0 && (List.range 3).all fun k => c.w (2 + 2 * k) / 2 ^ 48 % 2 ^ 14 == 0 && c.w (3 + 2 * k) / 2 ^ 48 == 0

/-- The declared ranges of a command: of at least one byte each, and those of its code (R323, R324, R328). -/
def Cmd.rangesFit (c : Cmd) : Bool := ((List.range c.nrange).all fun k => c.len k != 0) && rangesOk c

/-- Is a partition assigned to a function (R370)? -/
def State.assigned (s : State) (f q : Nat) : Bool := f == 0 || (s.part q).vfmask.getLsbD f

/-- The partition that a command of the distaff names: that of its context; an INSTALL of an EMPTY one brings it in its host line (R305, R324). -/
def State.cmdPart (s : State) (c : Cmd) : Nat :=
  if c.opc = 1 && s.ctxCode c.mcx = 0 then leNat (s.hostRead c.fn (c.base 0 + 16) 8) / 2 ^ 43 % 32 else s.partOf c.mcx

/-- The status of a command that is refused as it is admitted (R323, R324): PRIV, ILLEGAL, PROT. A firmware command of the PF goes to firmware, which answers for
its code, its ranges and its operands (R327, R328). -/
def State.refusal (s : State) (c : Cmd) : Option Nat :=
  if 0x80 ≤ c.opc then (if c.fn ≠ 0 then some cPriv else if c.bitsOk then none else some cIllegal)
  else if 6 < c.opc || !c.bitsOk || !c.rangesFit then some cIllegal
  else if s.assigned c.fn (s.cmdPart c) then none else some cProt

/-- Firmware has enabled the queues: until then BAR0's queue registers stand at their reset values and take no write (R442; notes/assumptions/4.md). -/
def State.barOpen (s : State) : Bool := (s.die 0).fw

/-! ## Queues (R418, R419) -/

/-- The index of entry k in a ring. -/
def HostFn.ring (f : HostFn) (k : Nat) : Nat := k % 2 ^ f.sqlog.toNat

/-- Has a queue an entry to fetch? -/
def HostFn.pending (f : HostFn) : Bool := f.en && !f.ferr && f.draining.isNone && f.ring f.sqhead.toNat != f.ring f.sqtail.toNat

/-- SQTAIL: the doorbell of function `ev.m` is written with `ev.v` (R323, R418). -/
def execSqtail (s : State) : Result :=
  .next <| if !s.barOpen then s else ((s.updFn (s.ev.m % 64) fun f => { f with sqtail := BitVec.ofNat 16 s.ev.v.toNat }).setEv 0 0x200)

/-- CQHEAD of function `ev.m` is written with `ev.v` (R418, R419). -/
def execCqhead (s : State) : Result := .next <| if !s.barOpen then s else (s.updFn (s.ev.m % 64) fun f => { f with cqhead := BitVec.ofNat 16 s.ev.v.toNat })

/-- The registers of a function reset (R421, R431): all of them, or those of R418. -/
def HostFn.reset (f : HostFn) (all : Bool) : HostFn :=
  if all then {} else { cntsel := f.cntsel, cntvec := f.cntvec, cnt := f.cnt, mtab := f.mtab, pba := f.pba }

/-- A drained function's registers return to their reset values once its last command has completed (R421). -/
def State.drainFn (s : State) (f : Nat) : State :=
  match (s.fn f).draining with
  | none => s
  | some all => if s.cmdList.any fun p => p.2.fn == f then s else s.setFn f ((s.fn f).reset all)

/-- A function's fetching stops, and its registers will be reset (R421 step 1). -/
def State.stopFetch (s : State) (f : Nat) (all : Bool) : State :=
  s.updFn f fun x => { x with sqtail := x.sqhead, draining := some (all || x.draining == some true) }

/-- An FLR, or a clear of EN (R421): fetching stops, the function's LAUNCH requests are cancelled, and its registers are reset once its commands
have completed. -/
def State.flrFn (s : State) (f : Nat) (all : Bool) : State :=
  let s := s.stopFetch f all
  let mine := s.cmdList.filter fun p => p.2.fn == f && p.2.opc == 3 && p.2.started && p.2.done.isNone
  (mine.foldl (fun s p => (s.cancelReqs p.2.mcx fun r => r.host && r.cmd == p.1).getD s) s).drainFn f

/-- SQCFG of function `ev.m` is written with `ev.v` (R418, R421). A LOG outside 4 to 12 is not taken, EN is (DESIGN CHOICE, notes/assumptions/59.md). -/
def execSqcfg (s : State) : Result :=
  let f := s.ev.m % 64
  let x := s.fn f
  let v := s.ev.v.toNat
  if !s.barOpen then .next s
  else if x.en then .next (if bitOf v 15 then s else s.flrFn f false)
  else
    let log := if 4 ≤ v % 16 && v % 16 ≤ 12 then BitVec.ofNat 4 v else x.sqlog
    .next (s.setFn f { x with sqlog := log, en := bitOf v 15 })

/-- FLR of function `ev.m`; one of the PF resets the VFs as well (R421). -/
def execFlr (s : State) : Result :=
  let f := s.ev.m % 64
  .next (if f = 0 then (List.range 64).foldl (fun s k => s.flrFn k true) s else s.flrFn f true)

/-- HOST_LINK_RESET: PERST#. The registers act as in an FLR of the PF; no request is touched (R441). -/
def execHostLinkReset (s : State) : Result := .next ((List.range 64).foldl (fun s k => (s.stopFetch k true).drainFn k) s)

/-! ## Firmware commands (R327) -/

/-- The next firmware command that may start is presented to firmware (R327, R328). -/
def State.presentNext (s : State) : State :=
  if (s.die 0).hqent.isSome then s
  else
    let ok := s.cmdList.filter fun p => decide (0x80 ≤ p.2.opc) && !p.2.started && p.2.done.isNone && s.mayStart p.2
    match (ok.insertionSort fun a b => a.2.order ≤ b.2.order).head? with
    | none => s
    | some (k, c) =>
      (s.setCmd k (some { c with started := true })).updDie 0 fun x =>
        { x with hqent := some (c.fn, c.idx), hqbuf := c.ws.flatMap fun w => leBytes 8 w.toNat }

/-- The command that firmware serves. -/
def State.presented (s : State) : Option (Nat × Cmd) :=
  match (s.die 0).hqent with
  | none => none
  | some (f, i) => s.cmdList.find? fun p => p.2.fn == f && p.2.idx == i

/-- The presented command completes, and the next one is presented (R327). -/
def State.firmwareDone (s : State) (status result : Nat) : State :=
  let s := match s.presented with
    | some (k, _) => s.cmdDone k status result
    | none => s
  (s.updDie 0 fun x => { x with hqent := none }).presentNext

/-- HQDONE is written with `ev.v` (R327). -/
def execHqdone (s : State) : Result :=
  .next (if (s.die 0).hqent.isSome then s.firmwareDone (s.ev.v.toNat % 2 ^ 8) (s.ev.v.toNat / 2 ^ 8) else s)

/-! ## Admission (R325) -/

/-- Entries of the interval table in use. -/
def State.intervals (s : State) : Nat := (s.cmdList.map fun p => p.2.nrange).sum

/-- The next entry of a function's ring. -/
def State.nextEntry (s : State) (f : Nat) : List Word :=
  let x := s.fn f
  (List.range 8).map fun k => BitVec.ofNat 64 (leNat (s.hostRead f (x.sqbase.toNat + 64 * x.ring x.sqhead.toNat + 8 * k) 8))

/-- The function whose command is admitted next: round robin in ascending number, among the queues that have room for theirs. -/
def State.nextQueue (s : State) : Option Nat :=
  let from_ := mget 0 (s.die 0).ptr 4
  ((List.range 64).map fun k => (from_ + k) % 64).find? fun f =>
    (s.fn f).pending && decide (s.intervals + ((s.nextEntry f).getD 0 0).toNat / 2 ^ 8 % 4 ≤ 256)

/-- COMMAND_ADMIT: the next command is fetched and enters the table (R325). With the flag set, its fetch fails and the queue stops (R418). -/
def execCommandAdmit (s : State) : Result :=
  if !s.hostServing then .next s
  else match s.nextQueue with
    | none => .next s
    | some f =>
      let s1 := s.updDie 0 fun x => { x with ptr := mset 0 x.ptr 4 ((f + 1) % 64) }
      if s.ev.flag then .next (s1.updFn f fun x => { x with ferr := true })
      else
        let k := s1.fresh
        let x := s.fn f
        let c : Cmd := { fn := f, idx := x.fetched, ws := s.nextEntry f, order := k.1 }
        let c := { c with done := (s.refusal c).map fun st => (st, 0) }
        let s2 := (k.2.setFn f { x with sqhead := BitVec.ofNat 16 (x.ring (x.sqhead.toNat + 1)), fetched := x.fetched + 1 }).setCmd k.1 (some c)
        .next s2.presentNext

/-! ## Completion (R326) -/

/-- The mark after submission number i of a queue has completed: the mark, and the numbers completed above it. -/
def growMark : Nat → Nat → List Nat → Nat × List Nat
  | 0, m, l => (m, l)
  | fuel + 1, m, l => if l.contains m then growMark fuel (m + 1) (l.filter (· != m)) else (m, l)

/-- A completion written (R326). -/
def State.complete (s : State) (k : Nat) (c : Cmd) (status result : Nat) (msi : Bool) : State :=
  let x := s.fn c.fn
  let e := c.cid + x.ring c.idx * 2 ^ 32 + status % 2 ^ 8 * 2 ^ 48 + x.phase.toNat * 2 ^ 56
  let at_ := x.ring x.cqtail.toNat
  let s := s.hostWrite c.fn (x.cqbase.toNat + 16 * at_) (leBytes 8 e ++ leBytes 8 result)
  let l := if c.idx < x.mark then x.above else x.above ++ [c.idx]
  let m := growMark l.length x.mark l
  let s := if m.1 = x.mark then s else s.hostWrite c.fn x.markaddr.toNat (leBytes 8 m.1)
  let wrap := x.ring (at_ + 1) == 0
  let s := (s.setFn c.fn { x with
    cqtail := BitVec.ofNat 16 (x.ring (at_ + 1)), phase := x.phase != wrap, mark := m.1, above := m.2 }).setCmd k none
  let s := if msi then s.sendMsix c.fn x.vec.toNat else s
  let s := if 0x80 ≤ c.opc then s else s.progress (s.partOf c.mcx)
  (s.drainFn c.fn).presentNext

/-- COMMAND_COMPLETION: the completion of command `ev.n` is written once the ring has room; with the flag set another follows in its group, and with `ev.m` = 1
the host's memory fails and the queue stops (R326, R418, R419). -/
def execCommandCompletion (s : State) : Result :=
  match s.cmd s.ev.n with
  | none => .next s
  | some c => match c.done with
    | none => .next s
    | some (status, result) =>
      let x := s.fn c.fn
      if x.ferr then .next (((s.setCmd s.ev.n none).drainFn c.fn).presentNext)
      else if s.ev.m = 1 then .next ((((s.updFn c.fn fun f => { f with ferr := true }).setCmd s.ev.n none).drainFn c.fn).presentNext)
      else if x.ring (x.cqtail.toNat + 1) = x.ring x.cqhead.toNat then .next s
      else .next (s.complete s.ev.n c status result (!s.ev.flag))

/-- The completions that wait are written at once, as far as their rings have room (R330, R397). -/
def State.flushCompletions (s : State) (p : Cmd → Bool) : State :=
  s.cmdList.foldl (fun s k => match k.2.done with
    | none => s
    | some (status, result) =>
      let x := s.fn k.2.fn
      if !p k.2 || x.ferr || x.ring (x.cqtail.toNat + 1) = x.ring x.cqhead.toNat then s else s.complete k.1 k.2 status result true) s

/-! ## The distaff's commands (R324) -/

/-- The command of a row, when it has that code and may start: its effect gives the state, the status and the result. -/
def State.hostCmd (s : State) (opc : Nat) (f : State → Nat → Cmd → State × Nat × Nat) : Result :=
  match s.cmd s.ev.n with
  | none => .next s
  | some c =>
    if c.opc ≠ opc || c.started || c.done.isSome || !s.mayStart c then .next s
    else
      let r := f (s.setCmd s.ev.n (some { c with started := true })) s.ev.n c
      .next (r.1.cmdDone s.ev.n r.2.1 r.2.2)

/-- NOP. -/
def execHostNop (s : State) : Result := s.hostCmd 0x00 fun s _ _ => (s, 0, 0)

/-- MARK (R324). -/
def execMark (s : State) : Result := s.hostCmd 0x06 fun s _ _ => (s, 0, 0)

/-- The device line of a context in the table: zero but for its state and SAVECTR (R324). -/
def State.clearLine (s : State) (mcx : Nat) (st : CtxState) : State :=
  (s.chargeSectors 32 none (s.recAddr mcx + 512) 512 .write).physWrite (s.recAddr mcx + 512) (leBytes 16 st.code ++ leBytes 8 (s.recWord mcx 66) ++ List.replicate 488 0)

/-- The key of a context leaves the index of every die (R309). -/
def State.dropKey (s : State) (mcx : Nat) : State := { s with keyIndex := s.keyIndex.filter fun k => k.2.1 != mcx }

/-- INSTALL (R324). -/
def State.installCtx (s : State) (c : Cmd) : State × Nat :=
  let mcx := c.mcx
  let line := s.hostRead c.fn (c.base 0) 512
  let h (k : Nat) : Nat := leNat ((line.drop (8 * k)).take 8)
  if (s.ctx mcx).isSome || !([0, 1, 4].contains (s.ctxCode mcx)) || s.recWord mcx 65 / 2 ^ 16 % 512 ≠ 0
      || (s.keyIndex.any fun k => k.1 == h 0 && k.2.1 != mcx) then (s, 0x80)
  else
    let s := ((s.chargeSectors 32 none (s.recAddr mcx) 512 .write).physWrite (s.recAddr mcx) line).dropKey mcx
    let s : State := { s with leaAcc := dropRange s.leaAcc (8 * mcx) 8 }
    let s := (List.range 4).foldl (fun s d => s.updDie d fun x => { x with installed := true }) s
    if !s.hostOk h || (s.makePins mcx h).isNone then (s.clearLine mcx .empty, cIllegal)
    else
      let d := (s.part (h 2 / 2 ^ 43 % 32)).die.toNat
      ({ s.clearLine mcx .idle with keyIndex := s.keyIndex ++ [(h 0, mcx, d)] }.tlbInvalidate 1 mcx 0, 0)
def execInstall (s : State) : Result := s.hostCmd 0x01 fun s _ c => let r := s.installCtx c; (r.1, r.2, 0)

/-- A request refused because its context is removed (R324, R411). -/
def State.refuseReq (s : State) (mcx : Nat) (r : Req) (code : Nat) : State :=
  if r.host then s.cmdDone r.cmd cCancelled 0 else s.errorPacket mcx r.port r.src r.id r.nonce code 0

/-- REMOVE (R324): answers of the context that wait leave first. -/
def State.removeCtx (s : State) (mcx : Nat) : State × Nat :=
  if s.ctxCode mcx = 2 || (s.stop mcx).isSome || !(mget [] s.restoring mcx).isEmpty then (s, 0x80)
  else
    let s := s.flushReplies mcx
    let s := ((s.waitingOf mcx).filter fun r => !r.dead).foldl (fun s r => s.refuseReq mcx r nrpUnavailable) s
    let s := match s.group mcx with
      | some g => s.refuseReq mcx g.req nrpCancelled
      | none => s
    let s := (s.copyList.filter fun j => j.redirected && j.mcx == mcx).foldl (fun s j => (s.withdrawCopy j).setCopy j.id none) s
    let s := ((s.toIdle mcx).leaFlush mcx).updLine mcx fun x => { x with st := .empty, qhead := 0, qtail := 0, qcount := 0 }
    let s := match s.ctx mcx with
      | some x => (s.writeLine mcx x).setCtx mcx none
      | none => s
    (({ s.dropKey mcx with waiting := mset [] s.waiting mcx [] }.tlbInvalidate 1 mcx 0).sweepDeficits (s.part (s.partOf mcx)).die.toNat, 0)
def execRemove (s : State) : Result := s.hostCmd 0x02 fun s _ c => let r := s.removeCtx c.mcx; (r.1, r.2, 0)

/-- CANCEL (R311, R324). -/
def execHostCancel (s : State) : Result :=
  s.hostCmd 0x04 fun s _ c => match s.cancelReqs c.mcx fun r => r.id == c.arg with
    | some s' => (s', 0, 0)
    | none => (s, 0x81, 0)

/-- LAUNCH: the payload is enqueued as a request; the command completes when it ends (R311, R324). -/
def execLaunch (s : State) : Result :=
  match s.cmd s.ev.n with
  | none => .next s
  | some c =>
    if c.opc ≠ 0x03 || c.started || c.done.isSome || !s.mayStart c then .next s
    else
      let k := s.ev.n
      let mcx := c.mcx
      let done (s : State) (st : Nat) : Result := .next (s.cmdDone k st 0)
      if (s.fn c.fn).draining.isSome then done s cCancelled
      else if s.ctxCode mcx = 0 || s.ctxCode mcx = 4 then done s 0x81
      else match s.loadCtx mcx with
        | .waits => .next s
        | .fails s' => done s' cIllegal
        | .loaded s =>
          let slot := ((s.ctx mcx).map fun x => x.qtail).getD 0
          if s.slotSize mcx < c.len 0 then done s cIllegal
          else if s.ringSize mcx ≤ ((s.ctx mcx).map fun x => x.qcount).getD 0 then done s 0x80
          else match s.ctxWrite mcx (s.fresh).1 (cutAt (s.reqAddr mcx slot) (s.hostRead c.fn (c.base 0) (c.len 0))) with
            | .error f => done (s.ringUe mcx f) f.cause
            | .ok s' => .next ((s'.setCmd k (some { c with started := true })).enqueueReq mcx
                { id := c.cid, len := c.len 0, host := true, cmd := k })

/-! ## COPY (R324) -/

/-- One sector of a COPY's source in the context's space; what stands in a remote page is asked for. -/
def State.copyPart (s : State) (k mcx a n : Nat) : CtxGot :=
  match s.translate mcx a .read with
  | .error f => .err f
  | .ok (e, lvl) =>
    let pl := s.placeOf a e lvl
    match pl.loc with
    | .remote home pa key =>
      let got := mget [] s.reachIn (copyKey k a)
      if got.length = 1 then .err { cause := leNat got, addr := a, remote := true }
      else if !got.isEmpty then .ok ((got.drop (pa % 128)).take n)
      else if s.reachable home then .ask [(home, pa, key, a)] else .err { cause := cProt, addr := a, remote := true }
    | _ => match s.readPlace pl n with
      | .ok bs => .ok bs
      | .error f => .err f

/-- The source of a COPY. -/
def State.copySource (s : State) (k mcx : Nat) (l : List (Nat × List Byte)) : CtxGot :=
  l.foldl (fun r p => r.append (s.copyPart k mcx p.1 p.2.length)) (.ok [])

/-- Sectors of a COPY's source asked for at their homes, once each. -/
def State.askCopy (s : State) (k mcx : Nat) (qs : List (Nat × Nat × Nat × Nat)) : State :=
  qs.foldl (fun s q =>
    if s.reachReqs.any fun p => p.2.any fun r => r.who == hostWho && r.slot == k && r.ea == q.2.2.2 then s
    else (s.reachRequest (s.faultDie mcx)
      { kind := 1, home := q.1, key := q.2.2.1, pa := q.2.1, mcx := mcx, who := hostWho, ea := q.2.2.2, slot := k } 0 0 none).1) s

/-- The fault that a write of a COPY meets at its first sector that has one, before any is written (R360, R368, R369, R383, R440). -/
def State.copyBar (s : State) (mcx : Nat) (l : List (Nat × List Byte)) : Option MemFault :=
  l.findSome? fun p => match s.translate mcx p.1 .write with
    | .error f => some f
    | .ok (e, lvl) => match (s.placeOf p.1 e lvl).loc with
      | .remote home _ _ => if s.reachable home then none else some { cause := cProt, addr := p.1, remote := true }
      | l => s.storeFault mcx [] { loc := l, bytes := p.2, ea := p.1 } l

/-- The accesses of a COPY charged to its context (R373). -/
def State.chargeParts (s : State) (mcx : Nat) (c : AccClass) (l : List (Nat × List Byte)) : State :=
  l.foldl (fun s p => s.chargeAt none mcx p.1 p.2.length c) s

/-- The sectors of a COPY's destination written; a remote one is sent to its home (R369). -/
def State.copyPut (s : State) (k mcx : Nat) : List (Nat × List Byte) → Except MemFault State
  | [] => .ok s
  | (a, bs) :: r => match s.translate mcx a .write with
    | .error f => .error f
    | .ok (e, lvl) => match (s.placeOf a e lvl).loc with
      | .remote home pa key =>
        let q : ReachReq := { kind := 2, home := home, key := key, pa := pa, mcx := mcx, who := hostWho, ea := a, slot := k, data := bs }
        let off := pa % 128
        State.copyPut (s.reachRequest (s.faultDie mcx) q 0 ((2 ^ bs.length - 1) * 2 ^ off)
          (some (List.replicate off 0 ++ bs ++ List.replicate (128 - off - bs.length) 0))).1 k mcx r
      | l => match s.writeLoc l bs with
        | .ok s2 => State.copyPut s2 k mcx r
        | .error e => .error { cause := cMemUe, addr := a, ue := some (e, l) }

/-- A COPY's messages and buffers are dropped at its end. -/
def State.endHostCopy (s : State) (k status : Nat) : State :=
  { s with reachIn := s.reachIn.filter fun p => p.1 / 2 ^ 60 != 2 ^ 50 + k
           reachReqs := s.reachReqs.filter fun p => !p.2.any fun (q : ReachReq) => q.who == hostWho && q.slot == k }.cmdDone k status 0

/-- A COPY meets a fault: it waits for a refetch (R368); an uncorrectable error is handled and ends it (R439); any other fault is entered, and the COPY waits for
its service (R363, R366; notes/assumptions/44.md). -/
def State.copyStops (s : State) (k : Nat) (c : Cmd) (f : MemFault) (access : Nat) : State :=
  let d := s.faultDie c.mcx
  match f.refetch with
  | some line => s.refetchFrame d line
  | none =>
    if f.cause = cMemUe then
      (match f.ue with
        | some (e, l) => s.uncorrectable d (some c.mcx) 0 cMemUe e l f.addr
        | none => s).endHostCopy k cMemUe
    else
      let r := s.addFault d c.mcx f access 0 true
      { r.1 with reachIn := mset [] r.1.reachIn (copyKey k f.addr) [] }.setCmd k (some { c with susp := some (d, r.2) })

/-- Has a COPY messages that its homes have not answered? -/
def State.copyAsks (s : State) (k : Nat) : Bool := s.reachReqs.any fun p => p.2.any fun q => q.who == hostWho && q.slot == k

/-- The cause of a write of a COPY that has failed. -/
def State.copyFailed (s : State) (k : Nat) : Option Nat :=
  s.reachIn.findSome? fun p => if p.1 / 2 ^ 60 = 2 ^ 50 + k && p.2.length = 1 then some (leNat p.2) else none

/-- COPY's own step: it runs again until the answers of remote pages are in, and once its writes have been sent it ends with their answers (R324, R325). -/
def State.hostCopy (s : State) (k : Nat) (c : Cmd) : State :=
  let parts (i : Nat) (bs : List Byte) : List (Nat × List Byte) := cutAt (c.base i) bs
  let from_ := parts 0 (List.replicate (c.len 0) 0)
  match (if c.inHost 0 then CtxGot.ok (s.hostRead c.fn (c.base 0) (c.len 0)) else s.copySource k c.mcx from_) with
  | .ask qs => s.askCopy k c.mcx qs
  | .err f => s.copyStops k c f 4
  | .ok bs =>
    let s1 := if c.inHost 0 then s else s.chargeParts c.mcx .read from_
    if c.inHost 1 then (s1.hostWrite c.fn (c.base 1) bs).endHostCopy k 0
    else match s.copyBar c.mcx (parts 1 bs) with
      | some f => s.copyStops k c f 5
      | none => match (s1.chargeParts c.mcx .write (parts 1 bs)).copyPut k c.mcx (parts 1 bs) with
        | .error f => s1.copyStops k c f 5
        | .ok s2 => if s2.copyAsks k then s2.setCmd k (some { c with started := true }) else s2.endHostCopy k 0

/-- COPY (R324). -/
def execCopy (s : State) : Result :=
  let k := s.ev.n
  match s.cmd k with
  | none => .next s
  | some c =>
    if c.opc ≠ 0x05 || c.done.isSome || c.susp.isSome then .next s
    else if c.started then .next (if s.copyAsks k then s else s.endHostCopy k ((s.copyFailed k).getD 0))
    else if !s.mayStart c then .next s
    else if bitOf (s.hw c.mcx 2) 48 || s.ctxCode c.mcx = 0 then .next (s.cmdDone k cProt 0)
    else .next (s.hostCopy k c)

/-! ## Flash commands (R328): what Jalmet firmware does with the command that HQENT presents. With the flag set the drive reports the error in `ev.v`. -/

def statusDrive : Nat := 0x82

/-- A flash command's row: it serves the presented command of its code; a code beyond theirs is answered with ILLEGAL (R328). -/
def State.flashCmd (s : State) (opc : Nat) (f : State → Cmd → State × Nat × Nat) : Result :=
  match s.presented with
  | none => .next s
  | some (_, c) =>
    if !(s.die 0).fw then .next s
    else if 0x83 < c.opc || (c.opc = opc && !c.rangesFit) then .next (s.firmwareDone cIllegal 0)
    else if c.opc ≠ opc then .next s
    else
      let r := f s c
      .next (r.1.firmwareDone r.2.1 r.2.2)

def Cmd.drive (c : Cmd) : Nat := c.arg / 2 ^ 48 % 4
def Cmd.lba (c : Cmd) : Nat := c.arg % 2 ^ 48

/-- The operand checks of a transfer (R328). -/
def State.flashOk (s : State) (c : Cmd) : Bool :=
  c.arg / 2 ^ 50 == 0 && c.len 0 % 4096 == 0 && decide (c.len 0 ≤ 2 ^ 24) && decide (c.lba + c.len 0 / 4096 ≤ s.driveBlocks c.drive)

/-- FLASHWRITE. -/
def execFlashwrite (s : State) : Result :=
  s.flashCmd 0x80 fun s c =>
    if !s.flashOk c then (s, cIllegal, 0)
    else if c.drive = 0 && c.lba < 8192 then (s, cProt, 0)
    else if s.ev.flag then (s, statusDrive, s.ev.v.toNat % 2 ^ 15)
    else (s.flashWrite c.drive c.lba (s.hostRead c.fn (c.base 0) (c.len 0)), 0, c.len 0)

/-- FLASHREAD. -/
def execFlashread (s : State) : Result :=
  s.flashCmd 0x81 fun s c =>
    if !s.flashOk c then (s, cIllegal, 0)
    else if s.ev.flag then (s, statusDrive, s.ev.v.toNat % 2 ^ 15)
    else (s.hostWrite c.fn (c.base 0) (s.flashRead c.drive c.lba (c.len 0)), 0, c.len 0)

/-- FLASHFLUSH. -/
def execFlashflush (s : State) : Result :=
  s.flashCmd 0x82 fun s c =>
    if c.arg / 2 ^ 50 ≠ 0 || c.lba ≠ 0 then (s, cIllegal, 0)
    else if s.ev.flag then (s, statusDrive, s.ev.v.toNat % 2 ^ 15)
    else (s, 0, 0)

/-- FLASHINFO: the namespace's size, its capacity (here the same), and the model number. -/
def execFlashinfo (s : State) : Result :=
  s.flashCmd 0x83 fun s c =>
    if c.arg / 2 ^ 50 ≠ 0 || c.lba ≠ 0 || c.len 0 ≠ 64 then (s, cIllegal, 0)
    else if s.ev.flag then (s, statusDrive, s.ev.v.toNat % 2 ^ 15)
    else
      let n := leBytes 8 (s.driveBlocks c.drive)
      let model := (Config.driveModel c.drive ++ List.replicate 40 0).take 40
      (s.hostWrite c.fn (c.base 0) (n ++ n ++ model ++ List.replicate 8 0), 0, 0)

/-- Does a flash command reach its drive: its operands are those that R328 allows? -/
def State.reachesDrive (s : State) (c : Cmd) : Bool :=
  (s.die 0).fw && c.rangesFit && (match c.opc with
    | 0x80 => s.flashOk c && !(c.drive == 0 && decide (c.lba < 8192))
    | 0x81 => s.flashOk c
    | 0x82 => c.arg / 2 ^ 50 == 0 && c.lba == 0
    | 0x83 => c.arg / 2 ^ 50 == 0 && c.lba == 0 && c.len 0 == 64
    | _ => false)

/-- DRIVE_TIMEOUT: a drive gives no completion within 2^28 cycles (R422, R328): the presented flash command, or with the flag set the unit of descriptor `ev.m`
of die `ev.n`. -/
def execDriveTimeout (s : State) : Result :=
  if s.ev.flag then
    let d := s.ev.n % 4
    match (s.die d).rvfly.find? fun u => u.idx == s.ev.m && locSrc u.loc == 1 with
    | some u => .next (s.endUnit d u 3)
    | none => .next s
  else match s.presented with
    | none => .next s
    | some (_, c) => .next (if s.reachesDrive c then s.firmwareDone statusDrive 0x7FFF else s)

/-! ## The watchdog (R329, R330) -/

/-- Does a command name a context of a partition (R323, R329, R372)? -/
def State.cmdNames (s : State) (q : Nat) (c : Cmd) : Bool := decide (c.opc < 0x80) && s.cmdPart c == q

/-- The watchdog of a partition counts while it has a bound group or an admitted command naming one of its contexts, which stands in the table until its
completion is written (R325, R329). -/
def State.watched (s : State) (q : Nat) : Bool :=
  (s.groups.any fun p => p.2.isSome && s.partOf p.1 == q && s.ctxCode p.1 == 2)
    || s.cmdList.any fun p => s.cmdNames q p.2

/-- The counter of partition q advanced. -/
def State.watch (s : State) (q n : Nat) : State :=
  s.updDie (s.part q).die.toNat fun x => { x with wdogCount := mset 0 x.wdogCount q (mget 0 x.wdogCount q + n) }

/-- The limit of a partition's watchdog, and its count. -/
def State.watchLimit (s : State) (q : Nat) : Nat := (mget 0 (s.die (s.part q).die.toNat).wdogLimit q).toNat * 1024
def State.watchCount (s : State) (q : Nat) : Nat := mget 0 (s.die (s.part q).die.toNat).wdogCount q

/-- The work of a context stops at once, without drain (R330 step 1). -/
def State.stopWork (s : State) (mcx : Nat) : State :=
  let s := (s.copyList.filter fun j => j.ofCtx mcx && !j.redirected).foldl (fun s j => s.setCopy j.id none) s
  { s with reachReqs := s.reachReqs.filter fun p => match p.2 with
             | some q => !(q.mcx == mcx && decide (q.who < 2 ^ 20) && !isMill q.who)
             | none => true }

/-- What waits on fault entries for a bound group withdraws (R366). -/
def State.withdrawGroup (s : State) (mcx : Nat) (g : Group) : State :=
  let s := (g.spindles.flatMap strandsOf).foldl (fun s sid => (s.withdrawWaits sid).withdrawReel sid) s
  let s := g.spindles.foldl (fun s sp => (s.spindle sp).queue.foldl State.callWithdraw s) s
  let s := (s.copyList.filter fun j => j.ofCtx mcx).foldl State.withdrawCopy s
  (g.conds.filterMap (fun c => c.2) ++ g.words.map fun w => w.2.2).foldl (fun s p => s.withdraw p.1 p.2) s

/-- The contexts of a partition stop, and their requests end (R330 steps 1 and 2). A SAVED context is left as it is, with what a restore of it had done undone. -/
def State.stopContexts (s : State) (q status : Nat) : State :=
  let ms := sortNats ((s.groups.filter fun p => p.2.isSome && s.partOf p.1 == q).map fun p => p.1)
  ms.foldl (fun s m => match s.group m with
    | none => s
    | some g =>
      if s.ctxCode m = 3 then
        (if (mget [] s.restoring m).isEmpty then s
        else { (s.stopWork m).unreserve m g.spindles with restoring := mset [] s.restoring m [] })
      else
        let code := if status = cCancelled then (nrpCancelled, 0) else (nrpFailed, status)
        let s := s.withdrawGroup m g
        let s := (s.copyList.filter fun j => j.ofCtx m).foldl (fun s j => s.setCopy j.id none) s
        (((s.stopWork m).failReq m g.req code.1 code.2).unreserve m g.spindles).toIdle m) s

/-- The spindles of a partition lose what they cache (R330 step 3). -/
def State.wipeResidency (s : State) (q : Nat) : State :=
  let x := s.part q
  (x.clusterList.flatMap fun cl => computeSpindles x.die.toNat cl).foldl (fun s g => s.updSpindle g fun y => { y with dict := [], routines := [] }) s

/-- The commands of a function are dropped, and its queue is fetched again from its mark (R330 step 4). What has ended is completed first, and stays where the
ring has no room for its completion (R326). -/
def State.refetchQueue (s : State) (f : Nat) : State :=
  let s := s.flushCompletions fun c => c.fn == f
  let mine := s.cmdList.filter fun p => p.2.fn == f && p.2.done.isNone
  let s := mine.foldl (fun s p => ((match p.2.susp with
    | some (d, k) => s.withdraw d k
    | none => s).setCmd p.1 none)) s
  let gone (r : Req) : Bool := r.host && mine.any fun p => p.1 == r.cmd
  let s : State := { s with waiting := s.waiting.map fun p => (p.1, p.2.map fun r => if gone r then { r with dead := true } else r) }
  let s := (s.waiting.map fun p => p.1).foldl (fun s m => s.skipDead m) s
  let s := s.updFn f fun x => { x with fetched := x.mark, above := [], sqhead := BitVec.ofNat 16 (x.ring x.mark) }
  let s := match (s.die 0).hqent with
    | some (g, _) => if g = f then s.updDie 0 fun x => { x with hqent := none } else s
    | none => s
  s.presentNext

/-- A partition reset (R330). -/
def State.resetPartition (s : State) (q status : Nat) : State :=
  let d := (s.part q).die.toNat
  let s := (s.stopContexts q status).wipeResidency q
  let s := ((sortNats (s.ctxs.map Prod.fst ++ s.groups.map Prod.fst ++ s.tlb.map TlbEnt.mcx)).filter fun m => s.partOf m == q).foldl
    (fun s m => s.tlbInvalidate 1 m 0) s
  let s := (s.setLatch d q none).progress q
  (((List.range 64).filter fun f => (s.part q).vfmask.getLsbD f).foldl (fun s f => s.refetchQueue f) s).logError d 0x06 6 none q 0 0 status

/-- n cycles pass on the counter of a partition: at half its limit it warns, and at its limit the partition is reset (R329, R330). -/
def State.watchTick (s : State) (q n : Nat) : State :=
  if s.watchLimit q = 0 || !s.watched q then s
  else
    let s1 := s.watch q n
    let half := s.watchLimit q / 2
    let s2 := if s.watchCount q < half && half ≤ s1.watchCount q then s1.setEv (s.part q).die.toNat 0x800 else s1
    if s1.watchCount q < s.watchLimit q then s2 else (s2.resetPartition q cWatchdog).dispatch q

/-- WATCHDOG_WARNING: `ev.n` cycles pass on the counter of partition `ev.m` (R329). -/
def execWatchdogWarning (s : State) : Result := .next (s.watchTick (s.ev.m % 32) s.ev.n)

/-- PARTITION_RESET: `ev.n` cycles pass on the counter of partition `ev.m` (R329, R330). -/
def execPartitionReset (s : State) : Result := .next (s.watchTick (s.ev.m % 32) s.ev.n)

end Sys2Proof.Machine
end

