-- ==== Sys2Proof/Machine/Power.lean ====
section
/-! DEFINITION. Partitions and their registers (R370 to R372), channel floors and arbiters (R375 to R378), and islands: frequency, caps, idle states and
wakes (R379 to R381, R398, R448). A register's row has the address in `ev.n` and the value in `ev.v`. -/

namespace Sys2Proof.Machine

open Sys2Proof

/-! ## The checks of R372 -/

def perrOverlap : Nat := 1
def perrBusy : Nat := 2
def perrCapsum : Nat := 4
def perrFloorsum : Nat := 8
def perrRange : Nat := 16

def State.setPerr (s : State) (b : Nat) : State := { s with perr := s.perr ||| BitVec.ofNat 5 b }

/-- The sum of the caps of the enabled partitions. -/
def State.capSum (s : State) : Nat := ((List.range 32).map fun k => if (s.part k).enable then (s.part k).cap.toNat else 0).sum

/-- Does a cluster or a bank of partition q belong to another enabled one? -/
def State.overlaps (s : State) (q : Nat) : Bool :=
  let x := s.part q
  (List.range 32).any fun k =>
    let y := s.part k
    k != q && y.enable && ((y.die == x.die && (y.clusters &&& x.clusters) != 0) || (y.banks &&& x.banks) != 0)

/-- Is a partition in use (R372)? -/
def State.partInUse (s : State) (q : Nat) : Bool :=
  (s.groups.any fun p => p.2.isSome && s.partOf p.1 == q && (s.ctxCode p.1 == 2 || (s.stop p.1).isSome))
    || (s.ctxs.any fun p => p.2.isSome && s.partOf p.1 == q)
    || s.cmdList.any fun p => s.cmdNames q p.2

/-- The PERR bits of the state that a write of partition q would create (R372); in SCRAPPED a PCTL write names OFF (R398). -/
def State.partErrors (s s' : State) (q : Nat) (pctl : Bool) : Nat :=
  let x := s.part q
  let y := s'.part q
  let busy := (x.enable && (y.die != x.die || y.clusters != x.clusters || y.banks != x.banks)) || (x.enable && !y.enable && s.partInUse q)
  let range := (y.enable && !x.enable && (decide (y.cap.toNat < 50) || y.clusters == 0)) || decide (y.freq.toNat < 12) || decide (36 < y.freq.toNat)
    || (s.keng.lcs == 4 && pctl && y.pstate != 3)
  (if y.enable && s'.overlaps q then perrOverlap else 0) + (if busy then perrBusy else 0)
    + (if y.enable && decide (s.modcap.toNat < s'.capSum) then perrCapsum else 0) + (if range then perrRange else 0)

/-- A write of a register of partition q that passes its checks, or its PERR bits. -/
def State.tryPart (s : State) (q : Nat) (y : Part) (pctl : Bool) : Option State :=
  let s' := s.setPart q y
  if s.partErrors s' q pctl = 0 then some s' else none

/-! ## PCTL, PCAP, SCMASK -/

/-- The cluster SRAM of a partition's clusters cleared, with the dirty sectors of its cache ways written back first; the mill banks are no part of it (R372,
R381). -/
def State.clearClusters (s : State) (x : Part) : State :=
  x.clusterList.foldl (fun s cl => (s.dropWaysOf (12 * x.die.toNat + cl)).updCluster (12 * x.die.toNat + cl) fun c =>
    ((List.range 32).filter fun b => !(cl == 0 && decide (b < 2))).foldl Cluster.wipeBank c) s

/-- A frequency change asked for: FREQ_RELOCK makes it (R379, R380). -/
def Part.retune (p : Part) (f : BitVec 6) : Part := if f = p.curfreq then { p with relock := none } else { p with relock := some f }

/-- The frequency that an island has or is going to. -/
def Part.target (p : Part) : BitVec 6 := p.relock.getD p.curfreq

/-- PCTL (R370, R372, R379 to R381, R398). -/
def execPctl (s : State) : Result :=
  let q := s.ev.n % 2 ^ 40 / 0x100 % 32
  let v := s.ev.v.toNat
  let x := s.part q
  let y := { x with
    enable := bitOf v 0, die := BitVec.ofNat 2 (v / 2), clusters := BitVec.ofNat 12 (v / 2 ^ 3), freq := BitVec.ofNat 6 (v / 2 ^ 16)
    pstate := BitVec.ofNat 2 (v / 2 ^ 22) }
  match s.tryPart q y true with
  | none => .next (s.setPerr (s.partErrors (s.setPart q y) q true))
  | some s1 =>
    let y1 := if y.freq.toNat < y.target.toNat then y.retune y.freq else y
    let s1 := s1.setPart q y1
    if x.enable && !y.enable then .next (((s1.clearClusters x).dropLines q x.banks).setPart q
      { y1 with istate := if s.keng.lcs = 4 then 3 else 0 })
    else if !x.enable && y.enable then .next ((s1.setPart q { y1 with istate := if s.keng.lcs = 4 then 3 else 0 }).dispatch q)
    else .next s1

/-- PCAP (R370, R372). -/
def execPcap (s : State) : Result :=
  let q := s.ev.n % 2 ^ 40 / 0x100 % 32
  let c := s.ev.v.toNat % 2 ^ 12
  let y := { s.part q with cap := BitVec.ofNat 12 c }
  let e := s.partErrors (s.setPart q y) q false ||| (if c < 50 || 3000 < c then perrRange else 0)
  .next (if e = 0 then s.setPart q y else s.setPerr e)

/-- SCMASK0 to SCMASK2 (R370, R372). -/
def execScmask (s : State) : Result :=
  let o := s.ev.n % 2 ^ 40
  let q := o / 0x100 % 32
  let y := { s.part q with scmask := mset 0 (s.part q).scmask ((o % 0x100 - 0x40) / 8) s.ev.v }
  match s.tryPart q y false with
  | some s' => .next s'
  | none => .next (s.setPerr (s.partErrors (s.setPart q y) q false))

/-! ## Channels -/

/-- PARTITION_FLOOR (R376). -/
def execPartitionFloor (s : State) : Result :=
  let i := (s.ev.n % 2 ^ 40 - 0x10000) / 8
  let k := i / 32
  let q := i % 32
  let v := s.ev.v.toNat
  let floor := v % 2 ^ 10
  let burst := v / 2 ^ 16 % 2 ^ 8
  let c := s.chan k
  let range := decide (900 < floor) || burst == 0
  let sum := decide (900 < c.floorSum - c.floorOf q + floor)
  if range || sum then .next (s.setPerr ((if range then perrRange else 0) + (if sum then perrFloorsum else 0)))
  else .next (s.setChan k { c with floor := mset 0 c.floor q (BitVec.ofNat 10 floor), burst := mset 16 c.burst q (BitVec.ofNat 8 burst) })

/-- The tokens of a channel topped up (R377). -/
def Chan.topUp (c : Chan) : Chan :=
  { c with tok := (List.range 32).foldl (fun m q => mset 0 m q (min (mget 0 m q + (c.floorOf q : Int)) (1000 * (c.burstOf q : Int)))) c.tok }

/-- Has the partition of a transfer a token's worth? -/
def Chan.funded (c : Chan) (x : Xfer) : Bool :=
  match x.part with
  | some q => decide (1000 ≤ mget 0 c.tok q)
  | none => false

/-- The allowance of refresh, turnaround and scrub after one more slot, of which they have taken it if the flag is set: each slot adds a tenth, and no more than
one slot is ever saved up (R375, R378; notes/assumptions/48.md). -/
def Chan.refreshed (c : Chan) (taken : Bool) : Chan := { c with spare := min 10 (c.spare + 1) - (if taken then 10 else 0) }

/-- One slot of an arbiter (R375, R377): the channel, and the transfer granted. A slot that would make refresh take more than 10% is not its. -/
def Chan.slot (c : Chan) (refresh : Bool) : Chan × Option Xfer :=
  let taken := refresh && decide (9 ≤ c.spare)
  let c := (c.refreshed taken).topUp
  if taken then (c, none)
  else if c.second then ({ c with second := false }, none)
  else match (c.waiting.find? c.funded).orElse fun _ => c.waiting.head? with
    | none => (c, none)
    | some x =>
      let tok := match x.part with
        | some q => if c.funded x then mset 0 c.tok q (mget 0 c.tok q - 1000 * (x.cost : Int)) else c.tok
        | none => c.tok
      ({ c with tok := tok, waiting := c.waiting.erase x, second := decide (1 < x.cost) }, some x)

/-- ARBITER_SLOT of channel `ev.n`; with the flag set, refresh takes the slot (R375, R377). -/
def execArbiterSlot (s : State) : Result := .next (s.setChan s.ev.n ((s.chan s.ev.n).slot s.ev.flag).1)

/-! ## Islands -/

/-- The controller at the end of a window (R380): AVG in sixteenths of a watt. -/
def Part.window (p : Part) (avg : Nat) (hot : Bool) : Part :=
  let p := { p with avg := BitVec.ofNat 20 avg }
  let cap := 16 * p.cap.toNat
  if hot || cap < avg then
    (if 12 < p.target.toNat then p.retune (p.target - 1) else { p with throttle := true })
  else if 10 * avg < 9 * cap then
    (if p.throttle then { p with throttle := false } else if p.target.toNat < p.freq.toNat then p.retune (p.target + 1) else p)
  else p

/-- CAP_WINDOW_END of partition `ev.n`, whose island has used `ev.v` on average (R380, R448). -/
def execCapWindowEnd (s : State) : Result :=
  let q := s.ev.n % 32
  let x := s.part q
  .next (if x.enable then s.setPart q (x.window (s.ev.v.toNat % 2 ^ 20) (s.die x.die.toNat).hot) else s)

/-- The spindles of a partition's bound groups. -/
def State.partSpindles (s : State) (q : Nat) : List Nat :=
  let x := s.part q
  (x.clusterList.flatMap fun cl => computeSpindles x.die.toNat cl).filter fun g => (s.spindle g).mcx.isSome

/-- FREQ_RELOCK: the clock of partition `ev.n` has relocked, and its spindles have stalled for `ev.m` cycles (R76, R379). -/
def execFreqRelock (s : State) : Result :=
  let q := s.ev.n % 32
  match (s.part q).relock with
  | none => .next s
  | some f => .next ((s.partSpindles q).foldl (fun s g => s.stallCycles g s.ev.m) (s.setPart q { s.part q with curfreq := f, relock := none }))

/-- The state that an island enters when it is idle (R381, R398). -/
def State.idleState (s : State) (p : Part) : BitVec 2 :=
  if s.keng.lcs = 4 then 3
  else if p.pstate = 2 && (s.keng.lcs = 0 || s.keng.lcs = 3) then 3
  else p.pstate

/-- Has a partition a bound group, a restore pending or a debug stop (R381)? -/
def State.islandBusy (s : State) (q : Nat) : Bool :=
  (s.groups.any fun p => p.2.isSome && s.partOf p.1 == q && s.ctxCode p.1 == 2)
    || (s.restoring.any fun p => !p.2.isEmpty && s.partOf p.1 == q)
    || s.stops.any fun p => p.2.isSome && s.partOf p.1 == q

/-- ISLAND_IDLE_ENTRY: the island of partition `ev.n` has been idle for IDLEWAIT cycles (R381, R398). OFF keeps nothing. -/
def execIslandIdleEntry (s : State) : Result :=
  let q := s.ev.n % 32
  let x := s.part q
  let st := s.idleState x
  if !x.enable || x.istate ≠ 0 || st = 0 || s.islandBusy q then .next s
  else
    let s1 := s.setPart q { x with istate := st }
    .next (if st = 3 then (s1.clearClusters x).wipeResidency q else s1)

/-- ISLAND_WAKE: the island of partition `ev.n` returns to ON, and the distaff goes on with the bind or restore that needs it (R381). -/
def execIslandWake (s : State) : Result :=
  let q := s.ev.n % 32
  let x := s.part q
  if !x.enable || x.istate = 0 || s.keng.lcs = 4 then .next s else .next ((s.setPart q { x with istate := 0 }).dispatch q)

/-- THERMAL_THROTTLE: a junction of die `ev.n` has reached 100 °C, if the flag is set, or has fallen below 95 °C (R448). -/
def execThermalThrottle (s : State) : Result := .next (s.updDie (s.ev.n % 4) fun x => { x with hot := s.ev.flag })

end Sys2Proof.Machine
end

