-- ==== Sys2Proof/Machine/Keys.lean ====
section
/-! DEFINITION. The key engine: its commands (R384 to R387), attestation (R390, R391), debug levels (R393 to R395) and life-cycle moves (R396, R397). A
command's row starts it, with the address in `ev.n` and the value of KCMD in `ev.v`; with the flag set it completes the running command, whose KADDR is
then in `ev.n` and whose KARG is in `ev.v`. A running command is (OP, SLOT), or (16 + OP, code) when it is refused. -/

namespace Sys2Proof.Machine

open Sys2Proof

/-! ## Result codes (R385) -/

def krBadBlob : Nat := 1
def krSlotBusy : Nat := 2
def krNotPermitted : Nat := 3
def krBadToken : Nat := 4
def krRange : Nat := 5
def krMemUe : Nat := 6

def State.updKeng (s : State) (f : KeyEng → KeyEng) : State := { s with keng := f s.keng }

/-- Bytes of a key command's operand at a physical address; none when they cannot be read (R385, R440). -/
def State.operand (s : State) (a n : Nat) : Option (List Byte) :=
  if (sectorsOf a n).any fun k => (s.sect k).poison then none else some (s.physRead a n)

/-- The life-cycle states that permit a command (R385, R396). -/
def kcmdPermitted (op lcs : Nat) : Bool :=
  match op with
  | 1 => lcs == 2
  | 2 => lcs == 2 || lcs == 1
  | 3 => reportsIn lcs
  | 4 => lcs != 4
  | _ => true

/-- The levels that a life-cycle state allows (R395, R398). -/
def levelAllowed (lcs lvl : Nat) : Bool :=
  match lcs with
  | 0 | 3 => lvl == 0 || lvl == 3
  | 1 => lvl == 0 || lvl == 2
  | 2 => lvl ≤ 2
  | _ => lvl == 0

/-- The life-cycle moves (R396). -/
def lcsMove (lcs next : Nat) : Bool :=
  match lcs with
  | 0 => next == 1
  | 1 => next == 2 || next == 3 || next == 4
  | 2 => next == 3 || next == 4
  | 3 => next == 1 || next == 4
  | _ => false

/-- Is a field of a key command out of range (R385, R390)? -/
def kcmdRange (op slot a arg : Nat) : Bool :=
  match op with
  | 1 => slot == 0 || arg != 0 || decide (hbmEnd < a + 512)
  | 2 => slot == 0 || arg != 0
  | 3 => arg / 2 ^ 15 != 0 || decide (hbmEnd < a + 1280)
  | 4 => arg / 8 != 0 || decide (arg < 2) || decide (hbmEnd < a + 64)
  | 5 => arg / 4 != 0
  | _ => arg / 8 != 0 || (arg == 3 && decide (hbmEnd < a + 512))

/-- Is a slot named by the KEYH of a context that is not EMPTY (R385)? -/
def State.slotNamed (s : State) (k : Nat) : Bool :=
  (s.keyIndex.map (fun p => p.2.1) ++ s.ctxs.map (fun p => p.1)).any fun m => s.ctxCode m != 0 && s.hw m 2 % 2 ^ 16 == k

/-- The code of a command that is refused (R385, R394 to R396). -/
def State.kcmdRefusal (s : State) (op slot a arg : Nat) : Option Nat :=
  let k := s.keng
  if !kcmdPermitted op k.lcs.toNat then some krNotPermitted
  else if kcmdRange op slot a arg then some krRange
  else match op with
    | 1 => if (s.keySlot slot).isSome then some krSlotBusy else none
    | 2 => if s.slotNamed slot then some krSlotBusy else none
    | 3 => if bitOf arg 14 && s.ctxCode (arg % 2 ^ 14) == 0 then some krRange else none
    | 5 => if levelAllowed k.lcs.toNat arg then none else some krNotPermitted
    | 6 =>
      if !lcsMove k.lcs.toNat arg then some krNotPermitted
      else if arg ≠ 3 then none
      else match s.operand a 512 with
        | none => some krMemUe
        | some sig => if Config.serviceSigOk (leBytes 8 k.devid.toNat ++ leBytes 8 3) sig then none else some krBadToken
    | _ => none

/-- The command ends with a result. -/
def State.kcmdEnd (s : State) (r : Nat) : State := s.updKeng fun k => { k with cmd := none, result := BitVec.ofNat 8 r }

/-- A write of KCMD, and the completion of the command: `effect` gives the state and the result from SLOT, KADDR and KARG. -/
def State.kcmd (s : State) (op : Nat) (row : Instr) (effect : State → Nat → Nat → Nat → State × Nat) : Result :=
  let v := s.ev.v.toNat
  if s.ev.flag then
    match s.keng.cmd with
    | some (o, x) =>
      if o = op then
        let r := effect s x s.ev.n v
        .next (r.1.kcmdEnd r.2)
      else .next (if o = 16 + op then s.kcmdEnd x else s)
    | none => .next s
  else if s.keng.cmd.isSome || v % 16 ≠ op then .next s
  else
    let slot := v / 2 ^ 4 % 2 ^ 14
    let a := s.keng.kaddr.toNat
    let arg := s.keng.karg.toNat
    let c := match s.kcmdRefusal op slot a arg with
      | some r => (16 + op, r)
      | none => (op, slot)
    let s := if op = 6 && arg = 3 then s.chargeSectors 32 none a 512 .read else s
    .next ((s.updKeng fun k => { k with cmd := some c }).later { ev := { n := a, v := s.keng.karg, flag := true }, i := row })

/-! ## LOAD and CLEAR (R386, R387) -/

/-- The key slot that a blob's plaintext gives, when it meets every condition (R386). -/
def blobSlot (pt : List Byte) (slot : Nat) (devid : Word) : Option KeySlot :=
  let f (lo n : Nat) : Nat := leNat ((pt.drop lo).take n)
  let b (lo n : Nat) : List Byte := (pt.drop lo).take n
  let kind := f 2 1
  if pt.length = 144 && f 0 2 == 0x4B42 && (kind == 1 || kind == 2) && f 3 1 == 0 && (kind == 2 || f 4 2 != 0) && f 6 2 == slot
      && f 8 8 == devid.toNat && b 16 32 != b 48 32 && (kind == 1 || f 80 32 == 0) then
    some { model := kind == 2, tenant := BitVec.ofNat 16 (f 4 2), kxts := b 16 64, kgcm := b 80 32, kmac := b 112 32 }
  else none

/-- LOAD. -/
def State.loadKey (s : State) (slot a _arg : Nat) : State × Nat :=
  let s := s.chargeSectors 32 none a 512 .read
  match s.operand a 512 with
  | none => (s, krMemUe)
  | some blob => match (Config.oaepOpen s.keng.kik blob).bind fun pt => blobSlot pt slot s.keng.devid with
    | none => (s, krBadBlob)
    | some x => (s.updKeng fun k => { k with slots := mset none k.slots slot (some x) }, 0)
def execLoad (s : State) : Result := s.kcmd 1 .load State.loadKey

/-- CLEAR: from the write on, accesses under the slot's index fault KEY (`State.keyCheck`); the lines tagged with it leave the stacked cache. -/
def State.clearKey (s : State) (slot _a _arg : Nat) : State × Nat := ((s.dropTagged slot).updKeng fun k => { k with slots := mset none k.slots slot none }, 0)
def execClear (s : State) : Result := s.kcmd 2 .clear State.clearKey

/-! ## Measurement and reports (R390, R391) -/

def KeyEng.reg (k : KeyEng) (n : Nat) : List Byte := mget (List.replicate 64 0) k.mreg n

/-- MREGn := SHA-512(MREGn ++ data). -/
def KeyEng.extend (k : KeyEng) (n : Nat) (data : List Byte) : KeyEng :=
  { k with mreg := mset (List.replicate 64 0) k.mreg n (Config.sha512 (k.reg n ++ data)) }

/-- The record that MREG1 is extended with: state, level and security version in the layout of LCS (R390). -/
def KeyEng.stateRecord (k : KeyEng) : List Byte := leBytes 8 (k.lcs.toNat + k.dbg.toNat * 2 ^ 3 + k.svn.toNat * 2 ^ 21)

/-- EXTEND. -/
def State.extendReg (s : State) (_slot a arg : Nat) : State × Nat :=
  let s := s.chargeSectors 32 none a 64 .read
  match s.operand a 64 with
  | none => (s, krMemUe)
  | some d => (s.updKeng fun k => k.extend (arg % 8) d, 0)
def execExtend (s : State) : Result := s.kcmd 4 .extend State.extendReg

/-- The signed part of a report (R391). -/
def State.reportBody (s : State) (arg : Nat) (nonce : List Byte) : List Byte :=
  let k := s.keng
  let m := arg % 2 ^ 14
  let w (x : Nat) : List Byte := leBytes 8 (if bitOf arg 14 then x else 0)
  leBytes 8 (0x4A41 + 0x01 * 2 ^ 16 + k.lcs.toNat * 2 ^ 24 + k.dbg.toNat * 2 ^ 27 + k.svn.toNat * 2 ^ 29) ++ leBytes 8 k.devid.toNat
    ++ w (m + 2 ^ 14 + bitOf01 (s.hw m 2) 48 * 2 ^ 15 + (s.tenant m).getD 0 * 2 ^ 16 + s.ctxCode m * 2 ^ 32) ++ w (s.hw m 0) ++ w (s.saveCtr m)
    ++ List.replicate 8 0 ++ nonce
    ++ (if bitOf arg 14 then Config.sha512 ((List.range 64).flatMap fun i => leBytes 8 (s.hw m i)) else List.replicate 64 0)
    ++ Config.sha512 (Config.kikPublic k.kik) ++ ((List.range 8).flatMap fun i => k.reg i) ++ List.replicate 16 0
where
  bitOf01 (x k : Nat) : Nat := if bitOf x k then 1 else 0

/-- REPORT. -/
def State.makeReport (s : State) (_slot a arg : Nat) : State × Nat :=
  let s := s.chargeSectors 32 none a 64 .read
  match s.operand a 64 with
  | none => (s, krMemUe)
  | some nonce =>
    let body := s.reportBody arg nonce
    ((s.chargeSectors 32 none a 1280 .write).physWrite a (body ++ Config.sign s.keng.dik body), 0)
def execReport (s : State) : Result := s.kcmd 3 .report State.makeReport

/-! ## Debug levels (R394, R395) -/

/-- Is a context being restored for a debug step, or making one (R355)? -/
def State.stepping (s : State) (d mcx : Nat) : Bool :=
  ((s.die d).stepOf mcx).1 != 0 && (!(mget [] s.restoring mcx).isEmpty
    || (match s.group mcx with | some g => g.spindles.any fun sp => (s.spindle sp).stepSlot.isSome | none => false))

/-- The step that a die's debug unit is making when its registers are reset, to be completed or abandoned by the new level (R394). -/
def State.stepRuns (s : State) (d : Nat) : Option (Nat × Nat × Nat) :=
  (sortNats (s.groups.map fun p => p.1)).findSome? fun m =>
    if s.stepping d m then some (m, if s.debugPermits m then ((s.die d).stepOf m).1 else 0, ((s.die d).stepOf m).2) else none

/-- The debug controls of every die after a change of level (R394). -/
def State.resetDebug (s : State) : State :=
  let s := (List.range 4).foldl (fun s d => s.updDie d fun x =>
    { x with dbgRun := s.stepRuns d, dbgMcx := 0, dbgHold := false, dbgBrk := false, dbgStep := 0, dbgTarget := 0 }) s
  -- a step in progress that the level no longer permits is abandoned
  let s := (sortNats (s.groups.map fun p => p.1)).foldl (fun (s : State) m =>
    if s.debugPermits m then s
    else
      let stepping := match s.group m with
        | some g => g.spindles.any fun sp => (s.spindle sp).stepSlot.isSome
        | none => false
      let launched := match s.stop m with
        | some st => st.stepOver
        | none => false
      if stepping || launched then
        let s := match s.group m with
          | some g => (g.spindles.foldl (fun (s : State) sp => s.updSpindle sp fun x => { x with stepSlot := none }) s).updDie (g.spindles.headD 0 / 96)
              fun x => x.stepEnds m
          | none => s
        s.stopGroup m {}
      else match s.stop m with
        | some st => s.setStop m (some { st with debug := none })
        | none => s) s
  (List.range 32).foldl State.dispatch s

/-- SETDBG. -/
def State.setLevel (s : State) (_slot _a arg : Nat) : State × Nat :=
  let changed := s.keng.dbg.toNat != arg % 4
  let s := s.updKeng fun k =>
    let k' := { k with dbg := BitVec.ofNat 2 arg }
    if changed then k'.extend 1 k'.stateRecord else k'
  (s.resetDebug, 0)
def execSetdbg (s : State) : Result := s.kcmd 5 .setdbg State.setLevel

/-- DBGTEN: a write of LCS with `ev.v` (R393, R394). -/
def execDbgten (s : State) : Result := .next (s.updKeng fun k => { k with dbgten := BitVec.ofNat 16 (s.ev.v.toNat / 2 ^ 5) }).resetDebug

/-! ## Life-cycle moves (R396, R397) -/

/-- The key action on entry to a state, with the state written (R396). A pair of keys is named by its generation. -/
def State.enterLcs (s : State) (next : Nat) : State :=
  let lcs := s.keng.lcs
  match next with
  | 1 =>
    let k := s.fresh
    if lcs = 3 then k.2.updKeng fun e => { e with lcs := 1, kik := k.1 }
    else k.2.updKeng fun e => { e with lcs := 1, kik := k.1, dik := k.1, devid := Config.dikId k.1 }
  | 3 => s.updKeng fun e => { e with lcs := 3, slots := [], kik := 0 }
  | 4 => s.updKeng fun e => { e with lcs := 4, dik := 0 }
  | _ => s.updKeng fun e => { e with lcs := BitVec.ofNat 3 next }

/-- Every partition is reset as steps 1 to 3 of R330 give, with status CANCELLED, and the completions and answers leave (R397 step 2). -/
def State.cancelAll (s : State) : State :=
  let s := ((List.range 32).filter fun q => (s.part q).enable).foldl (fun s q => (s.stopContexts q cCancelled).wipeResidency q) s
  (sortNats (s.replies.map fun r => r.mcx)).foldl State.flushReplies (s.flushCompletions fun _ => true)

/-- LCREQ: the steps of R397, of which the cold reset carries out the wipe as well. -/
def State.lifeCycle (s : State) (_slot _a arg : Nat) : State × Nat := ((s.cancelAll.enterLcs (arg % 8)).push { i := .coldReset }, 0)
def execLcreq (s : State) : Result := s.kcmd 6 .lcreq State.lifeCycle

end Sys2Proof.Machine
end

