-- ==== Sys2Proof/Machine/Bringup.lean ====
section
/-! DEFINITION. Bring-up: the cold reset (R399, R441, R442), the boot ROM's sequence (R443 to R445, R390), management (R446), supply and cooling (R447, R448),
and the host's window on HBM (R420). -/

namespace Sys2Proof.Machine

open Sys2Proof

/-! ## Cold reset -/

/-- A row that something outside the dies starts: the host, the network, the board. -/
def outsideRow (i : Instr) : Bool :=
  match i with
  | .ethernetFrame => true
  | .linkStateChange => true
  | .sqtail => true
  | .cqhead => true
  | .sqcfg => true
  | .flr => true
  | .hostLinkReset => true
  | .bar2Access => true
  | .pldmFirmwareUpdate => true
  | .pldmResetEffecter => true
  | .pldmSensorRead => true
  | .supplyOutOfRange => true
  | .supplyReturn => true
  | .thermalThrottle => true
  | .thermalTrip => true
  | .thermalRecovery => true
  | _ => false

/-- A scheduled row that a cold reset leaves scheduled. -/
def Act.outside (a : Act) : Bool := outsideRow a.i || (a.i == .registerWrite && a.ev.flag) || (a.i == .coldReset && !a.ev.flag)

/-- The state after a cold reset (R399, R442): the reset state, with what no reset touches: the fuses and keys of the key engine, the flash drives, the
boot ROMs, the memory of the host, and what has left the module. -/
def State.coldReset (s : State) : State :=
  let k := s.keng
  let kdev := Config.random s.free
  let bootid := Config.random (s.free + 1)
  { State.reset with
    agenda := s.agenda.filter Act.outside
    ev := s.ev, frame := s.frame, turn := s.turn, free := s.free + 2, nextId := s.nextId
    keng := { lcs := k.lcs, svnmin := k.svnmin, devid := k.devid, dik := k.dik, kik := k.kik, kdev := kdev, bootid := BitVec.ofNat 40 bootid }
    rom := s.rom, flash := s.flash, drives := s.drives, hostMem := s.hostMem, sent := s.sent, msix := s.msix, mgmt := s.mgmt }

/-! ## The boot ROM (R443 to R445) -/

/-- The largest image (R444). -/
def imageMax : Nat := 2 ^ 24

/-- The bytes of an image slot of drive 0, from address 0. -/
def State.slotBytes (s : State) (slot : Nat) : List Host.Cell :=
  (s.flash.filter fun p => decide (imageMax * slot ≤ p.1) && decide (p.1 < imageMax * (slot + 1))).map fun p => (p.1 - imageMax * slot, p.2)

/-- The 16 MiB of an image slot read into HBM at address 0. -/
def State.placeImage (s : State) (cells : List Host.Cell) : State :=
  { s with
    hbm := cells ++ dropRange s.hbm 0 imageMax
    sects := (List.range (imageMax / 128)).map (fun n => (n, { live := true, kmac := s.kmac 0 })) ++ dropRange s.sects 0 (imageMax / 128) }

/-- The fields of the image at address 0 (R444). -/
def State.imageNat (s : State) (a n : Nat) : Nat := leNat (getBytes s.hbm a n)
def State.imageSvn (s : State) : Nat := s.imageNat 4 2
def State.imageLen (s : State) : Nat := s.imageNat 8 4
def State.imageEntry (s : State) : Nat := s.imageNat 12 4

/-- Does the image at address 0 pass (R445, R390)? -/
def State.imageOk (s : State) : Bool :=
  s.imageNat 0 2 == 0x4A46 && s.imageNat 2 1 == 1 && s.imageNat 3 1 == 0 && s.imageNat 6 2 == 0 && s.imageNat 0x10 0x1F0 == 0
    && decide (s.imageLen ≤ 16776192) && decide (s.keng.svnmin.toNat ≤ s.imageSvn)
    && Config.firmwareSigOk (getBytes s.hbm 0 0x200 ++ getBytes s.hbm 0x400 s.imageLen) (getBytes s.hbm 0x200 0x200)

/-- The mill strand of slot 0 of a die runs on at an address, or waits in HALT for the events of a mask. -/
def State.millRun (s : State) (d entry : Nat) : State :=
  (s.updStrand (384 * d) fun t => { t with st := .running, waits := [], core := { t.core with pc := BitVec.ofNat 32 entry } }).updSpindle (96 * d)
    fun x => { x with running := some 0, last := some 0 }
def State.millWait (s : State) (d : Nat) (mask : BitVec 13) : State :=
  (s.updStrand (384 * d) fun t => { t with st := .blocked, waits := [.halt], core := { t.core with evmask := mask } }).updSpindle (96 * d)
    fun x => { x with running := none }

/-- The accepted image at address 0 runs (R443 steps 5 and 6). -/
def State.bootImage (s : State) (slot : Nat) : State :=
  let image := getBytes s.hbm 0 (0x400 + s.imageLen)
  let entry := s.imageEntry
  let svn := BitVec.ofNat 16 s.imageSvn
  let s := s.updKeng fun k =>
    let k := { k with svn := svn }
    (k.extend 0 (Config.sha512 image)).extend 1 k.stateRecord
  let s := { s with fwSlot := some slot }
  (List.range 4).foldl (fun (s : State) d =>
    let s := (s.updDie d fun x => { x with fw := true, evpend := if d = 0 then x.evpend else x.evpend ||| 1 }).millRun d entry
    if d = 0 then s else s.updCore (384 * d) fun c => { c with evmask := 1 }) s

/-- The boot ROM waits: die 0's for an image over PLDM or in SCRAPPED, those of the other dies for its IPI. -/
def State.bootWait (s : State) : State := (List.range 4).foldl (fun (s : State) d => s.millWait d (if d = 0 then 0 else 1)) s

/-- The ROM's sequence from R443 step 1; bit k of `bad` says that drive 0 fails as slot k is read (R445). -/
def State.boot (s : State) (bad : Nat) : State :=
  if s.keng.lcs = 4 then s.bootWait
  else
    let a := s.placeImage (s.slotBytes 0)
    if !bitOf bad 0 && a.imageOk then a.bootImage 0
    else
      let b := s.placeImage (s.slotBytes 1)
      if !bitOf bad 1 && b.imageOk then b.bootImage 1 else b.bootWait

/-- May the boot ROM of die 0 still run its sequence: slot 0 stands at its start? -/
def State.booting (s : State) : Bool := !(s.die 0).fw && (s.strand 0).st == .running && (s.core 0).pc == 0

/-- COLD_RESET (R442): power-on, or one of the sources of R441. The boot ROM's sequence follows as this row with the flag set, and `ev.n` as `State.boot` reads it:
the spec gives what the ROM does, and not its bundles (notes/assumptions/8.md). -/
def execColdReset (s : State) : Result :=
  if s.held || s.tripped then .next s
  else if s.ev.flag then .next (if s.booting then s.boot s.ev.n else s)
  else .next (s.coldReset.push { i := .coldReset, ev := { flag := true, n := s.ev.n } })

/-! ## Management (R446) -/

/-- PLDM_FIRMWARE_UPDATE: the image in `ev.bytes` is written to slot `ev.n`. While the boot ROM waits for one, it is placed, checked and run (R443 step 4). -/
def execPldmFirmwareUpdate (s : State) : Result :=
  let slot := s.ev.n % 2
  if s.keng.lcs = 4 || s.fwSlot = some slot || imageMax < s.ev.bytes.length then .next s
  else
    let s := s.flashWrite 0 (4096 * slot) s.ev.bytes
    if !(s.die 0).fw && (s.strand 0).st == .blocked then
      let a := s.placeImage (putBytes [] 0 s.ev.bytes)
      .next (if a.imageOk then a.bootImage slot else a)
    else .next s

/-- PLDM_RESET_EFFECTER: `ev.v` is written to effecter 20. -/
def execPldmResetEffecter (s : State) : Result := .next (if s.ev.v = 1 then s.push { i := .coldReset } else s)

/-- PLDM_SENSOR_READ of sensor `ev.n`: a measured value comes as `ev.v`. -/
def execPldmSensorRead (s : State) : Result :=
  let id := s.ev.n
  if id = 0 || 9 < id then .next s
  else .next { s with mgmt := s.mgmt ++ [(id, if id = 9 then s.keng.lcs.toNat else s.ev.v.toNat)] }

/-! ## Supply and cooling (R447, R448) -/

/-- SUPPLY_OUT_OF_RANGE: the dies are held in reset. -/
def execSupplyOutOfRange (s : State) : Result := .next { s with held := true }

/-- The power stage restarts the module when nothing holds it down. -/
def State.restart (s : State) : State := if s.held || s.tripped then s else s.push { i := .coldReset }

/-- SUPPLY_RETURN. -/
def execSupplyReturn (s : State) : Result := .next (if s.held then { s with held := false }.restart else s)

/-- THERMAL_TRIP: 110 °C held for 2^22 cycles removes power. -/
def execThermalTrip (s : State) : Result := .next { s with tripped := true }

/-- THERMAL_RECOVERY: every die is below 60 °C. -/
def execThermalRecovery (s : State) : Result := .next (if s.tripped then { s with tripped := false }.restart else s)

/-! ## BAR2 (R420) -/

/-- A physical store: it clears the release tags of its words (R149, R286). -/
def State.storeLater (s : State) (pa : Nat) (bs : List Byte) : State := (s.clearTags (.phys pa) bs.length).physWrite pa bs

/-- The physical address that BAR2 offset `o` reaches. -/
def State.barWindow (s : State) (o : Nat) : Nat := (s.fn 0).hbmwin.toNat * 2 ^ 32 + o % 2 ^ 32

/-- BAR2_ACCESS at offset `ev.n`: a write of `ev.bytes` with the flag set, or a read of `ev.m` bytes, whose answer leaves as `State.mgmt` says. -/
def execBar2Access (s : State) : Result :=
  let a := s.barWindow s.ev.n
  if s.ev.flag then
    let bs := s.ev.bytes.take (hbmEnd - a)
    .next ((s.storeLater a bs).chargeSectors 32 none a bs.length .write)
  else
    let n := s.ev.m
    let bs := s.physRead a (min n (hbmEnd - a))
    let v := leNat (bs ++ List.replicate (n - bs.length) 0xFF)
    .next ({ s with mgmt := s.mgmt ++ [(65536 + s.ev.n % 2 ^ 32, v)] }.chargeSectors 32 none a bs.length .read)

end Sys2Proof.Machine
end

