-- ==== Sys2Proof/Machine/RegWrite.lean ====
section
/-! DEFINITION. The writes of registers that have no row of their own, field by field (R4): control space (R331, R352, R361, R370, R371, R384, R403, R416, R424,
R429, R437) and BAR0 (R418, R420, R431). -/

namespace Sys2Proof.Machine

open Sys2Proof

/-- Is a value aligned to 2^k? -/
def aligned (v k : Nat) : Bool := v % 2 ^ k == 0

/-- The LOG field of a ring of 64 to 4,096 entries; other values are ignored, as R361 and R437 say of FQLOG and ELLOG (of RVLOG a DESIGN CHOICE,
notes/assumptions/59.md). -/
def logField (old : BitVec 4) (v : Nat) : BitVec 4 := if 6 ≤ v % 16 && v % 16 ≤ 12 then BitVec.ofNat 4 v else old

/-- The distaff's registers of die d (R331). -/
def State.distaffWrite (s : State) (d o v : Nat) : State :=
  if o = 0 then (if aligned v 24 && !(s.die d).installed then s.updDie d fun x => { x with mctbase := BitVec.ofNat 48 v } else s)
  else if o = 8 then s.updDie d fun x => { x with quant := BitVec.ofNat 32 v }
  else if 0x1000 ≤ o && o < 0x2000 then
    ((List.range 32).filter fun q => (s.part q).die.toNat == d).foldl State.dispatch
      (s.updDie d fun x => { x with weight := mset 1 x.weight ((o - 0x1000) / 8) (BitVec.ofNat 16 v) })
  else if 0x2000 ≤ o && o < 0x2100 then s.updDie d fun x => { x with wdogLimit := mset 0 x.wdogLimit ((o - 0x2000) / 8) (BitVec.ofNat 32 v) }
  else s

/-- The debug unit's status of die d (R352, R393). -/
def State.debugWrite (s : State) (d o v : Nat) : State :=
  let m := (s.die d).dbgMcx.toNat
  if o = 8 && bitOf v 0 && s.debugPermits m && (s.part (s.partOf m)).die.toNat == d then s.updDie d fun x => { x with dbgStopped := false }
  else s

/-- The translation unit's registers of die d (R361). -/
def State.translationWrite (s : State) (d o v : Nat) : State :=
  match o with
  | 0x00 => if aligned v 12 && !((s.die d).faults.any fun e => e.posted.isSome) then s.updDie d fun x => { x with fqbase := BitVec.ofNat 48 v } else s
  | 0x08 => s.updDie d fun x => { x with fqlog := logField x.fqlog v }
  | 0x18 => if aligned v 16 then s.updDie d fun x => { x with shdir := BitVec.ofNat 48 v } else s
  | 0x20 => s.updDie d fun x => { x with modnum := BitVec.ofNat 6 v }
  | _ => s

/-- The registers of the partition unit (R370, R371). A MODCAP below the sum of the caps is a write that would make them exceed it. -/
def State.partitionWrite (s : State) (o v : Nat) : State :=
  if o < 0x2000 then
    (match o % 0x100 with
      | 0x10 => s.updPart (o / 0x100) fun x => { x with idlewait := BitVec.ofNat 32 v }
      | 0x60 => s.updPart (o / 0x100) fun x => { x with vfmask := BitVec.ofNat 64 v }
      | _ => s)
  else if o = 0xF000 then
    let cap := min (v % 2 ^ 12) 3000
    if cap < s.capSum then s.setPerr perrCapsum else { s with modcap := BitVec.ofNat 12 cap }
  else if o = 0xF008 then { s with perr := s.perr &&& ~~~(BitVec.ofNat 5 v) }
  else s

/-- The key engine's registers (R384): a KCMD that names no command returns RANGE (R385). -/
def State.keyWrite (s : State) (o v : Nat) : State :=
  match o with
  | 0x00 => if s.keng.cmd.isNone then s.updKeng fun k => { k with result := BitVec.ofNat 8 krRange } else s
  | 0x08 => if aligned v 6 then s.updKeng fun k => { k with kaddr := BitVec.ofNat 48 v } else s
  | 0x10 => s.updKeng fun k => { k with karg := BitVec.ofNat 64 v }
  | _ => s

/-- A write of PCFG: an MTU out of its range is ignored (R403). -/
def Port.configure (p : Port) (v : Nat) : Port :=
  let mtu := v / 2 ^ 46 % 2 ^ 14
  { p with cfg := BitVec.ofNat 61 (if 1280 ≤ mtu && mtu ≤ 9216 then v else setField v 46 14 (p.cfg.toNat / 2 ^ 46)) }

/-- The registers of a port (R403). -/
def Port.write (p : Port) (o v : Nat) : Port :=
  let free := !p.cfg.getLsbD 60
  match o with
  | 0x00 => if free then { p with mac := BitVec.ofNat 48 v } else p
  | 0x08 => if free then { p with ip4 := BitVec.ofNat 32 v } else p
  | 0x10 => if free then { p with ip6lo := BitVec.ofNat 64 v } else p
  | 0x18 => if free then { p with ip6hi := BitVec.ofNat 64 v } else p
  | 0x20 => if free || !bitOf v 60 then p.configure v else p
  | 0x28 => { p with rate := BitVec.ofNat 16 v }
  | _ => p

/-- The registers of a die's ports, its reach table and REACHTMO (R403, R416). A port that its write enables sends what waits for it. The 128-bit ADDR of REACHm,
one register in R416 where a store writes at most 64 bits (R286), is written and read as two halves, at 32m and 32m + 8 (DESIGN CHOICE,
notes/assumptions/59.md). -/
def State.portWrite (s : State) (d o v : Nat) : State :=
  if o < 0x2000 then (s.updPort (2 * d + o / 0x1000) fun p => p.write (o % 0x1000) v).flushPort (2 * d + o / 0x1000)
  else if o = 0x7000 then s.updDie d fun x => { x with reachTmo := BitVec.ofNat 32 v }
  else if 0x8000 ≤ o && o < 0x8800 then
    let m := (o - 0x8000) / 32
    let r := mget (0, false) s.reach m
    let set (r : BitVec 128 × Bool) : State := { s with reach := mset (0, false) s.reach m r }
    match (o - 0x8000) % 32 with
    | 0 => set (BitVec.ofNat 128 (setField r.1.toNat 0 64 v), r.2)
    | 8 => set (BitVec.ofNat 128 (setField r.1.toNat 64 64 v), r.2)
    | 16 => set (r.1, bitOf v 0)
    | _ => s
  else s

/-- The roving engine's registers of die d (R424). -/
def State.rovingWrite (s : State) (d o v : Nat) : State :=
  if (s.die d).rvtail ≠ (s.die d).rvhead then s
  else if o = 0 then (if aligned v 12 then s.updDie d fun x => { x with rvbase := BitVec.ofNat 48 v } else s)
  else if o = 8 then s.updDie d fun x => { x with rvlog := logField x.rvlog v }
  else s

/-- The registers of the report unit, on die 0, and of the error log (R429, R437). -/
def State.counterWrite (s : State) (d o v : Nat) : State :=
  match o with
  | 0x008 => if d = 0 && aligned v 6 then s.updKeng fun k => { k with lraddr := BitVec.ofNat 48 v } else s
  | 0x100 => if aligned v 12 then s.updDie d fun x => { x with elbase := BitVec.ofNat 48 v } else s
  | 0x108 => s.updDie d fun x => { x with ellog := logField x.ellog v }
  | 0x118 => s.updDie d fun x => { x with cecnt := x.cecnt &&& ~~~(BitVec.ofNat 48 v) }
  | 0x120 => s.updDie d fun x => { x with cethr := BitVec.ofNat 16 v }
  | _ => s

/-- A write of control space that has no row of its own. -/
def State.regWrite (s : State) (a v : Nat) : State :=
  let o := a % 2 ^ 40
  let d := a / 2 ^ 40 % 4
  match a / 2 ^ 42 with
  | 0x10 => s.distaffWrite d o (v % 2 ^ 64)
  | 0x11 => s.debugWrite d o v
  | 0x12 => s.translationWrite d o v
  | 0x13 => if d = 0 then s.partitionWrite o v else s
  | 0x14 => if d = 0 then s.keyWrite o v else s
  | 0x15 => s.portWrite d o v
  | 0x16 => s.rovingWrite d o v
  | 0x17 => s.counterWrite d o v
  | _ => s

/-- A counter's selection written: EVENT and EN, and OVF cleared by a 1 (R431). -/
def selWrite (old : BitVec 8) (v : Nat) : BitVec 8 := BitVec.ofNat 8 (v % 2 ^ 7 + (if bitOf v 7 then 0 else old.toNat / 2 ^ 7 * 2 ^ 7))

/-- A write of the MSI-X table of function f, at an offset of BAR0: of an entry's address, or of its data and its mask bit. An entry that is no longer masked sends
what is pending (R417; the table's layout is PCIe's, notes/assumptions/45.md). -/
def State.msixWrite (s : State) (f o v : Nat) : State :=
  let k := (o - 0x1000) / 8
  if vectors f ≤ k / 2 || o % 8 ≠ 0 then s
  else
    let s := s.updFn f fun x => { x with mtab := mset (if k % 2 = 0 then 0 else 0x100000000) x.mtab k (BitVec.ofNat 64 (if k % 2 = 0 then v else v % 2 ^ 33)) }
    let x := s.fn f
    if x.pba.getLsbD (k / 2) && !x.masked (k / 2) then
      { s.setFn f { x with pba := x.pba &&& ~~~(BitVec.ofNat 64 (2 ^ (k / 2))) } with msix := s.msix ++ [(f, k / 2)] }
    else s

/-- A write of function f's BAR0 (R417, R418, R420, R431, R442). A doorbell and SQCFG have rows of their own, which run next. -/
def State.barWrite (s : State) (f o v : Nat) : State :=
  let x := s.fn f
  if o < 0x1000 && !s.barOpen then s
  else if 0x1000 ≤ o && o < 0x2000 then s.msixWrite f o v
  else
  let own (i : Instr) : State := s.push { ev := { m := f, v := BitVec.ofNat 64 v }, i := i }
  let idle (y : HostFn) : State := if x.en then s else s.setFn f y
  match o with
  | 0x00 => if aligned v 12 then idle { x with sqbase := BitVec.ofNat 64 v } else s
  | 0x08 => own .sqcfg
  | 0x10 => if aligned v 12 then idle { x with cqbase := BitVec.ofNat 64 v } else s
  | 0x18 => idle { x with vec := BitVec.ofNat 6 v }
  | 0x20 => if aligned v 3 then idle { x with markaddr := BitVec.ofNat 64 v } else s
  | 0x28 => own .sqtail
  | 0x30 => own .cqhead
  | 0x40 => if f = 0 then s.setFn f { x with hbmwin := BitVec.ofNat 16 (v / 2 ^ 32) } else s
  | 0x3040 => s.setFn f { x with cntvec := BitVec.ofNat 6 v }
  | _ =>
    if 0x3000 ≤ o && o < 0x3020 && o % 8 == 0 then
      let k := (o - 0x3000) / 8
      s.setFn f { x with cntsel := mset 0 x.cntsel k (selWrite (mget 0 x.cntsel k) v) }
    else if 0x3080 ≤ o && o < 0x30A0 && o % 8 == 0 then
      let k := (o - 0x3080) / 8
      s.setFn f { x with cnt := mset 0 x.cnt k (BitVec.ofNat 48 v) }
    else s

/-- A counter as a function reads it: a VF reads zero where the event is a link's (R433). -/
def State.barCount (s : State) (f k : Nat) : Nat :=
  let ev := (mget 0 (s.fn f).cntsel k).toNat % 64
  if f ≠ 0 && (ev = 12 || ev = 13) then 0 else (mget 0 (s.fn f).cnt k).toNat

/-- What function f's BAR0 reads as (R4, R417, R418, R431, R442): WO registers and reserved offsets read zero. -/
def State.barWord (s : State) (f o : Nat) : Nat :=
  let x := if o < 0x1000 && !s.barOpen then {} else s.fn f
  match o with
  | 0x00 => x.sqbase.toNat
  | 0x08 => x.sqlog.toNat + x.en.toNat * 2 ^ 15
  | 0x10 => x.cqbase.toNat
  | 0x18 => x.vec.toNat
  | 0x20 => x.markaddr.toNat
  | 0x38 => x.sqhead.toNat + x.ferr.toNat * 2 ^ 16
  | 0x40 => if f = 0 then x.hbmwin.toNat * 2 ^ 32 else 0
  | 0x3040 => x.cntvec.toNat
  | _ =>
    if 0x3000 ≤ o ∧ o < 0x3020 ∧ o % 8 = 0 then (mget 0 x.cntsel ((o - 0x3000) / 8)).toNat
    else if 0x3080 ≤ o ∧ o < 0x30A0 ∧ o % 8 = 0 then s.barCount f ((o - 0x3080) / 8)
    else if 0x1000 ≤ o ∧ o < 0x1000 + 16 * vectors f ∧ o % 8 = 0 then
      (mget (if o / 8 % 2 = 0 then 0 else 0x100000000) x.mtab ((o - 0x1000) / 8)).toNat
    else if o = 0x2000 then x.pba.toNat
    else 0

/-- REGISTER_WRITE: `ev.v` is written at control-space address `ev.n`, or with the flag set at offset `ev.n` of BAR0 of function `ev.m`. With
bytes it is a mill strand's store to HBM that follows a register write in program order (R286, R337; see `PStore.act`). -/
def execRegisterWrite (s : State) : Result :=
  if !s.ev.bytes.isEmpty then .next ((s.storeLater s.ev.n s.ev.bytes).chargeSectors 32 none s.ev.n s.ev.bytes.length .write) else
  .next (if s.ev.flag then s.barWrite (s.ev.m % 64) s.ev.n s.ev.v.toNat else s.regWrite s.ev.n s.ev.v.toNat)

end Sys2Proof.Machine
end

