-- ==== Sys2Proof/Machine/Bundle.lean ====
section
/-! DEFINITION. Whole bundles (R25, R58 to R64): the meaning of each slot operation within the bundle that holds it, and BUNDLE_ISSUE. -/

namespace Sys2Proof.Machine

open Sys2Proof

/-- The meaning of a slot operation in its bundle; a micro-op and an event are none. -/
def fxOf (i : Instr) : Env → Verdict :=
  match i with
  | .bundleIssue => fun e => e.trap cIllegal
  | .strandSelect => fun e => e.trap cIllegal
  | .resultLand => fun e => e.trap cIllegal
  | .fmtTakeEffect => fun e => e.trap cIllegal
  | .blockEnd => fun e => e.trap cIllegal
  | .stallEnd => fun e => e.trap cIllegal
  | .taskPlace => fun e => e.trap cIllegal
  | .strandRetire => fun e => e.trap cIllegal
  | .rangeSteal => fun e => e.trap cIllegal
  | .killArrival => fun e => e.trap cIllegal
  | .copyStart => fun e => e.trap cIllegal
  | .transformPin => fun e => e.trap cIllegal
  | .copySectorWrite => fun e => e.trap cIllegal
  | .copyError => fun e => e.trap cIllegal
  | .bobbinSlotStart => fun e => e.trap cIllegal
  | .bankTransition => fun e => e.trap cIllegal
  | .callStart => fun e => e.trap cIllegal
  | .repeatEnqueue => fun e => e.trap cIllegal
  | .shadowCompare => fun e => e.trap cIllegal
  | .frameWrite => fun e => e.trap cIllegal
  | .frameDecode => fun e => e.trap cIllegal
  | .sNop f => fxSNop f
  | .add f => fxAdd f
  | .sub f => fxSub f
  | .addi f => fxAddi f
  | .mul f => fxMul f
  | .mulhs f => fxMulhs f
  | .mulhn f => fxMulhn f
  | .divs f => fxDivs f
  | .divn f => fxDivn f
  | .rems f => fxRems f
  | .remn f => fxRemn f
  | .addshl f => fxAddshl f
  | .mins f => fxMins f
  | .minn f => fxMinn f
  | .maxs f => fxMaxs f
  | .maxn f => fxMaxn f
  | .and f => fxAnd f
  | .or f => fxOr f
  | .xor f => fxXor f
  | .andn f => fxAndn f
  | .andi f => fxAndi f
  | .ori f => fxOri f
  | .xori f => fxXori f
  | .shl f => fxShl f
  | .shrl f => fxShrl f
  | .shra f => fxShra f
  | .shli f => fxShli f
  | .shrli f => fxShrli f
  | .shrai f => fxShrai f
  | .rotr f => fxRotr f
  | .rotri f => fxRotri f
  | .movi f => fxMovi f
  | .movhi f => fxMovhi f
  | .seq f => fxSeq f
  | .sne f => fxSne f
  | .slts f => fxSlts f
  | .sltn f => fxSltn f
  | .sltis f => fxSltis f
  | .sltin f => fxSltin f
  | .bfxs f => fxBfxs f
  | .bfxn f => fxBfxn f
  | .bfi f => fxBfi f
  | .popc f => fxPopc f
  | .clz f => fxClz f
  | .ctz f => fxCtz f
  | .psetx f => fxPsetx f
  | .pany f => fxPany f
  | .pall f => fxPall f
  | .pcnt f => fxPcnt f
  | .crr f => fxCrr f
  | .crw f => fxCrw f
  | .setfmt f => fxSetfmt f
  | .tshape f => fxTshape f
  | .msetp f => fxMsetp f
  | .mgetp f => fxMgetp f
  | .mpcset f => fxMpcset f
  | .dset f => fxDset f
  | .dget f => fxDget f
  | .vmov f => fxVmov f
  | .vadd f => fxVadd f
  | .vsub f => fxVsub f
  | .vmul f => fxVmul f
  | .vfma f => fxVfma f
  | .vfms f => fxVfms f
  | .vfnma f => fxVfnma f
  | .vmulh f => fxVmulh f
  | .vmin f => fxVmin f
  | .vmax f => fxVmax f
  | .vabs f => fxVabs f
  | .vneg f => fxVneg f
  | .vaddsat f => fxVaddsat f
  | .vsubsat f => fxVsubsat f
  | .vavg f => fxVavg f
  | .vand f => fxVand f
  | .vor f => fxVor f
  | .vxor f => fxVxor f
  | .vandn f => fxVandn f
  | .vshl f => fxVshl f
  | .vshr f => fxVshr f
  | .vpopc f => fxVpopc f
  | .vclz f => fxVclz f
  | .vrcp f => fxVrcp f
  | .vrsqrt f => fxVrsqrt f
  | .vexp2 f => fxVexp2 f
  | .vlog2 f => fxVlog2 f
  | .vtanh f => fxVtanh f
  | .vsigm f => fxVsigm f
  | .vcmpeq f => fxVcmpeq f
  | .vcmpne f => fxVcmpne f
  | .vcmplt f => fxVcmplt f
  | .vcmple f => fxVcmple f
  | .vclass f => fxVclass f
  | .vsel f => fxVsel f
  | .vperm f => fxVperm f
  | .vslideup f => fxVslideup f
  | .vslidedn f => fxVslidedn f
  | .vbcast f => fxVbcast f
  | .vzip f => fxVzip f
  | .vunzip f => fxVunzip f
  | .vrev f => fxVrev f
  | .vredadd f => fxVredadd f
  | .vredmin f => fxVredmin f
  | .vredmax f => fxVredmax f
  | .vscan f => fxVscan f
  | .vcvt f => fxVcvt f
  | .vquant f => fxVquant f
  | .vquantScales f => fxVquantScales f
  | .vdequant f => fxVdequant f
  | .vpack f => fxVpack f
  | .vunpack f => fxVunpack f
  | .pand f => fxPand f
  | .por f => fxPor f
  | .pxor f => fxPxor f
  | .pandn f => fxPandn f
  | .pnot f => fxPnot f
  | .pfirst f => fxPfirst f
  | .lNop f => fxLNop f
  | .ldsS8 f => fxLdsS8 f
  | .ldsN8 f => fxLdsN8 f
  | .ldsS16 f => fxLdsS16 f
  | .ldsN16 f => fxLdsN16 f
  | .ldsS32 f => fxLdsS32 f
  | .ldsN32 f => fxLdsN32 f
  | .ldsB64 f => fxLdsB64 f
  | .stsB8 f => fxStsB8 f
  | .stsB16 f => fxStsB16 f
  | .stsB32 f => fxStsB32 f
  | .stsB64 f => fxStsB64 f
  | .ldsv f => fxLdsv f
  | .stsv f => fxStsv f
  | .ldsvs f => fxLdsvs f
  | .stsvs f => fxStsvs f
  | .gather f => fxGather f
  | .scatter f => fxScatter f
  | .ldgS8 f => fxLdgS8 f
  | .ldgN8 f => fxLdgN8 f
  | .ldgS16 f => fxLdgS16 f
  | .ldgN16 f => fxLdgN16 f
  | .ldgS32 f => fxLdgS32 f
  | .ldgN32 f => fxLdgN32 f
  | .ldgB64 f => fxLdgB64 f
  | .ldgv f => fxLdgv f
  | .stgB8 f => fxStgB8 f
  | .stgB16 f => fxStgB16 f
  | .stgB32 f => fxStgB32 f
  | .stgB64 f => fxStgB64 f
  | .stgv f => fxStgv f
  | .aadd f => fxAadd f
  | .asmin f => fxAsmin f
  | .anmin f => fxAnmin f
  | .asmax f => fxAsmax f
  | .anmax f => fxAnmax f
  | .aand f => fxAand f
  | .aor f => fxAor f
  | .axor f => fxAxor f
  | .aswap f => fxAswap f
  | .acas f => fxAcas f
  | .acq f => fxAcq f
  | .rel f => fxRel f
  | .fence f => fxFence f
  | .barinit f => fxBarinit f
  | .bararv f => fxBararv f
  | .barwait f => fxBarwait f
  | .copyld f => fxCopyld f
  | .copygo f => fxCopygo f
  | .copygoNobar f => fxCopygoNobar f
  | .drain f => fxDrain f
  | .bobpop f => fxBobpop f
  | .bobrel f => fxBobrel f
  | .bobinit f => fxBobinit f
  | .bobstat f => fxBobstat f
  | .spawn f => fxSpawn f
  | .spawnSc f => fxSpawnSc f
  | .rangenext f => fxRangenext f
  | .skjoin f => fxSkjoin f
  | .skleave f => fxSkleave f
  | .skbar f => fxSkbar f
  | .scopenew f => fxScopenew f
  | .cancel f => fxCancel f
  | .cwait f => fxCwait f
  | .bankmode f => fxBankmode f
  | .recv f => fxRecv f
  | .recx f => fxRecx f
  | .recp f => fxRecp f
  | .rmark f => fxRmark f
  | .rmarkPop f => fxRmarkPop f
  | .rpopv f => fxRpopv f
  | .rpopx f => fxRpopx f
  | .rpopp f => fxRpopp f
  | .rchk f => fxRchk f
  | .rchkV f => fxRchkV f
  | .rseal f => fxRseal f
  | .recb f => fxRecb f
  | .mcxld f => fxMcxld f
  | .mcxst f => fxMcxst f
  | .mcxstEvict f => fxMcxstEvict f
  | .tlbinv f => fxTlbinv f
  | .fqpop f => fxFqpop f
  | .fqdone f => fxFqdone f
  | .snapsave f => fxSnapsave f
  | .snapload f => fxSnapload f
  | .wipe f => fxWipe f
  | .wipeSram f => fxWipeSram f
  | .bNop f => fxBNop f
  | .brut f => fxBrut f
  | .bruf f => fxBruf f
  | .jt f => fxJt f
  | .call f => fxCall f
  | .ret f => fxRet f
  | .loop f => fxLoop f
  | .leavet f => fxLeavet f
  | .leavef f => fxLeavef f
  | .brt f => fxBrt f
  | .brk f => fxBrk f
  | .ipi f => fxIpi f
  | .eret f => fxEret f
  | .halt f => fxHalt f
  | .mNop f => fxMNop f
  | .mcall f => fxMcall f
  | .mcallRpt f => fxMcallRpt f
  | .mwait f => fxMwait f
  | .uopNop _ => fun e => e.trap cIllegal
  | .tload _ => fun e => e.trap cIllegal
  | .tstore _ => fun e => e.trap cIllegal
  | .azero _ => fun e => e.trap cIllegal
  | .aload _ => fun e => e.trap cIllegal
  | .astore _ => fun e => e.trap cIllegal
  | .cvt _ => fun e => e.trap cIllegal
  | .opstep _ => fun e => e.trap cIllegal
  | .spstep _ => fun e => e.trap cIllegal
  | .zpc _ => fun e => e.trap cIllegal
  | .bsc _ => fun e => e.trap cIllegal
  | .scale _ => fun e => e.trap cIllegal
  | .addr _ => fun e => e.trap cIllegal
  | .addrAdd _ => fun e => e.trap cIllegal
  | .addrLo _ => fun e => e.trap cIllegal
  | .addrHi _ => fun e => e.trap cIllegal
  | .uopLoop _ => fun e => e.trap cIllegal
  | .mstep _ => fun e => e.trap cIllegal
  | .shadow _ => fun e => e.trap cIllegal
  | .skipf _ => fun e => e.trap cIllegal
  | .uopEnd _ => fun e => e.trap cIllegal
  | .ipiDeliver => fun e => e.trap cIllegal
  | .mspawn => fun e => e.trap cIllegal
  | .nrpRequest => fun e => e.trap cIllegal
  | .nrpCancel => fun e => e.trap cIllegal
  | .contextRecordLoad => fun e => e.trap cIllegal
  | .savePost => fun e => e.trap cIllegal
  | .dqack => fun e => e.trap cIllegal
  | .requestTimeout => fun e => e.trap cIllegal
  | .sqtail => fun e => e.trap cIllegal
  | .cqhead => fun e => e.trap cIllegal
  | .sqcfg => fun e => e.trap cIllegal
  | .commandAdmit => fun e => e.trap cIllegal
  | .hostNop => fun e => e.trap cIllegal
  | .install => fun e => e.trap cIllegal
  | .remove => fun e => e.trap cIllegal
  | .launch => fun e => e.trap cIllegal
  | .hostCancel => fun e => e.trap cIllegal
  | .copy => fun e => e.trap cIllegal
  | .mark => fun e => e.trap cIllegal
  | .flashwrite => fun e => e.trap cIllegal
  | .flashread => fun e => e.trap cIllegal
  | .flashflush => fun e => e.trap cIllegal
  | .flashinfo => fun e => e.trap cIllegal
  | .commandCompletion => fun e => e.trap cIllegal
  | .hqdone => fun e => e.trap cIllegal
  | .watchdogWarning => fun e => e.trap cIllegal
  | .partitionReset => fun e => e.trap cIllegal
  | .dbgctl => fun e => e.trap cIllegal
  | .debugStop => fun e => e.trap cIllegal
  | .tlbMissWalk => fun e => e.trap cIllegal
  | .faultPost => fun e => e.trap cIllegal
  | .sharedFrameRefetch => fun e => e.trap cIllegal
  | .pctl => fun e => e.trap cIllegal
  | .pcap => fun e => e.trap cIllegal
  | .scmask => fun e => e.trap cIllegal
  | .partitionFloor => fun e => e.trap cIllegal
  | .arbiterSlot => fun e => e.trap cIllegal
  | .capWindowEnd => fun e => e.trap cIllegal
  | .freqRelock => fun e => e.trap cIllegal
  | .islandIdleEntry => fun e => e.trap cIllegal
  | .islandWake => fun e => e.trap cIllegal
  | .load => fun e => e.trap cIllegal
  | .clear => fun e => e.trap cIllegal
  | .report => fun e => e.trap cIllegal
  | .extend => fun e => e.trap cIllegal
  | .setdbg => fun e => e.trap cIllegal
  | .lcreq => fun e => e.trap cIllegal
  | .dbgten => fun e => e.trap cIllegal
  | .ethernetFrame => fun e => e.trap cIllegal
  | .linkStateChange => fun e => e.trap cIllegal
  | .replySend => fun e => e.trap cIllegal
  | .read => fun e => e.trap cIllegal
  | .write => fun e => e.trap cIllegal
  | .atomic => fun e => e.trap cIllegal
  | .readrsp => fun e => e.trap cIllegal
  | .writeack => fun e => e.trap cIllegal
  | .atomicrsp => fun e => e.trap cIllegal
  | .reachTimeout => fun e => e.trap cIllegal
  | .flr => fun e => e.trap cIllegal
  | .bar2Access => fun e => e.trap cIllegal
  | .hostLinkReset => fun e => e.trap cIllegal
  | .rvtail => fun e => e.trap cIllegal
  | .unitStream => fun e => e.trap cIllegal
  | .unitDone => fun e => e.trap cIllegal
  | .driveTimeout => fun e => e.trap cIllegal
  | .leaFlush => fun e => e.trap cIllegal
  | .leaReport => fun e => e.trap cIllegal
  | .counterFlush => fun e => e.trap cIllegal
  | .coldReset => fun e => e.trap cIllegal
  | .pldmFirmwareUpdate => fun e => e.trap cIllegal
  | .pldmResetEffecter => fun e => e.trap cIllegal
  | .pldmSensorRead => fun e => e.trap cIllegal
  | .supplyOutOfRange => fun e => e.trap cIllegal
  | .supplyReturn => fun e => e.trap cIllegal
  | .thermalThrottle => fun e => e.trap cIllegal
  | .thermalTrip => fun e => e.trap cIllegal
  | .thermalRecovery => fun e => e.trap cIllegal
  | .registerWrite => fun e => e.trap cIllegal
  | .perrateWindow => fun e => e.trap cIllegal
  | .linkError => fun e => e.trap cIllegal

/-- BUNDLE_ISSUE: the strand in focus fetches the bundle at its PC and presents it. -/
def execBundleIssue (s : State) : Result := s.issueBundle fxOf

/-- The one operation of a bundle whose other slots are empty, with what else its header and its port hold. -/
def soloView (w : Nat) : Option (Instr × Frame) :=
  match (decodeSlots w).filter fun p => p.2 != .empty with
  | [(sl, .op i)] => some (i, { hdr := BitVec.ofNat 16 (w / 2 ^ 368), bp := BitVec.ofNat 16 w, second := sl == .s1 || sl == .v1 || sl == .l1 })
  | _ => none

/-- The operation that a strand presents alone in its next bundle, if it is so. -/
def State.soloOp (s : State) (sid : Nat) : Option (Instr × Frame) :=
  if !s.canIssue sid then none
  else match s.fetchBundle sid (s.core sid).pc.toNat with
    | .ok (_, w) _ => soloView w
    | _ => none

end Sys2Proof.Machine
end

