-- ==== Sys2Proof/Machine/Dispatch.lean ====
section
/-! DEFINITION. The meaning of every row of spec/opcode_table.json: one arm per constructor of Instr. -/

namespace Sys2Proof.Machine

open Sys2Proof

/-- One instruction or event. -/
def exec (i : Instr) (s : State) : Host.Outcome State Fault Refusal :=
  match i with
  | .bundleIssue => Sys2Proof.Machine.execBundleIssue s
  | .strandSelect => Sys2Proof.Machine.execStrandSelect s
  | .resultLand => Sys2Proof.Machine.execResultLand s
  | .fmtTakeEffect => Sys2Proof.Machine.execFmtTakeEffect s
  | .blockEnd => Sys2Proof.Machine.execBlockEnd s
  | .stallEnd => Sys2Proof.Machine.execStallEnd s
  | .taskPlace => Sys2Proof.Machine.execTaskPlace s
  | .strandRetire => Sys2Proof.Machine.execStrandRetire s
  | .rangeSteal => Sys2Proof.Machine.execRangeSteal s
  | .killArrival => Sys2Proof.Machine.execKillArrival s
  | .copyStart => Sys2Proof.Machine.execCopyStart s
  | .transformPin => Sys2Proof.Machine.execTransformPin s
  | .copySectorWrite => Sys2Proof.Machine.execCopySectorWrite s
  | .copyError => Sys2Proof.Machine.execCopyError s
  | .bobbinSlotStart => Sys2Proof.Machine.execBobbinSlotStart s
  | .bankTransition => Sys2Proof.Machine.execBankTransition s
  | .callStart => Sys2Proof.Machine.execCallStart s
  | .repeatEnqueue => Sys2Proof.Machine.execRepeatEnqueue s
  | .shadowCompare => Sys2Proof.Machine.execShadowCompare s
  | .frameWrite => Sys2Proof.Machine.execFrameWrite s
  | .frameDecode => Sys2Proof.Machine.execFrameDecode s
  | .sNop f => Sys2Proof.Machine.execSNop f s
  | .add f => Sys2Proof.Machine.execAdd f s
  | .sub f => Sys2Proof.Machine.execSub f s
  | .addi f => Sys2Proof.Machine.execAddi f s
  | .mul f => Sys2Proof.Machine.execMul f s
  | .mulhs f => Sys2Proof.Machine.execMulhs f s
  | .mulhn f => Sys2Proof.Machine.execMulhn f s
  | .divs f => Sys2Proof.Machine.execDivs f s
  | .divn f => Sys2Proof.Machine.execDivn f s
  | .rems f => Sys2Proof.Machine.execRems f s
  | .remn f => Sys2Proof.Machine.execRemn f s
  | .addshl f => Sys2Proof.Machine.execAddshl f s
  | .mins f => Sys2Proof.Machine.execMins f s
  | .minn f => Sys2Proof.Machine.execMinn f s
  | .maxs f => Sys2Proof.Machine.execMaxs f s
  | .maxn f => Sys2Proof.Machine.execMaxn f s
  | .and f => Sys2Proof.Machine.execAnd f s
  | .or f => Sys2Proof.Machine.execOr f s
  | .xor f => Sys2Proof.Machine.execXor f s
  | .andn f => Sys2Proof.Machine.execAndn f s
  | .andi f => Sys2Proof.Machine.execAndi f s
  | .ori f => Sys2Proof.Machine.execOri f s
  | .xori f => Sys2Proof.Machine.execXori f s
  | .shl f => Sys2Proof.Machine.execShl f s
  | .shrl f => Sys2Proof.Machine.execShrl f s
  | .shra f => Sys2Proof.Machine.execShra f s
  | .shli f => Sys2Proof.Machine.execShli f s
  | .shrli f => Sys2Proof.Machine.execShrli f s
  | .shrai f => Sys2Proof.Machine.execShrai f s
  | .rotr f => Sys2Proof.Machine.execRotr f s
  | .rotri f => Sys2Proof.Machine.execRotri f s
  | .movi f => Sys2Proof.Machine.execMovi f s
  | .movhi f => Sys2Proof.Machine.execMovhi f s
  | .seq f => Sys2Proof.Machine.execSeq f s
  | .sne f => Sys2Proof.Machine.execSne f s
  | .slts f => Sys2Proof.Machine.execSlts f s
  | .sltn f => Sys2Proof.Machine.execSltn f s
  | .sltis f => Sys2Proof.Machine.execSltis f s
  | .sltin f => Sys2Proof.Machine.execSltin f s
  | .bfxs f => Sys2Proof.Machine.execBfxs f s
  | .bfxn f => Sys2Proof.Machine.execBfxn f s
  | .bfi f => Sys2Proof.Machine.execBfi f s
  | .popc f => Sys2Proof.Machine.execPopc f s
  | .clz f => Sys2Proof.Machine.execClz f s
  | .ctz f => Sys2Proof.Machine.execCtz f s
  | .psetx f => Sys2Proof.Machine.execPsetx f s
  | .pany f => Sys2Proof.Machine.execPany f s
  | .pall f => Sys2Proof.Machine.execPall f s
  | .pcnt f => Sys2Proof.Machine.execPcnt f s
  | .crr f => Sys2Proof.Machine.execCrr f s
  | .crw f => Sys2Proof.Machine.execCrw f s
  | .setfmt f => Sys2Proof.Machine.execSetfmt f s
  | .tshape f => Sys2Proof.Machine.execTshape f s
  | .msetp f => Sys2Proof.Machine.execMsetp f s
  | .mgetp f => Sys2Proof.Machine.execMgetp f s
  | .mpcset f => Sys2Proof.Machine.execMpcset f s
  | .dset f => Sys2Proof.Machine.execDset f s
  | .dget f => Sys2Proof.Machine.execDget f s
  | .vmov f => Sys2Proof.Machine.execVmov f s
  | .vadd f => Sys2Proof.Machine.execVadd f s
  | .vsub f => Sys2Proof.Machine.execVsub f s
  | .vmul f => Sys2Proof.Machine.execVmul f s
  | .vfma f => Sys2Proof.Machine.execVfma f s
  | .vfms f => Sys2Proof.Machine.execVfms f s
  | .vfnma f => Sys2Proof.Machine.execVfnma f s
  | .vmulh f => Sys2Proof.Machine.execVmulh f s
  | .vmin f => Sys2Proof.Machine.execVmin f s
  | .vmax f => Sys2Proof.Machine.execVmax f s
  | .vabs f => Sys2Proof.Machine.execVabs f s
  | .vneg f => Sys2Proof.Machine.execVneg f s
  | .vaddsat f => Sys2Proof.Machine.execVaddsat f s
  | .vsubsat f => Sys2Proof.Machine.execVsubsat f s
  | .vavg f => Sys2Proof.Machine.execVavg f s
  | .vand f => Sys2Proof.Machine.execVand f s
  | .vor f => Sys2Proof.Machine.execVor f s
  | .vxor f => Sys2Proof.Machine.execVxor f s
  | .vandn f => Sys2Proof.Machine.execVandn f s
  | .vshl f => Sys2Proof.Machine.execVshl f s
  | .vshr f => Sys2Proof.Machine.execVshr f s
  | .vpopc f => Sys2Proof.Machine.execVpopc f s
  | .vclz f => Sys2Proof.Machine.execVclz f s
  | .vrcp f => Sys2Proof.Machine.execVrcp f s
  | .vrsqrt f => Sys2Proof.Machine.execVrsqrt f s
  | .vexp2 f => Sys2Proof.Machine.execVexp2 f s
  | .vlog2 f => Sys2Proof.Machine.execVlog2 f s
  | .vtanh f => Sys2Proof.Machine.execVtanh f s
  | .vsigm f => Sys2Proof.Machine.execVsigm f s
  | .vcmpeq f => Sys2Proof.Machine.execVcmpeq f s
  | .vcmpne f => Sys2Proof.Machine.execVcmpne f s
  | .vcmplt f => Sys2Proof.Machine.execVcmplt f s
  | .vcmple f => Sys2Proof.Machine.execVcmple f s
  | .vclass f => Sys2Proof.Machine.execVclass f s
  | .vsel f => Sys2Proof.Machine.execVsel f s
  | .vperm f => Sys2Proof.Machine.execVperm f s
  | .vslideup f => Sys2Proof.Machine.execVslideup f s
  | .vslidedn f => Sys2Proof.Machine.execVslidedn f s
  | .vbcast f => Sys2Proof.Machine.execVbcast f s
  | .vzip f => Sys2Proof.Machine.execVzip f s
  | .vunzip f => Sys2Proof.Machine.execVunzip f s
  | .vrev f => Sys2Proof.Machine.execVrev f s
  | .vredadd f => Sys2Proof.Machine.execVredadd f s
  | .vredmin f => Sys2Proof.Machine.execVredmin f s
  | .vredmax f => Sys2Proof.Machine.execVredmax f s
  | .vscan f => Sys2Proof.Machine.execVscan f s
  | .vcvt f => Sys2Proof.Machine.execVcvt f s
  | .vquant f => Sys2Proof.Machine.execVquant f s
  | .vquantScales f => Sys2Proof.Machine.execVquantScales f s
  | .vdequant f => Sys2Proof.Machine.execVdequant f s
  | .vpack f => Sys2Proof.Machine.execVpack f s
  | .vunpack f => Sys2Proof.Machine.execVunpack f s
  | .pand f => Sys2Proof.Machine.execPand f s
  | .por f => Sys2Proof.Machine.execPor f s
  | .pxor f => Sys2Proof.Machine.execPxor f s
  | .pandn f => Sys2Proof.Machine.execPandn f s
  | .pnot f => Sys2Proof.Machine.execPnot f s
  | .pfirst f => Sys2Proof.Machine.execPfirst f s
  | .lNop f => Sys2Proof.Machine.execLNop f s
  | .ldsS8 f => Sys2Proof.Machine.execLdsS8 f s
  | .ldsN8 f => Sys2Proof.Machine.execLdsN8 f s
  | .ldsS16 f => Sys2Proof.Machine.execLdsS16 f s
  | .ldsN16 f => Sys2Proof.Machine.execLdsN16 f s
  | .ldsS32 f => Sys2Proof.Machine.execLdsS32 f s
  | .ldsN32 f => Sys2Proof.Machine.execLdsN32 f s
  | .ldsB64 f => Sys2Proof.Machine.execLdsB64 f s
  | .stsB8 f => Sys2Proof.Machine.execStsB8 f s
  | .stsB16 f => Sys2Proof.Machine.execStsB16 f s
  | .stsB32 f => Sys2Proof.Machine.execStsB32 f s
  | .stsB64 f => Sys2Proof.Machine.execStsB64 f s
  | .ldsv f => Sys2Proof.Machine.execLdsv f s
  | .stsv f => Sys2Proof.Machine.execStsv f s
  | .ldsvs f => Sys2Proof.Machine.execLdsvs f s
  | .stsvs f => Sys2Proof.Machine.execStsvs f s
  | .gather f => Sys2Proof.Machine.execGather f s
  | .scatter f => Sys2Proof.Machine.execScatter f s
  | .ldgS8 f => Sys2Proof.Machine.execLdgS8 f s
  | .ldgN8 f => Sys2Proof.Machine.execLdgN8 f s
  | .ldgS16 f => Sys2Proof.Machine.execLdgS16 f s
  | .ldgN16 f => Sys2Proof.Machine.execLdgN16 f s
  | .ldgS32 f => Sys2Proof.Machine.execLdgS32 f s
  | .ldgN32 f => Sys2Proof.Machine.execLdgN32 f s
  | .ldgB64 f => Sys2Proof.Machine.execLdgB64 f s
  | .ldgv f => Sys2Proof.Machine.execLdgv f s
  | .stgB8 f => Sys2Proof.Machine.execStgB8 f s
  | .stgB16 f => Sys2Proof.Machine.execStgB16 f s
  | .stgB32 f => Sys2Proof.Machine.execStgB32 f s
  | .stgB64 f => Sys2Proof.Machine.execStgB64 f s
  | .stgv f => Sys2Proof.Machine.execStgv f s
  | .aadd f => Sys2Proof.Machine.execAadd f s
  | .asmin f => Sys2Proof.Machine.execAsmin f s
  | .anmin f => Sys2Proof.Machine.execAnmin f s
  | .asmax f => Sys2Proof.Machine.execAsmax f s
  | .anmax f => Sys2Proof.Machine.execAnmax f s
  | .aand f => Sys2Proof.Machine.execAand f s
  | .aor f => Sys2Proof.Machine.execAor f s
  | .axor f => Sys2Proof.Machine.execAxor f s
  | .aswap f => Sys2Proof.Machine.execAswap f s
  | .acas f => Sys2Proof.Machine.execAcas f s
  | .acq f => Sys2Proof.Machine.execAcq f s
  | .rel f => Sys2Proof.Machine.execRel f s
  | .fence f => Sys2Proof.Machine.execFence f s
  | .barinit f => Sys2Proof.Machine.execBarinit f s
  | .bararv f => Sys2Proof.Machine.execBararv f s
  | .barwait f => Sys2Proof.Machine.execBarwait f s
  | .copyld f => Sys2Proof.Machine.execCopyld f s
  | .copygo f => Sys2Proof.Machine.execCopygo f s
  | .copygoNobar f => Sys2Proof.Machine.execCopygoNobar f s
  | .drain f => Sys2Proof.Machine.execDrain f s
  | .bobpop f => Sys2Proof.Machine.execBobpop f s
  | .bobrel f => Sys2Proof.Machine.execBobrel f s
  | .bobinit f => Sys2Proof.Machine.execBobinit f s
  | .bobstat f => Sys2Proof.Machine.execBobstat f s
  | .spawn f => Sys2Proof.Machine.execSpawn f s
  | .spawnSc f => Sys2Proof.Machine.execSpawnSc f s
  | .rangenext f => Sys2Proof.Machine.execRangenext f s
  | .skjoin f => Sys2Proof.Machine.execSkjoin f s
  | .skleave f => Sys2Proof.Machine.execSkleave f s
  | .skbar f => Sys2Proof.Machine.execSkbar f s
  | .scopenew f => Sys2Proof.Machine.execScopenew f s
  | .cancel f => Sys2Proof.Machine.execCancel f s
  | .cwait f => Sys2Proof.Machine.execCwait f s
  | .bankmode f => Sys2Proof.Machine.execBankmode f s
  | .recv f => Sys2Proof.Machine.execRecv f s
  | .recx f => Sys2Proof.Machine.execRecx f s
  | .recp f => Sys2Proof.Machine.execRecp f s
  | .rmark f => Sys2Proof.Machine.execRmark f s
  | .rmarkPop f => Sys2Proof.Machine.execRmarkPop f s
  | .rpopv f => Sys2Proof.Machine.execRpopv f s
  | .rpopx f => Sys2Proof.Machine.execRpopx f s
  | .rpopp f => Sys2Proof.Machine.execRpopp f s
  | .rchk f => Sys2Proof.Machine.execRchk f s
  | .rchkV f => Sys2Proof.Machine.execRchkV f s
  | .rseal f => Sys2Proof.Machine.execRseal f s
  | .recb f => Sys2Proof.Machine.execRecb f s
  | .mcxld f => Sys2Proof.Machine.execMcxld f s
  | .mcxst f => Sys2Proof.Machine.execMcxst f s
  | .mcxstEvict f => Sys2Proof.Machine.execMcxstEvict f s
  | .tlbinv f => Sys2Proof.Machine.execTlbinv f s
  | .fqpop f => Sys2Proof.Machine.execFqpop f s
  | .fqdone f => Sys2Proof.Machine.execFqdone f s
  | .snapsave f => Sys2Proof.Machine.execSnapsave f s
  | .snapload f => Sys2Proof.Machine.execSnapload f s
  | .wipe f => Sys2Proof.Machine.execWipe f s
  | .wipeSram f => Sys2Proof.Machine.execWipeSram f s
  | .bNop f => Sys2Proof.Machine.execBNop f s
  | .brut f => Sys2Proof.Machine.execBrut f s
  | .bruf f => Sys2Proof.Machine.execBruf f s
  | .jt f => Sys2Proof.Machine.execJt f s
  | .call f => Sys2Proof.Machine.execCall f s
  | .ret f => Sys2Proof.Machine.execRet f s
  | .loop f => Sys2Proof.Machine.execLoop f s
  | .leavet f => Sys2Proof.Machine.execLeavet f s
  | .leavef f => Sys2Proof.Machine.execLeavef f s
  | .brt f => Sys2Proof.Machine.execBrt f s
  | .brk f => Sys2Proof.Machine.execBrk f s
  | .ipi f => Sys2Proof.Machine.execIpi f s
  | .eret f => Sys2Proof.Machine.execEret f s
  | .halt f => Sys2Proof.Machine.execHalt f s
  | .mNop f => Sys2Proof.Machine.execMNop f s
  | .mcall f => Sys2Proof.Machine.execMcall f s
  | .mcallRpt f => Sys2Proof.Machine.execMcallRpt f s
  | .mwait f => Sys2Proof.Machine.execMwait f s
  | .uopNop f => Sys2Proof.Machine.execUopNop f s
  | .tload f => Sys2Proof.Machine.execTload f s
  | .tstore f => Sys2Proof.Machine.execTstore f s
  | .azero f => Sys2Proof.Machine.execAzero f s
  | .aload f => Sys2Proof.Machine.execAload f s
  | .astore f => Sys2Proof.Machine.execAstore f s
  | .cvt f => Sys2Proof.Machine.execCvt f s
  | .opstep f => Sys2Proof.Machine.execOpstep f s
  | .spstep f => Sys2Proof.Machine.execSpstep f s
  | .zpc f => Sys2Proof.Machine.execZpc f s
  | .bsc f => Sys2Proof.Machine.execBsc f s
  | .scale f => Sys2Proof.Machine.execScale f s
  | .addr f => Sys2Proof.Machine.execAddr f s
  | .addrAdd f => Sys2Proof.Machine.execAddrAdd f s
  | .addrLo f => Sys2Proof.Machine.execAddrLo f s
  | .addrHi f => Sys2Proof.Machine.execAddrHi f s
  | .uopLoop f => Sys2Proof.Machine.execUopLoop f s
  | .mstep f => Sys2Proof.Machine.execMstep f s
  | .shadow f => Sys2Proof.Machine.execShadow f s
  | .skipf f => Sys2Proof.Machine.execSkipf f s
  | .uopEnd f => Sys2Proof.Machine.execUopEnd f s
  | .ipiDeliver => Sys2Proof.Machine.execIpiDeliver s
  | .mspawn => Sys2Proof.Machine.execMspawn s
  | .nrpRequest => Sys2Proof.Machine.execNrpRequest s
  | .nrpCancel => Sys2Proof.Machine.execNrpCancel s
  | .contextRecordLoad => Sys2Proof.Machine.execContextRecordLoad s
  | .savePost => Sys2Proof.Machine.execSavePost s
  | .dqack => Sys2Proof.Machine.execDqack s
  | .requestTimeout => Sys2Proof.Machine.execRequestTimeout s
  | .sqtail => Sys2Proof.Machine.execSqtail s
  | .cqhead => Sys2Proof.Machine.execCqhead s
  | .sqcfg => Sys2Proof.Machine.execSqcfg s
  | .commandAdmit => Sys2Proof.Machine.execCommandAdmit s
  | .hostNop => Sys2Proof.Machine.execHostNop s
  | .install => Sys2Proof.Machine.execInstall s
  | .remove => Sys2Proof.Machine.execRemove s
  | .launch => Sys2Proof.Machine.execLaunch s
  | .hostCancel => Sys2Proof.Machine.execHostCancel s
  | .copy => Sys2Proof.Machine.execCopy s
  | .mark => Sys2Proof.Machine.execMark s
  | .flashwrite => Sys2Proof.Machine.execFlashwrite s
  | .flashread => Sys2Proof.Machine.execFlashread s
  | .flashflush => Sys2Proof.Machine.execFlashflush s
  | .flashinfo => Sys2Proof.Machine.execFlashinfo s
  | .commandCompletion => Sys2Proof.Machine.execCommandCompletion s
  | .hqdone => Sys2Proof.Machine.execHqdone s
  | .watchdogWarning => Sys2Proof.Machine.execWatchdogWarning s
  | .partitionReset => Sys2Proof.Machine.execPartitionReset s
  | .dbgctl => Sys2Proof.Machine.execDbgctl s
  | .debugStop => Sys2Proof.Machine.execDebugStop s
  | .tlbMissWalk => Sys2Proof.Machine.execTlbMissWalk s
  | .faultPost => Sys2Proof.Machine.execFaultPost s
  | .sharedFrameRefetch => Sys2Proof.Machine.execSharedFrameRefetch s
  | .pctl => Sys2Proof.Machine.execPctl s
  | .pcap => Sys2Proof.Machine.execPcap s
  | .scmask => Sys2Proof.Machine.execScmask s
  | .partitionFloor => Sys2Proof.Machine.execPartitionFloor s
  | .arbiterSlot => Sys2Proof.Machine.execArbiterSlot s
  | .capWindowEnd => Sys2Proof.Machine.execCapWindowEnd s
  | .freqRelock => Sys2Proof.Machine.execFreqRelock s
  | .islandIdleEntry => Sys2Proof.Machine.execIslandIdleEntry s
  | .islandWake => Sys2Proof.Machine.execIslandWake s
  | .load => Sys2Proof.Machine.execLoad s
  | .clear => Sys2Proof.Machine.execClear s
  | .report => Sys2Proof.Machine.execReport s
  | .extend => Sys2Proof.Machine.execExtend s
  | .setdbg => Sys2Proof.Machine.execSetdbg s
  | .lcreq => Sys2Proof.Machine.execLcreq s
  | .dbgten => Sys2Proof.Machine.execDbgten s
  | .ethernetFrame => Sys2Proof.Machine.execEthernetFrame s
  | .linkStateChange => Sys2Proof.Machine.execLinkStateChange s
  | .replySend => Sys2Proof.Machine.execReplySend s
  | .read => Sys2Proof.Machine.execRead s
  | .write => Sys2Proof.Machine.execWrite s
  | .atomic => Sys2Proof.Machine.execAtomic s
  | .readrsp => Sys2Proof.Machine.execReadrsp s
  | .writeack => Sys2Proof.Machine.execWriteack s
  | .atomicrsp => Sys2Proof.Machine.execAtomicrsp s
  | .reachTimeout => Sys2Proof.Machine.execReachTimeout s
  | .flr => Sys2Proof.Machine.execFlr s
  | .bar2Access => Sys2Proof.Machine.execBar2Access s
  | .hostLinkReset => Sys2Proof.Machine.execHostLinkReset s
  | .rvtail => Sys2Proof.Machine.execRvtail s
  | .unitStream => Sys2Proof.Machine.execUnitStream s
  | .unitDone => Sys2Proof.Machine.execUnitDone s
  | .driveTimeout => Sys2Proof.Machine.execDriveTimeout s
  | .leaFlush => Sys2Proof.Machine.execLeaFlush s
  | .leaReport => Sys2Proof.Machine.execLeaReport s
  | .counterFlush => Sys2Proof.Machine.execCounterFlush s
  | .coldReset => Sys2Proof.Machine.execColdReset s
  | .pldmFirmwareUpdate => Sys2Proof.Machine.execPldmFirmwareUpdate s
  | .pldmResetEffecter => Sys2Proof.Machine.execPldmResetEffecter s
  | .pldmSensorRead => Sys2Proof.Machine.execPldmSensorRead s
  | .supplyOutOfRange => Sys2Proof.Machine.execSupplyOutOfRange s
  | .supplyReturn => Sys2Proof.Machine.execSupplyReturn s
  | .thermalThrottle => Sys2Proof.Machine.execThermalThrottle s
  | .thermalTrip => Sys2Proof.Machine.execThermalTrip s
  | .thermalRecovery => Sys2Proof.Machine.execThermalRecovery s
  | .registerWrite => Sys2Proof.Machine.execRegisterWrite s
  | .perrateWindow => Sys2Proof.Machine.execPerrateWindow s
  | .linkError => Sys2Proof.Machine.execLinkError s

end Sys2Proof.Machine
end

