-- ==== Sys2Proof/Machine/Schedule.lean ====
section
/-! DEFINITION. What runs next (notes/assumptions/1.md): the scheduled rows first, and without any the rows that the machine's own parts may run, in turn. A slot
operation runs only as its strand presents it, and a micro-op only as the running call reaches it. -/

namespace Sys2Proof.Machine

open Sys2Proof

/-! ## What a scheduled row runs -/

/-- Does a row run while the dies are held in reset or have no power (R447, R448)? -/
def powerRow (i : Instr) : Bool :=
  match i with
  | .supplyOutOfRange => true
  | .supplyReturn => true
  | .thermalTrip => true
  | .thermalRecovery => true
  | .thermalThrottle => true
  | _ => false

/-- The rows of strands and calls: which of the two an instruction belongs to. -/
inductive RowKind where
  | slotOp | microOp | event
  deriving DecidableEq, Repr

def rowKind (i : Instr) : RowKind :=
  match i.code with
  | .u _ _ => .microOp
  | .event => if i = .bundleIssue then .slotOp else .event
  | _ => .slotOp

/-- An act runs: its strand or unit is in focus, and what accompanies it stands beside it. `ex` gives the rows their meaning. With `ev.n` = 4 a strand that would
present a bundle, or a call that would run a micro-op, finds an uncorrectable error in a register, tile or accumulator that it reads, and with 3 a call finds one in a
scratchpad sector (R439; notes/assumptions/26.md). -/
def State.perform (ex : Instr → State → Result) (s : State) (a : Act) : Result :=
  let s := { s with focus := a.who, frame := a.frame, ev := a.ev }
  if (s.held || s.tripped) && !powerRow a.i then .next s
  else match rowKind a.i with
    | .slotOp => if a.ev.n = 4 && s.canIssue a.who then .next (s.foundError a.who) else match s.soloOp a.who with
      | some (i, fr) => ex i { s with frame := fr }
      | none => ex .bundleIssue s
    | .microOp =>
      let g := gnumOf a.who
      (match (s.spindle g).runningCall with
        | none => .next s
        | some c => if a.ev.n = 3 || a.ev.n = 4 then .next (s.callFinds g c) else match s.nextUop c with
          | some i => ex i s
          | none => .next (s.callError g c cIllegal))
    | .event => ex a.i s

/-! ## The rows that the machine's own parts may run -/

def act (i : Instr) (n : Nat) : Act := { ev := { n := n }, i := i }
def strandAct (i : Instr) (sid : Nat) : Act := { who := sid, i := i }

/-- A spindle: its selected strand, its matrix unit, its repeats and its shadow path. In a cycle in which no bundle can issue the results in flight go on, unless
a slot is selected first (R26, R75, R355). -/
def State.spindleActs (s : State) (g : Nat) (x : Spindle) : List Act :=
  [if x.stalled then act .stallEnd g
    else match x.running with
      | some k => if s.canIssue (4 * g + k) then strandAct .bundleIssue (4 * g + k) else act .resultLand g
      | none => if s.selects g then act .strandSelect g else act .resultLand g]
    ++ (match x.queue with
      | c :: _ => [if c.started then strandAct (.uopNop {}) c.sid else act .callStart g]
      | [] => [])
    ++ (if x.rpts.isEmpty then [] else [act .repeatEnqueue g]) ++ (if x.shadowBusy.isSome then [act .shadowCompare g] else [])

/-- A strand: what it waits for, its reel, its withheld stores, its retirement. -/
def strandActs (sid : Nat) (t : Strand) : List Act :=
  (if t.st = .blocked || (!t.waits.isEmpty && t.st ≠ .saved) then [strandAct .blockEnd sid] else []) ++ (if t.st = .halted then [strandAct .strandRetire sid] else [])
    ++ (if t.core.reel.waiting.isEmpty then [] else [strandAct .frameWrite sid]) ++ (if t.wantsFrame.isSome then [strandAct .frameDecode sid] else [])
    ++ (if t.stores.any fun p => p.pend.isSome then [strandAct .tlbMissWalk sid] else [])

/-- A copy: its start, its pinning, its bobbin slots and its sectors. -/
def copyActs (j : CopyJob) : List Act :=
  match j.phase with
  | .held => []
  | .waiting => [act .copyStart j.id]
  | .started => (if rXform j.srec ≠ 0 && !j.pinned then [act .transformPin j.id] else []) ++ (if dSpace j.dst = 2 then [act .bobbinSlotStart j.id] else [])
    ++ [act .copySectorWrite j.id]

/-- A tile group: its ready queue, its steals and its kills. -/
def groupActs (mcx : Nat) (g : Group) : List Act :=
  [act .taskPlace mcx] ++ (g.acts.map fun p => { ev := { n := mcx, m := p.1 }, i := .rangeSteal })
    ++ g.kills.flatMap fun k => k.2.1.map fun sp => { ev := { n := mcx, m := sp }, i := .killArrival }

/-- A die: IPIs on their way, faults to post, the roving engine. -/
def dieActs (d : Nat) (x : Die) : List Act :=
  (x.ipis.map fun k => { ev := { n := d, m := k }, i := .ipiDeliver }) ++ (if x.postable.isSome then [act .faultPost d] else [])
    ++ (if x.rvNext.isSome then [act .unitStream d] else []) ++ (x.rvfly.map fun u => { ev := { n := d, m := u.idx }, i := .unitDone })
    ++ x.refetch.map fun f => { ev := { n := d, m := f }, i := .sharedFrameRefetch }

/-- The row of a command by its code (R324, R328). -/
def cmdRow (opc : Nat) : Instr :=
  match opc with
  | 0x00 => .hostNop
  | 0x01 => .install
  | 0x02 => .remove
  | 0x03 => .launch
  | 0x04 => .hostCancel
  | 0x05 => .copy
  | 0x06 => .mark
  | 0x80 => .flashwrite
  | 0x81 => .flashread
  | 0x82 => .flashflush
  | _ => .flashinfo

/-- The rows that the machine's own parts may run now. At the start of the boot ROM, while none of its bytes has been placed, that is the ROM's sequence alone. -/
def State.ownActs (s : State) : List Act :=
  if s.booting && s.rom.isEmpty then [{ ev := { flag := true }, i := .coldReset }]
  else
    (s.spindles.flatMap fun p => s.spindleActs p.1 p.2) ++ (s.strands.flatMap fun p => strandActs p.1 p.2) ++ s.copyList.flatMap copyActs
      ++ (s.groups.flatMap fun p => match p.2 with
        | some g => groupActs p.1 g
        | none => [])
      ++ (s.stops.flatMap fun p => if p.2.isSome then [act .savePost p.1, act .debugStop p.1] else [])
      ++ (s.clusters.flatMap fun p => p.2.trans.map fun t => { ev := { n := p.1, m := t.2.1 }, i := .bankTransition })
      ++ (s.dies.flatMap fun p => dieActs p.1 p.2)
      ++ (s.waiting.map fun p => act .contextRecordLoad p.1)
      ++ (s.parts.flatMap fun p => if p.2.relock.isSome then [act .freqRelock p.1] else [])
      ++ (s.chans.flatMap fun p => if p.2.waiting.isEmpty then [] else [act .arbiterSlot p.1])
      ++ (if s.nextQueue.isSome then [act .commandAdmit 0] else [])
      ++ (s.cmdList.map fun p => if p.2.done.isSome then act .commandCompletion p.1 else act (cmdRow p.2.opc) p.1)
      ++ (if s.replies.isEmpty then [] else [act .replySend s.turn])

/-- One step of the machine: the first scheduled row, or else one of the machine's own, in turn. -/
def State.advance (ex : Instr → State → Result) (s : State) : Result :=
  match s.agenda with
  | a :: r => State.perform ex { s with agenda := r } a
  | [] =>
    let acts := s.ownActs
    match acts[s.turn % max 1 acts.length]? with
    | some a => State.perform ex { s with turn := s.turn + 1 } a
    | none => .next s

/-! ## A program's word (for the host's checks) -/

/-- Sixteen-bit code words as bytes, lowest address first (R2). -/
def codeBytes (ws : List Nat) : List Byte := ws.flatMap (leBytes 2)

/-- Bytes placed in the boot ROM of a die. -/
def romPlace : List Host.Cell → Nat → List Byte → List Host.Cell
  | m, _, [] => m
  | m, k, b :: r => romPlace (romPut m k b) (k + 1) r

/-- A literal bundle whose B slot alone holds the word w, at the PC of slot 0 of die 0's mill spindle, which issues next: in the boot ROM, or in the code of
the firmware that runs. -/
def State.placeWord (s : State) (w : Nat) : State :=
  let bs := codeBytes (literalWords (0x0040 * 2 ^ 368 + w % 2 ^ 24 * 2 ^ slotLow .b))
  let pc := (s.core 0).pc.toNat
  let s := if (s.die 0).fw then s.physWrite (0x400 + 2 * pc) bs else { s with rom := romPlace s.rom (romKey 0 (2 * pc)) bs }
  s.push { i := .bundleIssue }

end Sys2Proof.Machine
end

