-- ==== Sys2Proof/Machine/Step.lean ====
section
/-! DEFINITION. The step of the machine. -/

namespace Sys2Proof.Machine

open Sys2Proof

/-- One step: the next scheduled row, or one of the machine's own (`State.advance`), with the meanings of `exec`. -/
def step (s : State) : Host.Outcome State Fault Refusal := s.advance exec

/-- The state with an instruction's bits placed as the next to be fetched and issued (`State.placeWord`); only the rows of 24 bits have words in
spec/opcode_table.json. -/
def State.withFetchWord (s : State) (_nbits w : Nat) : State := s.placeWord w

end Sys2Proof.Machine
end

