-- ==== Sys2Proof/Safety.lean ====
section
/-! DEFINITION. The terms of claims: which outcomes of a step are safe, the canonical form of memory, and what it is that an instruction is executed alone in its
bundle and takes effect. -/

namespace Sys2Proof.Machine

open Sys2Proof

/-- The dies execute: the supply holds and no thermal trip stands (R447, R448). -/
def State.powered (s : State) : Prop := s.held = false ∧ s.tripped = false

/-- Every byte memory is in its canonical form: addresses strictly rising, and no entry that equals what an unlisted address reads as. -/
def State.memWf (s : State) : Prop :=
  mwf 0 s.hbm = true ∧ mwf 0 s.hostMem = true ∧ mwf 0 s.flash = true ∧ ∀ k, mwf 0 (s.cluster k).bytes = true

/-- Every entry of a strand's loop stack has iterations left, in its registers and in those that it would roll back to (R179, R180). -/
def Strand.loopsLive (t : Strand) : Prop := ∀ l ∈ t.core.loops ++ t.ckpt.loops, 1 ≤ l.count

/-- The same of every strand, and of every strand that an image holds. -/
def State.loopsLive (s : State) : Prop := (∀ sid, (s.strand sid).loopsLive) ∧ ∀ i ∈ s.images, ∀ t, i.strand = some t → t.loopsLive

/-- The bundle that holds an instruction alone, as its strand presents it. -/
def State.alonePres (s : State) (i : Instr) (len : Nat) : Pres :=
  { hdr := aloneHdr i s.frame, bp := s.frame.bp, len := len, ops := [{ slot := (aloneSlot i s.frame.second).1, i := i, fx := fxOf i }] }

/-- The strand in focus may issue, and the instruction stands alone, well formed and not boosted, in the bundle of `len` code words at its PC, which is no END
bundle with a B slot; `s'` is the state with the translations that the fetch has filled (R25, R26, R58 to R65, R175, R247). -/
structure Presents (s : State) (i : Instr) (s' : State) (len : Nat) : Prop where
  may : s.canIssue s.focus = true
  fetch : ∃ w, s.codeWord s.focus (s.core s.focus).pc.toNat = .ok w s' ∧ bundleLength w = len
  formed : malformed (aloneHdr i s.frame) s.frame.bp [((aloneSlot i s.frame.second).1, .op i)] = none
  quiet : (s'.strand s.focus).engTrap = none
  level : hdrBl (aloneHdr i s.frame) = 0
  shadows : (s'.core s.focus).shadows = []
  acts : hdrEnd (aloneHdr i s.frame) = false ∨ (aloneSlot i s.frame.second).1 ≠ 7

/-- The instruction is presented alone, and its port names no tile outside the share (R72). -/
structure Alone (s : State) (i : Instr) (s' : State) (len : Nat) : Prop extends Presents s i s' len where
  port : bpMode s.frame.bp = 3 → bpSrc s.frame.bp % 16 < (s'.strand s.focus).ntile

/-- The environment of an instruction executed alone: the state `s1` in which it is checked, and the registers as the bundle reads them (R73, R118). -/
def State.aloneEnv (s s' s1 : State) (i : Instr) (len : Nat) : Env :=
  { s := s1, c := (s'.core s.focus).fmtStep, sid := s.focus, hdr := aloneHdr i s.frame, bp := s.frame.bp, slot := (aloneSlot i s.frame.second).1, len := len }

/-- The state after an instruction alone has taken effect as `fx` (R25, R73): `s1` is the state in which it was checked, and `ckpt` says that its bundle is a
checkpoint. -/
def State.effected (s s1 : State) (i : Instr) (len : Nat) (fx : Fx) (ckpt : Bool) : State :=
  (fx.early (s1.updCore s.focus fun _ => s1.core s.focus)).takeEffect s.focus (s1.core s.focus) (s.alonePres i len)
    [({ slot := (aloneSlot i s.frame.second).1, i := i, fx := fxOf i }, .ok fx)] ckpt

/-- The instruction is no checkpoint, waits for nothing, and its region has room for it (R215, R243, R337, R339). -/
structure Roomy (s : State) (i : Instr) (s' : State) (fx : Fx) : Prop where
  plain : (s.alonePres i 0).ckpt = false
  waits : fx.waits = []
  region : ((fx.early (s'.updCore s.focus fun _ => s'.core s.focus)).strand s.focus).forced (s'.core s.focus).fmtStep [fx] = false
  flights : ((s'.core s.focus).flight.length + (flightsOf fx.writes).length) ≤ 64

/-- The instruction is a checkpoint, and the region before it commits, which leaves `s1` (R215, R337). -/
structure Commits (s : State) (i : Instr) (s' s1 : State) (fx : Fx) : Prop where
  point : (s.alonePres i 0).ckpt = true
  region : s'.commitRegion s.focus = .ok s1
  ctrl : (s'.strand s.focus).stores.any PStore.isCtrl = false
  shadows : (s1.core s.focus).shadows = []
  stores : ∃ r, s1.resolveStores s.focus fx.stores = .ok r
  flights : ((s1.core s.focus).flight.length + (flightsOf fx.writes).length) ≤ 64

/-- The strand in focus has nothing in flight and no FMT write pending, no loop ends at its bundle, no debug step is under way, its region holds no store, copy or frame and has room for one more
result, and the bundle neither ends the strand nor asks for a checkpoint (R28, R75, R118, R180, R339, R355). -/
structure Settled (s : State) (i : Instr) : Prop where
  flight : (s.core s.focus).flight = []
  fmt : (s.core s.focus).fmtPend = []
  loops : ∀ l ∈ (s.core s.focus).loops.head?, l.last ≠ (s.core s.focus).pc.toNat
  step : (s.spindle (gnumOf s.focus)).stepSlot = none
  undo : (s.strand s.focus).undo.length < 64
  stores : (s.strand s.focus).stores = []
  bundles : (s.strand s.focus).nBund < 2048
  frames : (s.strand s.focus).newFrames (s.core s.focus) = 0
  noEnd : hdrEnd (aloneHdr i s.frame) = false
  noCkpt : hdrCkpt (aloneHdr i s.frame) = false
  copies : (s.strand s.focus).heldCopies = []

/-- Every byte of memory reads in `t` as in `s`: HBM with the marks of its sectors, the cluster SRAM, and the stores that the strand in focus withholds. -/
structure MemSame (s t : State) : Prop where
  hbm : ∀ a, mget 0 t.hbm a = mget 0 s.hbm a
  sects : t.sects = s.sects
  sram : ∀ k a, mget 0 (t.cluster k).bytes a = mget 0 (s.cluster k).bytes a
  withheld : (t.strand s.focus).stores = (s.strand s.focus).stores

/-- Every other strand with nothing in flight has in `t` the registers that it has in `s`. -/
def OthersSame (s t : State) : Prop := ∀ j, j ≠ s.focus → (s.core j).flight = [] → t.core j = s.core j

/-- `t` is `s` but for strands, TLBs, the lines that the caches hold with the transfers of their fills and write-backs, dies, and the counts not yet flushed:
matrix units, clusters, copies, groups, memory, contexts, keys, ports and all else are as they were. -/
def RestSame (s t : State) : Prop :=
  ∃ st tl di la ea ha sc wy ch, t =
    { s with strands := st, tlb := tl, dies := di, leaAcc := la, evAcc := ea, hitAcc := ha, sclines := sc, ways := wy, chans := ch }

/-- Of the registers of a die only watchdogs and deficits have changed (R319, R329). -/
def DiesSame (s t : State) : Prop := ∀ d, ∃ w f, t.die d = { s.die d with wdogCount := w, deficit := f }

/-- What an instruction that acts on its own strand's registers alone leaves as it was: memory, the other strands, every unit, and the special registers of the
dies. -/
structure Untouched (s t : State) : Prop where
  memory : MemSame s t
  others : OthersSame s t
  rest : RestSame s t
  dies : DiesSame s t

/-- The address of the bundle that follows one of `len` code words (R175). -/
def State.fall (s : State) (len : Nat) : BitVec 32 := BitVec.ofNat 32 (((s.core s.focus).pc.toNat + len) % 2 ^ 32)

/-! ## How claims about instructions are said -/

/-- The core of the strand in focus. -/
def State.me (s : State) : Core := s.core s.focus

/-- The strand in focus may issue the instruction alone, and nothing is pending in it. -/
structure Ready (s : State) (i : Instr) (s' : State) (len : Nat) : Prop where
  alone : Alone s i s' len
  settled : Settled s i

/-- `exec` answers a next state in which the core of the strand in focus is `c`, at the bundle that follows, and all else is untouched. -/
def Gives (s : State) (i : Instr) (len : Nat) (c : Core) : Prop :=
  ∃ t, exec i s = .next t ∧ t.core s.focus = { c with pc := s.fall len } ∧ Untouched s t

/-- When ready, an instruction gives the core `c`. -/
def SGives (s : State) (i : Instr) (s' : State) (len : Nat) (c : Core) : Prop := Ready s i s' len → Gives s i len c

/-- When ready, an instruction leaves its strand with the core `c`, whose PC is where it goes, and all else untouched. -/
def SGoes (s : State) (i : Instr) (s' : State) (len : Nat) (c : Core) : Prop :=
  Ready s i s' len → ∃ t, exec i s = .next t ∧ t.core s.focus = c ∧ Untouched s t

/-- When ready, an instruction writes `v` to the x register `r`, and changes nothing else (R75, R160). -/
def GivesX (s : State) (i : Instr) (s' : State) (len r : Nat) (v : Word) : Prop := SGives s i s' len (s.me.wx r v)

/-- When ready, an instruction writes `v` to the predicate register `r`, and changes nothing else (R75, R160). -/
def GivesP (s : State) (i : Instr) (s' : State) (len r : Nat) (v : Pred) : Prop := SGives s i s' len (s.me.wp r v)

/-- A predicate whose bits are all b (R160). -/
def uniform (b : Bool) : Pred := if b then BitVec.allOnes 128 else 0

/-- `exec` answers a next state in which one result of latency `lat` is in flight, one cycle of it past, the strand stands at the bundle that follows, and all
else is untouched (R75). -/
def Flies (s : State) (i : Instr) (len : Nat) (file : RFile) (reg val lat : Nat) (st : Sticky) : Prop :=
  Gives s i len { s.me with flight := [{ file := file, reg := reg, val := val, d := lat - 1, sticky := st }] }

/-- The instruction traps (R332): its bundle takes no effect, and the trap is taken. -/
def Traps (s : State) (i : Instr) (s' : State) (cause : Nat) (info addr : Nat := 0) : Prop :=
  exec i s = .next (s'.trapCycle s.focus { cause := cause, slot := (aloneSlot i s.frame.second).1, info := info, addr := addr })

/-- The v registers that a V operation names lie in the bank, and the tile of its port in the share (R79, R193). -/
def VFits (e : Env) (f : VF) (rs : List Nat) : Prop :=
  (∀ r ∈ rs, r < e.t.bank) ∧ (f.bpsel ≠ 0 → bpMode e.bp = 3 → bpSrc e.bp % 16 < e.t.ntile)

/-- A register value with results placed in its lanes of width `dw` (R192, R194): an active lane holds its result, an inactive one zero under .zero and its old
value otherwise, every lane without an item its old value; the sticky bits are those of the active lanes. -/
structure VPlaced (e : Env) (f : VF) (dw : Nat) (items : List VItem) (val : Nat) (st : Sticky) : Prop where
  written : ∀ it ∈ items, laneOf dw val it.lane =
    if e.active f it.bit then it.val.1 % 2 ^ dw else if f.zero then 0 else laneOf dw (e.rv f.vd.toNat) it.lane
  kept : ∀ j, j < lanes dw → (∀ it ∈ items, it.lane ≠ j) → laneOf dw val j = laneOf dw (e.rv f.vd.toNat) j
  sticky : ∀ k, st.getLsbD k = items.any fun it => e.active f it.bit && it.val.2.getLsbD k

/-- When ready and its registers lie in the bank, a V operation has in flight a result with `items e` placed in vd (R192). `regs` are the registers it names. -/
def VGivesItems (s : State) (i : Instr) (s' : State) (len : Nat) (f : VF) (regs : List Nat) (lat dw : Nat) (items : Env → List VItem) : Prop :=
  let e := s.aloneEnv s' s' i len
  Ready s i s' len → VFits e f regs → ∃ val st, VPlaced e f dw (items e) val st ∧ Flies s i len .v f.vd.toNat val lat st

/-- A lanewise V operation: `g e j` is the result of lane j with its sticky bits; `sels` lists the operand fields it reads. -/
def VGives (s : State) (i : Instr) (s' : State) (len : Nat) (f : VF) (sels : List Nat) (lat : Nat) (g : Env → Nat → Nat × Sticky) : Prop :=
  VGivesItems s i s' len f (f.vd.toNat :: vRegs f sels) lat f.width fun e => eachLane f.width (g e)

/-- A lanewise V operation of one operand. -/
def VGives1 (s : State) (i : Instr) (s' : State) (len : Nat) (f : VF) (lat : Nat) (g : Nat → Nat × Sticky) : Prop :=
  VGives s i s' len f [1] lat fun e j => g (e.a f j)

/-- A lanewise V operation of two operands. -/
def VGives2 (s : State) (i : Instr) (s' : State) (len : Nat) (f : VF) (lat : Nat) (g : Nat → Nat → Nat × Sticky) : Prop :=
  VGives s i s' len f [1, 2] lat fun e j => g (e.a f j) (e.b f j)

/-- A lanewise V operation of two operands of a float type: `fl` is the exact result of an element, rounded once; of an integer type: `ig` of the lanes as bit
vectors of the lane width. -/
def VArith2 (s : State) (i : Instr) (s' : State) (len : Nat) (f : VF) (fl : XNum → XNum → XNum) (ig : (w : Nat) → BitVec w → BitVec w → BitVec w) : Prop :=
  (f.tyF = true → VGives2 s i s' len f 4 fun a b => vRound f (fl (vNum f a) (vNum f b)) [vNum f a, vNum f b]) ∧
  (f.tyF = false → VGives2 s i s' len f 2 fun a b => ((ig f.width (BitVec.ofNat _ a) (BitVec.ofNat _ b)).toNat, 0))

/-- The same with three operands. -/
def VArith3 (s : State) (i : Instr) (s' : State) (len : Nat) (f : VF) (fl : XNum → XNum → XNum → XNum)
    (ig : (w : Nat) → BitVec w → BitVec w → BitVec w → BitVec w) : Prop :=
  (f.tyF = true → VGives s i s' len f [1, 2, 3] 4 fun e j =>
    vRound f (fl (vNum f (e.a f j)) (vNum f (e.b f j)) (vNum f (e.cc f j))) [vNum f (e.a f j), vNum f (e.b f j), vNum f (e.cc f j)]) ∧
  (f.tyF = false → VGives s i s' len f [1, 2, 3] 2 fun e j =>
    ((ig f.width (BitVec.ofNat _ (e.a f j)) (BitVec.ofNat _ (e.b f j)) (BitVec.ofNat _ (e.cc f j))).toNat, 0))

/-- A lanewise V operation of two operands on bits, of latency 2. -/
def VBits2 (s : State) (i : Instr) (s' : State) (len : Nat) (f : VF) (g : (w : Nat) → BitVec w → BitVec w → BitVec w) : Prop :=
  VGives2 s i s' len f 2 fun a b => ((g f.width (BitVec.ofNat _ a) (BitVec.ofNat _ b)).toNat, 0)

/-- A predicate written bit by bit under the guard (R200): `g e i` is bit i. -/
def PGives (s : State) (i : Instr) (s' : State) (len : Nat) (f : VF) (regs : List Nat) (g : Env → Nat → Bool) : Prop :=
  let e := s.aloneEnv s' s' i len
  Ready s i s' len → VFits e f regs → ∃ val,
    (∀ k, k < 128 → val.testBit k = if e.active f k then g e k else if f.zero then false else (e.rp (f.vd.toNat % 16)).testBit k)
    ∧ Flies s i len .p (f.vd.toNat % 16) val 2 0

/-- A compare of two operands (R200): `fl` of float lanes, `ig` of integer ones. -/
def PCompare (s : State) (i : Instr) (s' : State) (len : Nat) (f : VF) (fl : XNum → XNum → Bool) (ig : Int → Int → Bool) : Prop :=
  PGives s i s' len f (vRegs f [1, 2]) fun e k =>
    let j := cmpLane f (f.vc.toNat % 4) k
    if f.tyF then fl (vNum f (e.a f j)) (vNum f (e.b f j)) else ig (vInt f (e.a f j)) (vInt f (e.b f j))

/-- A permute: lane j of vd receives `g e j` (R203). -/
def VMoves (s : State) (i : Instr) (s' : State) (len : Nat) (f : VF) (regs : List Nat) (g : Env → Nat → Nat) : Prop :=
  VGivesItems s i s' len f (f.vd.toNat :: regs) 4 f.width fun e => eachLane f.width fun j => (g e j, 0)

/-- When ready and its registers lie in the bank, a V operation has the whole register value of `r e` in flight, with its sticky bits. -/
def VWhole (s : State) (i : Instr) (s' : State) (len : Nat) (f : VF) (regs : List Nat) (lat : Nat) (r : Env → Nat × Sticky) : Prop :=
  let e := s.aloneEnv s' s' i len
  Ready s i s' len → VFits e f regs → Flies s i len .v f.vd.toNat (r e).1 lat (r e).2

/-- The state in which a ready instruction acts: a checkpoint commits its region first, which with nothing withheld only moves the rollback point (R215, R337). -/
def State.base (s : State) (i : Instr) (s' : State) : State :=
  if ckptOp i then s'.updStrand s.focus fun t => { t with nBund := 0, undo := [], stores := [], heldCopies := [], reelAt := none } else s'

/-- The environment in which a ready instruction acts. -/
def State.acting (s : State) (i : Instr) (s' : State) (len : Nat) : Env := s.aloneEnv s' (s.base i s') i len

/-- `exec` answers the state in which the instruction has taken effect as `fx` (R25, R73; `State.effected`). -/
def Acts (s : State) (i : Instr) (s' : State) (len : Nat) (fx : Fx) : Prop :=
  exec i s = .next (s.effected (s.base i s') i len fx (ckptOp i))

/-- The strand blocks before issue (R25): it waits for `ws`, `act` is what the block leaves beside, and the bundle is presented again when the waits have ended. -/
def Blocks (s : State) (i : Instr) (s' : State) (ws : List Wait) (act : State → State := id) : Prop :=
  exec i s = .next (((act (s'.updStrand s.focus fun t => { t with nBund := 0, undo := [], stores := [], heldCopies := [], reelAt := none })).blockOn s.focus ws false
    false).cycle (gnumOf s.focus))

/-- The instruction faults (R336): its bundle takes no effect, and the fault is taken, with an access code of R364. -/
def Faults (s : State) (i : Instr) (s' : State) (f : MemFault) (access : Nat) : Prop :=
  let f := { f with slot := (aloneSlot i s.frame.second).1 }
  exec i s = .next (((s.base i s').takeFault s.focus f access f.slot false).cycle (gnumOf s.focus))

/-- `exec` answers a next state in which the strand withholds the stores `ps` and stands at the bundle that follows; every byte of memory, and all else, is
untouched (R73, R221). -/
def Withholds (s : State) (i : Instr) (len : Nat) (ps : List PStore) : Prop :=
  ∃ t, exec i s = .next t ∧ t.core s.focus = { s.me with pc := s.fall len } ∧ (t.strand s.focus).stores = ps
    ∧ (∀ a, mget 0 t.hbm a = mget 0 s.hbm a) ∧ t.sects = s.sects ∧ (∀ k a, mget 0 (t.cluster k).bytes a = mget 0 (s.cluster k).bytes a)
    ∧ OthersSame s t ∧ RestSame s t ∧ DiesSame s t

/-- The effective address of an L operation: x[XBASE] + SignExt(OFF) (R212). -/
def State.eaOf (s : State) (f : LF) : Nat := (s.me.rx f.xbase.toNat + f.off.signExtend 64).toNat

/-- Bit 0 of an L operation's guard (R213). -/
def State.guardOn (s : State) (f : LF) : Bool := (s.me.rp f.g.toNat).getLsbD 0

/-- The scalar data operand of an L operation: x[REG], or the port's value (R72, R212). -/
def Env.dataOf (e : Env) (f : LF) : Nat := if f.bpd then e.bpWord else e.rx f.reg.toNat

/-- The port's tile, where the port supplies the data operand, lies in the share (R72). -/
def Env.portOk (e : Env) (f : LF) : Prop := f.bpd = true → bpMode e.bp = 3 → bpSrc e.bp % 16 < e.t.ntile

/-! ## Micro-ops -/

/-- The spindle of the strand in focus runs the call `c`, no SKIPF stands before its next micro-op, and the call waits on no fault (R240, R255, R366). -/
def Running (s : State) (c : Call) : Prop := (s.spindle (gnumOf s.focus)).runningCall = some c ∧ c.skipNext = false ∧ c.susp = none

/-- `exec` answers `s'` with the running call changed to `c'`, which goes on to the micro-op that follows (R257). -/
def GoesOn (s : State) (i : Instr) (s' : State) (c' : Call) : Prop := exec i s = .next (s'.setCall (gnumOf s.focus) (c'.after c'.idx))

/-- The running call ends on an error (R247). -/
def CallEnds (s : State) (i : Instr) (c : Call) (cause : Nat) : Prop := exec i s = .next (s.callError (gnumOf s.focus) c cause)

/-- `t` is `s` but for an accumulator of a strand, whose element (i, j) is `v i j` (R114). -/
def AccSet (s t : State) (sid a : Nat) (v : Nat → Nat → BitVec 32) : Prop :=
  ∃ m, t = s.updSpindle (gnumOf sid) (fun x => { x with accs := m })
    ∧ (∀ i j, i < 128 → j < 128 → mget 0 m (s.accIdx sid a i j) = v i j)
    ∧ ∀ e, e / 16384 ≠ (s.strand sid).acc0 + a → mget 0 m e = mget 0 (s.spindle (gnumOf sid)).accs e

/-- A running call can read n scratchpad bytes (R246, R254). -/
def State.callReads (s : State) (c : Call) (a n : Nat) : Prop :=
  s.spadCheck c.sid a n 1 = none ∧ (granules a n).any (fun g => s.callWaits c g) = false ∧ s.spadPoisoned (clusterOf c.sid) a n = false

end Sys2Proof.Machine
end

