-- ==== Sys2Proof/Certificates/Slice0/Obligations.lean ====
section
/-! DEFINITION. The statements for the provers. -/

open Sys2Proof Sys2Proof.Machine

/-! ## Scalar operations -/

/-- R161: the integer results of ADD, SUB, ADDI, MUL, MULHS, MULHN, ADDSHL, MINS, MINN, MAXS and MAXN; nothing else changes, and a write to x0 is discarded
(`State.GivesX` writes through the register file of R78). R162: quotients and remainders truncate toward zero; a zero divisor gives all ones, or the dividend,
and sets DIVZERO in STATUS and nothing else; in the case −2^63 ÷ −1 the quotient wraps and the remainder is 0. -/
def Obligations.ScalarArithmetic : Prop :=
  (∀ (s s' : State) (len : Nat) (f : SF),
     let A : Word := s.me.rx f.xa.toNat
     let B : Word := s.me.rx f.xb.toNat
     let d := f.xd.toNat
     GivesX s (.add f) s' len d (A + B)
     ∧ GivesX s (.sub f) s' len d (A - B)
     ∧ GivesX s (.addi f) s' len d (A + f.imm.signExtend 64)
     ∧ GivesX s (.mul f) s' len d (A * B)
     ∧ GivesX s (.mulhs f) s' len d ((A.signExtend 128 * B.signExtend 128).extractLsb' 64 64)
     ∧ GivesX s (.mulhn f) s' len d ((A.setWidth 128 * B.setWidth 128).extractLsb' 64 64)
     ∧ GivesX s (.addshl f) s' len d (A + B <<< (f.imm.setWidth 3).toNat)
     ∧ GivesX s (.mins f) s' len d (if A.slt B then A else B)
     ∧ GivesX s (.minn f) s' len d (if A < B then A else B)
     ∧ GivesX s (.maxs f) s' len d (if A.slt B then B else A)
     ∧ GivesX s (.maxn f) s' len d (if A < B then B else A))
  ∧ (∀ (s s' : State) (len : Nat) (f : SF),
       let A : Word := s.me.rx f.xa.toNat
       let B : Word := s.me.rx f.xb.toNat
       let d := f.xd.toNat
       (B ≠ 0 → GivesX s (.divs f) s' len d (A.sdiv B) ∧ GivesX s (.divn f) s' len d (A / B)
         ∧ GivesX s (.rems f) s' len d (A.srem B) ∧ GivesX s (.remn f) s' len d (A % B))
       ∧ (B = 0 → SGives s (.divs f) s' len ((s.me.wx d (BitVec.allOnes 64)).stick stDivZero) ∧ SGives s (.divn f) s' len ((s.me.wx d (BitVec.allOnes 64)).stick stDivZero)
         ∧ SGives s (.rems f) s' len ((s.me.wx d A).stick stDivZero) ∧ SGives s (.remn f) s' len ((s.me.wx d A).stick stDivZero)))

/-- R163: logic, shifts and rotates; an amount from a register is its low six bits. R164, R165: MOVI and MOVHI; the compares write a uniform predicate. -/
def Obligations.ScalarLogicAndCompares : Prop :=
  (∀ (s s' : State) (len : Nat) (f : SF),
     let A : Word := s.me.rx f.xa.toNat
     let B : Word := s.me.rx f.xb.toNat
     let I : Word := f.imm.signExtend 64
     let n := (B.setWidth 6).toNat
     let k := (f.imm.setWidth 6).toNat
     let d := f.xd.toNat
     GivesX s (.and f) s' len d (A &&& B)
     ∧ GivesX s (.or f) s' len d (A ||| B)
     ∧ GivesX s (.xor f) s' len d (A ^^^ B)
     ∧ GivesX s (.andn f) s' len d (A &&& ~~~B)
     ∧ GivesX s (.andi f) s' len d (A &&& I)
     ∧ GivesX s (.ori f) s' len d (A ||| I)
     ∧ GivesX s (.xori f) s' len d (A ^^^ I)
     ∧ GivesX s (.shl f) s' len d (A <<< n)
     ∧ GivesX s (.shrl f) s' len d (A >>> n)
     ∧ GivesX s (.shra f) s' len d (A.sshiftRight n)
     ∧ GivesX s (.shli f) s' len d (A <<< k)
     ∧ GivesX s (.shrli f) s' len d (A >>> k)
     ∧ GivesX s (.shrai f) s' len d (A.sshiftRight k)
     ∧ GivesX s (.rotr f) s' len d (A.rotateRight n)
     ∧ GivesX s (.rotri f) s' len d (A.rotateRight k))
  ∧ (∀ (s s' : State) (len : Nat) (f : SF),
       let A : Word := s.me.rx f.xa.toNat
       let B : Word := s.me.rx f.xb.toNat
       let I : Word := f.imm.signExtend 64
       let d := f.xd.toNat
       let p := (f.xd.setWidth 4).toNat
       GivesX s (.movi f) s' len d ((f.xa ++ f.xb ++ f.imm).signExtend 64)
       ∧ GivesX s (.movhi f) s' len d (A <<< 20 ||| (f.xb ++ f.imm).setWidth 64)
       ∧ GivesP s (.seq f) s' len p (uniform (A = B))
       ∧ GivesP s (.sne f) s' len p (uniform (A ≠ B))
       ∧ GivesP s (.slts f) s' len p (uniform (A.slt B))
       ∧ GivesP s (.sltn f) s' len p (uniform (A < B))
       ∧ GivesP s (.sltis f) s' len p (uniform (A.slt I))
       ∧ GivesP s (.sltin f) s' len p (uniform (A < I)))

/-- R166: BFXS, BFXN and BFI act on the field of `n` bits at `p`; a field that passes bit 63 traps ILLEGAL. R168: PSETX, PANY, PALL and PCNT. -/
def Obligations.ScalarFieldsAndPredicates : Prop :=
  (∀ (s s' : State) (len : Nat) (f : SF),
     let A : Word := s.me.rx f.xa.toNat
     let D : Word := s.me.rx f.xd.toNat
     let d := f.xd.toNat
     let p := (f.imm.setWidth 6).toNat
     let n := (f.imm.extractLsb' 6 6).toNat + 1
     (p + n ≤ 64 →
       GivesX s (.bfxs f) s' len d ((A.extractLsb' p n).signExtend 64)
       ∧ GivesX s (.bfxn f) s' len d ((A.extractLsb' p n).setWidth 64)
       ∧ GivesX s (.bfi f) s' len d (BitVec.ofFnLE fun j : Fin 64 => if p ≤ j.val ∧ j.val < p + n then A.getLsbD (j.val - p) else D.getLsbD j.val))
     ∧ (64 < p + n →
       (Alone s (.bfxs f) s' len → Traps s (.bfxs f) s' cIllegal)
       ∧ (Alone s (.bfxn f) s' len → Traps s (.bfxn f) s' cIllegal)
       ∧ (Alone s (.bfi f) s' len → Traps s (.bfi f) s' cIllegal)))
  ∧ (∀ (s s' : State) (len : Nat) (f : SF),
       let A : Word := s.me.rx f.xa.toNat
       let B : Word := s.me.rx f.xb.toNat
       let P : Pred := s.me.rp (f.xa.setWidth 4).toNat
       let Q : Pred := s.me.rp (f.xb.setWidth 4).toNat
       let d := f.xd.toNat
       GivesP s (.psetx f) s' len (f.xd.setWidth 4).toNat (B ++ A)
       ∧ GivesX s (.pany f) s' len d (if P &&& Q ≠ 0 then 1 else 0)
       ∧ GivesX s (.pall f) s' len d (if P &&& Q = Q then 1 else 0)
       ∧ GivesX s (.pcnt f) s' len d (BitVec.ofNat 64 ((List.range 128).countP (P &&& Q).getLsbD)))

/-- R167: POPC, CLZ and CTZ, by their codes; CLZ and CTZ of zero give 64. -/
def Obligations.BitCounts : Prop :=
  (∀ xd xa : BitVec 6,
    let w (code : Nat) : Nat := code * 2 ^ 32 + xd.toNat * 2 ^ 26 + xa.toNat * 2 ^ 20
    decodeS (w 0x33) = .ok (.popc ⟨xd, xa, 0, 0⟩) ∧ decodeS (w 0x34) = .ok (.clz ⟨xd, xa, 0, 0⟩) ∧ decodeS (w 0x35) = .ok (.ctz ⟨xd, xa, 0, 0⟩))
  ∧ ∀ (s s' : State) (len : Nat) (f : SF),
    let A : Word := s.me.rx f.xa.toNat
    let d := f.xd.toNat
    GivesX s (.popc f) s' len d (BitVec.ofNat 64 ((List.range 64).countP A.getLsbD))
    ∧ (A = 0 → GivesX s (.clz f) s' len d 64 ∧ GivesX s (.ctz f) s' len d 64)
    ∧ ∀ k, k < 64 → A.getLsbD k = true →
        ((∀ j, k < j → A.getLsbD j = false) → GivesX s (.clz f) s' len d (BitVec.ofNat 64 (63 - k)))
        ∧ ((∀ j, j < k → A.getLsbD j = false) → GivesX s (.ctz f) s' len d (BitVec.ofNat 64 k))

/-- R171 to R174, R91: the moves to m, d and tile-shape registers and to MPC, and NOP. R118, R170: SETFMT leaves FMT and puts the new value among the pending
writes with five bundles to count; each bundle's issue counts one, and FMT takes a write whose count has run out. R87, R172: a bad shape and a tile outside the
share trap; that of both the latter traps, REGBANK, is the model's choice (notes/assumptions/59.md). -/
def Obligations.MovesAndFormat : Prop :=
  (∀ (s s' : State) (len : Nat) (f : SF),
     let A : Word := s.me.rx f.xa.toNat
     let I : BitVec 20 := f.xb ++ f.imm
     let d := f.xd.toNat
     let d3 := (f.xd.setWidth 3).toNat
     let a3 := (f.xa.setWidth 3).toNat
     let d4 := (f.xd.setWidth 4).toNat
     let k := (f.imm.setWidth 2).toNat
     SGives s (.sNop f) s' len s.me
     ∧ SGives s (.msetp f) s' len { s.me with m := mset 0 s.me.m d3 (A + I.signExtend 64) }
     ∧ GivesX s (.mgetp f) s' len d (mget 0 s.me.m a3)
     ∧ SGives s (.mpcset f) s' len { s.me with mpc := (A + I.signExtend 64).setWidth 32 }
     ∧ (∃ v : BitVec 256, (∀ j, v.getLsbD j = if 64 * k ≤ j ∧ j < 64 * k + 64 then A.getLsbD (j - 64 * k) else (mget 0 s.me.d d3).getLsbD j)
         ∧ SGives s (.dset f) s' len { s.me with d := mset 0 s.me.d d3 v })
     ∧ GivesX s (.dget f) s' len d ((mget 0 s.me.d a3).extractLsb' (64 * k) 64)
     ∧ (let v : BitVec 21 := A.setWidth 21 ||| I.setWidth 21
        (d4 < (s.strand s.focus).ntile → tshapeOk v.toNat = true → SGives s (.tshape f) s' len { s.me with tshape := mset 0 s.me.tshape d4 v })
        ∧ (d4 < (s.strand s.focus).ntile → tshapeOk v.toNat = false → Alone s (.tshape f) s' len → Traps s (.tshape f) s' cIllegal)
        ∧ ((s.strand s.focus).ntile ≤ d4 → Alone s (.tshape f) s' len → Traps s (.tshape f) s' cRegBank d4)))
  ∧ ((∀ (s s' : State) (len : Nat) (f : SF),
       SGives s (.setfmt f) s' len { s.me with fmtPend := [((s.me.rx f.xa.toNat).setWidth 17 ||| (f.xb ++ f.imm).setWidth 17, 5)] })
     ∧ ∀ (c : Core) (v : BitVec 17), c.fmtPend = [(v, 5)] →
         (∀ n, n ≤ 4 → (Core.fmtStep^[n] c).fmt = c.fmt) ∧ (Core.fmtStep^[5] c).fmt = v ∧ (Core.fmtStep^[5] c).fmtPend = [])

/-- R81, R169: CRR gives the value of a tenant number, CRR of a tile shape outside the share traps REGBANK, an unassigned tenant number traps ILLEGAL, and a
privileged number traps PRIV in TENANT mode. R81, R82, R86, R87, R89, R90, R169: what CRW of a tenant number changes, field by field; the read-only and
hardware-written registers are left unchanged. R119: a write of SHADOWN starts its count again. R288 to R292: the privileged numbers of a mill strand: the
registers of its trap entry and handler, the events, whose bits a write of ones clears but for FQNE, MSPAWN, MID, and the stack and shadow registers, which a
write leaves; R287: an unassigned one traps ILLEGAL. R88, R292: BOOSTSTATE and the shadow registers of any set of shadows. That a tile shape that is outside
the share and too large besides traps REGBANK is the model's choice (notes/assumptions/59.md). -/
def Obligations.ControlRegisters : Prop :=
  (∀ (s s' : State) (len : Nat) (f : SF),
     let n := (f.imm.setWidth 12).toNat
     let d := f.xd.toNat
     let c := s.me
     (n = 0x000 → GivesX s (.crr f) s' len d (c.status.setWidth 64 ||| (if isMill s.focus then 0x10000 else 0)))
     ∧ (n = 0x001 → GivesX s (.crr f) s' len d c.cause)
     ∧ (n = 0x002 → GivesX s (.crr f) s' len d c.epc)
     ∧ (n = 0x003 → GivesX s (.crr f) s' len d (c.fmt.setWidth 64))
     ∧ (n = 0x004 → GivesX s (.crr f) s' len d (c.mpc.setWidth 64))
     ∧ (n = 0x005 → GivesX s (.crr f) s' len d (c.mrc.setWidth 64))
     ∧ (n = 0x006 → GivesX s (.crr f) s' len d (BitVec.ofNat 64 (c.loops.length + 2 ^ 32 * ((c.loops.map LoopEnt.count).headD 0))))
     ∧ (n = 0x021 → isMill s.focus = false → GivesX s (.crr f) s' len d (BitVec.ofNat 64 ((s.strand s.focus).scope + 2 ^ 12 * (s.strand s.focus).depth)))
     ∧ (n = 0x021 → isMill s.focus = true → GivesX s (.crr f) s' len d 0)
     ∧ (n = 0x007 → GivesX s (.crr f) s' len d 0)
     ∧ (n = 0x020 → let g := s'.reelCfg s.focus
         GivesX s (.crr f) s' len d (BitVec.ofNat 64
           (c.reelPolicy.toNat + 2 ^ 3 * g.ringlog + 2 ^ 8 * g.spillmax + 2 ^ 16 * c.reel.shut.toNat + 2 ^ 17 * g.enabled.toNat)))
     ∧ (0x008 ≤ n ∧ n ≤ 0x00F → GivesX s (.crr f) s' len d ((mget 0 c.mstride (n - 0x008)).setWidth 64))
     ∧ (0x010 ≤ n ∧ n ≤ 0x01F ∧ n - 0x010 < (s.strand s.focus).ntile → GivesX s (.crr f) s' len d ((mget 0 c.tshape (n - 0x010)).setWidth 64))
     ∧ (0x010 ≤ n ∧ n ≤ 0x01F ∧ (s.strand s.focus).ntile ≤ n - 0x010 → Alone s (.crr f) s' len → Traps s (.crr f) s' cRegBank (n - 0x010))
     ∧ (n = 0x022 → GivesX s (.crr f) s' len d (c.shadown.setWidth 64))
     ∧ (0x023 ≤ n ∧ n ≤ 0x7FF → Alone s (.crr f) s' len → Traps s (.crr f) s' cIllegal)
     ∧ (0x800 ≤ n → isMill s.focus = false → Alone s (.crr f) s' len → Traps s (.crr f) s' cPriv)
     ∧ (isMill s.focus = true →
         (n = 0x800 → GivesX s (.crr f) s' len d (c.mtvec.setWidth 64))
         ∧ (n = 0x801 → c.mldepth < 8 → c.mrdepth < 32 →
             GivesX s (.crr f) s' len d (BitVec.ofNat 64 (c.intrap.toNat + 2 * c.mldepth + 16 * c.mrdepth)))
         ∧ (n = 0x802 → GivesX s (.crr f) s' len d (c.mtval.setWidth 64))
         ∧ (n = 0x803 → let x := s'.die (dieOf s.focus)
             GivesX s (.crr f) s' len d
               ((x.evpend &&& 0x1EFF ||| if x.faults.any (fun e => e.posted.isSome && !e.popped) then 0x100 else 0).setWidth 64))
         ∧ (n = 0x804 → GivesX s (.crr f) s' len d (c.evmask.setWidth 64))
         ∧ (n = 0x805 → GivesX s (.crr f) s' len d (BitVec.ofNat 64
             (((List.range 4).map fun k => if (s'.strand (384 * dieOf s.focus + k)).st = .free then 2 ^ k else 0).sum)))
         ∧ (n = 0x806 → GivesX s (.crr f) s' len d (BitVec.ofNat 64 (dieOf s.focus + 2 ^ 2 * slotOf s.focus)))
         ∧ (0x808 ≤ n ∧ n ≤ 0x80B → GivesX s (.crr f) s' len d (mget 0 c.mscratch (n - 0x808)))
         ∧ (∀ k, k < 4 → let l := c.loops.reverse.getD k ⟨0, 0, 0⟩
             (n = 0x820 + 2 * k → GivesX s (.crr f) s' len d (BitVec.ofNat 64 (l.start + 2 ^ 32 * l.last)))
             ∧ (n = 0x821 + 2 * k → GivesX s (.crr f) s' len d (BitVec.ofNat 64 l.count)))
         ∧ (∀ k, k < 16 → n = 0x828 + k → let r := c.rets.reverse.getD k ⟨0, 0⟩
             GivesX s (.crr f) s' len d (BitVec.ofNat 64 (r.addr + 2 ^ 32 * r.depth)))
         ∧ ((0x840 ≤ n ∧ n ≤ 0x863) ∨ (0x870 ≤ n ∧ n ≤ 0x87F) → GivesX s (.crr f) s' len d 0)
         ∧ (n ∈ [0x807, 0x80C] ∨ (0x80D ≤ n ∧ n ≤ 0x81F) ∨ (0x838 ≤ n ∧ n ≤ 0x83F) ∨ (0x864 ≤ n ∧ n ≤ 0x86F) ∨ 0x880 ≤ n →
             Alone s (.crr f) s' len → Traps s (.crr f) s' cIllegal)))
  ∧ (∀ (f : SF) (e : Env),
       let n := (f.imm.setWidth 12).toNat
       let reads (v : Nat) : Prop := fxCrr f e = .ok { writes := [wr .x f.xd.toNat (v % 2 ^ 64) 1] }
       (n = 0x007 → reads e.c.boostState)
       ∧ (e.mill = true →
         (∀ k, k < 36 → n = 0x840 + k → let x := e.c.shadow k
           reads (if x.live then x.reg + 2 ^ 9 + 2 ^ 10 * x.level + (match x.poison with | some p => 2 ^ 12 + 2 ^ 13 * p.1 | none => 0) else 0))
         ∧ ∀ k, k < 16 → n = 0x870 + k → let x := e.c.shadow (16 + k)
           reads (if x.live && x.ready && !(e.c.flight.any fun g => g.shadow == some (16 + k)) then x.val else 0)))
  ∧ (∀ c : Core, mwf {} c.shadows = true → (∀ p ∈ c.shadows, p.1 < 36) →
       (∀ j, j < 2 → c.boostState.testBit j = (List.range 36).any fun k => (c.shadow k).live && (c.shadow k).level == j + 1)
       ∧ (∀ k, k < 36 → c.boostState.testBit (2 + k) = ((c.shadow k).live && (c.shadow k).poison.isSome))
       ∧ c.boostState < 2 ^ 38)
  ∧ (∀ (s s' : State) (len : Nat) (f : SF),
       let n := (f.imm.setWidth 12).toNat
       let A : Word := s.me.rx f.xa.toNat
       let c := s.me
       (n = 0x000 → SGives s (.crw f) s' len { c with status := c.status &&& ~~~(A.setWidth 8) })
       ∧ (n ∈ [0x001, 0x002, 0x004, 0x006, 0x007, 0x021] → SGives s (.crw f) s' len c)
       ∧ (n = 0x003 → SGives s (.crw f) s' len { c with fmtPend := [(A.setWidth 17, 5)] })
       ∧ (n = 0x005 → SGives s (.crw f) s' len { c with mrc := A.setWidth 32 })
       ∧ (0x008 ≤ n ∧ n ≤ 0x00F → SGives s (.crw f) s' len { c with mstride := mset 0 c.mstride (n - 0x008) (A.setWidth 32) })
       ∧ (0x010 ≤ n ∧ n ≤ 0x01F ∧ n - 0x010 < (s.strand s.focus).ntile →
           (tshapeOk (A.setWidth 21).toNat = true → SGives s (.crw f) s' len { c with tshape := mset 0 c.tshape (n - 0x010) (A.setWidth 21) })
           ∧ (tshapeOk (A.setWidth 21).toNat = false → Alone s (.crw f) s' len → Traps s (.crw f) s' cIllegal))
       ∧ (0x010 ≤ n ∧ n ≤ 0x01F ∧ (s.strand s.focus).ntile ≤ n - 0x010 → Alone s (.crw f) s' len → Traps s (.crw f) s' cRegBank (n - 0x010))
       ∧ (n = 0x020 → (A.setWidth 2 ≠ 3 → SGives s (.crw f) s' len { c with reelPolicy := A.setWidth 2 })
           ∧ (A.setWidth 2 = 3 → Alone s (.crw f) s' len → Traps s (.crw f) s' cIllegal))
       ∧ (n = 0x022 →
           ((A.setWidth 17).toNat ∈ 0 :: (List.range 13).map (fun k => 2 ^ (k + 4)) → SGives s (.crw f) s' len { c with shadown := A.setWidth 17, shcount := 0 })
           ∧ ((A.setWidth 17).toNat ∉ 0 :: (List.range 13).map (fun k => 2 ^ (k + 4)) → Alone s (.crw f) s' len → Traps s (.crw f) s' cIllegal))
       ∧ (0x023 ≤ n ∧ n ≤ 0x7FF → Alone s (.crw f) s' len → Traps s (.crw f) s' cIllegal)
       ∧ (0x800 ≤ n → isMill s.focus = false → Alone s (.crw f) s' len → Traps s (.crw f) s' cPriv)
       ∧ (isMill s.focus = true →
           (n = 0x800 → SGives s (.crw f) s' len { c with mtvec := A.setWidth 32 })
           ∧ (n = 0x801 ∨ n = 0x802 ∨ n = 0x806 ∨ (0x820 ≤ n ∧ n ≤ 0x837) ∨ (0x840 ≤ n ∧ n ≤ 0x863) ∨ (0x870 ≤ n ∧ n ≤ 0x87F) → SGives s (.crw f) s' len c)
           ∧ (n = 0x803 → Ready s (.crw f) s' len → Acts s (.crw f) s' len
               { post := fun t => t.updDie (dieOf s.focus) fun x => { x with evpend := x.evpend &&& ~~~(A.setWidth 13 &&& 0x1EFF) } })
           ∧ (n = 0x804 → SGives s (.crw f) s' len { c with evmask := A.setWidth 13 })
           ∧ (n = 0x805 → Ready s (.crw f) s' len → Acts s (.crw f) s' len
               { post := fun t => t.mspawn (dieOf s.focus) (A.toNat % 2 ^ 2) (A.toNat / 2 ^ 32) })
           ∧ (0x808 ≤ n ∧ n ≤ 0x80B → SGives s (.crw f) s' len { c with mscratch := mset 0 c.mscratch (n - 0x808) A })
           ∧ (n ∈ [0x807, 0x80C] ∨ (0x80D ≤ n ∧ n ≤ 0x81F) ∨ (0x838 ≤ n ∧ n ≤ 0x83F) ∨ (0x864 ≤ n ∧ n ≤ 0x86F) ∨ 0x880 ≤ n →
               Alone s (.crw f) s' len → Traps s (.crw f) s' cIllegal)))
  ∧ ∀ (t : State) (d k entry : Nat), d < 4 → k < 4 →
      let sid := 384 * d + k
      ((t.strand sid).st ≠ .free → t.mspawn d k entry = t)
      ∧ ((t.strand sid).st = .free → let u := t.mspawn d k entry
          (u.strand sid).st = .ready ∧ (u.core sid).pc = BitVec.ofNat 32 entry ∧ (u.core sid).rx 7 = BitVec.ofNat 64 (whoOf sid)
          ∧ (u.core sid).status = 0 ∧ (u.core sid).loops = [] ∧ (u.core sid).rets = [] ∧ ∀ j, j ≠ sid → u.strand j = t.strand j)

/-! ## Control flow -/

/-- R176: BRUT and BRUF. A uniform predicate decides; a taken branch goes to PC + SignExt(DISP) under the checks of R182, and pops the loops whose body it leaves;
at the LAST of the innermost loop it traps BADLOOP, and into a body that it is not in LOOPENTRY; a branch that is not taken falls through; a mixed predicate
traps NONUNIFORM. -/
def Obligations.ConditionalBranches : Prop :=
  ∀ (s s' : State) (len : Nat) (f : BF) (sense : Bool),
    let i : Instr := if sense then .brut f else .bruf f
    let P : Pred := s.me.rp f.pred.toNat
    let T : BitVec 32 := s.me.pc + f.disp.signExtend 32
    let enters := s.me.loops.any fun l => l.holds T.toNat && !l.holds s.me.pc.toNat
    (P = uniform sense → enters = false → SGoes s i s' len { s.me with loops := popLoops s.me.pc.toNat T.toNat s.me.loops, pc := T })
    ∧ (P = uniform sense → (∃ l ∈ s.me.loops.head?, l.last = s.me.pc.toNat) → Alone s i s' len → Traps s i s' cBadLoop)
    ∧ (P = uniform sense → enters = true → Ready s i s' len → Traps s i s' cLoopEntry)
    ∧ (P = uniform (!sense) → SGives s i s' len s.me)
    ∧ (P ≠ uniform true → P ≠ uniform false → Alone s i s' len → Traps s i s' cNonUniform)

/-- R175, R178: CALL pushes the bundle that follows and the loop depth, and RET pops them and the loops begun since; both trap RSTACK at the stack's limits; NOP
falls through. R177: JT goes to the entry of the image's jump table that its register names; an index at or beyond the table traps BADTARGET. R184, R333,
R293: BRK in a mill strand outside its handler takes BREAK after its bundle: CAUSE holds the code, EPC the bundle that would have followed, and the strand
stands at MTVEC in the handler. R179: LOOP pushes the body with its count, or skips a body of count 0; a fifth loop, and a LOOP at the LAST of the innermost
one, trap BADLOOP. R181: LEAVET and LEAVEF leave the innermost loop for the bundle after its LAST, or fall through; outside its body and at its LAST they trap
BADLOOP. -/
def Obligations.CallsTablesAndBreaks : Prop :=
  (∀ (s s' : State) (len : Nat) (f : BF),
     let c := s.me
     SGives s (.bNop f) s' len c
     ∧ (c.rets.length < 16 → SGoes s (.call f) s' len
         { c with rets := { addr := (s.fall len).toNat, depth := c.loops.length } :: c.rets, pc := c.pc + f.disp.signExtend 32 })
     ∧ (16 ≤ c.rets.length → Alone s (.call f) s' len → Traps s (.call f) s' cRstack)
     ∧ (∀ r rs, c.rets = r :: rs → SGoes s (.ret f) s' len
         { c with rets := rs, loops := c.loops.drop (c.loops.length - r.depth), pc := BitVec.ofNat 32 r.addr })
     ∧ (c.rets = [] → Alone s (.ret f) s' len → Traps s (.ret f) s' cRstack))
  ∧ (∀ (s s' : State) (len : Nat) (f : BF), isMill s.focus = false →
       let c := s.me
       let m := (s.strand s.focus).mcx
       let k := (c.rx (xc f)).toNat
       let size := s'.hw m 12 / 2 ^ 48 % 2 ^ 13
       (∀ t u, k < size → s'.fetchBytes s.focus (s'.hw m 12 % 2 ^ 48 + 4 * k) 4 = .ok t u →
           (c.loops.any fun l => l.holds t && !l.holds c.pc.toNat) = false →
           SGoes s (.jt f) s' len { c with loops := popLoops c.pc.toNat t c.loops, pc := BitVec.ofNat 32 t })
       ∧ (size ≤ k → Alone s (.jt f) s' len → Traps s (.jt f) s' cBadTarget))
  ∧ (∀ (s s' : State) (len : Nat) (f : BF), isMill s.focus = true → s.me.intrap = false →
       SGoes s (.brk f) s' len { s.me with
         cause := causeWord cBreak 7 false f.disp.toNat, epc := epcWord (s.fall len) s.me.mpc, intrap := true, mldepth := s.me.loops.length
         mrdepth := s.me.rets.length, mtval := 0, pc := s.me.mtvec })
  ∧ (∀ (s s' : State) (len : Nat) (f : BF),
       let c := s.me
       let count := (c.rx (xc f)).setWidth 32
       let last : BitVec 32 := c.pc + f.disp.setWidth 32
       let atLast := ∃ l ∈ c.loops.head?, l.last = c.pc.toNat
       (count ≠ 0 → c.loops.length < 4 → SGoes s (.loop f) s' len
           { c with loops := { start := (s.fall len).toNat, last := last.toNat, count := count.toNat } :: c.loops, pc := s.fall len })
       ∧ (∀ w u, count = 0 → s'.codeWord s.focus last.toNat = .ok w u → SGoes s (.loop f) s' len { c with pc := last + BitVec.ofNat 32 (bundleLength w) })
       ∧ (count ≠ 0 → 4 ≤ c.loops.length → Alone s (.loop f) s' len → Traps s (.loop f) s' cBadLoop)
       ∧ (atLast → Alone s (.loop f) s' len → Traps s (.loop f) s' cBadLoop))
  ∧ (∀ (s s' : State) (len : Nat) (f : BF) (sense : Bool),
       let i : Instr := if sense then .leavet f else .leavef f
       let c := s.me
       let P : Pred := c.rp f.pred.toNat
       (∀ l r w u, c.loops = l :: r → l.holds c.pc.toNat = true →
         (P = uniform sense → s'.codeWord s.focus (l.last % 2 ^ 32) = .ok w u →
           SGoes s i s' len { c with loops := r, pc := BitVec.ofNat 32 (l.last + bundleLength w) })
         ∧ (P = uniform (!sense) → SGives s i s' len c))
       ∧ (P = uniform true ∨ P = uniform false → (∀ l ∈ c.loops.head?, l.holds c.pc.toNat = false ∨ l.last = c.pc.toNat) → Alone s i s' len →
           Traps s i s' cBadLoop)
       ∧ (P ≠ uniform true → P ≠ uniform false → Alone s i s' len → Traps s i s' cNonUniform))

/-- R180: at the end of a bundle at the innermost loop's LAST that makes no taken transfer, its count falls and the strand goes back to START while iterations
are left, and the entry is popped when the last one has ended. Every entry of a loop stack has a count of at least 1: that holds at reset and every step keeps
it, in the registers of every strand, in the registers that it would roll back to, and in every saved image (`State.loopsLive`). (LOOP, LEAVET and LEAVEF
themselves: `Obligations.CallsTablesAndBreaks`.) -/
def Obligations.HardwareLoops : Prop :=
  (∀ (c : Core) (len : Nat) (l : LoopEnt) (r : List LoopEnt), c.loops = l :: r → l.last = c.pc.toNat → 1 ≤ l.count →
     (l.count ≠ 1 → c.nextBundle len none = { c with loops := { l with count := l.count - 1 } :: r, pc := BitVec.ofNat 32 l.start })
     ∧ (l.count = 1 → c.nextBundle len none = { c with loops := r, pc := BitVec.ofNat 32 (c.pc.toNat + len) }))
  ∧ State.reset.loopsLive
  ∧ ∀ s t : State, s.loopsLive → step s = .next t → t.loopsLive

/-- R180: at the end of a bundle at the LAST of the innermost entry, without a taken transfer, COUNT falls by one and the body starts again, or at zero the entry
is popped and the strand goes on. Only that entry is tested; MPC, shadows and all else stay. `b` is what the bundle's B slot asks for, and a bundle that traps
never comes here. -/
def Obligations.LoopEnds : Prop :=
  ∀ (c : Core) (len : Nat) (b : Option BRes),
    let c1 := (b.getD {}).core c
    let fall := (c.pc.toNat + len) % 2 ^ 32
    ((b.getD {}).taken = true → c.nextBundle len b = { c1 with pc := BitVec.ofNat 32 ((b.getD {}).next.getD fall) })
    ∧ ((b.getD {}).taken = false →
        (c1.loops = [] → c.nextBundle len b = { c1 with pc := BitVec.ofNat 32 ((b.getD {}).next.getD fall) })
        ∧ ∀ l r, c1.loops = l :: r →
          (l.last ≠ c.pc.toNat → c.nextBundle len b = { c1 with pc := BitVec.ofNat 32 ((b.getD {}).next.getD fall) })
          ∧ (l.last = c.pc.toNat → 1 < l.count → c.nextBundle len b = { c1 with loops := { l with count := l.count - 1 } :: r, pc := BitVec.ofNat 32 l.start })
          ∧ (l.last = c.pc.toNat → l.count ≤ 1 → c.nextBundle len b = { c1 with loops := r, pc := BitVec.ofNat 32 fall }))

/-! ## Vectors -/

/-- R196: VADD, VSUB, VMUL, VFMA, VFMS and VFNMA lane by lane under the guard: a float value formed exactly and rounded once, an integer value modulo 2^w. -/
def Obligations.VectorArithmetic : Prop :=
  ∀ (s s' : State) (len : Nat) (f : VF),
    let r := vRnd f
    VArith2 s (.vadd f) s' len f (numAdd r) (fun _ a b => a + b)
    ∧ VArith2 s (.vsub f) s' len f (fun a b => numAdd r a b.negate) (fun _ a b => a - b)
    ∧ VArith2 s (.vmul f) s' len f numMul (fun _ a b => a * b)
    ∧ VArith3 s (.vfma f) s' len f (fun a b c => numAdd r (numMul a b) c) (fun _ a b c => a * b + c)
    ∧ VArith3 s (.vfms f) s' len f (fun a b c => numAdd r (numMul a b) c.negate) (fun _ a b c => a * b - c)
    ∧ VArith3 s (.vfnma f) s' len f (fun a b c => numAdd r c (numMul a b).negate) (fun _ a b c => c - a * b)

/-- R197: VMOV, VMULH, VMIN, VMAX, VABS, VNEG, VADDSAT, VSUBSAT and VAVG lane by lane; only the saturating forms set a sticky bit, and only where they clamp. -/
def Obligations.VectorMinMaxAndSaturation : Prop :=
  ∀ (s s' : State) (len : Nat) (f : VF),
    let nan (x : Nat) : Bool := (vNum f x).isNan
    let m := vFmt f
    let clamp (x : Int) : Nat × Sticky :=
      (toBits f.width (max (vMin f) (min x (vMax f))), if vMin f ≤ x ∧ x ≤ vMax f then 0 else stSaturate)
    VGives1 s (.vmov f) s' len f 2 (fun a => (a, 0))
    ∧ VGives2 s (.vmulh f) s' len f 2 (fun a b => (toBits f.width (vInt f a * vInt f b / 2 ^ f.width), 0))
    ∧ (f.tyF = false → VGives2 s (.vmin f) s' len f 2 (fun a b => (toBits f.width (min (vInt f a) (vInt f b)), 0))
      ∧ VGives2 s (.vmax f) s' len f 2 (fun a b => (toBits f.width (max (vInt f a) (vInt f b)), 0)))
    ∧ (f.tyF = true →
      VGives2 s (.vmin f) s' len f 4 (fun a b => (if nan a || nan b then m.nanEnc else if rankLt (vNum f a) (vNum f b) then a else b, 0))
      ∧ VGives2 s (.vmax f) s' len f 4 (fun a b => (if nan a || nan b then m.nanEnc else if rankLt (vNum f a) (vNum f b) then b else a, 0)))
    ∧ (f.tyF = false → VGives1 s (.vabs f) s' len f 2 (fun a => (toBits f.width (vInt f a).natAbs, 0))
      ∧ VGives1 s (.vneg f) s' len f 2 (fun a => (toBits f.width (-vInt f a), 0)))
    ∧ (f.tyF = true → VGives1 s (.vabs f) s' len f 2 (fun a => (if nan a then m.nanEnc else a % 2 ^ (f.width - 1), 0))
      ∧ VGives1 s (.vneg f) s' len f 2 (fun a => (if nan a then m.nanEnc else a ^^^ 2 ^ (f.width - 1), 0)))
    ∧ VGives2 s (.vaddsat f) s' len f 2 (fun a b => clamp (vInt f a + vInt f b))
    ∧ VGives2 s (.vsubsat f) s' len f 2 (fun a b => clamp (vInt f a - vInt f b))
    ∧ VGives2 s (.vavg f) s' len f 2 (fun a b => (toBits f.width ((vInt f a + vInt f b + 1) / 2), 0))

/-- R198: the bit operations, shifts and counts. -/
def Obligations.VectorBitOperations : Prop :=
  ∀ (s s' : State) (len : Nat) (f : VF),
    VBits2 s (.vand f) s' len f (fun _ a b => a &&& b)
    ∧ VBits2 s (.vor f) s' len f (fun _ a b => a ||| b)
    ∧ VBits2 s (.vxor f) s' len f (fun _ a b => a ^^^ b)
    ∧ VBits2 s (.vandn f) s' len f (fun _ a b => a &&& ~~~b)
    ∧ VBits2 s (.vshl f) s' len f (fun w a b => a <<< (b.toNat % w))
    ∧ (f.tyS = true → VBits2 s (.vshr f) s' len f (fun w a b => a.sshiftRight (b.toNat % w)))
    ∧ (f.tyS = false → VBits2 s (.vshr f) s' len f (fun w a b => a >>> (b.toNat % w)))
    ∧ VGives1 s (.vpopc f) s' len f 2 (fun a => ((List.range f.width).countP fun k => a.testBit k, 0))
    ∧ VGives1 s (.vclz f) s' len f 2 (fun a => ((BitVec.ofNat f.width a).clz.toNat, 0))

/-- R199: the special operands of VRCP, VRSQRT, VEXP2, VLOG2, VTANH and VSIGM, with the sticky bits shown and no others; of any other operand the value that
`vRcpFun` to `vSigmFun` round once (that these are the exact values: notes/assumptions/12.md). -/
def Obligations.VectorFunctions : Prop :=
  (∀ (s s' : State) (len : Nat) (f : VF),
    VGives1 s (.vrcp f) s' len f 12 (vRcpFun f)
    ∧ VGives1 s (.vrsqrt f) s' len f 12 (vRsqrtFun f)
    ∧ VGives1 s (.vexp2 f) s' len f 12 (vExp2Fun f)
    ∧ VGives1 s (.vlog2 f) s' len f 12 (vLog2Fun f)
    ∧ VGives1 s (.vtanh f) s' len f 12 (vTanhFun f)
    ∧ VGives1 s (.vsigm f) s' len f 12 (vSigmFun f))
  ∧ ∀ (f : VF) (x : Nat),
    let m := vFmt f
    let neg := m.signBit true
    let real (v : XNum) : Nat × Sticky := roundNum m (vRnd f) v
    (vNum f x = .nan → vRcpFun f x = (m.nanEnc, 0) ∧ vRsqrtFun f x = (m.nanEnc, 0) ∧ vExp2Fun f x = (m.nanEnc, 0) ∧ vLog2Fun f x = (m.nanEnc, 0)
      ∧ vTanhFun f x = (m.nanEnc, 0) ∧ vSigmFun f x = (m.nanEnc, 0))
    ∧ (vNum f x = .inf true → vRcpFun f x = (neg, 0) ∧ vRsqrtFun f x = (m.nanEnc, stNan) ∧ vExp2Fun f x = (0, 0) ∧ vLog2Fun f x = (m.nanEnc, stNan)
      ∧ vTanhFun f x = real (.fin true 1 1) ∧ vSigmFun f x = (0, 0))
    ∧ (vNum f x = .inf false → vRcpFun f x = (0, 0) ∧ vRsqrtFun f x = (0, 0) ∧ vExp2Fun f x = (m.infEnc, 0) ∧ vLog2Fun f x = (m.infEnc, 0)
      ∧ vTanhFun f x = real (.fin false 1 1) ∧ vSigmFun f x = real (.fin false 1 1))
    ∧ (∀ d, vNum f x = .fin true 0 d → vRcpFun f x = (m.infEnc + neg, stDivZero) ∧ vRsqrtFun f x = (m.infEnc + neg, stDivZero)
      ∧ vExp2Fun f x = real (.fin false 1 1) ∧ vLog2Fun f x = (m.infEnc + neg, 0) ∧ vTanhFun f x = (neg, 0) ∧ vSigmFun f x = real (.fin false 1 2))
    ∧ (∀ d, vNum f x = .fin false 0 d → vRcpFun f x = (m.infEnc, stDivZero) ∧ vRsqrtFun f x = (m.infEnc, stDivZero)
      ∧ vExp2Fun f x = real (.fin false 1 1) ∧ vLog2Fun f x = (m.infEnc + neg, 0) ∧ vTanhFun f x = (0, 0) ∧ vSigmFun f x = real (.fin false 1 2))
    ∧ (∀ n d, n ≠ 0 → vNum f x = .fin true n d → vRcpFun f x = real (.fin true d n) ∧ vRsqrtFun f x = (m.nanEnc, stNan) ∧ vLog2Fun f x = (m.nanEnc, stNan))
    ∧ (∀ n d, n ≠ 0 → vNum f x = .fin false n d → vRcpFun f x = real (.fin false d n))

/-- R200, R201: the compares and VCLASS write predicate bit i from lane (32 ÷ w) × i + s, under guard bit i. R211: the predicate operations act on all 128 bits,
with latency 2. -/
def Obligations.ComparesAndPredicates : Prop :=
  (∀ (s s' : State) (len : Nat) (f : VF),
     PCompare s (.vcmpeq f) s' len f realEq (fun a b => decide (a = b))
     ∧ PCompare s (.vcmpne f) s' len f (fun a b => !realEq a b) (fun a b => decide (a ≠ b))
     ∧ PCompare s (.vcmplt f) s' len f realLt (fun a b => decide (a < b))
     ∧ PCompare s (.vcmple f) s' len f (fun a b => realLt a b || realEq a b) (fun a b => decide (a ≤ b))
     ∧ PGives s (.vclass f) s' len f (vRegs f [1]) (fun e k => f.vc.toNat.testBit (vClassBit (vFmt f) (e.a f (cmpLane f (f.vb.toNat % 4) k)))))
  ∧ (∀ (s s' : State) (len : Nat) (f : VF),
       let P : Pred := s.me.rp (f.va.toNat % 16)
       let Q : Pred := s.me.rp (f.vb.toNat % 16)
       let d := f.vd.toNat % 16
       let gives (i : Instr) (v : Pred) : Prop := Ready s i s' len → Flies s i len .p d v.toNat 2 0
       gives (.pand f) (P &&& Q) ∧ gives (.por f) (P ||| Q) ∧ gives (.pxor f) (P ^^^ Q) ∧ gives (.pandn f) (P &&& ~~~Q) ∧ gives (.pnot f) (~~~P)
       ∧ gives (.pfirst f) (P &&& -P))

/-- R202, R203: VSEL and the permutes move lanes whole; a slide by more than the lane count is a slide by the lane count. -/
def Obligations.VectorPermutes : Prop :=
  ∀ (s s' : State) (len : Nat) (f : VF),
    let w := f.width
    let n := lanes w
    let va (e : Env) (j : Nat) : Nat := laneOf w (e.rv f.va.toNat) j
    let vb (e : Env) (j : Nat) : Nat := laneOf w (e.rv f.vb.toNat) j
    let vc (e : Env) (j : Nat) : Nat := laneOf w (e.rv f.vc.toNat) j
    let h := f.vc.toNat % 2
    VGives s (.vsel f) s' len f [1, 2] 2 (fun e j => (if (e.rp (f.vc.toNat % 16)).testBit j then e.a f j else e.b f j, 0))
    ∧ VMoves s (.vperm f) s' len f (vRegs f [1, 2, 3]) (fun e j =>
        let x := e.opnd f 2 f.vb .bits w j
        if x < n then va e x else if x < 2 * n then vc e (x - n) else 0)
    ∧ VMoves s (.vslideup f) s' len f [f.va.toNat, f.vb.toNat] (fun e j => if min (e.amount f) n ≤ j then va e (j - min (e.amount f) n) else vb e (n - min (e.amount f) n + j))
    ∧ VMoves s (.vslidedn f) s' len f [f.va.toNat, f.vb.toNat] (fun e j =>
        if j + min (e.amount f) n < n then va e (j + min (e.amount f) n) else vb e (j + min (e.amount f) n - n))
    ∧ VMoves s (.vbcast f) s' len f [f.va.toNat] (fun e _ => if e.amount f < n then va e (e.amount f) else 0)
    ∧ VMoves s (.vzip f) s' len f [f.va.toNat, f.vb.toNat] (fun e j => if j % 2 = 0 then va e (j / 2 + h * (n / 2)) else vb e (j / 2 + h * (n / 2)))
    ∧ VMoves s (.vunzip f) s' len f [f.va.toNat, f.vb.toNat] (fun e j => if 2 * j + h < n then va e (2 * j + h) else vb e (2 * j + h - n))
    ∧ VMoves s (.vrev f) s' len f [f.va.toNat] (fun e j => va e (n - 1 - j))

/-- R204, R205: the reductions combine vb[0] with every active lane of va and write the whole of vd; with no active lane, vb[0] stands as it is, widened to 32
bits by VREDADD of an integer type. VSCAN gives each active lane j the operation over vb[0] and the active lanes 0 to j, an integer sum modulo 2^w. The three
operations: a sum of float terms is a NaN or an infinity where a term makes it so, and otherwise exact and rounded once; an integer sum is clamped; the smallest
or largest is one of the terms, and none ranks beyond it. -/
def Obligations.VectorReductionsAndScans : Prop :=
  (∀ (s s' : State) (len : Nat) (f : VF),
    let red (op : Nat → List Nat → Nat × Sticky) (widen : Nat → Nat) (e : Env) : Nat × Sticky :=
      if e.activeLanes f = [] then (widen (e.b f 0), 0) else op (e.b f 0) (e.activeLanes f)
    let regs := f.vd.toNat :: vRegs f [1, 2]
    let upTo (e : Env) (j : Nat) : List Nat :=
      ((List.range (j + 1)).filter fun k => e.active f (k * f.width / 32)).map fun k => laneOf f.width (e.rv f.va.toNat) k
    VWhole s (.vredadd f) s' len f regs 8 (red (vRedAdd f) fun b => if f.tyF then b else toBits 32 (vInt f b))
    ∧ VWhole s (.vredmin f) s' len f regs 8 (red (vRedPick f false) id)
    ∧ VWhole s (.vredmax f) s' len f regs 8 (red (vRedPick f true) id)
    ∧ VGives s (.vscan f) s' len f [1, 2] 8 fun e j =>
        if f.vc.toNat % 4 = 0 then
          (if f.tyF then vRedAdd f (e.b f 0) (upTo e j) else (toBits f.width (vInt f (e.b f 0) + ((upTo e j).map (vInt f)).sum), 0))
        else vRedPick f (f.vc.toNat % 4 != 1) (e.b f 0) (upTo e j))
  ∧ (∀ (f : VF) (b : Nat) (xs : List Nat), f.tyF = false →
      let t := vInt f b + (xs.map (vInt f)).sum
      let lo : Int := if f.tyS then -2 ^ 31 else 0
      let hi : Int := if f.tyS then 2 ^ 31 - 1 else 2 ^ 32 - 1
      vRedAdd f b xs = (toBits 32 (max lo (min t hi)), if lo ≤ t ∧ t ≤ hi then 0 else stSaturate)
      ∧ (vRedPick f false b xs).2 = 0 ∧ (vRedPick f false b xs).1 ∈ b :: xs ∧ (∀ x ∈ b :: xs, vInt f (vRedPick f false b xs).1 ≤ vInt f x)
      ∧ (vRedPick f true b xs).2 = 0 ∧ (vRedPick f true b xs).1 ∈ b :: xs ∧ ∀ x ∈ b :: xs, vInt f x ≤ vInt f (vRedPick f true b xs).1)
  ∧ ∀ (f : VF) (b : Nat) (xs : List Nat), f.tyF = true →
      let m := vFmt f
      let ts := (b :: xs).map (vNum f)
      let term (x : XNum) : Int := match x with | .fin neg n d => finInt neg (n * sumScale / d) | _ => 0
      let sum := (ts.map term).sum
      (XNum.nan ∈ ts → vRedAdd f b xs = (m.nanEnc, 0) ∧ vRedPick f false b xs = (m.nanEnc, 0) ∧ vRedPick f true b xs = (m.nanEnc, 0))
      ∧ (XNum.nan ∉ ts →
        (XNum.inf false ∈ ts → XNum.inf true ∈ ts → vRedAdd f b xs = (m.nanEnc, stNan))
        ∧ (XNum.inf false ∈ ts → XNum.inf true ∉ ts → vRedAdd f b xs = (m.infEnc, 0))
        ∧ (XNum.inf true ∈ ts → XNum.inf false ∉ ts → vRedAdd f b xs = (m.infEnc + m.signBit true, 0))
        ∧ (XNum.inf true ∉ ts → XNum.inf false ∉ ts →
          (sum ≠ 0 → vRedAdd f b xs = roundF m (vRnd f) .ieee (sum < 0) sum.natAbs sumScale)
          ∧ (sum = 0 → vRedAdd f b xs = (m.signBit ((ts.all fun x => x.isNeg && term x == 0) || vRnd f == .rdn), 0)))
        ∧ (vRedPick f false b xs).2 = 0 ∧ (vRedPick f false b xs).1 ∈ b :: xs ∧ (∀ x ∈ b :: xs, rankLt (vNum f x) (vNum f (vRedPick f false b xs).1) = false)
        ∧ (vRedPick f true b xs).2 = 0 ∧ (vRedPick f true b xs).1 ∈ b :: xs ∧ ∀ x ∈ b :: xs, rankLt (vNum f (vRedPick f true b xs).1) (vNum f x) = false)

/-- R206, R207: VCVT converts operation lane i between the wide side's lane i and the narrow side's lane kL + i; a narrow destination is written only in its part
k. -/
def Obligations.VectorConversions : Prop :=
  ∀ (s s' : State) (len : Nat) (f : VF),
    let wT := f.width
    let wF := cvtWidth f.fmt
    let w := max wT wF
    let n := 4096 / w
    let k := f.vc.toNat / 32 % 8
    (f.vc.getLsbD 4 = false → VGivesItems s (.vcvt f) s' len f (f.vd.toNat :: vRegs f [1]) 4 wF fun e => (List.range n).map fun i =>
      { lane := if wF < w then k * n + i else i, bit := i * w / 32
        val := convert (cvtType f) (cvtFmt f.fmt) (vRnd f) f.nan (e.opnd f 1 f.va (vCls f) wT (if wT < w then k * n + i else i)) })
    ∧ (f.vc.getLsbD 4 = true → VGivesItems s (.vcvt f) s' len f (f.vd.toNat :: vRegs f [1]) 4 wT fun e => (List.range n).map fun i =>
      { lane := if wT < w then k * n + i else i, bit := i * w / 32
        val := convert (cvtFmt f.fmt) (cvtType f) (vRnd f) f.nan (e.opnd f 1 f.va (vCls f) wF (if wF < w then k * n + i else i)) })

/-- R208, R209: VQUANT writes code i into lane 128k + i of vd and VQUANT.scales the block scales; VDEQUANT reads code lane 128k + i into FP32 lane i. (OVERFLOW of
the scales: notes/assumptions/14.md.) R210: VPACK puts elements 0 to 127 of container part k densely into chunk m of vd, and VUNPACK the dense elements of
chunk m into container part k; all other bytes of vd keep their values. -/
def Obligations.VectorQuantisationAndPacking : Prop :=
  (∀ (s s' : State) (len : Nat) (f : VF),
     let k := f.vc.toNat / 32
     VGivesItems s (.vquant f) s' len f (f.vd.toNat :: vRegs f [1, 2]) 4 (codeBits f.fmt) (fun e =>
       (List.range 128).map fun i => { lane := 128 * k + i, bit := i, val := e.quantLane f i })
     ∧ VGivesItems s (.vdequant f) s' len f (f.vd.toNat :: vRegs f [1, 2]) 4 32 (fun e =>
       (List.range 128).map fun i => { lane := i, bit := i, val := e.dequantLane f i })
     ∧ (let e := s.aloneEnv s' s' (.vquantScales f) len
        Ready s (.vquantScales f) s' len → VFits e f [f.vd.toNat, f.va.toNat] →
         ∃ val st, Flies s (.vquantScales f) len .v f.vd.toNat val 4 st
           ∧ ∀ g, g < 512 → laneOf 8 val g = if 32 * k ≤ g ∧ g < 32 * k + 32 then
               (blockConvert (blockFmt f.fmt) (vRnd f) ((List.range 4).map fun i =>
                 if e.active f (4 * (g - 32 * k) + i) then decodeF fp32 (laneOf 32 (e.rv f.va.toNat) (4 * (g - 32 * k) + i)) else .fin false 0 1)).1
             else laneOf 8 (e.rv f.vd.toNat) g))
  ∧ (∀ (s s' : State) (len : Nat) (f : VF),
       let k := f.vc.toNat / 32 % 4
       let m := f.vc.toNat / 128
       (let e := s.aloneEnv s' s' (.vpack f) len
        Ready s (.vpack f) s' len → VFits e f [f.vd.toNat, f.va.toNat] → ∃ val, Flies s (.vpack f) len .v f.vd.toNat val 4 0
         ∧ (∀ i, i < 128 → val / 2 ^ (768 * m + 6 * i) % 2 ^ 6 = laneOf 8 (e.rv f.va.toNat) (128 * k + i) % 2 ^ 6)
         ∧ ∀ b, b < 512 → (b < 96 * m ∨ 96 * m + 96 ≤ b) → laneOf 8 val b = laneOf 8 (e.rv f.vd.toNat) b)
       ∧ (let e := s.aloneEnv s' s' (.vunpack f) len
          Ready s (.vunpack f) s' len → VFits e f [f.vd.toNat, f.va.toNat] → ∃ val, Flies s (.vunpack f) len .v f.vd.toNat val 4 0
         ∧ (∀ i, i < 128 → laneOf 8 val (128 * k + i) = e.rv f.va.toNat / 2 ^ (768 * m + 6 * i) % 2 ^ 6)
         ∧ ∀ b, b < 512 → (b < 128 * k ∨ 128 * k + 128 ≤ b) → laneOf 8 val b = laneOf 8 (e.rv f.vd.toNat) b))

/-- R79, R193: a V operation that names a v register at or beyond the strand's bank traps REGBANK with the register's number, and so does one whose port names a
tile outside the share, for any bundle, at the slot of the operation that names the port or else at the port's own number 8; here for the forms of one, two and
three operands; that slot, and that INFO is the first register outside in the order vd, va, vb, vc, are the model's choices (notes/assumptions/16.md). R72, R193:
the operand lanes of a V operation: the register's own lanes, unless BPSEL names the field, when every lane has the port's value: a register's low bits (RAW), a
value clamped to the integer type (SAT), the FP32 value converted (FLOAT), the immediate, or the shape of a tile. -/
def Obligations.VectorBankAndPort : Prop :=
  (∀ (s s' : State) (len : Nat) (f : VF) (i : Instr) (sels : List Nat),
     (i, sels) ∈ [(Instr.vmov f, [1]), (Instr.vadd f, [1, 2]), (Instr.vmul f, [1, 2]), (Instr.vfma f, [1, 2, 3]), (Instr.vand f, [1, 2]), (Instr.vrcp f, [1])] →
     let e := s.aloneEnv s' s' i len
     let out := (f.vd.toNat :: vRegs f sels).filter fun r => e.t.bank ≤ r
     (Alone s i s' len → ∀ r rs, out = r :: rs → Traps s i s' cRegBank r)
     ∧ (Presents s i s' len → out = [] → bpMode e.bp = 3 → e.t.ntile ≤ bpSrc e.bp % 16 →
        (f.bpsel ≠ 0 → Traps s i s' cRegBank (bpSrc e.bp % 16))
        ∧ (f.bpsel = 0 → exec i s = .next (s'.trapCycle s.focus { cause := cRegBank, slot := 8, info := bpSrc e.bp % 16 }))))
  ∧ (∀ (e : Env) (f : VF) (j : Nat),
       let w := f.width
       let x := e.rx (bpSrc e.bp)
       (f.bpsel ≠ 1 → e.a f j = laneOf w (e.rv f.va.toNat) j)
       ∧ (f.bpsel = 1 → bpMode e.bp = 1 → bpLf e.bp = 0 → e.a f j = x % 2 ^ w)
       ∧ (f.bpsel = 1 → bpMode e.bp = 1 → bpLf e.bp = 1 → vCls f = .flt → ∀ n a d, decodeF fp32 x = .fin n a d → e.a f j = (roundF (vFmt f) .rne .sat n a d).1)
       ∧ (f.bpsel = 1 → bpMode e.bp = 1 → bpLf e.bp = 2 → vCls f = .sint → e.a f j = toBits w (max (-2 ^ (w - 1)) (min (sext 64 x) (2 ^ (w - 1) - 1))))
       ∧ (f.bpsel = 1 → bpMode e.bp = 1 → bpLf e.bp = 2 → vCls f = .uint → e.a f j = toBits w (max 0 (min (sext 64 x) (2 ^ w - 1))))
       ∧ (f.bpsel = 1 → bpMode e.bp = 2 → vCls f ≠ .flt → e.a f j = toBits w (bpImm e.bp))
       ∧ (f.bpsel = 1 → bpMode e.bp = 3 → e.a f j = (mget 0 e.c.tshape (bpSrc e.bp % 16)).toNat % 2 ^ w))

/-! ## Memory -/

/-- R123, R126, R214, R216: a scratchpad load under its guard traps by the first check that fails, blocks on a granule that an engine owns, and otherwise has the
bytes at EA, extended, in flight with latency 6; without its guard bit, and NOP of the slot (R91), it has no effect. -/
def Obligations.ScratchpadLoads : Prop :=
  ∀ (s s' : State) (len : Nat) (f : LF) (i : Instr) (n : Nat) (signed : Bool),
    (i, n, signed) ∈ [(Instr.ldsS8 f, 1, true), (Instr.ldsN8 f, 1, false), (Instr.ldsS16 f, 2, true), (Instr.ldsN16 f, 2, false), (Instr.ldsS32 f, 4, true),
      (Instr.ldsN32 f, 4, false), (Instr.ldsB64 f, 8, false)] →
    let a := s.eaOf f
    let cl := clusterOf s.focus
    let x := leNat (getBytes (s.cluster cl).bytes a n)
    SGives s (.lNop f) s' len s.me
    ∧ (s.guardOn f = false → SGives s i s' len s.me)
    ∧ (s.guardOn f = true → Ready s i s' len →
      (∀ c, s.spadCheck s.focus a n n = some c → Traps s i s' c 0 a)
      ∧ (s.spadCheck s.focus a n n = none →
        (s.engineOwned cl a n = true → ∃ ws, Blocks s i s' ws)
        ∧ (s.engineOwned cl a n = false → s.spadPoisoned cl a n = false →
          Flies s i len .x (f.reg.setWidth 6).toNat (if signed then toBits 64 (sext (8 * n) x) else x) 6 0)))

/-- R123, R126, R216, R221: a scratchpad store under its guard traps by the first check that fails, and otherwise withholds the low bytes of its data operand at
EA; no byte of memory changes before its region commits. -/
def Obligations.ScratchpadStores : Prop :=
  ∀ (s s' : State) (len : Nat) (f : LF) (i : Instr) (n : Nat),
    (i, n) ∈ [(Instr.stsB8 f, 1), (Instr.stsB16 f, 2), (Instr.stsB32 f, 4), (Instr.stsB64 f, 8)] →
    let a := s.eaOf f
    let e := s.acting i s' len
    (s.guardOn f = false → SGives s i s' len s.me)
    ∧ (s.guardOn f = true → e.portOk f → Ready s i s' len →
      (∀ c, s.spadStoreCheck s.focus a n n = some c → Traps s i s' c 0 a)
      ∧ (s.spadStoreCheck s.focus a n n = none → Withholds s i len [{ loc := .spad (clusterOf s.focus) a, bytes := leBytes n (e.dataOf f), slot := e.slot }]))

/-- R213, R217 to R219: the vector, strided and gathered loads and stores: each active 32-bit lane is read from, or its store withheld at, its own address; an
inactive lane of a load keeps its value or becomes zero, and of a store writes nothing. -/
def Obligations.ScratchpadVectorAccess : Prop :=
  ∀ (s s' : State) (len : Nat) (f : LF),
    let a := s.eaOf f
    let cl := clusterOf s.focus
    let r := f.reg.toNat
    let act (j : Nat) : Bool := (s.me.rp f.g.toNat).getLsbD j
    let on := (List.range 128).filter act
    let mem (a : Nat) : Nat := leNat (getBytes (s.cluster cl).bytes a 4)
    let old (j : Nat) : Nat := laneOf 32 (s.me.rv r).toNat j
    let loads (i : Instr) (addr : Nat → Nat) : Prop := ∃ val, Flies s i len .v r val 8 0
      ∧ ∀ j, j < 128 → laneOf 32 val j = if act j then mem (addr j) else if f.opx then 0 else old j
    let ok (addr : Nat → Nat) : Prop := ∀ j ∈ on, s.spadCheck s.focus (addr j) 4 4 = none ∧ s.engineOwned cl (addr j) 4 = false ∧ s.spadPoisoned cl (addr j) 4 = false
    let okSt (addr : Nat → Nat) : Prop := ∀ j ∈ on, s.spadStoreCheck s.focus (addr j) 4 4 = none
    let strided (j : Nat) : Nat := toBits 64 (((s.me.rx f.xbase.toNat).toNat : Int) + (j : Int) * f.off.toInt)
    let put (i : Instr) (addr : Nat → Nat) : PStore → Nat → Prop := fun p j =>
      p = { loc := .spad cl (addr j), bytes := leBytes 4 (old j), slot := (aloneSlot i s.frame.second).1 }
    r + 1 < (s.strand s.focus).bank →
    (on = [] → f.opx = false → SGives s (.ldsv f) s' len s.me ∧ SGives s (.ldsvs f) s' len s.me ∧ SGives s (.gather f) s' len s.me)
    ∧ ((on ≠ [] ∨ f.opx = true) → s.spadCheck s.focus a 512 512 = none → s.engineOwned cl a 512 = false → s.spadPoisoned cl a 512 = false →
        Ready s (.ldsv f) s' len → loads (.ldsv f) fun j => a + 4 * j)
    ∧ (f.bpd = false → s.spadCheck s.focus a 512 512 = none → s.spadStoreCheck s.focus a 512 4 = none → Ready s (.stsv f) s' len →
        Withholds s (.stsv f) len ((laneRuns on).map fun q =>
          { loc := .spad cl (a + 4 * q.1), bytes := ((leBytes 512 (s.me.rv r).toNat).drop (4 * q.1)).take (4 * q.2)
            slot := (aloneSlot (.stsv f) s.frame.second).1 }))
    ∧ ((on ≠ [] ∨ f.opx = true) → f.off.toNat % 4 = 0 → ok strided → Ready s (.ldsvs f) s' len → loads (.ldsvs f) strided)
    ∧ (f.off.toNat % 4 = 0 → okSt strided → Ready s (.stsvs f) s' len →
        ∃ ps, Withholds s (.stsvs f) len ps ∧ List.Forall₂ (put (.stsvs f) strided) ps on)
    ∧ (let at_ (j : Nat) : Nat := (a + old j) % 2 ^ 64
       (on ≠ [] ∨ f.opx = true) → ok at_ → Ready s (.gather f) s' len → loads (.gather f) at_)
    ∧ (let at_ (j : Nat) : Nat := (a + laneOf 32 (s.me.rv (r + 1)).toNat j) % 2 ^ 64
       okSt at_ → Ready s (.scatter f) s' len → ∃ ps, Withholds s (.scatter f) len ps ∧ List.Forall₂ (put (.scatter f) at_) ps on)

/-- R220, R213, R25: a global load under its guard traps ALIGN, faults as its translation or its read does, and otherwise reads the bytes at EA and waits, after
issue, with the extended value as the result of its wait. R286: a mill strand's load of a register reads the register; R369, R414: a load of a remote page asks
the page's home and waits for its answer. -/
def Obligations.GlobalLoads : Prop :=
  ∀ (s s' : State) (len : Nat) (f : LF),
    let a := s.eaOf f
    (∀ (i : Instr) (n : Nat) (signed : Bool),
      (i, n, signed) ∈ [(Instr.ldgS8 f, 1, true), (Instr.ldgN8 f, 1, false), (Instr.ldgS16 f, 2, true), (Instr.ldgN16 f, 2, false), (Instr.ldgS32 f, 4, true),
        (Instr.ldgN32 f, 4, false), (Instr.ldgB64 f, 8, false)] →
      let u := s.base i s'
      (s.guardOn f = false → Ready s i s' len → Acts s i s' len {})
      ∧ (s.guardOn f = true → Ready s i s' len →
        (a % n ≠ 0 → Traps s i s' cAlign 0 a)
        ∧ (a % n = 0 →
          (∀ g, u.place s.focus a .read = .error g → Faults s i s' g 0)
          ∧ (∀ pl u', u.place s.focus a .read = .ok (pl, u') → ((∃ pa k, pl.loc = .hbm pa k) ∨ ∃ pa, pl.loc = .phys pa) →
            (∀ g, u.readPlace pl n = .error g → Faults s i s' g 0)
            ∧ ∀ bs, u.readPlace pl n = .ok bs → Acts s i s' len
              { waits := [.resp], resp := [wr .x (f.reg.setWidth 6).toNat (if signed then toBits 64 (sext (8 * n) (leNat bs)) else leNat bs) 1]
                early := fun t => (t.touch s.focus a .read).charge s.focus pl n .read })
          ∧ (∀ pl u' c, u.place s.focus a .read = .ok (pl, u') → pl.loc = .ctrl c → Acts s i s' len
              { waits := [.resp]
                resp := [wr .x (f.reg.setWidth 6).toNat (if signed then toBits 64 (sext (8 * n) (leNat (u.regRead c n))) else leNat (u.regRead c n)) 1] })
          ∧ ∀ pl u' home pa key, u.place s.focus a .read = .ok (pl, u') → pl.loc = .remote home pa key → u.reachable home = true →
              let e := s.acting i s' len
              let r := (f.reg.setWidth 6).toNat
              Acts s i s' len
              { waits := e.reachWaits 1, resp := [wr .x r 0 1]
                early := fun t => (t.touch s.focus a .read).sendAll (dieOf s.focus) [e.readReq home key pa a n r 0 (if signed then n else 0)] })))
    ∧ (let i := Instr.ldgv f
       let u := s.base i s'
       let e := s.acting i s' len
       f.reg.toNat < (s.strand s.focus).bank → (∃ j, j < 128 ∧ (s.me.rp f.g.toNat).getLsbD j = true) → a % 512 = 0 → Ready s i s' len →
       ∀ pl u' bs, u.place s.focus a .read = .ok (pl, u') → ((∃ pa k, pl.loc = .hbm pa k) ∨ ∃ pa, pl.loc = .phys pa) → e.readSectors f pl = .ok bs →
        ∃ val, (∀ j, j < 128 → laneOf 32 val j = if (s.me.rp f.g.toNat).getLsbD j then laneOf 32 (leNat bs) j else if f.opx then 0
            else laneOf 32 (s.me.rv f.reg.toNat).toNat j)
          ∧ Acts s i s' len { waits := [.resp], resp := [wr .v f.reg.toNat val 1]
                              early := fun t => (e.activeSectors f).foldl (fun t k => t.charge s.focus (pl.plus (128 * k)) 128 .read) (t.touch s.focus a .read) })

/-- R221, R73: a global store under its guard withholds the low bytes of its data operand at the place of EA, told by its virtual address where the translation is
still to be made; no byte of memory changes before its region commits. -/
def Obligations.GlobalStores : Prop :=
  ∀ (s s' : State) (len : Nat) (f : LF),
    let a := s.eaOf f
    (∀ (i : Instr) (n : Nat), (i, n) ∈ [(Instr.stgB8 f, 1), (Instr.stgB16 f, 2), (Instr.stgB32 f, 4), (Instr.stgB64 f, 8)] →
      let e := s.acting i s' len
      (s.guardOn f = false → SGives s i s' len s.me)
      ∧ (s.guardOn f = true → e.portOk f → Ready s i s' len →
        (a % n ≠ 0 → Traps s i s' cAlign 0 a)
        ∧ (a % n = 0 → isMill s.focus = false → a < 2 ^ 48 → s'.tlbHit (s.mcxOf s.focus) a = none →
            Withholds s i len [{ loc := .phys 0, pend := some a, bytes := leBytes n (e.dataOf f), slot := e.slot, ea := a }])
        ∧ (a % n = 0 → (isMill s.focus = true ∨ (s'.tlbHit (s.mcxOf s.focus) a).isSome = true) →
            ∀ pl u', s'.place s.focus a .write = .ok (pl, u') → ((∃ pa k, pl.loc = .hbm pa k) ∨ ∃ pa, pl.loc = .phys pa) →
              Withholds s i len [{ loc := pl.loc, bytes := leBytes n (e.dataOf f), slot := e.slot, ea := a, cache := pl.cache }])))
    ∧ (let i := Instr.stgv f
       let e := s.acting i s' len
       f.bpd = false → f.reg.toNat < (s.strand s.focus).bank → a % 512 = 0 → Ready s i s' len →
       (isMill s.focus = true ∨ (s'.tlbHit (s.mcxOf s.focus) a).isSome = true) → (e.lactive f).isEmpty = false →
       ∀ pl u', s'.place s.focus a .write = .ok (pl, u') → ((∃ pa k, pl.loc = .hbm pa k) ∨ ∃ pa, pl.loc = .phys pa) →
        Withholds s i len ((laneRuns (e.lactive f)).map fun q =>
          { loc := pl.loc.plus (4 * q.1), bytes := ((leBytes 512 (s.me.rv f.reg.toNat).toNat).drop (4 * q.1)).take (4 * q.2), slot := e.slot, ea := a + 4 * q.1
            cache := pl.cache }))

/-- R73, R337, R126: what a strand's later loads see of a store that it withholds, wherever it goes: the scratchpad, global memory placed or told by its virtual
address, and the physical memory of a mill strand; LDS and LDG read through them. What the commit of a region does: its translations complete, its stores are
performed in program order, so that each byte of the scratchpad and of the HBM holds what the last store to it wrote and every other byte what it held, held
copies may start, and the rollback point moves. (What a sector of the HBM is stored under: R388; that a store under another key than its sector's fails there,
and is no part of this: notes/assumptions/3.md.) -/
def Obligations.StoresSeenAndCommitted : Prop :=
  (∀ (q : PStore) (l : Loc) (ea : Nat),
     let seen (d : Int) : Prop := ∀ (ps : List PStore) (bs : List Byte) (j : Nat), j < bs.length →
       (overlay (ps ++ [q]) l ea bs)[j]? = if d ≤ j ∧ (j : Int) < d + q.bytes.length then q.bytes[((j : Int) - d).toNat]? else (overlay ps l ea bs)[j]?
     let hidden : Prop := ∀ (ps : List PStore) (bs : List Byte), overlay (ps ++ [q]) l ea bs = overlay ps l ea bs
     (∀ cl a b, q.pend = none → q.loc = .spad cl a → l = .spad cl b → seen ((a : Int) - b))
     ∧ (∀ a k b k', q.pend = none → q.loc = .hbm a k → l = .hbm b k' → seen ((a : Int) - b))
     ∧ (∀ a b, q.pend = none → q.loc = .phys a → l = .phys b → seen ((a : Int) - b))
     ∧ (∀ h a k b k', q.pend = none → q.loc = .remote h a k → l = .remote h b k' → seen ((a : Int) - b))
     ∧ (∀ v, q.pend = some v → ((∃ b k, l = .hbm b k) ∨ ∃ h b k, l = .remote h b k) → seen ((v : Int) - ea))
     ∧ (∀ cl a, q.pend = none → q.loc = .spad cl a → (∀ b, l ≠ .spad cl b) → hidden)
     ∧ (∀ cl b, l = .spad cl b → (q.pend ≠ none ∨ ∀ c a, q.loc ≠ .spad c a) → hidden))
  ∧ (∀ (f : LF) (e : Env), e.guardBit f.g 0 = true →
       (e.s.spadCheck e.sid (e.ea f) 8 8 = none → e.engWaits (e.ea f) 8 = [] → e.s.spadPoisoned e.cl (e.ea f) 8 = false →
         fxLdsB64 f e = .ok { writes := [wr .x (f.reg.toNat % 64)
           (leNat (overlay e.t.stores (.spad e.cl (e.ea f)) (e.ea f) (getBytes (e.s.cluster e.cl).bytes (e.ea f) 8))) 6] })
       ∧ ∀ pl u bs, e.ea f % 8 = 0 → e.s.place e.sid (e.ea f) .read = .ok (pl, u) → ((∃ pa k, pl.loc = .hbm pa k) ∨ ∃ pa, pl.loc = .phys pa) →
           e.s.readPlace pl 8 = .ok bs → ∃ fx, fxLdgB64 f e = .ok fx ∧ fx.waits = [.resp]
             ∧ fx.resp = [wr .x (f.reg.toNat % 64) (leNat (overlay e.t.stores pl.loc (e.ea f) bs)) 1])
  ∧ (∀ (s : State) (sid v : Nat) (done : List PStore) (q : PStore), q.pend = some v →
       (∀ g, s.place sid v .write = .error g → s.resolveStore sid done q = .error g)
       ∧ ∀ pl u, s.place sid v .write = .ok (pl, u) → (∀ h a k, pl.loc ≠ .remote h a k) →
           (∀ g, s.storeFault (s.mcxOf sid) done q pl.loc = some g → s.resolveStore sid done q = .error g)
           ∧ (s.storeFault (s.mcxOf sid) done q pl.loc = none → s.resolveStore sid done q = .ok ({ q with loc := pl.loc, pend := none, cache := pl.cache }, u)))
  ∧ (∀ (s u : State) (sid : Nat) (qs : List PStore), s.resolveStores sid (s.strand sid).stores = .ok (qs, u) →
       u.hbm = s.hbm ∧ u.sects = s.sects ∧ u.clusters = s.clusters ∧ u.strands = s.strands ∧ u.copies = s.copies ∧ u.agenda = s.agenda)
  ∧ ∀ (s u : State) (sid K : Nat) (qs : List PStore), s.resolveStores sid (s.strand sid).stores = .ok (qs, u) →
      let sector (n : Nat) : Prop := ∃ q ∈ qs, ∃ a, q.loc = .hbm a K ∧ n ∈ sectorsOf a q.bytes.length
      (∀ q ∈ qs, (∃ cl a, q.loc = .spad cl a) ∨ (∃ a, q.loc = .phys a) ∨ ∃ a, q.loc = .hbm a K) →
      (∀ n, sector n → u.otherTag n K = false ∧ (((u.sect n).live = true → (u.sect n).key = K ∧ (u.sect n).kmac = u.kmac K)
        ∨ ∀ q ∈ qs, ∀ a, q.loc = .hbm a K → n ∈ sectorsOf a q.bytes.length → a ≤ 128 * n ∧ 128 * n + 128 ≤ a + q.bytes.length)) →
      let last (off : Loc → Option Nat) (j : Nat) (old : Byte) : Byte :=
        match qs.reverse.find? fun q => (off q.loc).any fun a => decide (a ≤ j ∧ j < a + q.bytes.length) with
        | some q => q.bytes.getD (j - (off q.loc).getD 0) 0
        | none => old
      ∃ t, s.commitRegion sid = .ok t
        ∧ t.strand sid = { u.strand sid with nBund := 0, reelAt := none, undo := [], stores := [], heldCopies := [] }
        ∧ (∀ j, j ≠ sid → t.strand j = u.strand j) ∧ t.agenda = u.agenda
        ∧ (∀ c ∈ (u.strand sid).heldCopies, t.copyJob c = (u.copyJob c).map fun j => { j with phase := .waiting })
        ∧ (∀ cl j, mget 0 (t.cluster cl).bytes j =
            last (fun l => match l with | .spad c a => if c = cl then some a else none | _ => none) j (mget 0 (u.cluster cl).bytes j))
        ∧ ((∀ q ∈ qs, ∀ a, q.loc ≠ .phys a) →
            (∀ a, ((sector (a / 128) → mget 0 t.hbm a = last (fun l => match l with | .hbm b _ => some b | _ => none) a (u.plainByte K a))
              ∧ (¬ sector (a / 128) → mget 0 t.hbm a = mget 0 u.hbm a)))
            ∧ ∀ n, (sector n → t.sect n = { live := true, key := K, kxts := u.kxts K, kmac := u.kmac K }) ∧ (¬ sector n → t.sect n = u.sect n))
        ∧ ((∀ q ∈ qs, ∀ a, q.loc ≠ .hbm a K) → ∀ a, t.physByte a = last (fun l => match l with | .phys b => some b | _ => none) a (u.physByte a))

/-- R222, R223: an atomic on the scratchpad, or on local global memory, writes the new value at once and waits, after issue, with the old value as its result
unless its operand is the port's; ACAS writes x[REG + 1] only where the word equals x[REG]. R148, R149: on the word of a sync object it acquires and releases:
it checks and sets the word's tag, once the strand's remote writes have been answered. -/
def Obligations.Atomics : Prop :=
  ∀ (s s' : State) (len : Nat) (f : LF) (i : Instr) (op : Word → Word → Word),
    (i, op) ∈ [(Instr.aadd f, fun a b => a + b), (Instr.asmin f, fun a b => if a.sle b then a else b), (Instr.anmin f, fun a b => if a ≤ b then a else b),
      (Instr.asmax f, fun a b => if a.sle b then b else a), (Instr.anmax f, fun a b => if a ≤ b then b else a), (Instr.aand f, fun a b => a &&& b),
      (Instr.aor f, fun a b => a ||| b), (Instr.axor f, fun a b => a ^^^ b), (Instr.aswap f, fun _ b => b)] →
    let a := s.eaOf f
    let u := s.base i s'
    let e := s.acting i s' len
    let scope := u.scopeAt s.focus f.scope.toNat
    let r := (f.reg.setWidth 6).toNat
    let does (i : Instr) (pl : Place) (sync : Bool) (old : Nat) (new : Option Word) (quiet : Bool) : Prop := (sync = true → u.remotePending s.focus = false) → Acts s i s' len
      { waits := [.resp], firm := true, resp := if quiet then [] else [wr .x r old 1]
        core := fun c => c.stick (if sync && scopeMiss s.focus scope (u.relTag pl.loc old) then stScopeMiss else 0)
        early := fun t =>
          let t := if f.opx then t else t.touch s.focus a .write
          let t := match new with
            | none => t
            | some v =>
              let t := (t.writeLoc pl.loc (leBytes 8 v.toNat)).toOption.getD t
              if sync then t.setTag s.focus scope pl.loc v.toNat else t
          t.charge s.focus pl 8 .atomic }
    (s.guardOn f = false → Ready s i s' len → Acts s i s' len {})
    ∧ (s.guardOn f = true → e.portOk f → Ready s i s' len →
      (a % 8 ≠ 0 → Traps s i s' cAlign 0 a)
      ∧ (a % 8 = 0 → f.opx = true → s.spadStoreCheck s.focus a 8 8 = none → s.spadPoisoned (clusterOf s.focus) a 8 = false →
          let old := leNat (getBytes (s.cluster (clusterOf s.focus)).bytes a 8)
          does i { loc := .spad (clusterOf s.focus) a, ea := a } (!isMill s.focus && u.isSync (s.mcxOf s.focus) true a) old (some (op (BitVec.ofNat 64 old) (BitVec.ofNat 64 (e.dataOf f)))) f.bpd)
      ∧ (a % 8 = 0 → f.opx = false → ∀ pl u' bs, u.place s.focus a .write = .ok (pl, u') → ((∃ pa k, pl.loc = .hbm pa k) ∨ ∃ pa, pl.loc = .phys pa) →
          u.readPlace pl 8 = .ok bs →
          does i pl (!isMill s.focus && u.isSync (s.mcxOf s.focus) false a) (leNat bs)
            (some (op (BitVec.ofNat 64 (leNat bs)) (BitVec.ofNat 64 (e.dataOf f)))) f.bpd))
    ∧ (s.guardOn f = true → r % 2 = 0 → a % 8 = 0 → f.opx = true → Ready s (.acas f) s' len → s.spadStoreCheck s.focus a 8 8 = none →
        s.spadPoisoned (clusterOf s.focus) a 8 = false →
        let old := leNat (getBytes (s.cluster (clusterOf s.focus)).bytes a 8)
        does (.acas f) { loc := .spad (clusterOf s.focus) a, ea := a } (!isMill s.focus && u.isSync (s.mcxOf s.focus) true a) old
          (if BitVec.ofNat 64 old = s.me.rx r then some (s.me.rx (r + 1)) else none) f.bpd)

/-- R147, R149, R150, R224 to R226, R286: ACQ waits, after issue, for its sync object's word to reach the threshold in x[REG]; REL writes the word, tags it, and
waits; FENCE waits for the strand's writes, and FENCE.strand for nothing. A mill strand has no sync table: ACQ and REL trap ILLEGAL there. -/
def Obligations.AcquireReleaseFence : Prop :=
  ∀ (s s' : State) (len : Nat) (f : LF),
    let n := s.eaOf f
    let m := s.mcxOf s.focus
    let cl := clusterOf s.focus
    let r := (f.reg.setWidth 6).toNat
    (isMill s.focus = true → (Alone s (.acq f) s' len → Traps s (.acq f) s' cIllegal) ∧ (Alone s (.rel f) s' len → Traps s (.rel f) s' cIllegal))
    ∧ (isMill s.focus = false → s.guardOn f = true →
      (let u := s.base (.acq f) s'
       let d0 := u.syncD0 m n
       Ready s (.acq f) s' len → (u.syncCount m ≤ n → Traps s (.acq f) s' cIllegal)
       ∧ (n < u.syncCount m → bitOf d0 48 = true → u.spadCheck s.focus (d0 % 2 ^ 48) 8 8 = none → u.engineOwned cl (d0 % 2 ^ 48) 8 = false →
          u.spadPoisoned cl (d0 % 2 ^ 48) 8 = false → Acts s (.acq f) s' len
            { waits := [.acq (.spad cl (d0 % 2 ^ 48)) (d0 % 2 ^ 48) (s.me.rx r).toNat r (u.scopeAt s.focus f.scope.toNat)], resp := [wr .x r 0 1] })
       ∧ ∀ pl u' bs, n < u.syncCount m → bitOf d0 48 = false → u.place s.focus (d0 % 2 ^ 48) .read = .ok (pl, u') → (∃ pa k, pl.loc = .hbm pa k) →
          u.readPlace pl 8 = .ok bs → Acts s (.acq f) s' len
            { waits := [.acq pl.loc (d0 % 2 ^ 48) (s.me.rx r).toNat r (u.scopeAt s.focus f.scope.toNat)], resp := [wr .x r 0 1]
              early := fun t => t.touch s.focus (d0 % 2 ^ 48) .read })
      ∧ (let u := s.base (.rel f) s'
         let e := s.acting (.rel f) s' len
         let d0 := u.syncD0 m n
         let does (l : Loc) (touch : State → State) : Prop := Acts s (.rel f) s' len
          { waits := [.resp], firm := true
            early := fun t => (touch t).release s.focus (u.scopeAt s.focus f.scope.toNat) l (d0 % 2 ^ 48) (e.dataOf f) }
         Ready s (.rel f) s' len → e.portOk f → n < u.syncCount m → u.remotePending s.focus = false →
         (bitOf d0 48 = true → u.spadStoreCheck s.focus (d0 % 2 ^ 48) 8 8 = none → u.spadPoisoned cl (d0 % 2 ^ 48) 8 = false → does (.spad cl (d0 % 2 ^ 48)) id)
         ∧ ∀ pl u' bs, bitOf d0 48 = false → u.place s.focus (d0 % 2 ^ 48) .write = .ok (pl, u') → (∃ pa k, pl.loc = .hbm pa k) → u.readPlace pl 8 = .ok bs →
            does pl.loc fun t => t.touch s.focus (d0 % 2 ^ 48) .write)
      ∧ ∀ (t t' : State) (sid ea v : Nat) (sc : ScopeAt) (l : Loc),
          t.storeFault (t.mcxOf sid) [] { loc := l, bytes := leBytes 8 v, ea := ea } l = none → t.writeLoc l (leBytes 8 v) = .ok t' →
          t.release sid sc l ea v = (t'.setTag sid sc l v).charge sid { loc := l, ea := ea, cache := t.cacheOf sid ea } 8 .write)
    ∧ (Ready s (.fence f) s' len → (s.guardOn f = false ∨ f.scope = 0 → Acts s (.fence f) s' len {})
        ∧ (s.guardOn f = true → f.scope ≠ 0 → Acts s (.fence f) s' len { waits := [.fence] }))

/-- R131, R132, R227, R228: BARINIT arms a barrier object with its expected bytes and arrivals; BARARV arrives once; BARWAIT blocks while the barrier is armed in
the phase it names, and then gives W3 ++ W0. -/
def Obligations.Barriers : Prop :=
  ∀ (s s' : State) (len : Nat) (f : LF), s.guardOn f = true →
    let a := s.eaOf f
    let cl := clusterOf s.focus
    let r := (f.reg.setWidth 6).toNat
    let x := (s.me.rx r).toNat
    let c := s.cluster cl
    (Ready s (.barinit f) s' len →
      (∀ k, s.barCheck s.focus a = some k → Traps s (.barinit f) s' k 0 a)
      ∧ (s.barCheck s.focus a = none → x / 2 ^ 28 % 2 ^ 4 = 0 → x / 2 ^ 48 = 0 → (c.mark a).armed = false → s.engineOwned cl a 16 = false → s.spadPoisoned cl a 16 = false →
          Acts s (.barinit f) s' len { early := fun t => t.barInit s.focus a x (if isMill s.focus then 0 else (s.strand s.focus).scope) })
      ∧ (s.barCheck s.focus a = none → (x / 2 ^ 28 % 2 ^ 4 ≠ 0 ∨ x / 2 ^ 48 ≠ 0) → Traps s (.barinit f) s' cIllegal)
      ∧ (s.barCheck s.focus a = none → x / 2 ^ 28 % 2 ^ 4 = 0 → x / 2 ^ 48 = 0 → ((c.mark a).armed = true ∨ s.engineOwned cl a 16 = true) →
          Traps s (.barinit f) s' cOwner 0 a))
    ∧ (Ready s (.bararv f) s' len → s.barCheck s.focus a = none →
        ((c.mark a).armed = false → Traps s (.bararv f) s' cOwner 0 a)
        ∧ ((c.mark a).armed = true → s.engineOwned cl a 16 = false → s.spadPoisoned cl a 16 = false → Acts s (.bararv f) s' len
            { firm := true
              post := fun t => if t.remotePending s.focus then t.updStrand s.focus fun t => { t with arvPend := t.arvPend ++ [(cl, a)] }
                else t.updCluster cl fun c => c.barArrive a }))
    ∧ (Ready s (.barwait f) s' len → s.barCheck s.focus a = none →
        ((c.mark a).armed = true → c.barPhase a = f.opx → Blocks s (.barwait f) s' [.barrier cl a f.opx])
        ∧ (((c.mark a).armed = false ∨ c.barPhase a ≠ f.opx) → s.spadPoisoned cl a 16 = false → GivesX s (.barwait f) s' len r (BitVec.ofNat 64 (c.barW a 0 + c.barW a 3 * 2 ^ 32))))
    ∧ ∀ (c : Cluster) (expect arv scope : Nat), a % 16 = 0 → expect < 2 ^ 28 → arv < 2 ^ 16 → scope < 2 ^ 32 → mwf 0 c.bytes = true →
        let c' := c.barInit a (expect + arv * 2 ^ 32) scope
        c'.barW a 1 = expect ∧ c'.barW a 2 = arv + arv * 2 ^ 16 ∧ c'.barW a 3 = scope
        ∧ c'.barW a 0 = expect + (if expect = 0 ∧ arv = 0 then 0 else 2 ^ 31) ∧ ((c'.mark a).armed = true ↔ expect ≠ 0 ∨ arv ≠ 0)

/-- R128, R129, R232, R238: BOBINIT makes a bobbin of EMPTY slots over owned FIFO banks, BOBPOP claims the FULL slot at TAIL or blocks, BOBREL empties a DRAINING
slot, BOBSTAT gives the state word, and BANKMODE asks for a transition and waits for it. -/
def Obligations.BobbinsAndBankModes : Prop :=
  ∀ (s s' : State) (len : Nat) (f : LF), s.guardOn f = true →
    let b := s.eaOf f
    let cl := clusterOf s.focus
    let c := s.cluster cl
    let r := (f.reg.setWidth 6).toNat
    let x := (s.me.rx r).toNat
    (b < 32 → s.ownsBank s.focus b = true →
      (∀ o, c.bobbin b = some o →
        (Ready s (.bobpop f) s' len →
          (o.tag o.tail ≠ .full → Blocks s (.bobpop f) s' [.bobbin cl b 0])
          ∧ (o.tag o.tail = .full → Acts s (.bobpop f) s' len
              { writes := [wr .x r (b * 2 ^ 18 + o.tail * o.slotBytes) 6], early := fun t => t.updCluster cl fun c => c.setBobbin b (some (o.pop s.focus)) }))
        ∧ (Ready s (.bobstat f) s' len → Flies s (.bobstat f) len .x r (o.count .empty + o.count .full * 2 ^ 9 + o.head * 2 ^ 18 + o.tail * 2 ^ 26
            + o.slotsm1 * 2 ^ 34 + o.slotlog * 2 ^ 42 + o.banksm1 * 2 ^ 45) 6 0))
      ∧ (c.bobbin b = none → (Ready s (.bobpop f) s' len → Traps s (.bobpop f) s' cSpBound 0 b) ∧ (Ready s (.bobstat f) s' len → Traps s (.bobstat f) s' cSpBound 0 b))
      ∧ (let slotsm1 := x % 2 ^ 8
         let slotlog := x / 2 ^ 8 % 8
         let banksm1 := x / 2 ^ 11 % 32
         slotlog ≠ 7 → x < 2 ^ 16 → (slotsm1 + 1) * (1024 * 2 ^ slotlog) ≤ (banksm1 + 1) * 2 ^ 18 →
         (∀ k, b ≤ k → k ≤ b + banksm1 → k < 32 ∧ s.ownsBank s.focus k = true ∧ (c.bank k).mode = .fifo ∧ c.bobbinOf k = none) →
         let o : Bobbin := { slotsm1 := slotsm1, slotlog := slotlog, banksm1 := banksm1, tags := List.replicate (slotsm1 + 1) .empty }
         Ready s (.bobinit f) s' len → Acts s (.bobinit f) s' len { early := fun t => t.updCluster cl fun c => c.setBobbin b (some o) })
      ∧ (let m := (f.reg.setWidth 2).toNat
         let u := s.base (.bankmode f) s'
         (isMill s.focus = true → Ready s (.bankmode f) s' len → Traps s (.bankmode f) s' cSpBound 0 b)
         ∧ (isMill s.focus = false → (∀ t ∈ c.trans, t.2.1 ≠ b) → Ready s (.bankmode f) s' len →
         (u.transOk cl b (modeOf m) = false → Traps s (.bankmode f) s' cOwner 0 b)
         ∧ (u.transOk cl b (modeOf m) = true → (c.bank b).mode = modeOf m → Acts s (.bankmode f) s' len {})
         ∧ (u.transOk cl b (modeOf m) = true → (c.bank b).mode ≠ modeOf m → Acts s (.bankmode f) s' len
              { waits := [.bankmode cl b m], firm := true
                early := fun t => t.updCluster cl fun c => { c with trans := c.trans ++ [(s.focus, b, m + 4 * (aloneSlot (.bankmode f) s.frame.second).1)] } }))))
    ∧ (∀ first o k, b < 2 ^ 23 → s.ownsBank s.focus (b / 2 ^ 18) = true → c.slotAt b = some (first, o, k) → b = first * 2 ^ 18 + k * o.slotBytes →
        Ready s (.bobrel f) s' len →
        let o' : Bobbin := { o.setTag k .empty with owner := mset 0 o.owner k 0 }
        (o.tag k = .draining → Acts s (.bobrel f) s' len { early := fun t => t.updCluster cl fun c => c.setBobbin first (some o') })
        ∧ (o.tag k ≠ .draining → Traps s (.bobrel f) s' cOwner 0 b))

/-! ## Units that a strand asks -/

/-- R229 to R231, R136, R126: COPYLD reads a descriptor of 32 bytes into a d register; COPYGO checks its descriptors, layout records, whose reads are charged
(`a1`, `a2`), barrier, ranges and granules in order, takes its granules and holds the copy until its region commits, blocks on a full channel, and without any element has no effect; DRAIN waits for the
copies issued earlier on its channel. -/
def Obligations.CopyInstructions : Prop :=
  ∀ (s s' : State) (len : Nat) (f : LF), s.guardOn f = true →
    (let i := Instr.copyld f
     let a := s.eaOf f
     let cl := clusterOf s.focus
     let n := (f.reg.setWidth 3).toNat
     f.opx = true → Ready s i s' len → s.spadCheck s.focus a 32 32 = none → s.engineOwned cl a 32 = false → s.spadPoisoned cl a 32 = false →
       Flies s i len .d n (leNat (getBytes (s.cluster cl).bytes a 32)) 8 0)
    ∧ (let i := Instr.copyld f
     let a := s.eaOf f
     let u := s.base i s'
     let n := (f.reg.setWidth 3).toNat
     Ready s i s' len → a % 32 = 0 → ∀ pl u' bs, u.place s.focus a .read = .ok (pl, u') → ((∃ pa k, pl.loc = .hbm pa k) ∨ ∃ pa, pl.loc = .phys pa) →
       f.opx = false → u.readPlace pl 32 = .ok bs → Acts s i s' len
        { waits := [.resp], resp := [wr .d n (leNat bs) 1], early := fun t => (t.touch s.focus a .read).charge s.focus pl 32 .read })
    ∧ (∀ (i : Instr) (bar : Option Nat), (i, bar) ∈ [(Instr.copygo f, some (s.eaOf f)), (Instr.copygoNobar f, none)] → Ready s i s' len →
        let e := s.acting i s' len
        let src := mget 0 s.me.d (f.reg.toNat % 8)
        let dst := mget 0 s.me.d (f.reg.toNat / 8 % 8)
        let ch := f.reg.toNat / 64 % 4
        (2 ≤ dSpace src ∨ dSpace dst = 3 ∨ descOk src = false ∨ descOk dst = false → Traps s i s' cLayout)
        ∧ ∀ (sr dr : List Word) (a1 a2 : State → State), dSpace src < 2 → dSpace dst ≠ 3 → descOk src = true → descOk dst = true →
          (∀ k, e.layoutRec src k = (k sr).also a1) → (∀ k, e.layoutRec dst k = (k dr).also a2) →
          (e.s.layoutOk s.focus src dst sr dr = false → Traps s i s' cLayout)
          ∧ (e.s.layoutOk s.focus src dst sr dr = true →
            (∀ c a, e.copyBar bar = some (c, a) → Traps s i s' c 0 a)
            ∧ (e.copyBar bar = none → ∀ a, e.copyBound src dst sr dr = some a → Traps s i s' cSpBound 0 a)
            ∧ (e.copyBar bar = none → e.copyBound src dst sr dr = none →
              (∀ a, e.copyOwned dst dr = some a → Traps s i s' cOwner 0 a)
              ∧ (e.copyOwned dst dr = none →
                (dCount dst = 0 → Acts s i s' len { early := fun t => a1 (a2 t) })
                ∧ (dCount dst ≠ 0 → 16 ≤ (s.channelCopies s.focus ch).length → Blocks s i s' [.chan ch])
                ∧ (dCount dst ≠ 0 → (s.channelCopies s.focus ch).length < 16 → Acts s i s' len
                  { early := fun t => a1 (a2 (t.holdCopy { id := 0, sid := s.focus, mcx := s.mcxOf s.focus, mill := isMill s.focus, cl := clusterOf s.focus, ch := ch
                                                           src := src, dst := dst, srec := sr, drec := dr, bar := bar, todo := copyTodo dst dr }
                                                         (dstGrans dst dr))) })))))
    ∧ (let i := Instr.drain f
       let ch := (f.reg.setWidth 2).toNat
       Ready s i s' len → (s.channelCopies s.focus ch = [] → Acts s i s' len {}) ∧ (s.channelCopies s.focus ch ≠ [] → Acts s i s' len { waits := [.drain ch] }))

/-- R45 to R50, R234, R235, R237: the whorl requests of a group's strand: SPAWN queues a task of a dynamic node, or gives the status that refuses it;
SCOPENEW creates a scope below the strand's own (the least free id: the model's choice, notes/assumptions/55.md); RANGENEXT takes a chunk of the activation's
range; each answers after 32 cycles. R213, R286: in a mill strand, which has no tile group, every one of these codes traps ILLEGAL. -/
def Obligations.WhorlRequests : Prop :=
  (∀ (s s' : State) (len : Nat) (f : LF) (i : Instr), isMill s.focus = true →
    i ∈ [Instr.spawn f, .spawnSc f, .rangenext f, .scopenew f, .skjoin f, .skleave f, .skbar f, .cancel f, .cwait f] → Alone s i s' len → Traps s i s' cIllegal)
  ∧ ∀ (s s' : State) (len : Nat) (f : LF) (g : Group), isMill s.focus = false → s.guardOn f = true → s.group (s.mcxOf s.focus) = some g →
    let m := s.mcxOf s.focus
    let own := (s.strand s.focus).scope
    let act := (s.strand s.focus).act
    let r := (f.reg.setWidth 6).toNat
    (∀ (i : Instr) (scope : Nat), (i, scope) ∈ [(Instr.spawn f, own), (Instr.spawnSc f, (s.me.rx (f.xbase.toNat + 2)).toNat % 2 ^ 12)] → Ready s i s' len →
      let node := (f.off.setWidth 12).toNat
      let ws := s'.nodeWords m node
      let st := g.spawnStatus own scope g.dynRoom
      let t : Task := { nodeTask node act 0 scope ws ([s.me.rx f.xbase.toNat, s.me.rx (f.xbase.toNat + 1)] ++ ws.drop 5) with dyn := true }
      (s.hw m 10 / 2 ^ 48 % 2 ^ 12 < node ∨ nodeKind (ws.headD 0).toNat ≠ 1 → Traps s i s' cIllegal)
      ∧ (node ≤ s.hw m 10 / 2 ^ 48 % 2 ^ 12 → nodeKind (ws.headD 0).toNat = 1 → Acts s i s' len
          { writes := [wr .x r st 32]
            early := fun u => u.updGroup m fun g => if st ≠ 0 then g.countUp scope fun x => { x with refused := x.refused + 1 } else g.addTask t }))
    ∧ (∀ (h : Group) (t : Task) (y : Scope), h.scope t.scope = some y → y.st ≠ .cancelling → (h.addTask t).ready = h.ready ++ [t]
        ∧ ∀ x, h.act t.act = some x → (h.addTask t).act t.act = some { x with live := x.live + 1 })
    ∧ (∀ (h : Group) (own scope room : Nat),
        (h.ended.isSome = true → h.spawnStatus own scope room = 3)
        ∧ (h.ended = none → h.scope scope = none → h.spawnStatus own scope room = 2)
        ∧ ∀ y, h.ended = none → h.scope scope = some y →
            (y.st = .cancelling ∨ h.inTree own scope = false → h.spawnStatus own scope room = 2)
            ∧ (y.st ≠ .cancelling → h.inTree own scope = true → h.spawnStatus own scope room = if room = 0 then 1 else 0))
    ∧ (let k := g.newScope own
       let d := match g.scope own with | some x => x.depth | none => 0
       Ready s (.scopenew f) s' len → Acts s (.scopenew f) s' len
        { writes := [wr .x r k 32]
          early := fun u => if k = 0 then u else u.updGroup m fun g => g.setScope k (some { parent := own, depth := d + 1, creator := some s.focus }) })
    ∧ (∀ x, g.act act = some x → Ready s (.rangenext f) s' len →
        ((s.strand s.focus).dyn = true ∨ nodeKind (x.words.headD 0).toNat ≠ 6 → Traps s (.rangenext f) s' cIllegal)
        ∧ ((s.strand s.focus).dyn = false → nodeKind (x.words.headD 0).toNat = 6 → Acts s (.rangenext f) s' len
            { writes := [wr .x r ((x.next s.focus).2.getD (x.fin, x.fin)).1 32, wr .x (r + 1) ((x.next s.focus).2.getD (x.fin, x.fin)).2 32]
              early := fun u => u.updGroup m fun g => g.setAct act (some (x.next s.focus).1) }))
    ∧ ∀ (x : Activation) (lo hi : Nat), mget none x.ranges s.focus = some (lo, hi) → lo < hi →
        (x.next s.focus).2 = some (lo, min (lo + max 1 x.grain) hi)

/-- R32, R33, R51, R55, R236, R237: SKJOIN and SKLEAVE change a skein's members; SKBAR of a member blocks until its phase completes; CANCEL checks its
acknowledgement word and gives its status, and CWAIT blocks until the word's DONE bit is set and then gives the word. -/
def Obligations.SkeinsAndCancellation : Prop :=
  ∀ (s s' : State) (len : Nat) (f : LF) (g : Group), isMill s.focus = false → s.guardOn f = true → s.group (s.mcxOf s.focus) = some g →
    let m := s.mcxOf s.focus
    let k := s.eaOf f
    let r := (f.reg.setWidth 6).toNat
    let c := (s.me.rx r).toNat % 2 ^ 12
    let st := g.cancelStatus (s.strand s.focus).scope c
    let cl := clusterOf s.focus
    let cancels (l : Loc) : Prop := Ready s (.cancel f) s' len → Acts s (.cancel f) s' len
      { writes := [wr .x r st 32]
        early := fun u =>
          let u := if f.opx then u else u.touch s.focus k .write
          if st = 0 then u.acceptCancel m { loc := l, ea := k, named := c }
          else if st = 2 then u.ackWrite m { loc := l, ea := k, named := c } (c + 2 ^ 12) else u }
    let waits (l : Loc) (v : Nat) : Prop := Ready s (.cwait f) s' len →
      (bitOf v 12 = false → Blocks s (.cwait f) s' [.cwait l r])
      ∧ (bitOf v 12 = true → Acts s (.cwait f) s' len
          { writes := [wr .x r v 1]
            early := fun u => (u.updStrand s.focus fun t => { t with resp := [] }).charge s.focus
              { loc := l, ea := k, cache := (s.base (.cwait f) s').cacheOf s.focus k } 8 .read })
    (256 ≤ k → (Ready s (.skjoin f) s' len → Traps s (.skjoin f) s' cIllegal) ∧ (Ready s (.skleave f) s' len → Traps s (.skleave f) s' cIllegal)
      ∧ (Ready s (.skbar f) s' len → Traps s (.skbar f) s' cIllegal))
    ∧ (k < 256 →
      (Ready s (.skjoin f) s' len → Acts s (.skjoin f) s' len { early := fun u => u.skeinJoin m k s.focus })
      ∧ (Ready s (.skleave f) s' len → Acts s (.skleave f) s' len { early := fun u => u.skeinLeave m k s.focus })
      ∧ (Ready s (.skbar f) s' len → (s.strand s.focus).skGo.contains k = false →
        ((s.skeinsOf s.focus).contains k = false → Acts s (.skbar f) s' len {})
        ∧ ((s.skeinsOf s.focus).contains k = true →
          (s.remotePending s.focus = true → Blocks s (.skbar f) s' [.fence])
          ∧ (s.remotePending s.focus = false → Blocks s (.skbar f) s' [.skein k] fun u => u.skbarArrive m k s.focus)))
      ∧ (Ready s (.skbar f) s' len → (s.strand s.focus).skGo.contains k = true → Acts s (.skbar f) s' len
          { early := fun u => u.updStrand s.focus fun t => { t with skPend := t.skPend.erase k, skGo := t.skGo.erase k } }))
    ∧ (k % 8 ≠ 0 → (Ready s (.cancel f) s' len → Traps s (.cancel f) s' cAlign 0 k) ∧ (Ready s (.cwait f) s' len → Traps s (.cwait f) s' cAlign 0 k))
    ∧ (f.opx = true → k % 8 = 0 → s.spadStoreCheck s.focus k 8 8 = none → s.spadPoisoned cl k 8 = false →
        cancels (.spad cl k) ∧ waits (.spad cl k) (leNat (getBytes (s.cluster cl).bytes k 8)))
    ∧ (f.opx = false → k % 8 = 0 → ∀ pl u' bs, (∃ pa key, pl.loc = .hbm pa key) →
        ((s.base (.cancel f) s').place s.focus k .write = .ok (pl, u') → (s.base (.cancel f) s').readPlace pl 8 = .ok bs → cancels pl.loc)
        ∧ ((s.base (.cwait f) s').place s.focus k .write = .ok (pl, u') → (s.base (.cwait f) s').readPlace pl 8 = .ok bs → waits pl.loc (leNat bs)))

/-- R213, R262, R270 to R275, R286: the pushes place records of their tags on the channel, the pops take records of the tags they expect and trap DIVERGE on
others; a disabled channel traps ILLEGAL, a suspended one blocks, and so does one whose top frame must be decoded or whose two closed frames wait; RSEAL seals
the channel and waits; BRT branches on the recorded decision. A mill strand's reel instructions trap ILLEGAL. That a push on a channel whose top frame is coded
blocks until it is decoded, as pops do, is DEDUCED, and that the closed frames counted are those of earlier bundles is the model's choice
(notes/assumptions/27.md). -/
def Obligations.ReelInstructions : Prop :=
  ∀ (s s' : State) (len : Nat),
    let r := s.me.reel
    let c := s.reelCfg s.focus
    let open_ := c.enabled = true ∧ r.err = none ∧ r.susp = none
    (∀ (f : LF) (i : Instr), i ∈ [Instr.recx f, .recp f, .rmark f, .recb f, .recv f, .rpopx f, .rpopp f, .rpopv f, .rmarkPop f, .rchk f, .rchkV f, .rseal f] →
      (isMill s.focus = true → Alone s i s' len → Traps s i s' cIllegal)
      ∧ (isMill s.focus = false → s.guardOn f = false → Ready s i s' len → Acts s i s' len {}))
    ∧ (∀ f : LF, isMill s.focus = false → s.guardOn f = true →
      let x := (f.reg.setWidth 6).toNat
      let p := (f.reg.setWidth 4).toNat
      let v := f.reg.toNat
      let V := (s.me.rv v).toNat
      let inBank := v < (s.strand s.focus).bank
      (c.enabled = false → Ready s (.recx f) s' len → Traps s (.recx f) s' cIllegal)
      ∧ (c.enabled = true → r.err = none → r.susp.isSome = true → Ready s (.recx f) s' len → Blocks s (.recx f) s' [.reel])
      ∧ (open_ → r.shut = false →
        let policy := s.me.reelPolicy.toNat
        (∀ (i : Instr) (xs : List ReelRec) (ok : Prop), (i, xs, ok) ∈ [(Instr.recx f, [⟨2, (s.me.rx x).toNat⟩], True), (Instr.recp f, [⟨3, (s.me.rp p).toNat⟩], True),
            (Instr.rmark f, [⟨5, f.off.toNat⟩], True), (Instr.recb f, [⟨4, 1⟩], s.me.rp p = uniform true), (Instr.recb f, [⟨4, 0⟩], s.me.rp p = uniform false),
            (Instr.recv f, [⟨0, V % 2 ^ 2048⟩, ⟨1, V / 2 ^ 2048⟩], inBank)] → ok → Ready s i s' len →
          (∀ r', r.placeAll c policy r.closed xs = .ok r' → SGives s i s' len { s.me with reel := { r' with replay := [] } })
          ∧ (r.placeAll c policy r.closed xs = .full → policy ≠ 2 → Traps s i s' cReelFull)
          ∧ (r.placeAll c policy r.closed xs = .busy → Blocks s i s' [.reel])
          ∧ ∀ n, r.placeAll c policy r.closed xs = .decode n → Blocks s i s' [.reelFrame n]))
      ∧ (open_ → r.shut = true → Ready s (.recx f) s' len → Traps s (.recx f) s' cIllegal)
      ∧ (s.me.rp p ≠ uniform true → s.me.rp p ≠ uniform false → Ready s (.recb f) s' len → Traps s (.recb f) s' cNonUniform)
      ∧ (open_ →
        let pops (i : Instr) (q : Popped) (file : RFile) (reg : Nat) (val : List Nat → Nat) : Prop := Ready s i s' len →
          (∀ vs r', q = .ok vs r' → Gives s i len { s.me with reel := { r' with replay := [] }, flight := [{ file := file, reg := reg, val := val vs, d := 7 }] })
          ∧ (∀ k, q = .trap k → Traps s i s' k) ∧ ∀ n, q = .decode n → Blocks s i s' [.reelFrame n]
        pops (.rpopx f) (r.pop [2]) .x x (fun vs => vs.headD 0)
        ∧ pops (.rpopp f) (r.pop [3]) .p p (fun vs => vs.headD 0)
        ∧ (inBank → pops (.rpopv f) (r.pop [1, 0]) .v v (fun vs => vs.getD 1 0 + vs.headD 0 * 2 ^ 2048))
        ∧ pops (.rmarkPop f) r.popMark .x x (fun vs => vs.headD 0)
        ∧ (∀ vs r', r.pop [2] = .ok vs r' → Ready s (.rchk f) s' len →
            (vs.headD 0 = (s.me.rx x).toNat → SGives s (.rchk f) s' len { s.me with reel := { r' with replay := [] } }) ∧ (vs.headD 0 ≠ (s.me.rx x).toNat → Traps s (.rchk f) s' cDiverge))
        ∧ (inBank → ∀ a b r', r.pop [1, 0] = .ok [a, b] r' → Ready s (.rchkV f) s' len →
            (b = V % 2 ^ 2048 ∧ a = V / 2 ^ 2048 → SGives s (.rchkV f) s' len { s.me with reel := { r' with replay := [] } })
            ∧ (¬ (b = V % 2 ^ 2048 ∧ a = V / 2 ^ 2048) → Traps s (.rchkV f) s' cDiverge))
        ∧ (r.shut = true → Ready s (.rseal f) s' len → ∃ fx : Fx, Acts s (.rseal f) s' len fx ∧ fx.waits = [.seal] ∧ fx.resp = [wr .x x r.count 1])
        ∧ (r.shut = false → r.live = false → Ready s (.rseal f) s' len → ∃ fx : Fx, Acts s (.rseal f) s' len fx ∧ fx.waits = [.seal] ∧ fx.resp = [wr .x x 0 1]
            ∧ ∀ u : State, ((fx.early u).core s.focus).reel = { r with shut := true, count := 0, live := false })
        ∧ (∀ q, r.shut = false → r.topRecs 64 = .recs q → Ready s (.rseal f) s' len → ∃ fx : Fx, Acts s (.rseal f) s' len fx ∧ fx.waits = [.seal]
            ∧ fx.resp = [wr .x x (q.top + 1) 1]
            ∧ ∀ u : State, ((fx.early u).core s.focus).reel = q.seal c)))
    ∧ ∀ f : BF, open_ →
      let T : BitVec 32 := s.me.pc + f.disp.signExtend 32
      (∀ d r', r.pop [4] = .ok [d] r' →
        (d = 0 → SGives s (.brt f) s' len { s.me with reel := { r' with replay := [] } })
        ∧ (d ≠ 0 → (s.me.loops.any fun l => l.holds T.toNat && !l.holds s.me.pc.toNat) = false →
            SGoes s (.brt f) s' len { s.me with reel := { r' with replay := [] }, loops := popLoops s.me.pc.toNat T.toNat s.me.loops, pc := T }))
      ∧ ∀ k, r.pop [4] = .trap k → Ready s (.brt f) s' len → Traps s (.brt f) s' k

/-- R77, R240, R243 to R245: MCALL puts a call with its captured registers at the end of the matrix unit's queue, blocks on a full queue, an unfinished repeat
sequence or a busy window, and traps REGBANK on a tile or accumulator outside the share; MRPT makes a sequence of MRC calls; MWAIT blocks until its conditions
hold; each advances MPC by its count. The register that INFO names, tiles before accumulators, is the model's choice (notes/assumptions/16.md), and the
registers that a routine names are those of notes/assumptions/33.md. -/
def Obligations.MatrixSlot : Prop :=
  ∀ (s s' : State) (len : Nat) (f : MF),
    let g := gnumOf s.focus
    let c := s.me
    let up (n : Nat) : Core := { c with mpc := c.mpc + BitVec.ofNat 32 n }
    SGives s (.mNop f) s' len (up 1)
    ∧ (∀ (i : Instr) (n : Nat), (i, n) ∈ [(Instr.mcall f, 1), (Instr.mcallRpt f, c.mrc.toNat)] → Ready s i s' len →
        let e := s.acting i s' len
        let imm := (if f.bpi then e.bpWord else f.imm.toNat) % 2 ^ 20
        (n = 0 → Acts s i s' len { mpc := 1 })
        ∧ (n ≠ 0 → s'.routine s.focus f.rout.toNat = none → Traps s i s' cIllegal)
        ∧ (n ≠ 0 → (f.bpi = true → bpMode e.bp = 3 → bpSrc e.bp % 16 < e.t.ntile) → ∀ us, s'.routine s.focus f.rout.toNat = some us →
          (∀ r rs, ((fpTiles us imm).filter (fun t => (s.strand s.focus).ntile ≤ t) ++ (fpAccs us imm).filter fun a => (s.strand s.focus).nacc ≤ a) = r :: rs →
            Traps s i s' cRegBank r)
          ∧ ((∀ t ∈ fpTiles us imm, t < (s.strand s.focus).ntile) → (∀ a ∈ fpAccs us imm, a < (s.strand s.focus).nacc) →
            (∀ k, s'.window s.focus (mget 0 c.m 7).toNat = .error k → Traps s i s' k)
            ∧ ∀ w, s'.window s.focus (mget 0 c.m 7).toNat = .ok w →
            let ws : List Wait := (if 8 ≤ (s.spindle g).queue.length then [.queue] else []) ++ (if (s.repeatOf s.focus).isSome then [.rpt] else [])
              ++ (s.winBusy (clusterOf s.focus) w).map fun k => .granule (clusterOf s.focus) k
            (ws ≠ [] → Blocks s i s' ws)
            ∧ (ws = [] → Acts s i s' len
                { mpc := n
                  post := fun t =>
                    let k : Call := { id := t.nextId, sid := s.focus, rout := f.rout.toNat, imm := BitVec.ofNat 20 imm, flags := f.flags, fmt := c.fmt, tshape := c.tshape
                                      m := c.m, mpc := c.mpc, pc := c.pc, win := w }
                    let t := ({ t with nextId := t.nextId + 1 }).enqueue k
                    if 1 < n then t.updSpindle g fun x =>
                      { x with rpts := mset none x.rpts (slotOf s.focus) (some { k := 1, n := n, call := { k with id := s.nextId }, strides := c.mstride }) } else t }))))
    ∧ (let n := (f.flags.setWidth 3).toNat
       let tm := f.imm.toNat % 2 ^ 16
       let am := f.imm.toNat / 2 ^ 16
       (∀ r rs, ((maskBits 16 tm).filter (fun t => (s.strand s.focus).ntile ≤ t) ++ (maskBits 4 am).filter fun a => (s.strand s.focus).nacc ≤ a) = r :: rs →
          Alone s (.mwait f) s' len → Traps s (.mwait f) s' cRegBank r)
       ∧ ((∀ t ∈ maskBits 16 tm, t < (s.strand s.focus).ntile) → (∀ a ∈ maskBits 4 am, a < (s.strand s.focus).nacc) →
       (s'.mwaitMet s.focus n tm am = true → SGives s (.mwait f) s' len (up 1))
       ∧ (s'.mwaitMet s.focus n tm am = false → Ready s (.mwait f) s' len → Blocks s (.mwait f) s' [.mwait n tm am])))

/-- R294 to R296: IPI puts an event on its way to a die; ERET leaves the handler for EPC with the stacks cut to their depths at entry, and traps ILLEGAL outside
it; HALT completes at once when an enabled event is pending, and otherwise waits for one. R287, R213: in TENANT mode every privileged code traps PRIV,
whatever its guard holds. -/
def Obligations.MillBranches : Prop :=
  (∀ (s s' : State) (len : Nat) (f : BF), isMill s.focus = true →
     let c := s.me
     let v := (c.rx (xc f)).toNat
     (Ready s (.ipi f) s' len →
       (32 ≤ v → Traps s (.ipi f) s' cIllegal)
       ∧ (v < 32 → Acts s (.ipi f) s' len { post := fun t => t.updDie (v % 4) fun x => { x with ipis := x.ipis ++ [v / 4 % 8] } }))
     ∧ (c.intrap = true → c.mldepth ≤ c.loops.length → c.mrdepth ≤ c.rets.length → SGoes s (.eret f) s' len { c with
         loops := c.loops.drop (c.loops.length - c.mldepth), rets := c.rets.drop (c.rets.length - c.mrdepth), intrap := false
         pc := c.epc.setWidth 32, mpc := c.epc.extractLsb' 32 32 })
     ∧ (c.intrap = false ∨ c.loops.length < c.mldepth ∨ c.rets.length < c.mrdepth → Alone s (.eret f) s' len → Traps s (.eret f) s' cIllegal)
     ∧ (Ready s (.halt f) s' len →
       (s.evPend (dieOf s.focus) &&& c.evmask ≠ 0 → Acts s (.halt f) s' len {})
       ∧ (s.evPend (dieOf s.focus) &&& c.evmask = 0 → Acts s (.halt f) s' len { waits := [.halt], firm := true })))
  ∧ (∀ (s s' : State) (len : Nat) (i : Instr) (f : LF) (b : BF), isMill s.focus = false →
       i ∈ [Instr.ipi b, .eret b, .halt b, .mcxld f, .mcxst f, .mcxstEvict f, .tlbinv f, .fqpop f, .fqdone f, .snapsave f, .snapload f, .wipe f, .wipeSram f] →
       Alone s i s' len → Traps s i s' cPriv)

/-- R298 to R303: the privileged L-slot instructions of a mill strand: records, translations, fault entries, wipes and images, each with the status it leaves;
TLBINV and FQDONE first wait for the remote writes published to their strand. SNAPSAVE and SNAPLOAD capture their target, address and register at issue and
block after it; what the end of the block does, with the status, is decided as the target then stands: a strand that awaits no image, an address that is not its
image's, an error of the engine, an image that fails its MAC or that is not the current one, or the image made or loaded. -/
def Obligations.MillMemoryInstructions : Prop :=
  ∀ (s s' : State) (len : Nat) (f : LF), isMill s.focus = true → s.guardOn f = true →
    let d := dieOf s.focus
    let r := (f.reg.setWidth 6).toNat
    let v := (s.me.rx r).toNat
    let a := s.eaOf f
    let status (i : Instr) (act : State → State × Nat) : Prop := Ready s i s' len → Acts s i s' len
      { waits := [.resp, .fence], firm := true, resp := [wr .x r (act (s.base i s')).2 1], early := fun t => (act t).1 }
    (v < 2 ^ 14 → a % 1024 = 0 → a + 1024 ≤ hbmEnd → status (.mcxld f) (fun t => t.loadRecord d v a) ∧ status (.mcxst f) (fun t => t.storeRecord v a false)
      ∧ status (.mcxstEvict f) fun t => t.storeRecord v a true)
    ∧ (a % 2 ^ 16 = 0 → v % 2 ^ 16 = 0 → a + v ≤ hbmEnd → status (.wipe f) fun t => (t.wipeHbm a v, 0))
    ∧ (v < 2 ^ 32 → a < 12 → status (.wipeSram f) fun t => t.wipeBanks (12 * d + a) v)
    ∧ (Ready s (.tlbinv f) s' len →
        (v / 2 ^ 14 % 4 ≠ 0 ∨ 3 ≤ v / 2 ^ 16 → Traps s (.tlbinv f) s' cIllegal)
        ∧ (v / 2 ^ 14 % 4 = 0 → v / 2 ^ 16 < 3 →
          (s.remotePending s.focus = true → Blocks s (.tlbinv f) s' [.fence])
          ∧ (s.remotePending s.focus = false → Acts s (.tlbinv f) s' len
            { waits := [.resp, .inval], firm := true, early := fun t => t.tlbInvalidate (v / 2 ^ 16) (v % 2 ^ 14) a })))
    ∧ (Ready s (.fqpop f) s' len → Acts s (.fqpop f) s' len
        { writes := [wr .x r (match (s.die d).unpopped with | some k => k.posted.getD 0 | none => 0) 32], early := fun t => t.popFault d })
    ∧ (Ready s (.fqdone f) s' len →
        (s.inService a = none ∨ outcomeOk v = false → Traps s (.fqdone f) s' cIllegal)
        ∧ ∀ e k, s.inService a = some (e, k) → outcomeOk v = true →
          (s.remotePending s.focus = true → Blocks s (.fqdone f) s' [.fence])
          ∧ (s.remotePending s.focus = false → Acts s (.fqdone f) s' len { waits := [.resp], firm := true, early := fun t => t.closeFault e k v }))
    ∧ (a % 4096 = 0 → a + 4096 ≤ hbmEnd →
        (2 ^ 11 ≤ v ∨ (whoOk v = true ∧ isMill (sidOfWho v) = true) →
          (Ready s (.snapsave f) s' len → Traps s (.snapsave f) s' cIllegal) ∧ (Ready s (.snapload f) s' len → Traps s (.snapload f) s' cIllegal))
        ∧ ∀ tgt : Option Nat, v < 2 ^ 11 → (tgt = if whoOk v then some (sidOfWho v) else none) → (∀ sid, tgt = some sid → isMill sid = false) →
          (Ready s (.snapsave f) s' len → Acts s (.snapsave f) s' len { waits := [.snapsave tgt a r s.ev.flag, .fence], firm := true, resp := [wr .x r 0 1] })
          ∧ (Ready s (.snapload f) s' len → Acts s (.snapload f) s' len { waits := [.snapload tgt a r s.ev.flag, .fence], firm := true, resp := [wr .x r 0 1] }))
    ∧ ∀ (u : State) (ea : Nat) (err : Bool),
        (u.snapsave none ea err = some (u, 1) ∧ u.snapload none ea err = some (u, 1))
        ∧ (∀ sid, (u.awaitsSave sid = none → u.snapsave (some sid) ea err = some (u, 1))
            ∧ (u.awaitsRestore sid = none → u.snapload (some sid) ea err = some (u, 1)))
        ∧ (∀ sid m g, let here := u.saveArea m + (strandImageAt (u.hw m 3) (g.gsp (gnumOf sid)) (slotOf sid)).2
            (u.awaitsSave sid = some (m, g) →
              (ea ≠ here → u.snapsave (some sid) ea err = some (u, 2))
              ∧ (ea = here → err = true → u.snapsave (some sid) ea err = some (u, 3))
              ∧ (ea = here → err = false → u.enginesStopped sid = false → u.snapsave (some sid) ea err = none)
              ∧ (ea = here → err = false → u.enginesStopped sid = true → u.snapsave (some sid) ea err = some (u.saveStrand m g sid, 0)))
            ∧ (u.awaitsRestore sid = some (m, g) →
              (ea ≠ here → u.snapload (some sid) ea err = some (u, 2))
              ∧ (ea = here → g.carriesBanks sid = false →
                let n := ea / 128
                let key := u.hw m 2 % 2 ^ 16
                (∀ k, u.sectCheck n key = some k →
                  u.snapload (some sid) ea err = if k = .mac then some (u.breakRestore m g cKey, 4) else some (u.breakRestore m g cMemUe, 3))
                ∧ (u.sectCheck n key = none → leNat (getBytes u.hbm (ea + 8) 8) ≠ u.saveCtr m →
                    u.snapload (some sid) ea err = some (u, 5))
                ∧ (u.sectCheck n key = none → leNat (getBytes u.hbm (ea + 8) 8) = u.saveCtr m →
                    u.snapload (some sid) ea err = some (u.loadImages (gnumOf sid / 96) m g sid err)))))
        ∧ ∀ (sid reg : Nat) (tgt : Option Nat),
            (∀ t st, u.snapsave tgt ea err = some (t, st) → u.waitEnd sid (.snapsave tgt ea reg err) = .over (t.updStrand sid fun x => x.fillResp .x reg st))
            ∧ (∀ t st, u.snapload tgt ea err = some (t, st) → u.waitEnd sid (.snapload tgt ea reg err) = .over (t.updStrand sid fun x => x.fillResp .x reg st))
            ∧ (u.snapsave tgt ea err = none → u.waitEnd sid (.snapsave tgt ea reg err) = .keep u (.snapsave tgt ea reg err))
            ∧ (u.snapload tgt ea err = none → u.waitEnd sid (.snapload tgt ea reg err) = .keep u (.snapload tgt ea reg err))

/-! ## Micro-ops -/

/-- R242, R248, R254, R255: NOP, TLOAD, TSTORE, AZERO, ALOAD, ASTORE and CVT of a running call: the rows they read or write, the elements they convert, and the
errors that end the call (a tile of Q8 or Q4 is no store format); every row that a store writes lies in the window, and no other byte changes. -/
def Obligations.MatrixMoves : Prop :=
  (∀ (s : State) (c : Call) (f : UF), Running s c →
    let sid := c.sid
    let t := tileSel c.imm.toNat f.sel.toNat
    let b := accSel c.imm.toNat f.acc.toNat
    let rows := f.rows.toNat + 1
    let cols := f.cols.toNat + 1
    let mem (a n : Nat) : Nat := leNat (getBytes (s.cluster (clusterOf sid)).bytes a n)
    let m := (mget 0 c.m f.arg.toNat).toNat % 2 ^ 32
    let start : Int := (m % 2 ^ 23 : Nat) + f.off.toInt
    let placed : Prop := m < 2 ^ 23 ∧ 0 ≤ start ∧ start < 2 ^ 23
    let a := start.toNat
    let p := c.pitchOf f.arg.toNat f.pitch
    let fits (rb : Nat) : Prop := placed ∧ rb ≤ p ∧ a % 4 = 0 ∧ p % 4 = 0
    let errors (i : Instr) (rb : Nat) : Prop := (¬ placed → CallEnds s i c cSpBound) ∧ (placed → p < rb → CallEnds s i c cLayout)
      ∧ (placed → rb ≤ p → (a % 4 ≠ 0 ∨ p % 4 ≠ 0) → CallEnds s i c cAlign)
    GoesOn s (.uopNop f) s c
    ∧ ((mget 0 c.tshape t).toNat % 16 = 0xF → CallEnds s (.tload f) c cIllegal ∧ CallEnds s (.tstore f) c cIllegal)
    ∧ (∀ h, c.shape t = .ok h →
      (h.cols * h.width % 8 ≠ 0 → CallEnds s (.tload f) c cLayout ∧ (isQ h.fmt = false → CallEnds s (.tstore f) c cLayout))
      ∧ (isQ h.fmt = true → CallEnds s (.tstore f) c cIllegal))
    ∧ (∀ h rb, c.shape t = .ok h → h.cols * h.width = 8 * rb →
      errors (.tload f) rb ∧ (isQ h.fmt = false → errors (.tstore f) rb)
      ∧ (fits rb → (∀ i, i < h.rows → s.callReads c (a + i * p) rb) →
          ∃ v, (∀ i, i < h.rows → v / 2 ^ (8 * rb * i) % 2 ^ (8 * rb) = mem (a + i * p) rb) ∧ v / 2 ^ (8 * rb * h.rows) = s.tile sid t / 2 ^ (8 * rb * h.rows)
            ∧ GoesOn s (.tload f) (s.setTile sid t v) c)
      ∧ (isQ h.fmt = false → fits rb → let w := s.windowRows c a p ((List.range h.rows).map fun i => leBytes rb (s.tile sid t / 2 ^ (8 * rb * i)))
          (∀ s', w = .ok s' → GoesOn s (.tstore f) s' c) ∧ ∀ k, w = .err k → CallEnds s (.tstore f) c k))
    ∧ (mwf 0 (s.spindle (gnumOf sid)).accs = true → mwf 0 c.shAcc = true →
        ∃ s' sh, AccSet s s' sid b (fun _ _ => 0) ∧ (∀ i j, i < 128 → j < 128 → mget 0 sh (s.accIdx sid b i j) = 0)
          ∧ GoesOn s (.azero f) s' { c with wrote := if c.wrote.contains b then c.wrote else c.wrote ++ [b], shAcc := sh })
    ∧ (errors (.aload f) (4 * cols) ∧ (fits (4 * cols) → (∀ i, i < rows → s.callReads c (a + i * p) (4 * cols)) →
        let word (i j : Nat) : BitVec 32 := BitVec.ofNat 32 (mem (a + i * p + 4 * j) 4)
        ∃ s' sh, AccSet s s' sid b (fun i j => if i < rows ∧ j < cols then word i j else s.accAt sid b i j)
          ∧ (c.shadowed.isSome = true → c.skipped = false → ∀ i j, i < rows → j < cols → mget 0 sh (s.accIdx sid b i j) = c.shWord (word i j))
          ∧ (c.shadowed = none → sh = c.shAcc)
          ∧ GoesOn s (.aload f) s' { c with wrote := if c.wrote.contains b then c.wrote else c.wrote ++ [b], shAcc := sh }))
    ∧ (let o := c.ofmt
       let block : Prop := o = 0xC ∨ o = 0xD
       let bits := cols * fmtBits o + (if block then 2 * cols else 0)
       (o = 0x9 ∨ o = 0xB ∨ o = 0xF → CallEnds s (.astore f) c cIllegal)
       ∧ (¬ (o = 0x9 ∨ o = 0xB ∨ o = 0xF) →
        ((block ∧ cols % 4 ≠ 0) ∨ bits % 8 ≠ 0 → CallEnds s (.astore f) c cLayout)
        ∧ ∀ rb, (block → cols % 4 = 0) → bits = 8 * rb → errors (.astore f) rb ∧ (fits rb →
          let row (i : Nat) := c.storeRow o ((List.range cols).map fun j => s.accAt sid b i j)
          let w := s.windowRows c a p ((List.range rows).map fun i => (row i).1)
          (∀ s', w = .ok s' → ∃ st, (∀ k, st.getLsbD k = (c.sticky.getLsbD k || (List.range rows).any fun i => (row i).2.getLsbD k))
              ∧ GoesOn s (.astore f) s' { c with sticky := st })
          ∧ ∀ k, w = .err k → CallEnds s (.astore f) c k)))
    ∧ (∀ h, c.shape t = .ok h →
      (noCvt h.fmt = true → CallEnds s (.cvt f) c cIllegal)
      ∧ (noCvt h.fmt = false →
        let to_ (e : Nat → Nat → Nat × Sticky) : Prop := ∃ v st, (∀ i k, i < h.rows → k < h.cols → h.elem v i k = (e i k).1 % 2 ^ h.width)
          ∧ (∀ b, st.getLsbD b = (c.sticky.getLsbD b || (grid h.rows h.cols).any fun q => (e q.1 q.2).2.getLsbD b))
          ∧ GoesOn s (.cvt f) (s.setTile sid t v) { c with sticky := st }
        (f.en = true → (128 < h.cols → CallEnds s (.cvt f) c cLayout)
          ∧ (h.cols ≤ 128 → to_ fun i k => c.storeElem h.fmt (s.accAt sid (accSel c.imm.toNat (f.ta.toNat % 8)) i k)))
        ∧ (f.en = false → ∀ k, c.shape (tileSel c.imm.toNat f.ta.toNat) = .ok k →
          (noCvt k.fmt = true → CallEnds s (.cvt f) c cIllegal)
          ∧ (noCvt k.fmt = false → (k.rows ≠ h.rows ∨ k.cols ≠ h.cols → CallEnds s (.cvt f) c cLayout)
            ∧ (k.rows = h.rows → k.cols = h.cols → to_ fun i j =>
                convert (cvtFmt k.fmt) (cvtFmt h.fmt) c.ornd (c.nanForm h.fmt) (k.elem (s.tile sid (tileSel c.imm.toNat f.ta.toNat)) i j)))))))
  ∧ ∀ (s : State) (c : Call) (g n a p rb : Nat) (rows : List (List Byte)), c.win = some (g, n) → rows ≠ [] → (∀ r ∈ rows, r.length = rb) → rb ≤ p →
      let cl := clusterOf c.sid
      let base := 1024 * g + a
      (1024 * n < a + (rows.length - 1) * p + rb → s.windowRows c a p rows = .err cSpBound)
      ∧ (a + (rows.length - 1) * p + rb ≤ 1024 * n → (∀ k, mget false (s.cluster cl).poison k = false) →
        ∃ t, s.windowRows c a p rows = .ok t ∧ t = { s with clusters := t.clusters, reltags := t.reltags } ∧ (∀ k, k ≠ cl → t.cluster k = s.cluster k)
          ∧ (∀ i, i < rows.length → getBytes (t.cluster cl).bytes (base + i * p) rb = rows.getD i [])
          ∧ ∀ x, (∀ i, i < rows.length → x < base + i * p ∨ base + i * p + rb ≤ x) → mget 0 (t.cluster cl).bytes x = mget 0 (s.cluster cl).bytes x)

/-- R114, R115, R119, R256, R258: OPSTEP and SPSTEP accumulate into every element of the outer product under AccumulateElement, advance the cursors, and meter
their multiply-accumulates; SCALE multiplies every element by its row's and its column's factor and rounds once; ZPC and BSC set and clear the cursors.
AccumulateElement takes the products in groups of 32: an integer sum is exact and then saturated; a group with a NaN or with infinities of both signs makes
the element NaN. The call's first SPSTEP, once its tiles are in order, reads the placement word at MPC and steps with it; without such a word the call ends
BADTARGET. -/
def Obligations.MatrixSteps : Prop :=
  (∀ (s : State) (c : Call) (f : UF), Running s c →
    let sid := c.sid
    let b := accSel c.imm.toNat f.acc.toNat
    let wrote := if c.wrote.contains b then c.wrote else c.wrote ++ [b]
    let low (k : BitVec 3) : Nat := (mget 0 c.m k.toNat).toNat % 2 ^ 23
    (∀ sparse : Bool,
      let i : Instr := if sparse then .spstep f else .opstep f
      let ta := tileSel c.imm.toNat f.ta.toNat
      let tb := tileSel c.imm.toNat f.tb.toNat
      (c.afmt = 0xE ∨ c.afmt = 0xF ∨ c.bfmt = 0xE ∨ c.bfmt = 0xF → CallEnds s i c cIllegal)
      ∧ (¬ (c.afmt = 0xE ∨ c.afmt = 0xF ∨ c.bfmt = 0xE ∨ c.bfmt = 0xF) → ∀ ha hb, c.shape ta = .ok ha → c.shape tb = .ok hb →
        (ha.fmt ≠ c.afmt ∨ hb.fmt ≠ c.bfmt → CallEnds s i c cLayout)
        ∧ (ha.fmt = c.afmt → hb.fmt = c.bfmt →
          (sparse = false → hb.cols ≠ ha.cols → CallEnds s i c cLayout)
          ∧ ∀ cols pa pb, (sparse = true → c.placement.isSome = true) → s.columns c sparse hb.rows ha.cols hb.cols = .ok cols →
            s.readParams c c.afmt ha.rows ha.cols (c.zpc.map Prod.fst) (c.bsc.map Prod.fst) = .ok pa →
            s.readParams c c.bfmt hb.rows ha.cols (c.zpc.map Prod.snd) (c.bsc.map Prod.snd) = .ok pb →
            let ts (i j : Nat) : List Term := stepTerms ⟨c.afmt, ha, s.tile sid ta, pa⟩ ⟨c.bfmt, hb, s.tile sid tb, pb⟩ c.group ha.cols i j (cols.getD j [])
            let n := macCost c.afmt c.bfmt ha.rows hb.rows ha.cols sparse
            ∃ s1 sh st, AccSet s s1 sid b (fun i j => if i < ha.rows ∧ j < hb.rows then (accumulate c.intMode (s.accAt sid b i j) (ts i j)).1 else s.accAt sid b i j)
              ∧ (c.shadowed.isSome = true → c.skipped = false → ∀ i j, i < ha.rows → j < hb.rows →
                  mget 0 sh (s.accIdx sid b i j) = shadowStep c.intMode (mget 0 c.shAcc (s.accIdx sid b i j)) (ts i j))
              ∧ (∀ k, st.getLsbD k = (c.sticky.getLsbD k || (grid ha.rows hb.rows).any fun q => (accumulate c.intMode (s.accAt sid b q.1 q.2) (ts q.1 q.2)).2.getLsbD k))
              ∧ GoesOn s i ((if isMill sid then s1 else s1.lea (s.mcxOf sid) 1 n).countEv (s.partyOf sid) 2 n)
                  { c.advance c.afmt c.bfmt ha.rows hb.rows ha.cols sparse with wrote := wrote, shAcc := sh, sticky := st })))
    ∧ (c.placement = none → ∀ h, c.stepShapes f = .ok h →
      (isMill sid = true ∨ s.hw (s.mcxOf sid) 9 % 2 ^ 32 ≤ c.mpc.toNat → CallEnds s (.spstep f) c cBadTarget)
      ∧ (isMill sid = false → c.mpc.toNat < s.hw (s.mcxOf sid) 9 % 2 ^ 32 → ∀ pl s' bs,
        s.ctxPlace (s.mcxOf sid) (s.hw (s.mcxOf sid) 8 % 2 ^ 48 + 4 * c.mpc.toNat) .fetch = .ok (pl, s') → s'.readPlace pl 4 = .ok bs →
        let c' : Call := { c with placement := some (BitVec.ofNat 32 (leNat bs)), maskCur := leNat bs % 2 ^ 23 }
        (∀ k, uopStep true f s' c' = .err k → CallEnds s (.spstep f) c k)
        ∧ ∀ t d, uopStep true f s' c' = .done t d → exec (.spstep f) s = .next (t.setCall (gnumOf s.focus) (d.after c.idx))))
    ∧ (c.intMode = true → CallEnds s (.scale f) c cIllegal)
    ∧ (c.intMode = false → ∀ rv cv, s.scaleVec c f.en f.arg.toNat = .ok rv → s.scaleVec c f.enb f.argb.toNat = .ok cv →
        let y (i j : Nat) : XNum := numMul (numMul (decodeF fp32 (s.accAt sid b i j).toNat) (rv.getD i numOne)) (cv.getD j numOne)
        ∃ s1 c', AccSet s s1 sid b (fun i j => BitVec.ofNat 32 (roundNum fp32 .rne (y i j)).1) ∧ c'.wrote = wrote ∧ (c.shadowed = none → c'.shAcc = c.shAcc)
          ∧ c' = { c with wrote := c'.wrote, shAcc := c'.shAcc, sticky := c'.sticky } ∧ GoesOn s (.scale f) s1 c')
    ∧ (f.en = false → GoesOn s (.zpc f) s { c with zpc := none } ∧ GoesOn s (.bsc f) s { c with bsc := none })
    ∧ (f.en = true → GoesOn s (.bsc f) s { c with bsc := some (low f.arg, low f.argb) }
      ∧ (low f.arg % 4 = 0 → low f.argb % 4 = 0 → GoesOn s (.zpc f) s { c with zpc := some (low f.arg, low f.argb) })
      ∧ (low f.arg % 4 ≠ 0 ∨ low f.argb % 4 ≠ 0 → CallEnds s (.zpc f) c cAlign)))
  ∧ (∀ (int : Bool) (x : BitVec 32) (ts us : List Term), ts.length % 32 = 0 →
      let r := accumulate int x ts
      accumulate int x (ts ++ us) = ((accumulate int r.1 us).1, r.2 ||| (accumulate int r.1 us).2))
  ∧ (∀ (x : BitVec 32) (ts : List Term), ts ≠ [] → ts.length ≤ 32 →
      let t := x.toInt + (ts.map fun q => q.product.toInt').sum
      accumulate true x ts = (BitVec.ofInt 32 (max (-2 ^ 31) (min t (2 ^ 31 - 1))), if -2 ^ 31 ≤ t ∧ t ≤ 2 ^ 31 - 1 then 0 else stSaturate))
  ∧ ∀ (x : BitVec 32) (ts : List Term), ts ≠ [] → ts.length ≤ 32 →
      (ts.any fun q => q.product.isNan) = true
        ∨ ((ts.any fun q => q.product.isInf && q.product.isNeg) = true ∧ (ts.any fun q => q.product.isInf && !q.product.isNeg) = true) →
      accumulate false x ts = (BitVec.ofNat 32 fp32.nanEnc, if ts.any Term.nanOp then 0 else stNan)

/-- R242, R247, R255, R257, R259: the four forms of ADDR, LOOP, SKIPF, SHADOW, MSTEP and END; a micro-op after a SKIPF that fires acts as NOP; a loop body ends at
LAST, goes back to its first micro-op until its count is used, and a count of 0 skips it; a pending kill or stop takes the call at an MSTEP; a call that ends
leaves the queue, returns its window's granules, and posts its sticky bits. -/
def Obligations.MatrixFlow : Prop :=
  (∀ (s : State) (c : Call) (f : UF), Running s c →
    let g := gnumOf s.focus
    let k := f.arg.toNat
    let M := mget 0 c.m k
    let N := mget 0 c.m f.argb.toNat
    let arg (v : Word) : Call := { c with m := mset 0 c.m k v }
    let low (d : BitVec 23) : Word := M.extractLsb' 23 41 ++ (M.setWidth 23 + d)
    GoesOn s (.addr f) s (arg (f.imm.signExtend 64))
    ∧ GoesOn s (.addrAdd f) s (arg (low (f.imm.setWidth 23)))
    ∧ GoesOn s (.addrLo f) s (arg (low (N.setWidth 23)))
    ∧ GoesOn s (.addrHi f) s (arg (low (N.extractLsb' 32 23)))
    ∧ (let n := if f.en then M.toNat % 2 ^ 32 else f.pitch.toNat
       (n ≠ 0 → exec (.uopLoop f) s = .next (s.setCall g { c with idx := c.idx + 1, loops := (n, c.idx + 1, f.last.toNat) :: c.loops }))
       ∧ (n = 0 → exec (.uopLoop f) s = .next (s.setCall g (c.after f.last.toNat))))
    ∧ GoesOn s (.skipf f) s { c with skipNext := c.flags.getLsbD f.bit.toNat == f.en }
    ∧ GoesOn s (.shadow f) s { c with shList := some (maskBits 4 f.amask.toNat ++ (maskBits 2 f.smask.toNat).map fun k => accSel c.imm.toNat (4 + k)) }
    ∧ (c.killed = true → exec (.mstep f) s = .next (s.leaveQueue g c .abandon))
    ∧ (c.killed = false → isMill c.sid = false → s.stopping (s.mcxOf c.sid) = true →
        let live := maskBits 16 f.tlive.toNat ++ (maskBits 5 f.slive.toNat).map fun k => tileSel c.imm.toNat (16 + k)
        let lost := (fpTiles ((s.routine c.sid c.rout).getD []) c.imm.toNat).filter fun t => !live.contains t
        exec (.mstep f) s = .next ((s.setCall g { c.after c.idx with halted := true, sticky := 0, dead := lost }).postSticky c.sid c.sticky))
    ∧ (c.killed = false → isMill c.sid = true ∨ s.stopping (s.mcxOf c.sid) = false → GoesOn s (.mstep f) s c)
    ∧ exec (.uopEnd f) s = .next ((s.leaveQueue g c .done).shadowEnd g c)
    ∧ (c.shadowed = none → s.shadowEnd g c = s))
  ∧ (∀ (s : State) (c : Call) (f : UF), (s.spindle (gnumOf s.focus)).runningCall = some c → c.skipNext = true → c.susp = none →
      ∀ i ∈ [Instr.uopNop f, .tload f, .tstore f, .azero f, .aload f, .astore f, .cvt f, .opstep f, .spstep f, .zpc f, .bsc f, .scale f, .addr f, .addrAdd f, .addrLo f,
        .addrHi f, .uopLoop f, .mstep f, .shadow f, .skipf f, .uopEnd f], GoesOn s i s { c with skipNext := false })
  ∧ (∀ (c : Call) (p n first last : Nat) (r : List (Nat × Nat × Nat)),
      (c.loops = [] → c.after p = { c with idx := p + 1 })
      ∧ (c.loops = (n, first, last) :: r →
        (p ≠ last → c.after p = { c with idx := p + 1 })
        ∧ (p = last → 1 < n → c.after p = { c with idx := first, loops := (n - 1, first, last) :: r })
        ∧ (p = last → n ≤ 1 → r = [] → c.after p = { c with idx := p + 1, loops := [] })
        ∧ ∀ m first' last' r', p = last → n ≤ 1 → r = (m, first', last') :: r' →
            (p ≠ last' → c.after p = { c with idx := p + 1, loops := r })
            ∧ (p = last' → 1 < m → c.after p = { c with idx := first', loops := (m - 1, first', last') :: r' }))
  ∧ ∀ (s : State) (g : Nat) (c : Call) (e : EndKind),
      let t := s.leaveQueue g c e
      (t.spindle g).queue = (s.spindle g).queue.filter (fun d => d.id != c.id)
      ∧ (t.core c.sid).status = (s.core c.sid).status ||| c.sticky
      ∧ (∀ n, mwf {} (s.cluster (g / 8)).grans = true → (t.cluster (g / 8)).gran n =
          if ((s.cluster (g / 8)).gran n).eng = some (.call c.id) then { eng := none, err := e.isErr, abandon := e == .abandon } else (s.cluster (g / 8)).gran n)
      ∧ t = { s with strands := t.strands, spindles := t.spindles, clusters := t.clusters })

/-! ## Events of the package -/

/-- R25, R58 to R64, R73, R247: a strand that may not issue does nothing; a malformed bundle traps ILLEGAL with its slot, and then a pending engine trap is taken;
a bundle without operations goes on to the next; the two S slots of a bundle both read the registers as they were before it; a dictionary miss stalls. R26:
selection takes the first READY slot after the last one, and a change of slot takes two cycles. R75, R76, R118: results land as their delays run out, a stall
counts none, and a pending FMT write takes effect when it is due. R25, R224: the end of a block; an ACQ waits on while an engine owns the granule of its word
(R154). That a malformed bundle traps before an engine trap that is pending, and with which slot, is the model's choice (notes/assumptions/11.md), and so is
the row that passes a cycle in which nothing issues or ends a stall (notes/assumptions/21.md). -/
def Obligations.IssueEvents : Prop :=
  (∀ s : State, s.canIssue s.focus = false → exec .bundleIssue s = .next s)
  ∧ (∀ (s : State) (n : Nat), s.canIssue s.focus = true → s.fetchBundle s.focus s.me.pc.toNat = .miss n →
      exec .bundleIssue s = .next (s.updSpindle (gnumOf s.focus) fun x => { x with stalled := true }))
  ∧ (∀ (s s' : State) (len w : Nat), s.canIssue s.focus = true → s.fetchBundle s.focus s.me.pc.toNat = .ok (len, w) s' →
      let hdr : BitVec 16 := BitVec.ofNat 16 (w / 2 ^ 368)
      let slots := (decodeSlots w).map fun p => (p.1.num, p.2)
      let bad := malformed hdr (BitVec.ofNat 16 w) slots
      (∀ k, bad = some k → exec .bundleIssue s = .next (s'.trapCycle s.focus { cause := cIllegal, slot := k }))
      ∧ (∀ c, bad = none → (s'.strand s.focus).engTrap = some c →
          exec .bundleIssue s = .next ((s'.updStrand s.focus fun t => { t with engTrap := none }).trapCycle s.focus { cause := c, slot := 9 }))
      ∧ (bad = none → (s'.strand s.focus).engTrap = none → (s'.core s.focus).shadows = [] →
          (bpMode (BitVec.ofNat 16 w) = 3 → bpSrc (BitVec.ofNat 16 w) % 16 < (s.strand s.focus).ntile) → Settled { s with frame := { s.frame with hdr := hdr } } .bundleIssue →
          ((∀ p ∈ slots, p.2 = .empty) → ∃ t, exec .bundleIssue s = .next t ∧ t.core s.focus = { s.me with pc := s.fall len } ∧ Untouched s t)
          ∧ ∀ f g : SF, hdrBl hdr = 0 → (∀ p ∈ slots, p.2 = if p.1 = 0 then .op (.add f) else if p.1 = 1 then .op (.sub g) else .empty) →
              let c := (s.me.wx f.xd.toNat (s.me.rx f.xa.toNat + s.me.rx f.xb.toNat)).wx g.xd.toNat (s.me.rx g.xa.toNat - s.me.rx g.xb.toNat)
              ∃ t, exec .bundleIssue s = .next t ∧ t.core s.focus = { c with pc := s.fall len } ∧ Untouched s t))
  ∧ (∀ (s : State) (k : Nat),
      let g := s.ev.n
      let x := s.spindle g
      let ready (j : Nat) : Prop := (s.strand (4 * g + j)).st = .ready
      let selects (u : State) (k : Nat) : Prop :=
        exec .strandSelect s = .next ((u.updSpindle g fun x => { x with running := some k, last := some k }).updStrand (4 * g + k) fun t => { t with st := .running })
      x.running = none → s.held = false → x.gate = false →
      ((∀ j, j < 4 → ¬ ready j) → (∀ c, x.last = some c → c < 4) → exec .strandSelect s = .next s)
      ∧ (x.last = none → k < 4 → ready k → (∀ j, j < k → ¬ ready j) → selects s k)
      ∧ ∀ c, x.last = some c → c < 4 → k < 4 → ready k → (∀ j, j < 4 → (j + 3 - c) % 4 < (k + 3 - c) % 4 → ¬ ready j) →
          (k = c → selects s k)
          ∧ (k ≠ c → selects (((s.cycle g).cycle g).countEv (match x.mcx with | some m => s.partOf m | none => 32) 5 1) k))
  ∧ (∀ s : State, (s.spindle s.ev.n).stalled = false → s.spindleBusy s.ev.n = false → s.selects s.ev.n = false → exec .resultLand s = .next (s.cycle s.ev.n))
  ∧ (∀ (s : State) (g sid : Nat),
      (gnumOf sid = g → s.landing g = true → (s.spindle g).asleep = false → (s.strand sid).frozen = false → (s.cycle g).core sid = (s.core sid).tick)
      ∧ (gnumOf sid ≠ g ∨ s.landing g = false ∨ (s.strand sid).frozen = true → (s.cycle g).core sid = s.core sid)
      ∧ (s.stallCycles g 1).core sid = s.core sid)
  ∧ (∀ (c : Core) (f : Flight), c.flight = [f] →
      (1 < f.d → c.tick = { c with flight := [{ f with d := f.d - 1 }] })
      ∧ (f.d ≤ 1 → f.shadow = none → c.tick = (({ c with flight := [] } : Core).write f.file f.reg f.val).stick f.sticky))
  ∧ (∀ (s : State) (v : BitVec 17) (n : Nat), s.me.fmtPend = [(v, n)] →
      (n = 1 → exec .fmtTakeEffect s = .next (s.updCore s.focus fun c => { c with fmt := v, fmtPend := [] }))
      ∧ (n ≠ 1 → ∃ t, exec .fmtTakeEffect s = .next t ∧ t.core s.focus = s.me))
  ∧ (∀ (s : State) (w : Wait),
      let t := s.strand s.focus
      t.waits = [w] → t.st = .blocked → s.ev.n = 0 →
      (s.waitClear s.focus w = true → t.after = false →
        exec .blockEnd s = .next (s.updStrand s.focus fun t => { t with st := .ready, waits := [] }))
      ∧ (s.waitClear s.focus w = true → t.after = true → t.brk = none → t.stores = [] → t.heldCopies = [] → ∀ r v, t.resp = [wr .x r v 1] →
        ∃ u, exec .blockEnd s = .next u ∧ u.core s.focus = s.me.wx r (BitVec.ofNat 64 v) ∧ (u.strand s.focus).st = .ready ∧ (u.strand s.focus).waits = []
          ∧ (u.strand s.focus).resp = [])
      ∧ (∀ cl a ea thr r sc, w = .acq (.spad cl a) ea thr r sc → s.engineOwned cl a 8 = true →
          ∃ u, exec .blockEnd s = .next u ∧ (u.strand s.focus).st = .blocked ∧ (u.strand s.focus).waits = [w])
      ∧ ∀ cl a ea thr r sc bs, w = .acq (.spad cl a) ea thr r sc → s.engineOwned cl a 8 = false → s.readLoc (.spad cl a) 8 = .ok bs →
        (leNat bs < thr → ∃ u, exec .blockEnd s = .next u ∧ (u.strand s.focus).st = .blocked ∧ (u.strand s.focus).waits = [w])
        ∧ (thr ≤ leNat bs → t.after = true → t.brk = none → t.stores = [] → t.heldCopies = [] → t.resp = [wr .x r 0 1] → ∃ u, exec .blockEnd s = .next u
          ∧ u.core s.focus = (s.me.stick (if scopeMiss s.focus sc (s.relTag (.spad cl a) (leNat bs)) then stScopeMiss else 0)).wx r (BitVec.ofNat 64 (leNat bs))))
  ∧ ∀ s : State, let g := s.ev.n
      let u := (s.stallCycles g s.ev.m).updSpindle g fun x => { x with stalled := false }
      ((s.spindle g).stalled = false → s.ev.flag = false → exec .stallEnd s = .next (s.stallCycles g s.ev.m))
      ∧ ((s.spindle g).stalled = true → (s.spindle g).running = none → exec .stallEnd s = .next u)
      ∧ ∀ k w v s1 s2, (s.spindle g).stalled = true → (s.spindle g).running = some k →
          u.codeWord (4 * g + k) (u.core (4 * g + k)).pc.toNat = .ok w s1 → w < 0xFFFE → s1.dictWord (4 * g + k) w = .ok v s2 →
          exec .stallEnd s = .next (s2.updSpindle g fun x =>
            { x with dict := ((dictKey (s2.imageOf (4 * g + k)) w, v) :: x.dict.filter fun p => p.1 != dictKey (s2.imageOf (4 * g + k)) w).take 2048 })

/-- R22 to R24, R30, R42, R46: in a bound group that is not stopped, with no node waiting and its scopes open, the whorl places the head of the ready queue in
the first slot that is FREE with a large enough bank, with the registers of R22, and results still in flight to the bank land there; a steal for a new task
splits the range of the placed task that holds most (the first of them) and places the task with the upper part. R29: a strand that has drained frees its
slot, which keeps its bank. R51 to R53: a kill reaches a spindle, and every strand of the subtree there is HALTED, with its withheld stores gone and of its
waits only those of a REL that has issued. That a steal goes on once an END node is ready is the model's choice (notes/assumptions/55.md), and that a strand
retires only when its results have landed is notes/assumptions/68.md's. -/
def Obligations.TaskEvents : Prop :=
  let bound (s : State) (m : Nat) : Prop := s.stop m = none ∧ ∃ c, s.ctx m = some c ∧ c.st = .bound
  let quiet (g : Group) : Prop := g.waiting = [] ∧ ∀ p ∈ g.scopes, ∀ x, p.2 = some x → x.st = .opened ∧ (p.1 = g.root ∨ x.creator.isSome = true)
  let first (s : State) (l : List Nat) (need sid : Nat) : Prop := ∃ pre post, l = pre ++ sid :: post
    ∧ (∀ j ∈ pre, (s.strand j).st ≠ .free ∨ (s.strand j).bank < need) ∧ (s.strand sid).st = .free ∧ need ≤ (s.strand sid).bank
  let starts (s u : State) (m : Nat) (g : Group) (sid : Nat) (t : Task) : Prop :=
    let c := u.core sid
    (u.strand sid).st = .ready ∧ (u.strand sid).mcx = m ∧ (u.strand sid).act = t.act ∧ (u.strand sid).scope = t.scope
      ∧ (u.strand sid).bank = (s.strand sid).bank ∧ (u.strand sid).stores = [] ∧ (u.strand sid).waits = []
      ∧ (∀ k, k < 5 → c.rx (k + 1) = t.args.getD k 0) ∧ c.rx 6 = BitVec.ofNat 64 t.inst
      ∧ c.rx 7 = BitVec.ofNat 64 (whoOf sid + g.gsp (gnumOf sid) * 2 ^ 11 + g.spindles.length * 2 ^ 18 + t.node * 2 ^ 25 + t.dyn.toNat * 2 ^ 37)
      ∧ (∀ k, 8 ≤ k → c.rx k = 0) ∧ c.rp 0 = BitVec.allOnes 128 ∧ (∀ k, k ≠ 0 → c.rp k = 0) ∧ c.v = (s.core sid).v
      ∧ c.flight = (s.core sid).flight.filter (fun f => f.file == .v && f.shadow.isNone)
      ∧ c.pc = t.entry ∧ c.mpc = t.mpc0 ∧ c.status = 0 ∧ c.fmt = 0 ∧ c.loops = [] ∧ c.rets = [] ∧ c.shadows = []
      ∧ (∀ j, j ≠ sid → u.strand j = s.strand j) ∧ (∀ j, j ≠ m → u.group j = s.group j) ∧ u = { s with strands := u.strands, groups := u.groups }
  (∀ (s : State) (g : Group) (t : Task) (r : List Task) (sid : Nat),
    let m := s.ev.n
    bound s m → s.group m = some g → quiet g →
    (g.ready = [] → exec .taskPlace s = .next s)
    ∧ (g.ready = t :: r → first s (s.taskSlots m g) t.bank sid → ∃ u h, exec .taskPlace s = .next u ∧ starts s u m g sid t
        ∧ u.group m = some h ∧ h.ready = r ∧ h.scopes = g.scopes))
  ∧ (∀ (s : State) (m : Nat) (g : Group) (b sid : Nat), s.freeSlot m g b = some sid →
      sid ∈ g.sids ∧ slotOf sid ≤ s.hw m 3 / 2 ^ 8 % 4 ∧ (s.strand sid).st = .free ∧ b ≤ (s.strand sid).bank)
  ∧ (∀ (s : State) (g : Group) (x : Activation) (sid v lo hi : Nat) (pre post : AMap (Option (Nat × Nat))),
      let m := s.ev.n
      let t := nodeTask x.node s.ev.m 0 g.root x.words (rangeArgs x.words)
      let cut := lo + x.grain * ((hi - lo) / (2 * x.grain))
      bound s m → s.group m = some g → g.act s.ev.m = some x → nodeKind (x.words.headD 0).toNat = 6 → x.live < x.width → g.ready = [] → g.cancelled = none →
      first s (s.taskSlots m g) t.bank sid →
      x.ranges = pre ++ (v, some (lo, hi)) :: post → (∀ p ∈ pre, ∀ l h, p.2 = some (l, h) → h - l < hi - lo) → (∀ p ∈ post, ∀ l h, p.2 = some (l, h) → h - l ≤ hi - lo) →
      2 * x.grain ≤ hi - lo →
      lo < cut ∧ cut < hi ∧ ∃ u h y, exec .rangeSteal s = .next u ∧ starts s u m g sid t ∧ u.group m = some h ∧ h.act s.ev.m = some y
        ∧ y = { x with live := x.live + 1, ranges := mset none (mset none x.ranges v (some (lo, cut))) sid (some (cut, hi)) })
  ∧ (∀ (x : Activation) (thief : Option Nat) (v lo hi : Nat), x.victim thief = some (v, lo, hi) →
      let cut := lo + x.grain * ((hi - lo) / (2 * x.grain))
      x.steal thief = some ({ x with ranges := mset none x.ranges v (some (lo, cut)) }, cut, hi) ∧ 2 * x.grain ≤ hi - lo ∧ lo < cut ∧ cut < hi)
  ∧ (∀ s : State,
      let k := s.focus
      let t := s.strand k
      let u := s.setStrand k t.retired
      let drained : Prop := t.st = .halted ∧ t.waits = [] ∧ t.core.flight = [] ∧ t.stores = [] ∧ t.arvPend = [] ∧ (t.core.reel.waiting = [] ∨ t.core.reel.err.isSome = true)
        ∧ t.core.reel.susp = none ∧ (∀ c ∈ (s.spindle (gnumOf k)).queue, c.sid ≠ k) ∧ s.repeatOf k = none ∧ (∀ j ∈ s.copyList, j.sid ≠ k)
        ∧ s.asking k (fun _ => true) = false
      (t.st ≠ .halted ∨ t.waits ≠ [] ∨ t.stores ≠ [] ∨ (s.spindle (gnumOf k)).queue.any (fun c => c.sid == k) = true
        ∨ s.copyList.any (fun j => j.sid == k) = true → exec .strandRetire s = .next s)
      ∧ (drained → isMill k = true → exec .strandRetire s = .next u)
      ∧ (drained → isMill k = false → exec .strandRetire s = .next ((((u.skeinLeaveAll t.mcx k).updGroup t.mcx fun g =>
          { g with scopes := g.scopes.map fun p => (p.1, p.2.map fun x => if x.creator = some k then { x with creator := none } else x) }).taskGone
            t.mcx t.act (some k)).settle t.mcx))
      ∧ (∀ g x, drained → isMill k = false → s.group t.mcx = some g → quiet g → g.ended = none → g.cancelled = none → (∀ p ∈ g.skeins, k ∉ p.2.members) →
          (∀ p ∈ g.scopes, ∀ y, p.2 = some y → y.creator ≠ some k) → g.act t.act = some x → 2 ≤ x.live →
          ∃ w h, exec .strandRetire s = .next w ∧ w.strand k = t.retired ∧ (∀ j, j ≠ k → w.strand j = s.strand j) ∧ w.group t.mcx = some h
            ∧ h = { g.setAct t.act (some { x with live := x.live - 1, ranges := mset none x.ranges k none }) with scopes := h.scopes }
            ∧ h.scopes = g.scopes ∧ w = { s with strands := w.strands, groups := w.groups })
      ∧ t.retired.st = .free ∧ t.retired.bank = t.bank ∧ t.retired.core.v = t.core.v)
  ∧ (∀ (s : State) (g : Group) (c : Nat) (left seen : List Nat) (rest : List (Nat × List Nat × List Nat)),
      let m := s.ev.n
      let sp := s.ev.m
      bound s m → s.group m = some g → g.kills = (c, left, seen) :: rest → left.contains sp = true →
      let r := s.killSpindle m g c sp seen
      let hit (sid : Nat) : Prop := sid / 4 = sp ∧ (s.strand sid).st ≠ .free ∧ (s.strand sid).mcx = m ∧ g.inTree c (s.strand sid).scope = true
      exec .killArrival s = .next ((r.1.updGroup m fun g =>
        { g with kills := (g.kills.map fun k => if k.1 = c && k.2.1 = left then (c, left.filter (· != sp), r.2) else k).filter fun k => !k.2.1.isEmpty }).settle m)
      ∧ (∀ sid, hit sid → let t := r.1.strand sid
          t.st = .halted ∧ t.killed = true ∧ t.stores = [] ∧ t.core.loops = [] ∧ t.core.rets = [] ∧ t.core.shadows = []
            ∧ ((∀ w ∈ (s.strand sid).waits, w.isRel = false) → t.waits = []))
      ∧ ∀ sid, ¬ hit sid → (r.1.strand sid).st = (s.strand sid).st ∧ (r.1.strand sid).killed = (s.strand sid).killed)
  ∧ ∀ (s : State) (sid : Nat) (seen : List Nat), (s.strand sid).st ≠ .free → (∀ j ∈ s.copyList, j.sid = sid → s.endsInImage j = false) →
      let t := (s.killStrand sid seen).1.strand sid
      t.st = .halted ∧ t.killed = true ∧ t.stores = [] ∧ t.waits = (s.strand sid).waits.filter Wait.isRel ∧ t.core.loops = [] ∧ t.core.rets = []
        ∧ t.core.shadows = [] ∧ ∀ a, mget 0 (s.killStrand sid seen).1.hbm a = mget 0 s.hbm a

/-- R126, R129, R132, R135, R137 to R139: a copy starts in issue order on its channel, pins and decodes its streams, writes one destination sector at a time, and
ends with its granules released and its bytes subtracted from its barrier, which flips when nothing is owed; an error ends it with the barrier marked, once the
withheld stores to its granules have been performed. R124: a bank transition. R240, R244: a queued call starts, and a repeat sequence enqueues its next. R120:
the shadow comparison. R265, R273: a frame is written and decoded. Choices of the model that the clauses use: that a transforming copy of a mill
strand ends with PROT (notes/assumptions/54.md), what counts as an accumulator that a call writes (notes/assumptions/58.md), the window of a repeat sequence
(notes/assumptions/60.md), and that an error in the hardware is an input of the event (notes/assumptions/26.md). -/
def Obligations.EngineEvents : Prop :=
  (∀ (s : State) (j : CopyJob), s.evCopy = some j →
    let earlier := (s.channelCopies j.sid j.ch).any fun i => i.id < j.id && i.phase != .started
    (j.phase ≠ .waiting ∨ earlier = true → exec .copyStart s = .next s)
    ∧ (∀ c, j.phase = .waiting → earlier = false → j.fail = some c → exec .copyStart s = .next (s.failCopy j c))
    ∧ (j.phase = .waiting → earlier = false → j.fail = none →
        (j.reachesCtrl = true ∨ (rXform j.srec ≠ 0 ∧ (j.mill = true ∨ dSpace j.src ≠ 0)) → exec .copyStart s = .next (s.failCopy j cProt))
        ∧ (j.reachesCtrl = false → ¬ (rXform j.srec ≠ 0 ∧ (j.mill = true ∨ dSpace j.src ≠ 0)) → exec .copyStart s = .next (s.updCopy j.id fun j => { j with phase := .started })))
    ∧ (∀ c, j.fail = some c → exec .copySectorWrite s = .next (s.failCopy j c))
    ∧ (j.phase = .started → rXform j.srec ≠ 0 → j.pinned = false → j.susp = none → j.fail = none →
        (∀ x t, s.pinStreams j = .ok x t → exec .transformPin s = .next (t.updCopy j.id fun j => { j with pinned := true, dense := some x }))
        ∧ (∀ c t, s.pinStreams j = .err c t → exec .transformPin s = .next (t.failCopy ((t.copyJob j.id).getD j) c))
        ∧ ∀ t, s.pinStreams j = .wait t → exec .transformPin s = .next t)
    ∧ (j.ready = true →
        let k := j.pick s.ev.m
        let party := if j.mill then 32 else s.partOf j.mcx
        (∀ t, s.copySector j k s.ev.flag = .ok () t → (s.ev.v = 0 → exec .copyError s = .next s)
          ∧ exec .copySectorWrite s = .next ((((t.countEv party 9 1).progress party).updCopy j.id fun j => { j with todo := j.todo.filter (· != k) }).copyProgress j.id))
        ∧ (∀ pa, j.mill = false → s.ev.v.toNat = 8 * pa + 2 →
            exec .copyError s = .next ((s.uncorrectable j.die (some j.mcx) j.who cMemUe .ue (.hbm pa 0) 0).failCopy j cMemUe))
        ∧ ∀ c t, s.copySector j k s.ev.flag = .err c t → (s.ev.v = 0 → exec .copyError s = .next (t.failCopy ((t.copyJob j.id).getD j) c))
            ∧ exec .copySectorWrite s = .next (t.failCopy ((t.copyJob j.id).getD j) c))
    ∧ (∀ c, (s.storeAhead j = false → (s.failCopy j c).copyJob j.id = none)
        ∧ (s.storeAhead j = true → s.failCopy j c = s.updCopy j.id fun i => { i with fail := some (j.fail.getD c) }))
    ∧ (j.ready = true → dSpace j.dst = 2 → ∀ b, (s.copyClu j).bobbin (dBase j.dst) = some b → b.tag b.head = .empty → j.chunks * b.slotBytes < j.dstBytes →
        exec .bobbinSlotStart s = .next ((s.updCopyClu j fun c => c.setBobbin (dBase j.dst)
            (some { b.setTag b.head .filling with head := (b.head + 1) % b.nslots, filled := mset 0 b.filled b.head 0, filler := mset 0 b.filler b.head j.id })).updCopy j.id
          fun j => { j with slots := mset 0 j.slots j.chunks (b.head + 1), chunks := j.chunks + 1 })))
  ∧ (∀ (j : CopyJob) (k : Nat) (old : List Byte) (late : Bool), rWidth j.drec = 8 →
      (∀ p ∈ sectorElems j.dst j.drec k, ∃ i : Nat, i < 128 ∧ p.2 = 1024 * k + 8 * (i : Int)) → ((sectorElems j.dst j.drec k).map Prod.snd).Nodup →
      let new := bitsOver old (j.sectorBits k late).1 (j.sectorBits k late).2
      ∀ i : Nat, i < 128 →
        (∀ p ∈ sectorElems j.dst j.drec k, p.2 = 1024 * k + 8 * (i : Int) → new.getD i none = some (BitVec.ofNat 8 (j.value p.1)))
        ∧ ((∀ p ∈ sectorElems j.dst j.drec k, p.2 ≠ 1024 * k + 8 * (i : Int)) → new.getD i none = none))
  ∧ (∀ (s : State) (j : CopyJob) (off : Nat) (bs : List (Option Byte)), j.redirected = false → s.storesPending j.cl off 128 = false → bs.length = 128 →
      mget false (s.cluster j.cl).poison (off / 128) = false →
      ∃ t, s.putSpad j off bs = .ok () t ∧ (∀ k, k ≠ j.cl → t.cluster k = s.cluster k)
        ∧ ∀ a, mget 0 (t.cluster j.cl).bytes a = if off ≤ a ∧ a < off + 128 then (bs.getD (a - off) none).getD (mget 0 (s.cluster j.cl).bytes a)
            else mget 0 (s.cluster j.cl).bytes a)
  ∧ (∀ (c : Cluster) (off n : Nat), (c.mark off).armed = true → n ≤ c.barPending off →
      let arrivals := c.barW off 2 % 2 ^ 16
      ((c.barPending off ≠ n ∨ arrivals ≠ 0) → (c.barSub off n none).barW off 0 = c.barW off 0 - n ∧ ((c.barSub off n none).mark off).armed = true)
      ∧ (c.barPending off = n → arrivals = 0 → (c.mark off).err = false → (c.mark off).abandon = false → (c.mark off).ecause = 0 →
          let expect := c.barW off 1 % 2 ^ 28
          let armed := expect != 0 || c.barW off 2 / 2 ^ 16 != 0
          (c.barSub off n none).barW off 0 = expect + (!c.barPhase off).toNat * 2 ^ 28 + armed.toNat * 2 ^ 31
            ∧ (c.barSub off n none).barFlipped off = true ∧ ((c.barSub off n none).mark off).armed = armed)
      ∧ ∀ cause, c.barPending off = n → arrivals = 0 → bitOf ((c.barSub off n (some cause)).barW off 0) 29 = true)
  ∧ (∀ (r : List Byte) (t last : Byte) (fuel : Nat),
      (t.toNat < 0x80 → codecDecode (fuel + 1) last (t :: r) = if r.length < t.toNat + 1 then none
          else (codecDecode fuel ((r.take (t.toNat + 1)).getLastD last) (r.drop (t.toNat + 1))).map fun o => r.take (t.toNat + 1) ++ o)
      ∧ (0x80 ≤ t.toNat → t.toNat < 0xC0 → codecDecode (fuel + 1) last (t :: r) = (codecDecode fuel 0 r).map fun o => List.replicate (8 * (t.toNat - 0x7F)) 0 ++ o)
      ∧ (0xC0 ≤ t.toNat → codecDecode (fuel + 1) last (t :: r) = (codecDecode fuel last r).map fun o => List.replicate (t.toNat - 0xBD) last ++ o))
  ∧ (∀ (s : State) (sid b m : Nat) (rest : List (Nat × Nat × Nat)),
      let cl := s.ev.n
      let t : Nat × Nat × Nat := (sid, b, m)
      let u := s.updCluster cl fun c => { c with trans := rest }
      s.ev.m = b → (s.cluster cl).trans = t :: rest →
      (s.bankStores cl b = true → exec .bankTransition s = .next s)
      ∧ (s.bankStores cl b = false →
        (s.transOk cl b (modeOf (m % 4)) = true → exec .bankTransition s = .next ((u.enterMode cl b (modeOf (m % 4))).transDone sid cl b (m % 4)))
        ∧ (s.transOk cl b (modeOf (m % 4)) = false → (s.strand sid).waits.contains (.bankmode cl b (m % 4)) = true →
            exec .bankTransition s = .next (u.trapBlocked sid { cause := cOwner, slot := m / 4, addr := b }))))
  ∧ (∀ (c : Cluster) (b : Nat) (m : BankMode), (c.bank b).mode ≠ m → mwf 0 c.bytes = true →
      ((c.enterMode b m).bank b).mode = m
      ∧ ∀ a, mget 0 (c.enterMode b m).bytes a = if a / 2 ^ 18 = b then 0 else mget 0 c.bytes a)
  ∧ (∀ (s : State) (c : Call) (r : List Call),
      let g := s.ev.n
      (s.spindle g).queue = c :: r →
      let n := (s.core c.sid).shcount + 1
      let every := (s.core c.sid).shadown.toNat
      (c.started = true ∨ s.callStops c.sid = true → exec .callStart s = .next s)
      ∧ (c.started = false → s.callStops c.sid = false → s.ev.flag = false →
        (writesAcc c.flags.toNat false ((s.routine c.sid c.rout).getD []) = false → exec .callStart s = .next (s.setCall g { c with started := true }))
        ∧ (writesAcc c.flags.toNat false ((s.routine c.sid c.rout).getD []) = true →
          (every = 0 ∨ n.toNat % every ≠ 0 → exec .callStart s = .next ((s.updStrand c.sid Strand.countShadow).setCall g { c with started := true }))
          ∧ (every ≠ 0 → n.toNat % every = 0 → ∃ d : Call, exec .callStart s = .next ((s.updStrand c.sid Strand.countShadow).setCall g d)
              ∧ d = { c with started := true, shadowed := some n.toNat, skipped := (s.spindle g).shadowBusy.isSome, startAcc := d.startAcc, shAcc := d.shAcc }))))
  ∧ (∀ s : State, (∀ sid, sid / 4 = s.ev.n → s.repeatOf sid = none) → exec .repeatEnqueue s = .next s)
  ∧ (∀ (s : State) (r : Repeat) (k : Nat),
      let g := s.ev.n
      let sid := 4 * g + k
      let args := r.args
      let others : Prop := ∀ j, j < 4 → j ≠ k → s.repeatOf (4 * g + j) = none
      (k < 4 → others → s.callStops sid = false → s.repeatOf sid = some r →
        (∀ c, s.window sid (mget 0 args 7).toNat = .error c → exec .repeatEnqueue s = .next (s.callFault sid c))
        ∧ ∀ w, s.window sid (mget 0 args 7).toNat = .ok w →
          (8 ≤ (s.spindle g).queue.length ∨ s.winBusy (clusterOf sid) w ≠ [] → exec .repeatEnqueue s = .next s)
          ∧ ((s.spindle g).queue.length < 8 → s.winBusy (clusterOf sid) w = [] → exec .repeatEnqueue s = .next
            ((({ s with nextId := s.nextId + 1 }).enqueue { r.call with id := s.nextId, m := args, mpc := r.call.mpc + BitVec.ofNat 32 r.k, win := w }).updSpindle (gnumOf sid)
              fun x => { x with rpts := mset none x.rpts (slotOf sid) (if r.k + 1 < r.n then some { r with k := r.k + 1 } else none) })))
      ∧ ∀ i, i < 8 → mget 0 args i = mget 0 r.call.m i + BitVec.ofInt 64 ((r.k : Int) * (mget 0 r.strides i).toInt))
  ∧ (∀ s : State, ((s.spindle s.ev.n).shadowBusy = none → exec .shadowCompare s = .next s)
      ∧ ∀ j, (s.spindle s.ev.n).shadowBusy = some j → exec .shadowCompare s = .next ((s.shadowEntry j).updSpindle s.ev.n fun x => { x with shadowBusy := none }))
  ∧ ∀ s : State,
      let t := s.strand s.focus
      let r := s.me.reel
      let c := s.reelCfg s.focus
      (r.waiting = [] ∨ r.susp.isSome = true ∨ r.err.isSome = true → exec .frameWrite s = .next s)
      ∧ (∀ n bs rest pl s1 s2, r.waiting = (n, bs) :: rest → r.susp = none → r.err = none → t.reelMay (n, bs) = true → n < 2 ^ 40 → bs ≠ [] →
          s.place s.focus (c.slotAddr n) .write = .ok (pl, s1) → ((∃ pa k, pl.loc = .hbm pa k) ∨ ∃ pa, pl.loc = .phys pa) → s1.writeLoc pl.loc bs = .ok s2 →
          exec .frameWrite s = .next (((((s2.charge s.focus pl 512 .write).lea (s2.mcxOf s.focus) 7 512).updReel s.focus fun r =>
            { r with waiting := r.waiting.erase (n, bs) })).updStrand s.focus fun t => { t with reelIn := [] }))
      ∧ ∀ n bs refill, t.wantsFrame = some n → r.susp = none → r.err = none → s.ev.flag = false → s.reelFrame s.focus r c n = (.ok bs, refill) →
          let back := refill && !r.shut
          exec .frameDecode s = .next ((s.chargeFrames s.focus r c n n).updStrand s.focus fun t => { t with
              core := { t.core with reel := { t.core.reel with
                replay := t.core.reel.replay.filter (fun p => p.1 != n) ++ [(n, decodeFrame n bs)]
                waiting := if refill && !t.core.reel.shut then t.core.reel.waiting ++ [(reelBack n, bs)] else t.core.reel.waiting
                held := if refill && !t.core.reel.shut then mset 0 t.core.reel.held (n % c.frames) (n + 1) else t.core.reel.held } }
              reelAt := if back then some (t.reelAt.getD r) else t.reelAt
              reelIn := [] })

/-- R266 to R268, R273: a frame decodes to the records it was coded from, for every list of records that a frame can hold. -/
def Obligations.FrameRoundTrip : Prop :=
  ∀ (n back : Nat) (top : Bool) (recs : List ReelRec),
    (∀ r ∈ recs, r.tag ≤ 6 ∧ (r.tag ≤ 3 → r.val < 2 ^ (8 * recLen r.tag)) ∧ (r.tag = 4 → r.val < 2) ∧ (r.tag = 5 → r.val < 2 ^ 16) ∧ (r.tag = 6 → r.val = 0)) →
    n < 2 ^ 32 → back < 2 ^ 48 → (encRecs [] recs).length ≤ 496 →
    (frameBytes n recs top back).length = 512 ∧ decodeFrame n (frameBytes n recs top back) = some recs ∧ decodeFrame (n + 1) (frameBytes n recs top back) = none

/-- R296, R291: an IPI raises its bit of EVPEND, and MSPAWN starts a FREE mill slot; R306, R310: a record is loaded and its context dispatched; R311: a request
times out; R320, R322: a complete stop posts its save, and DQACK is checked against the oldest entry; R329, R330: a watchdog warns at half its limit and
resets its partition at the limit; R352, R353, R355: DBGCTL and the stop it brings; R361, R362, R363: the walk for a withheld store, or a replaced translation; R364, R365: a fault entry is
posted; R368: a frame is refetched or poisoned. Choices of the model that the clauses use: that the flag of TLB_MISS_WALK replaces a translation
(notes/assumptions/24.md), what a refetch that fails leaves and who is charged for one (notes/assumptions/37.md, notes/assumptions/66.md), that a context whose
load fails its checks is not loaded (notes/assumptions/57.md), and that an error in the hardware is an input of the event (notes/assumptions/26.md). -/
def Obligations.DistaffEvents : Prop :=
  ∀ s : State,
    let n := s.ev.n
    let m := s.ev.m
    let v := s.ev.v.toNat
    let d := n % 4
    let rd := n / 2 ^ 40 % 4
    ((s.die d).ipis.contains m = false → exec .ipiDeliver s = .next s)
    ∧ ((s.die d).ipis.contains m = true → m < 8 → exec .ipiDeliver s =
        .next ((s.updDie d fun x => { x with ipis := x.ipis.erase m }).setEv d (BitVec.ofNat 13 (2 ^ m))))
    ∧ (let sid := 384 * d + m % 4
       ((s.strand sid).st ≠ .free → exec .mspawn s = .next s)
       ∧ ((s.strand sid).st = .free → ∃ t, exec .mspawn s = .next t ∧ t = { s with strands := t.strands } ∧ (∀ j, j ≠ sid → t.strand j = s.strand j)
          ∧ (t.strand sid).st = .ready ∧ (t.core sid).pc = BitVec.ofNat 32 v ∧ (t.core sid).v = (s.core sid).v ∧ (∀ k, k < 7 → (t.core sid).rx k = 0)
          ∧ (t.core sid).status = 0 ∧ (t.core sid).intrap = false))
    ∧ ((s.loadWanted n = false ∨ s.loadCtx n = .waits → exec .contextRecordLoad s = .next s)
      ∧ (∀ t, s.loadWanted n = true → s.loadCtx n = .fails t → exec .contextRecordLoad s = .next t)
      ∧ ∀ t, s.loadWanted n = true → s.loadCtx n = .loaded t → exec .contextRecordLoad s = .next (t.dispatch (t.partOf n)))
    ∧ (let p (r : Req) : Bool := r.slot == m
       (s.hw n 4 / 2 ^ 32 % 2 ^ 16 = 0 → exec .requestTimeout s = .next s)
       ∧ (s.hw n 4 / 2 ^ 32 % 2 ^ 16 ≠ 0 →
          (s.ev.flag = false → (s.waitingOf n).any (fun r => !r.dead && p r) = true → exec .requestTimeout s = .next ((s.markDead n p nrpTimeout).dispatch (s.partOf n)))
          ∧ (s.ev.flag = true ∨ (s.waitingOf n).any (fun r => !r.dead && p r) = false →
            ((∀ g, s.group n = some g → p g.req = false) → exec .requestTimeout s = .next s)
            ∧ ∀ g, s.group n = some g → p g.req = true → g.ended = none → g.cancelled = none →
                exec .requestTimeout s = .next ((s.endRequest n stTimeout).settle n))))
    ∧ (∀ st g, s.stop n = some st → s.group n = some g →
        let u := (s.groupSlots n g.spindles).foldl State.saveSlot s
        let h := g.spindles.headD 0 / 96
        (st.posted = true ∨ st.stepOver = true → exec .savePost s = .next s)
        ∧ (st.posted = false → st.stepOver = false →
          (u.allSaved n g = false ∨ 64 ≤ (u.die h).dq.length → exec .savePost s = .next u)
          ∧ (u.allSaved n g = true → (u.die h).dq.length < 64 → exec .savePost s = .next (((u.setStop n (some { st with posted := true })).updDie h fun x =>
              { x with dq := x.dq ++ [BitVec.ofNat 64 (1 + n * 2 ^ 2 + g.spindles.headD 0 * 2 ^ 16 + g.spindles.length * 2 ^ 25)] }).setEv h 0x400))))
    ∧ (((s.die rd).dq = [] → exec .dqack s = .next s)
      ∧ ∀ e r, (s.die rd).dq = e :: r →
        let u := s.updDie rd fun x => { x with dq := r }
        let c := e.toNat / 2 ^ 2 % 2 ^ 14
        let go (w : State) : State := (List.range 32).foldl (fun w q =>
          if (w.part q).die.toNat = rd ∧ (mget none (w.die rd).latched q).isSome = true then w.dispatch q else w) w
        (v % 2 ^ 56 ≠ e.toNat % 2 ^ 56 → exec .dqack s = .next s)
        ∧ (v % 2 ^ 56 = e.toNat % 2 ^ 56 →
          (s.group c = none → exec .dqack s = .next (go u))
          ∧ ∀ g, s.group c = some g →
            (e.toNat % 4 = 1 →
              (v / 2 ^ 56 ≠ 3 → (u.groupSlots c g.spindles).all (fun sid => (s.strand sid).imaged) = true → exec .dqack s = .next (go ((u.saveDone rd c g).settle c)))
              ∧ (v / 2 ^ 56 = 3 ∨ (u.groupSlots c g.spindles).all (fun sid => (s.strand sid).imaged) = false → exec .dqack s = .next (go (u.postDq rd 1 c g.spindles))))
            ∧ (e.toNat % 4 ≠ 1 →
              (mget [] s.restoring c = [] → s.ctxCode c = 3 → (s.spindle (g.spindles.headD 0)).mcx = some c →
                let o := u.openGate rd c g
                exec .dqack s = .next (go (if o.ctxCode c = 3 ∧ (o.group c).isSome = true then o.postDq rd 2 c g.spindles else o)))
              ∧ (mget [] s.restoring c ≠ [] → v / 2 ^ 56 = 5 → exec .dqack s = .next (go (u.refuseRestore rd c g)))
              ∧ (mget [] s.restoring c ≠ [] → v / 2 ^ 56 ≠ 5 → exec .dqack s = .next (go (u.postDq rd 2 c g.spindles))))))
    ∧ (let q := m % 32
       let w := s.watch q n
       let lim := s.watchLimit q
       (lim = 0 ∨ s.watched q = false → exec .watchdogWarning s = .next s ∧ exec .partitionReset s = .next s)
       ∧ (lim ≠ 0 → s.watched q = true → w.watchCount q = s.watchCount q + n
          ∧ (let w2 := if s.watchCount q < lim / 2 ∧ lim / 2 ≤ s.watchCount q + n then w.setEv (s.part q).die.toNat 0x800 else w
             ∀ i ∈ [Instr.watchdogWarning, .partitionReset],
              (s.watchCount q + n < lim → exec i s = .next w2)
              ∧ (lim ≤ s.watchCount q + n → exec i s = .next ((w2.resetPartition q cWatchdog).dispatch q)))))
    ∧ (let c := v % 2 ^ 14
       (s.debugPermits c = false ∨ (s.part (s.partOf c)).die.toNat ≠ rd → exec .dbgctl s = .next s)
       ∧ (s.debugPermits c = true → (s.part (s.partOf c)).die.toNat = rd →
          let u := s.updDie rd fun x => { x with
            dbgMcx := s.ev.v.setWidth 14, dbgHold := s.ev.v.getLsbD 14, dbgBrk := s.ev.v.getLsbD 15
            dbgStep := if s.ev.v.extractLsb' 16 2 = 3 then 0 else s.ev.v.extractLsb' 16 2, dbgTarget := s.ev.v.extractLsb' 18 11 }
          exec .dbgctl s = .next (u.dispatch (u.partOf c))))
    ∧ ((s.stop n = none → exec .debugStop s = .next s)
      ∧ ∀ st reason noissue, s.stop n = some st → st.debug = some (reason, noissue) →
        (st.stepOver = true → s.stepDone n st = false → exec .debugStop s = .next s)
        ∧ (st.stepOver = true → s.stepDone n st = true → exec .debugStop s = .next (s.stopGroup n { debug := some (reason, noissue) }))
        ∧ (st.stepOver = false → s.ctxCode n = 3 →
            let u := (s.updDie (s.part (s.partOf n)).die.toNat fun x =>
              { x with dbgHold := true, dbgStopped := true, dbgReason := BitVec.ofNat 8 reason, dbgNoissue := noissue }).setStop n none
            exec .debugStop s = .next (u.dispatch (u.partOf n))))
    ∧ (s.ev.flag = true → exec .tlbMissWalk s = .next { s with tlb := s.tlb.eraseIdx n })
    ∧ (∀ p r, s.ev.flag = false → (s.strand s.focus).stores = p :: r → p.pend.isSome = true → ((s.strand s.focus).st = .ready ∨ (s.strand s.focus).st = .running) →
        (∀ q u, s.resolveStore s.focus [] p = .ok (q, u) → exec .tlbMissWalk s = .next (u.updStrand s.focus fun t => { t with stores := q :: r }))
        ∧ ∀ f, s.resolveStore s.focus [] p = .error f → exec .tlbMissWalk s = .next (s.takeFault s.focus f 1 p.slot false))
    ∧ (let x := s.die d
       let a := x.fqbase.toNat + 32 * (x.fqposted.toNat % 2 ^ x.fqlog.toNat)
       (x.fqbase = 0 ∨ x.faults = [] ∨ x.faults.any (fun e => e.posted == some a) = true → exec .faultPost s = .next s)
       ∧ ∀ e r, x.fqbase ≠ 0 → x.faults = e :: r → e.posted = none → x.faults.any (fun e => e.posted == some a) = false →
          exec .faultPost s = .next ((((s.physWrite a (e.words.flatMap (leBytes 8))).chargeSectors 32 none a 32 .write).updDie d fun y =>
            { y with fqposted := y.fqposted + 1, faults := y.faults.map fun k => if k.key == e.key then { k with posted := some a, seq := x.fqposted.toNat } else k }).countEv (s.partOf e.mcx) 10 1))
    ∧ (let ra := (s.die d).shdir.toNat + 64 * m
       let c := s.chargeSectors 32 none ra 64 .read
       let u := c.dropPeer d (refetchUnit m)
       ((s.die d).refetch.contains m = false → exec .sharedFrameRefetch s = .next s)
       ∧ ((s.die d).refetch.contains m = true →
          (s.frameRec ra = none → exec .sharedFrameRefetch s = .next ((c.poisonFrame ra m).refetched m))
          ∧ ∀ x, s.frameRec ra = some x →
            (s.ev.flag = true → exec .sharedFrameRefetch s = .next ((u.poisonFrame ra m).refetched m))
            ∧ ∀ bs, s.ev.flag = false → x.ok = true → locOk x.loc = true → c.fetchUnit d (refetchUnit m) x.loc = .bytes bs →
              (Config.sha512t bs = x.hash → exec .sharedFrameRefetch s = .next (((u.putUnit (65536 * m) x.key bs).getD (u.poisonFrame ra m)).refetched m))
              ∧ (Config.sha512t bs ≠ x.hash → exec .sharedFrameRefetch s = .next ((u.poisonFrame ra m).refetched m))))

/-! ## Events of the module -/

/-- R370 to R372, R375 to R381, R398, R448: writes of partition registers are checked, and refused with PERR; channel floors are checked against their sum, and an
arbiter slot tops up and grants; the controller keeps an island within its cap; a relock, an idle entry and a wake change an island; an overheated die is
marked. -/
def Obligations.PartitionEvents : Prop :=
  ∀ s : State,
    let v := s.ev.v
    let o := s.ev.n % 2 ^ 40
    (let q := o / 0x100 % 32
     let x := s.part q
     let refused (y : Part) (pctl : Bool) : Result := .next { s with perr := s.perr ||| BitVec.ofNat 5 (s.partErrors (s.setPart q y) q pctl) }
     (let y : Part := { x with
        enable := v.getLsbD 0, die := v.extractLsb' 1 2, clusters := v.extractLsb' 3 12, freq := v.extractLsb' 16 6, pstate := v.extractLsb' 22 2 }
      let z := if y.freq.toNat < y.target.toNat then y.retune y.freq else y
      (s.keng.lcs = 4 → y.pstate ≠ 3 → bitOf (s.partErrors (s.setPart q y) q true) 4 = true)
      ∧ (s.partErrors (s.setPart q y) q true ≠ 0 → exec .pctl s = refused y true)
      ∧ (s.partErrors (s.setPart q y) q true = 0 →
        (x.enable = y.enable → exec .pctl s = .next ((s.setPart q y).setPart q z))
        ∧ (x.enable = false → y.enable = true →
            exec .pctl s = .next ((((s.setPart q y).setPart q z).setPart q { z with istate := if s.keng.lcs = 4 then 3 else 0 }).dispatch q))
        ∧ (x.enable = true → y.enable = false → exec .pctl s =
            .next (((((s.setPart q y).setPart q z).clearClusters x).dropLines q x.banks).setPart q { z with istate := if s.keng.lcs = 4 then 3 else 0 }))))
     ∧ (let c := v.setWidth 12
        let y : Part := { x with cap := c }
        (c.toNat < 50 ∨ 3000 < c.toNat → exec .pcap s = .next { s with perr := s.perr ||| BitVec.ofNat 5 (s.partErrors (s.setPart q y) q false ||| 16) })
        ∧ (50 ≤ c.toNat → c.toNat ≤ 3000 → (s.partErrors (s.setPart q y) q false = 0 → exec .pcap s = .next (s.setPart q y))
          ∧ (s.partErrors (s.setPart q y) q false ≠ 0 → exec .pcap s = refused y false))
        ∧ (y.enable = true → s.modcap.toNat < (s.setPart q y).capSum → bitOf (s.partErrors (s.setPart q y) q false) 2 = true))
     ∧ (let y : Part := { x with scmask := mset 0 x.scmask ((o % 0x100 - 0x40) / 8) v }
        (s.partErrors (s.setPart q y) q false = 0 → exec .scmask s = .next (s.setPart q y))
        ∧ (s.partErrors (s.setPart q y) q false ≠ 0 → exec .scmask s = refused y false)))
    ∧ (let k := (o - 0x10000) / 8 / 32
       let q := (o - 0x10000) / 8 % 32
       let c := s.chan k
       let floor : BitVec 10 := v.setWidth 10
       let burst : BitVec 8 := v.extractLsb' 16 8
       let range : Prop := 900 < floor.toNat ∨ burst = 0
       let sum : Prop := 900 < c.floorSum - c.floorOf q + floor.toNat
       (range → ¬ sum → exec .partitionFloor s = .next { s with perr := s.perr ||| 16 })
       ∧ (sum → ¬ range → exec .partitionFloor s = .next { s with perr := s.perr ||| 8 })
       ∧ (range → sum → exec .partitionFloor s = .next { s with perr := s.perr ||| 24 })
       ∧ (¬ range → ¬ sum → exec .partitionFloor s = .next (s.setChan k { c with floor := mset 0 c.floor q floor, burst := mset 16 c.burst q burst })))
    ∧ exec .arbiterSlot s = .next (s.setChan s.ev.n ((s.chan s.ev.n).slot s.ev.flag).1)
    ∧ (let q := s.ev.n % 32
       let x := s.part q
       (x.enable = false → exec .capWindowEnd s = .next s)
       ∧ (x.enable = true → exec .capWindowEnd s = .next (s.setPart q (x.window (v.setWidth 20).toNat (s.die x.die.toNat).hot)))
       ∧ (x.relock = none → exec .freqRelock s = .next s)
       ∧ (∀ f, x.relock = some f → exec .freqRelock s =
            .next ((s.partSpindles q).foldl (fun t g => t.stallCycles g s.ev.m) (s.setPart q { x with curfreq := f, relock := none })))
       ∧ (x.enable = false ∨ x.istate ≠ 0 ∨ s.idleState x = 0 ∨ s.islandBusy q = true → exec .islandIdleEntry s = .next s)
       ∧ (x.enable = true → x.istate = 0 → s.islandBusy q = false →
          (s.idleState x = 1 ∨ s.idleState x = 2 → exec .islandIdleEntry s = .next (s.setPart q { x with istate := s.idleState x }))
          ∧ (s.idleState x = 3 → exec .islandIdleEntry s = .next (((s.setPart q { x with istate := 3 }).clearClusters x).wipeResidency q)))
       ∧ (x.enable = false ∨ x.istate = 0 ∨ s.keng.lcs = 4 → exec .islandWake s = .next s)
       ∧ (x.enable = true → x.istate ≠ 0 → s.keng.lcs ≠ 4 → exec .islandWake s = .next ((s.setPart q { x with istate := 0 }).dispatch q)))
    ∧ exec .thermalThrottle s = .next (s.updDie (s.ev.n % 4) fun x => { x with hot := s.ev.flag })
    ∧ (∀ (p : Part) (avg : Nat),
        let cap := 16 * p.cap.toNat
        (cap < avg → 12 < p.target.toNat → (p.window avg false).relock = (if p.target - 1 = p.curfreq then none else some (p.target - 1)))
        ∧ (cap < avg → p.target.toNat ≤ 12 → (p.window avg false).throttle = true)
        ∧ (avg ≤ cap → 9 * cap ≤ 10 * avg → p.window avg false = { p with avg := BitVec.ofNat 20 avg })
        ∧ (10 * avg < 9 * cap → p.throttle = true → (p.window avg false).throttle = false ∧ (p.window avg false).relock = p.relock))
    ∧ ∀ (c : Chan) (x : Xfer) (r : List Xfer), c.waiting = x :: r → c.second = false →
        (9 ≤ c.spare → (c.slot true).2 = none ∧ (c.slot true).1.waiting = c.waiting ∧ (c.slot true).1.spare + 10 = min 10 (c.spare + 1))
        ∧ (c.spare < 9 → c.slot true = c.slot false ∧ (c.slot false).1.spare = c.spare + 1)
        ∧ (∀ q, x.part = some q → q < 32 → x.cost = 1 → 1000 ≤ min (mget 0 c.tok q + (c.floorOf q : Int)) (1000 * (c.burstOf q : Int)) →
            (c.slot false).2 = some x ∧ (c.slot false).1.waiting = r
              ∧ mget 0 (c.slot false).1.tok q = min (mget 0 c.tok q + (c.floorOf q : Int)) (1000 * (c.burstOf q : Int)) - 1000)

/-- R4, R399, R418, R420, R441, R442, R446 to R448: the supply and the cooling hold the dies and bring them back through a cold reset; a cold reset keeps fuses,
keys of the device, flash and host memory and leaves all else at reset; the ROM's sequence follows (notes/assumptions/8.md); management reads and updates;
BAR2 and the registers: R329, R331, R361, R368, R370, R371, R436 to R438. What a cold reset keeps and what is reset, and the gate on BAR0's queue registers until
firmware runs, rest partly on notes/assumptions/4.md; who is charged for a management access rests on notes/assumptions/66.md. -/
def Obligations.ModuleEvents : Prop :=
  ∀ s : State,
    let v := s.ev.v
    exec .supplyOutOfRange s = .next { s with held := true }
    ∧ (s.held = false → exec .supplyReturn s = .next s)
    ∧ (s.held = true → s.tripped = false → exec .supplyReturn s = .next ({ s with held := false }.push { i := .coldReset }))
    ∧ exec .thermalTrip s = .next { s with tripped := true }
    ∧ (s.tripped = false → exec .thermalRecovery s = .next s)
    ∧ (s.tripped = true → s.held = false → exec .thermalRecovery s = .next ({ s with tripped := false }.push { i := .coldReset }))
    ∧ (s.held = true ∨ s.tripped = true → exec .coldReset s = .next s)
    ∧ (s.held = false → s.tripped = false →
        (s.ev.flag = false → ∃ t, exec .coldReset s = .next t ∧ t.strands = State.reset.strands ∧ t.spindles = State.reset.spindles ∧ t.clusters = State.reset.clusters
          ∧ t.dies = State.reset.dies ∧ t.hbm = State.reset.hbm ∧ t.sects = State.reset.sects ∧ t.ctxs = State.reset.ctxs ∧ t.groups = State.reset.groups ∧ t.tlb = State.reset.tlb
          ∧ t.parts = State.reset.parts ∧ t.keng.slots = State.reset.keng.slots ∧ t.flash = s.flash ∧ t.hostMem = s.hostMem ∧ t.rom = s.rom ∧ t.keng.lcs = s.keng.lcs
          ∧ t.keng.svnmin = s.keng.svnmin ∧ t.keng.devid = s.keng.devid ∧ t.agenda.head? = some { i := .coldReset, ev := { flag := true, n := s.ev.n } })
        ∧ (s.ev.flag = true → s.booting = false → exec .coldReset s = .next s)
        ∧ (s.ev.flag = true → s.booting = true → exec .coldReset s = .next (s.boot s.ev.n)))
    ∧ (s.keng.lcs = 4 ∨ s.fwSlot = some (s.ev.n % 2) ∨ 2 ^ 24 < s.ev.bytes.length → exec .pldmFirmwareUpdate s = .next s)
    ∧ (s.keng.lcs ≠ 4 → s.fwSlot ≠ some (s.ev.n % 2) → s.ev.bytes.length ≤ 2 ^ 24 → (s.die 0).fw = true →
        exec .pldmFirmwareUpdate s = .next (s.flashWrite 0 (4096 * (s.ev.n % 2)) s.ev.bytes))
    ∧ exec .pldmResetEffecter s = .next (if v = 1 then s.push { i := .coldReset } else s)
    ∧ (s.ev.n = 0 ∨ 9 < s.ev.n → exec .pldmSensorRead s = .next s)
    ∧ (0 < s.ev.n → s.ev.n ≤ 9 → exec .pldmSensorRead s = .next { s with mgmt := s.mgmt ++ [(s.ev.n, if s.ev.n = 9 then s.keng.lcs.toNat else v.toNat)] })
    ∧ exec .hostLinkReset s = .next ((List.range 64).foldl (fun t k => (t.stopFetch k true).drainFn k) s)
    ∧ (∀ f x, (s.stopFetch f x).cmds = s.cmds ∧ (s.stopFetch f x).groups = s.groups ∧ (s.stopFetch f x).waiting = s.waiting ∧ (s.stopFetch f x).parts = s.parts
        ∧ (s.drainFn f).cmds = s.cmds ∧ (s.drainFn f).groups = s.groups ∧ (s.drainFn f).waiting = s.waiting ∧ (s.drainFn f).parts = s.parts)
    ∧ (let a := (s.fn 0).hbmwin.toNat * 2 ^ 32 + s.ev.n % 2 ^ 32
       (s.ev.flag = true → exec .bar2Access s =
          .next ((((s.clearTags (.phys a) (s.ev.bytes.take (hbmEnd - a)).length).physWrite a (s.ev.bytes.take (hbmEnd - a))).chargeSectors 32 none a
            (s.ev.bytes.take (hbmEnd - a)).length .write)))
       ∧ (s.ev.flag = false → a + s.ev.m ≤ hbmEnd → exec .bar2Access s =
          .next ({ s with mgmt := s.mgmt ++ [(65536 + s.ev.n % 2 ^ 32, leNat (s.physRead a s.ev.m))] }.chargeSectors 32 none a s.ev.m .read))
       ∧ (s.ev.flag = false → hbmEnd ≤ a → exec .bar2Access s =
          .next ({ s with mgmt := s.mgmt ++ [(65536 + s.ev.n % 2 ^ 32, leNat (List.replicate s.ev.m 0xFF))] }.chargeSectors 32 none a 0 .read)))
    ∧ (∀ b r, s.ev.bytes = b :: r → exec .registerWrite s =
        .next (((s.clearTags (.phys s.ev.n) (r.length + 1)).physWrite s.ev.n (b :: r)).chargeSectors 32 none s.ev.n (r.length + 1) .write))
    ∧ (s.ev.flag = false → s.ev.bytes = [] →
        let d := s.ev.n / 2 ^ 40 % 4
        let at_ (unit o : Nat) : Prop := s.ev.n = unit * 2 ^ 42 + d * 2 ^ 40 + o
        (at_ 0x10 0x008 → exec .registerWrite s = .next (s.updDie d fun x => { x with quant := v.setWidth 32 }))
        ∧ (∀ c, c < 512 → at_ 0x10 (0x1000 + 8 * c) → exec .registerWrite s = .next (((List.range 32).filter fun q => (s.part q).die.toNat == d).foldl State.dispatch
            (s.updDie d fun x => { x with weight := mset 1 x.weight c (v.setWidth 16) })))
        ∧ (∀ q, q < 32 → at_ 0x10 (0x2000 + 8 * q) → exec .registerWrite s = .next (s.updDie d fun x => { x with wdogLimit := mset 0 x.wdogLimit q (v.setWidth 32) }))
        ∧ (at_ 0x12 0x018 → v.toNat % 2 ^ 16 = 0 → exec .registerWrite s = .next (s.updDie d fun x => { x with shdir := v.setWidth 48 }))
        ∧ (at_ 0x12 0x020 → exec .registerWrite s = .next (s.updDie d fun x => { x with modnum := v.setWidth 6 }))
        ∧ (at_ 0x13 0xF008 → d = 0 → exec .registerWrite s = .next { s with perr := s.perr &&& ~~~(v.setWidth 5) })
        ∧ (at_ 0x17 0x120 → exec .registerWrite s = .next (s.updDie d fun x => { x with cethr := v.setWidth 16 }))
        ∧ (at_ 0x17 0x118 → exec .registerWrite s = .next (s.updDie d fun x => { x with cecnt := x.cecnt &&& ~~~(v.setWidth 48) })))
    ∧ (s.ev.flag = true → s.ev.bytes = [] →
        let f := s.ev.m % 64
        ((s.die 0).fw = false → s.ev.n < 0x1000 → exec .registerWrite s = .next s)
        ∧ ((s.die 0).fw = true → s.ev.n = 0x18 → (s.fn f).en = false → exec .registerWrite s = .next (s.setFn f { s.fn f with vec := v.setWidth 6 }))
        ∧ (s.ev.n = 0x18 → (s.fn f).en = true → exec .registerWrite s = .next s)
        ∧ ((s.die 0).fw = true → s.ev.n = 0x28 → exec .registerWrite s = .next (s.push { ev := { m := f, v := v }, i := .sqtail })))

/-- R418, R419, R421: the doorbells, SQCFG and FLR; R323, R325: admission in turn; R324: NOP, MARK, INSTALL, REMOVE, CANCEL, LAUNCH and COPY of a command that may
start; R326: its completion; R327, R328: the flash commands that firmware serves, and the drive's timeout; R424, R425: the stream ring and its units. Choices of the
model that the clauses use: that SQCFG with a LOG out of range keeps the old LOG while EN is taken (notes/assumptions/59.md); the order of admission and the faults
of COPY (notes/assumptions/44.md); that firmware answers a code or ranges beyond R328's with ILLEGAL (notes/assumptions/7.md); that the queue registers take no
write until firmware runs (notes/assumptions/4.md); and what an error of a unit's source or of its write leaves (notes/assumptions/37.md). -/
def Obligations.HostEvents : Prop :=
  (∀ s : State,
    let f := s.ev.m % 64
    let x := s.fn f
    let v := s.ev.v
    ((s.die 0).fw = false → ∀ i ∈ [Instr.sqtail, .cqhead, .sqcfg], exec i s = .next s)
    ∧ ((s.die 0).fw = true → exec .sqtail s = .next ((s.updFn f fun x => { x with sqtail := v.setWidth 16 }).setEv 0 0x200))
    ∧ ((s.die 0).fw = true → exec .cqhead s = .next (s.updFn f fun x => { x with cqhead := v.setWidth 16 }))
    ∧ ((s.die 0).fw = true → x.en = false → exec .sqcfg s = .next (s.setFn f { x with
        sqlog := if 4 ≤ (v.setWidth 4).toNat ∧ (v.setWidth 4).toNat ≤ 12 then v.setWidth 4 else x.sqlog, en := v.getLsbD 15 }))
    ∧ (x.en = true → v.getLsbD 15 = true → exec .sqcfg s = .next s)
    ∧ ((s.die 0).fw = true → x.en = true → v.getLsbD 15 = false → exec .sqcfg s = .next (s.flrFn f false))
    ∧ (f ≠ 0 → exec .flr s = .next (s.flrFn f true))
    ∧ (f = 0 → exec .flr s = .next ((List.range 64).foldl (fun t k => t.flrFn k true) s))
    ∧ (s.hostServing = false ∨ s.nextQueue = none → exec .commandAdmit s = .next s)
    ∧ (∀ q, s.hostServing = true → s.nextQueue = some q → s.ev.flag = false →
        let y := s.fn q
        let u := s.updDie 0 fun d => { d with ptr := mset 0 d.ptr 4 ((q + 1) % 64) }
        let ws := (List.range 8).map fun k => BitVec.ofNat 64 (leNat (s.hostRead q (y.sqbase.toNat + 64 * (y.sqhead.toNat % 2 ^ y.sqlog.toNat) + 8 * k) 8))
        let c : Cmd := { fn := q, idx := y.fetched, ws := ws, order := s.nextId }
        exec .commandAdmit s = .next ((({ u with nextId := s.nextId + 1 }.setFn q { y with
          sqhead := BitVec.ofNat 16 ((y.sqhead.toNat + 1) % 2 ^ y.sqlog.toNat), fetched := y.fetched + 1 }).setCmd s.nextId
            (some { c with done := (s.refusal c).map fun st => (st, 0) })).presentNext))
    ∧ (∀ q, s.hostServing = true → s.nextQueue = some q → s.ev.flag = true → exec .commandAdmit s =
        .next ((s.updDie 0 fun d => { d with ptr := mset 0 d.ptr 4 ((q + 1) % 64) }).updFn q fun x => { x with ferr := true }))
    ∧ (∀ c : Cmd, 0x80 ≤ c.opc → (c.fn ≠ 0 → s.refusal c = some cPriv) ∧ (c.fn = 0 → c.bitsOk = true → s.refusal c = none))
    ∧ ((s.die 0).hqent = none → exec .hqdone s = .next s)
    ∧ ((s.die 0).hqent.isSome = true → exec .hqdone s = .next (s.firmwareDone (v.setWidth 8).toNat (v.toNat / 2 ^ 8))))
  ∧ (∀ (s : State) (c : Cmd), s.cmd s.ev.n = some c → c.done = none →
    let k := s.ev.n
    let m := c.mcx
    let u := s.setCmd k (some { c with started := true })
    exec .commandCompletion s = .next s
    ∧ (c.started = false → s.mayStart c = false → ∀ i ∈ [Instr.hostNop, .mark, .install, .remove, .launch, .hostCancel, .copy], exec i s = .next s)
    ∧ (c.started = false → s.mayStart c = true →
      let ends (i : Instr) (t : State) (status : Nat) : Prop := exec i s = .next (t.cmdDone k status 0)
      (c.opc = 0x00 → ends .hostNop u 0)
      ∧ (c.opc = 0x06 → ends .mark u 0)
      ∧ (c.opc = 0x01 → ends .install (u.installCtx c).1 (u.installCtx c).2)
      ∧ (c.opc = 0x02 → ends .remove (u.removeCtx m).1 (u.removeCtx m).2
          ∧ ((s.ctxCode m = 2 ∨ (s.stop m).isSome = true ∨ mget [] s.restoring m ≠ []) → ends .remove u 0x80))
      ∧ (c.opc = 0x04 → (∀ t, u.cancelReqs m (fun r => r.id == c.arg) = some t → ends .hostCancel t 0)
          ∧ (u.cancelReqs m (fun r => r.id == c.arg) = none → ends .hostCancel u 0x81))
      ∧ (c.opc = 0x03 → ((s.fn c.fn).draining.isSome = true → ends .launch s cCancelled)
        ∧ ((s.fn c.fn).draining = none → (s.ctxCode m = 0 ∨ s.ctxCode m = 4 → ends .launch s 0x81)
          ∧ (s.ctxCode m ≠ 0 → s.ctxCode m ≠ 4 → (∀ t, s.loadCtx m = .fails t → ends .launch t cIllegal)
            ∧ ∀ t x, s.loadCtx m = .loaded t → t.ctx m = some x → c.len 0 ≤ t.slotSize m →
              (t.ringSize m ≤ x.qcount → ends .launch t 0x80)
              ∧ ∀ w, x.qcount < t.ringSize m → t.ctxWrite m t.nextId (cutAt (t.reqAddr m x.qtail) (t.hostRead c.fn (c.base 0) (c.len 0))) = .ok w →
                  exec .launch s = .next ((w.setCmd k (some { c with started := true })).enqueueReq m { id := c.cid, len := c.len 0, host := true, cmd := k }))))
      ∧ (c.opc = 0x05 → (c.susp = none → s.ctxCode m = 0 ∨ bitOf (s.hw m 2) 48 = true → ends .copy s cProt)
        ∧ (bitOf (s.hw m 2) 48 = false → s.ctxCode m ≠ 0 →
          let from_ := cutAt (c.base 0) (List.replicate (c.len 0) 0)
          let puts (w : State) (bs : List Byte) : Prop :=
            (c.inHost 1 = true → exec .copy s = .next ((w.hostWrite c.fn (c.base 1) bs).endHostCopy k 0))
            ∧ (c.inHost 1 = false → (∀ f, s.copyBar m (cutAt (c.base 1) bs) = some f → exec .copy s = .next (s.copyStops k c f 5))
              ∧ ∀ t, s.copyBar m (cutAt (c.base 1) bs) = none → (w.chargeParts m .write (cutAt (c.base 1) bs)).copyPut k m (cutAt (c.base 1) bs) = .ok t →
                  (t.copyAsks k = false → exec .copy s = .next (t.endHostCopy k 0))
                  ∧ (t.copyAsks k = true → exec .copy s = .next (t.setCmd k (some { c with started := true }))))
          (c.susp.isSome = true → exec .copy s = .next s)
          ∧ (c.susp = none → c.inHost 0 = true → puts s (s.hostRead c.fn (c.base 0) (c.len 0)))
          ∧ (∀ bs, c.susp = none → c.inHost 0 = false → s.copySource k m from_ = .ok bs → puts (s.chargeParts m .read from_) bs)
          ∧ (∀ f, c.susp = none → c.inHost 0 = false → s.copySource k m from_ = .err f → exec .copy s = .next (s.copyStops k c f 4))
          ∧ ∀ qs, c.susp = none → c.inHost 0 = false → s.copySource k m from_ = .ask qs → exec .copy s = .next (s.askCopy k m qs))))
    ∧ (c.started = true → c.opc = 0x05 → c.susp = none → (s.copyAsks k = true → exec .copy s = .next s)
        ∧ (s.copyAsks k = false → exec .copy s = .next (s.endHostCopy k ((s.copyFailed k).getD 0)))))
  ∧ (∀ (s : State) (c : Cmd) (status result : Nat), s.cmd s.ev.n = some c → c.done = some (status, result) →
    let x := s.fn c.fn
    (x.ferr = true → exec .commandCompletion s = .next (((s.setCmd s.ev.n none).drainFn c.fn).presentNext))
    ∧ (x.ferr = false → s.ev.m = 0 →
      ((x.cqtail.toNat + 1) % 2 ^ x.sqlog.toNat = x.cqhead.toNat % 2 ^ x.sqlog.toNat → exec .commandCompletion s = .next s)
      ∧ ((x.cqtail.toNat + 1) % 2 ^ x.sqlog.toNat ≠ x.cqhead.toNat % 2 ^ x.sqlog.toNat →
          exec .commandCompletion s = .next (s.complete s.ev.n c status result (!s.ev.flag)))))
  ∧ (∀ (s : State) (k : Nat) (c : Cmd), s.presented = some (k, c) → (s.die 0).fw = true → s.ev.flag = false →
    let drive := c.arg / 2 ^ 48 % 4
    let lba := c.arg % 2 ^ 48
    let ok : Prop := c.arg / 2 ^ 50 = 0 ∧ c.len 0 % 4096 = 0 ∧ c.len 0 ≤ 2 ^ 24 ∧ lba + c.len 0 / 4096 ≤ s.driveBlocks drive
    (0x83 < c.opc → ∀ i ∈ [Instr.flashwrite, .flashread, .flashflush, .flashinfo], exec i s = .next (s.firmwareDone cIllegal 0))
    ∧ (∀ p ∈ [(0x80, Instr.flashwrite), (0x81, .flashread), (0x82, .flashflush), (0x83, .flashinfo)], c.opc = p.1 → c.rangesFit = false →
        exec p.2 s = .next (s.firmwareDone cIllegal 0))
    ∧ (c.opc = 0x80 → c.rangesFit = true → (¬ ok → exec .flashwrite s = .next (s.firmwareDone cIllegal 0))
      ∧ (ok → drive = 0 → lba < 8192 → exec .flashwrite s = .next (s.firmwareDone cProt 0))
      ∧ (ok → (drive ≠ 0 ∨ 8192 ≤ lba) → exec .flashwrite s = .next ((s.flashWrite drive lba (s.hostRead c.fn (c.base 0) (c.len 0))).firmwareDone 0 (c.len 0))))
    ∧ (c.opc = 0x81 → c.rangesFit = true → (¬ ok → exec .flashread s = .next (s.firmwareDone cIllegal 0))
      ∧ (ok → exec .flashread s = .next ((s.hostWrite c.fn (c.base 0) (s.flashRead drive lba (c.len 0))).firmwareDone 0 (c.len 0))))
    ∧ (c.opc = 0x82 → c.rangesFit = true → c.arg / 2 ^ 50 = 0 → lba = 0 → exec .flashflush s = .next (s.firmwareDone 0 0))
    ∧ (c.opc = 0x83 → c.rangesFit = true → c.arg / 2 ^ 50 = 0 → lba = 0 → c.len 0 = 64 →
        let n := leBytes 8 (s.driveBlocks drive)
        exec .flashinfo s = .next ((s.hostWrite c.fn (c.base 0) (n ++ n ++ (Config.driveModel drive ++ List.replicate 40 0).take 40 ++ List.replicate 8 0)).firmwareDone 0 0))
    ∧ (s.reachesDrive c = true → exec .driveTimeout s = .next (s.firmwareDone 0x82 0x7FFF))
    ∧ (s.reachesDrive c = false → exec .driveTimeout s = .next s)
    ∧ (c.opc = 0x81 → c.rangesFit = true → (s.reachesDrive c = true ↔ ok)))
  ∧ ∀ s : State,
    let d := s.ev.n % 4
    let x := s.die d
    let rd := s.ev.n / 2 ^ 40 % 4
    exec .rvtail s = .next (s.updDie rd fun x => { x with rvtail := s.ev.v.setWidth 16 })
    ∧ (x.rvNext = none ∨ 32 ≤ x.rvfly.length ∨ x.refetch ≠ [] → exec .unitStream s = .next s)
    ∧ (∀ i, x.rvNext = some i → x.rvfly.length < 32 → x.refetch = [] →
        let a := x.rvbase.toNat + 32 * i
        let u := (s.chargeUnit a).updDie d fun x => { x with rvhead := BitVec.ofNat 16 ((i + 1) % 2 ^ x.rvlog.toNat) }
        (∀ w, u.rvUnit a i = .inr w → exec .unitStream s = .next ((u.chargeSectors 32 none (a + 24) 1 .write).physWrite (a + 24) [BitVec.ofNat 8 w]))
        ∧ ∀ y, u.rvUnit a i = .inl y → locSrc y.loc = 1 → exec .unitStream s = .next (u.updDie d fun x => { x with rvfly := x.rvfly ++ [y] }))
    ∧ ((x.rvfly.find? fun u => u.idx == s.ev.m) = none → exec .unitDone s = .next s)
    ∧ ∀ u, (x.rvfly.find? fun u => u.idx == s.ev.m) = some u →
        (s.ev.flag = true → exec .unitDone s = .next (s.endUnit d u 3))
        ∧ ∀ bs, s.ev.flag = false → s.fetchUnit d u.idx u.loc = .bytes bs →
          (Config.sha512t bs = u.hash → (∀ w, s.putUnit u.dest u.key bs = some w → exec .unitDone s = .next (w.endUnit d u 1))
            ∧ (s.putUnit u.dest u.key bs = none → ∃ w : State, exec .unitDone s = .next (w.endUnit d u 4)))
          ∧ (Config.sha512t bs ≠ u.hash → exec .unitDone s = .next (s.endUnit d u 2))

/-- R384 to R387, R390, R391, R394 to R397: each key command is taken at a write of KCMD, is refused with a code or has its effect when it completes; R394: a
write of the debug levels' permission; R409, R428, R430, R434, R438: the plain-error window, the lea counters, their reports, the counter sessions and link
errors. Choices of the model that the clauses use (notes/assumptions/46.md): a refusal is decided at the write of KCMD, with NOTPERMITTED before RANGE, and the
operand is read when the command completes; the key engine's accesses are charged to the system party (notes/assumptions/66.md). -/
def Obligations.KeyEvents : Prop :=
  (∀ (s : State) (op : Nat) (row : Instr) (effect : State → Nat → Nat → Nat → State × Nat),
    (op, row) ∈ [(1, Instr.load), (2, .clear), (3, .report), (4, .extend), (5, .setdbg), (6, .lcreq)] →
    effect = (match op with
      | 1 => State.loadKey
      | 2 => State.clearKey
      | 3 => State.makeReport
      | 4 => State.extendReg
      | 5 => State.setLevel
      | _ => State.lifeCycle) →
    let v := s.ev.v.toNat
    let a := s.keng.kaddr.toNat
    let arg := s.keng.karg.toNat
    let u := if op = 6 ∧ arg = 3 then s.chargeSectors 32 none a 512 .read else s
    let later (c : Nat × Nat) : State :=
      ({ u with keng := { u.keng with cmd := some c } }).later { ev := { n := a, v := s.keng.karg, flag := true }, i := row }
    let ended (t : State) (r : Nat) : State := { t with keng := { t.keng with cmd := none, result := BitVec.ofNat 8 r } }
    (s.ev.flag = false → s.keng.cmd.isSome = true ∨ v % 16 ≠ op → exec row s = .next s)
    ∧ (s.ev.flag = false → s.keng.cmd = none → v % 16 = op →
        (∀ r, s.kcmdRefusal op (v / 16 % 2 ^ 14) a arg = some r → exec row s = .next (later (16 + op, r)))
        ∧ (s.kcmdRefusal op (v / 16 % 2 ^ 14) a arg = none → exec row s = .next (later (op, v / 16 % 2 ^ 14))))
    ∧ (s.ev.flag = true → s.keng.cmd = none → exec row s = .next s)
    ∧ ∀ o x, s.ev.flag = true → s.keng.cmd = some (o, x) →
        (o = op → exec row s = .next (ended (effect s x s.ev.n v).1 (effect s x s.ev.n v).2))
        ∧ (o = 16 + op → exec row s = .next (ended s x))
        ∧ (o ≠ op → o ≠ 16 + op → exec row s = .next s))
  ∧ (∀ (s : State) (slot a arg : Nat),
    let k := s.keng
    let lcs := k.lcs.toNat
    (lcs ≠ 2 → s.kcmdRefusal 1 slot a arg = some 3)
    ∧ (lcs = 2 → (slot = 0 ∨ arg ≠ 0 ∨ hbmEnd < a + 512 → s.kcmdRefusal 1 slot a arg = some 5)
      ∧ (slot ≠ 0 → arg = 0 → a + 512 ≤ hbmEnd → s.kcmdRefusal 1 slot a arg = if (s.keySlot slot).isSome then some 2 else none))
    ∧ (lcs = 2 ∨ lcs = 1 → slot ≠ 0 → arg = 0 → s.kcmdRefusal 2 slot a arg = if s.slotNamed slot then some 2 else none)
    ∧ (arg < 4 → s.kcmdRefusal 5 slot a arg = if levelAllowed lcs arg then none else some 3)
    ∧ (arg < 8 → arg ≠ 3 → s.kcmdRefusal 6 slot a arg = if lcsMove lcs arg then none else some 3)
    ∧ ((∀ i, a ≤ i → i < a + 512 → (s.sect (i / 128)).poison = false) → s.operand a 512 = some (s.physRead a 512))
    ∧ (let t := s.dropTagged slot
       s.clearKey slot a arg = ({ t with keng := { t.keng with slots := mset none t.keng.slots slot none } }, 0))
    ∧ (let r := s.chargeSectors 32 none a 512 .read
       let e := s.chargeSectors 32 none a 64 .read
    (∀ blob pt x, s.operand a 512 = some blob → Config.oaepOpen k.kik blob = some pt → blobSlot pt slot k.devid = some x →
        s.loadKey slot a arg = ({ r with keng := { k with slots := mset none k.slots slot (some x) } }, 0))
    ∧ (∀ blob, s.operand a 512 = some blob → Config.oaepOpen k.kik blob = none → s.loadKey slot a arg = (r, 1))
    ∧ (∀ d, s.operand a 64 = some d → s.extendReg slot a arg =
        ({ e with keng := { k with mreg := mset (List.replicate 64 0) k.mreg (arg % 8) (Config.sha512 (k.reg (arg % 8) ++ d)) } }, 0))
    ∧ (∀ d, s.operand a 64 = some d → s.makeReport slot a arg =
        ((e.chargeSectors 32 none a 1280 .write).physWrite a (e.reportBody arg d ++ Config.sign k.dik (e.reportBody arg d)), 0))
    ∧ (∀ d, d.length = 64 → (∀ n, n < 8 → (k.reg n).length = 64) → (s.reportBody arg d).length = 768)
    ∧ (∀ d n, n < 8 → (k.extend n d).reg n = Config.sha512 (k.reg n ++ d) ∧ ((k.extend n d).reg n).length = 64)
    ∧ (s.operand a 512 = none → s.loadKey slot a arg = (r, 6))
    ∧ (s.operand a 64 = none → s.extendReg slot a arg = (e, 6) ∧ s.makeReport slot a arg = (e, 6))))
  ∧ (∀ s : State,
    let v := s.ev.v.toNat
    exec .dbgten s = .next ({ s with keng := { s.keng with dbgten := BitVec.ofNat 16 (v / 32) } }).resetDebug
    ∧ exec .leaFlush s = .next (s.leaFlush s.ev.n)
    ∧ (s.ev.flag = true → s.keng.lrcmd = none → exec .leaReport s = .next s)
    ∧ (∀ m, s.ev.flag = true → s.keng.lrcmd = some m → exec .leaReport s = .next (s.leaReport m s.ev.n))
    ∧ (s.ev.flag = false → s.keng.lrcmd.isSome = true → exec .leaReport s = .next s)
    ∧ (s.ev.flag = false → s.keng.lrcmd = none → exec .leaReport s =
        .next ({ s with keng := { s.keng with lrcmd := some (v % 2 ^ 14) } }.later { ev := { flag := true, n := s.keng.lraddr.toNat }, i := .leaReport }))
    ∧ (32 < s.ev.n → exec .counterFlush s = .next s)
    ∧ (s.ev.n ≤ 32 → exec .counterFlush s = .next ((s.addEvent (fun f => f == 0) 12 v).flushParty s.ev.n))
    ∧ exec .linkError s = .next (s.logError (s.ev.n % 4) 0x08 (if s.ev.flag then 5 else 4) none 0 0 0 0)
    ∧ exec .perrateWindow s = .next (s.updPort (s.ev.n % 8) fun x => { x with used := 0 }))
  ∧ (∀ (s : State) (m : Nat) (c : Ctx) (k : Nat), s.ctx m = some c → k < 8 →
      ∃ c', (s.leaFlush m).ctx m = some c'
        ∧ (mget 0 c'.lea k).toNat = min ((mget 0 c.lea k).toNat + mget 0 s.leaAcc (8 * m + k)) (2 ^ 64 - 1))
  ∧ (∀ (s : State) (m : Nat), s.ctx m = none → ¬ (∀ k, k < 8 → mget 0 s.leaAcc (8 * m + k) = 0) →
      let a := s.recAddr m + 576
      s.leaFlush m = ({ s with leaAcc := dropRange s.leaAcc (8 * m) 8 }.chargeSectors 32 none a 64 .write).physWrite a
        ((List.range 8).flatMap fun k => leBytes 8 (min (s.recWord m (72 + k) + mget 0 s.leaAcc (8 * m + k)) (2 ^ 64 - 1))))
  ∧ (∀ (s : State) (f k n : Nat), f < 64 →
      let x := s.fn f
      let t := (s.addCount f k n).fn f
      mget 0 t.cnt k = BitVec.ofNat 48 ((mget 0 x.cnt k).toNat + n)
      ∧ (((mget 0 t.cntsel k).getLsbD 7 = true) ↔ (mget 0 x.cntsel k).getLsbD 7 = true ∨ 2 ^ 48 ≤ (mget 0 x.cnt k).toNat + n)
      ∧ ((mget 0 x.cnt k).toNat + n < 2 ^ 48 → (s.addCount f k n).msix = s.msix))
  ∧ ∀ (s : State) (m a : Nat),
      let ended (t : State) (r : Nat) : State := { t with keng := { t.keng with lrcmd := none, lrresult := BitVec.ofNat 8 r } }
      (¬ (1 ≤ s.keng.lcs.toNat ∧ s.keng.lcs.toNat ≤ 3) → s.leaReport m a = ended s 3)
      ∧ (1 ≤ s.keng.lcs.toNat → s.keng.lcs.toNat ≤ 3 → s.ctxCode m = 0 ∨ hbmEnd < a + 768 → s.leaReport m a = ended s 5)
      ∧ (1 ≤ s.keng.lcs.toNat → s.keng.lcs.toNat ≤ 3 → s.ctxCode m ≠ 0 → a + 768 ≤ hbmEnd → (s.sect (a / 128)).poison = false →
          let u : State := { s.leaFlush m with keng := { (s.leaFlush m).keng with rseq := (s.leaFlush m).keng.rseq + 1 } }
          let body := u.leaBody m (u.physRead a 64)
          s.leaReport m a = ended (((u.chargeSectors 32 none a 64 .read).chargeSectors 32 none a 768 .write).physWrite a (body ++ Config.sign u.keng.dik body)) 0)

/-- R395: the level that SETDBG names is allowed by the life-cycle state or the command is refused (R385); LCS is 0 BLANK, 1 PROVISIONED, 2 DEPLOYED, 3 RMA, 4
SCRAPPED (R396), and DBG is 0 NONE, 1 TENANT, 2 OPERATOR, 3 FACTORY (R393). -/
def Obligations.DebugLevels : Prop :=
  ∀ (s : State) (slot a lvl : Nat), lvl < 4 → s.keng.lcs.toNat ≤ 4 →
    let allowed : List Nat := if s.keng.lcs = 0 ∨ s.keng.lcs = 3 then [0, 3] else if s.keng.lcs = 1 then [0, 2] else if s.keng.lcs = 2 then [0, 1, 2] else [0]
    (lvl ∈ allowed → s.kcmdRefusal 5 slot a lvl = none) ∧ (lvl ∉ allowed → s.kcmdRefusal 5 slot a lvl = some 3)
    ∧ ∃ u : State, s.setLevel slot a lvl = (u.resetDebug, 0) ∧ u.keng.dbg = BitVec.ofNat 2 lvl ∧ u.keng.lcs = s.keng.lcs

/-- R401, R402: frames that a port takes and what it hands on, and its link; R404 to R411: requests, cancels and replies of NRP; R413 to R416: the messages of the
reach domain at the home and at the requester, and the time-out. Choices of the model that the clauses use: that a reach header with a foreign DSTMOD, or a malformed
one, is dropped and counted in DROP0, that a bad AOP or MASK answers PROT, that a write or an atomic under key index 0 or a model key answers PROT, that what waits
for a port that is down leaves once it is up, and the addresses, tags and hop limit of reach traffic (notes/assumptions/41.md, notes/assumptions/64.md); the code
of a source address (notes/assumptions/71.md); the layout of pause frames (notes/assumptions/72.md); and that an error in the hardware is an input of the event
(notes/assumptions/26.md). -/
def Obligations.NetworkEvents : Prop :=
  (∀ s : State,
    let n := s.ev.n % 8
    let p := s.port n
    let linked := s.updPort n fun x => { x with up := s.ev.flag }
    exec .linkStateChange s = .next (linked.flushPort n)
    ∧ ((linked.port n).on = false → linked.flushPort n = linked)
    ∧ ((linked.port n).on = true → (linked.flushPort n).sent = s.sent ++ (s.outbox.filter fun x => x.2.port == n).map Prod.snd)
    ∧ (p.on = false → exec .ethernetFrame s = .next s)
    ∧ (p.on = true → Eth.parse s.ev.bytes = none → exec .ethernetFrame s = .next (s.drop n 0))
    ∧ (∀ e, p.on = true → Eth.parse s.ev.bytes = some e →
        (e.etype = 0x8808 → e.tci = none → e.dst = 0x0180C2000001 → beAt e.body 0 2 = 0x0101 → beAt e.body 2 2 % 2 ^ 8 &&& p.pfcen ≠ 0 → exec .ethernetFrame s = .next s)
        ∧ (e.etype = 0x8808 → e.dst ≠ p.mac.toNat → e.dst ≠ 0x0180C2000001 ∨ p.pfcen = 0 → exec .ethernetFrame s = .next (s.drop n 0))
        ∧ (∀ a, e.etype = 0x0806 → e.dst = p.mac.toNat ∨ e.dst = 2 ^ 48 - 1 → e.arp p = some a → exec .ethernetFrame s = .next (s.sendFrame n a))
        ∧ (e.etype ≠ 0x0806 → e.etype ≠ 0x8808 → e.dst ≠ p.mac.toNat → exec .ethernetFrame s = .next (s.drop n 0))
        ∧ ∀ i, e.etype ≠ 0x0806 → e.etype ≠ 0x8808 → e.dst = p.mac.toNat → e.ip p = some i →
            (∀ body, i.icmp p = some body → exec .ethernetFrame s = .next (s.sendFrame n (e.answer p body)))
            ∧ ∀ sp dp data, i.icmp p = none → i.udp p = some (sp, dp, data) →
                (dp = p.nrpPort → exec .ethernetFrame s = .next (s.push
                  { ev := { n := n, m := srcCode i.v6 sp i.dscp e.tci i.src, bytes := data }, i := if data.getD 2 0 = 2 then .nrpCancel else .nrpRequest }))
                ∧ (∀ r, dp ≠ p.nrpPort → dp = p.reachPort → reachRow data = some r →
                    exec .ethernetFrame s = .next (s.push { ev := { n := n, m := srcCode i.v6 sp i.dscp e.tci i.src, bytes := data }, i := r }))
                ∧ (dp ≠ p.nrpPort → dp ≠ p.reachPort → exec .ethernetFrame s = .next (s.drop n 0)))
    ∧ (let b := s.ev.bytes
       let src := s.ev.m
       let h := leNat (b.take 32)
       let opc := hdrField h 16 8
       let fkey := hdrField h 32 64
       let reqid := hdrField h 96 32
       let nonce := hdrField h 160 96
       let refused (code : Nat) : State := (s.drop n code).plainError none n src fkey reqid nonce code
       let sized : Prop := hdrField h 0 4 = 1 ∧ hdrField h 24 8 = 0 ∧ hdrField h 152 8 = 0 ∧ hdrField h 240 16 = 0
         ∧ (opc = 1 → hdrField h 128 24 = b.length - 48) ∧ (opc = 2 → b.length = 48)
       ∀ i ∈ [Instr.nrpRequest, .nrpCancel],
        (p.on = false → exec i s = .next s)
        ∧ (p.on = true → b.length < 48 ∨ hdrField h 4 12 ≠ 0x4E5 → exec i s = .next (s.drop n 0))
        ∧ (p.on = true → 48 ≤ b.length → hdrField h 4 12 = 0x4E5 →
            (s.serving = false → exec i s = .next (refused 0x0C))
            ∧ (s.serving = true → (opc ≠ 1 → opc ≠ 2 → exec i s = .next (refused 0x01))
              ∧ (opc = 1 ∨ opc = 2 → (¬ sized → exec i s = .next (refused 0x02))
                ∧ (sized → s.keyFind fkey = none → exec i s = .next (refused 0x03))
                ∧ ∀ m, sized → s.keyFind fkey = some m →
                  (s.ctxCode m = 4 → exec i s = .next ((s.drop n 0x05).plainError (some m) n src fkey reqid nonce 0x05))
                  ∧ (s.ctxCode m ≠ 4 → (s.loadCtx m = .waits → exec i s = .next (s.later { ev := s.ev, i := i }))
                    ∧ (∀ t, s.loadCtx m = .fails t → exec i s = .next ((t.drop n 0x05).plainError (some m) n src fkey reqid nonce 0x05))
                    ∧ ∀ t, s.loadCtx m = .loaded t →
                      let x := Config.gcmOpen (t.kgcm (t.hw m 2 % 2 ^ 16)) (leBytes 12 nonce) (b.take 32) ((b.drop 32).take (b.length - 48)) (b.drop (b.length - 16))
                      (x = none → opc = 2 → exec i s = .next ((t.drop n 0x04).plainError (some m) n src fkey reqid nonce 0x04))
                      ∧ (x = none → opc = 1 → exec i s =
                          .next (((t.drop n 0x04).plainError (some m) n src fkey reqid nonce 0x04).spoilSlot m (hdrField h 128 24)))
                      ∧ ∀ plain, x = some plain →
                        let u := t.lea m 4 b.length
                        (opc = 2 → exec i s = .next ((u.cancelReqs m fun r => r.id == reqid).getD u))
                        ∧ (opc = 1 → u.slotSize m < hdrField h 128 24 → exec i s = .next ((u.drop n 0x07).errorPacket m n src reqid nonce 0x07 0))
                        ∧ (opc = 1 → hdrField h 128 24 ≤ u.slotSize m → ∀ c', u.ctx m = some c' →
                            (u.ringSize m ≤ c'.qcount → exec i s = .next ((u.drop n 0x06).errorPacket m n src reqid nonce 0x06 0))
                            ∧ ∀ w, c'.qcount < u.ringSize m → u.ctxWrite m u.nextId (cutAt (u.reqAddr m c'.qtail) plain) = .ok w →
                                exec i s = .next (w.enqueueReq m { id := reqid, nonce := nonce, len := plain.length, port := n, src := src })))))))
    ∧ (s.replies = [] → exec .replySend s = .next s)
    ∧ (∀ r, s.replies[s.ev.n % max 1 s.replies.length]? = some r →
        ((s.port r.req.port).on = false → exec .replySend s = .next s)
        ∧ ((s.port r.req.port).on = true → exec .replySend s =
            .next ({ s with replies := s.replies.eraseIdx (s.ev.n % max 1 s.replies.length) }.sendReply r))))
  ∧ (∀ s : State,
    let n := s.ev.n % 8
    let h := leNat (s.ev.bytes.take 32)
    let pa := hdrField h 64 48
    let key := hdrField h 48 14
    let ok (type : Nat) : Prop := 32 ≤ s.ev.bytes.length ∧ hdrField h 0 8 = type ∧ hdrField h 16 6 = s.modnum ∧ hdrField h 22 2 = 0 ∧ hdrField h 62 2 = 0
      ∧ hdrField h 120 8 = 0
    let u := s.countEv 32 13 1
    let good : Prop := pa % 128 = 0 ∧ pa + 128 ≤ hbmEnd ∧ (key = 0 ∨ (s.keySlot key).isSome = true ∧ s.keng.cmd ≠ some (2, key))
    let data : Prop := pa % 128 = 0 ∧ pa + 128 ≤ hbmEnd ∧ key ≠ 0 ∧ s.keng.cmd ≠ some (2, key) ∧ ∃ x, s.keySlot key = some x ∧ x.model = false
    let badPa : Prop := pa % 128 ≠ 0 ∨ hbmEnd < pa + 128
    let badKey : Prop := key ≠ 0 ∧ ((s.keySlot key).isSome = false ∨ s.keng.cmd = some (2, key))
    (∀ i type, (i, type) ∈ [(Instr.read, 0x01), (.write, 0x02), (.atomic, 0x03), (.readrsp, 0x81), (.writeack, 0x82), (.atomicrsp, 0x83)] →
        ((s.port n).on = false → exec i s = .next s) ∧ ((s.port n).on = true → ¬ ok type → exec i s = .next (s.drop n 0)))
    ∧ ((s.port n).on = true →
      (∀ i type, (i, type) ∈ [(Instr.read, 0x01), (.write, 0x02), (.atomic, 0x03)] → ok type →
          (badPa → exec i s = .next (u.reachAnswer h (0x80 + type) cProt fun _ => []))
          ∧ (¬ badPa → badKey → exec i s = .next (u.reachAnswer h (0x80 + type) cKey fun _ => []))
          ∧ (¬ badPa → ¬ badKey → type ≠ 1 → ¬ data → exec i s = .next (u.reachAnswer h (0x80 + type) cProt fun _ => [])))
      ∧ (ok 0x01 → good →
          ((u.sect (pa / 128)).poison = true → exec .read s = .next (u.reachAnswer h 0x81 cPoison fun _ => []))
          ∧ ((u.sect (pa / 128)).poison = false →
              let x := u.storedSector (pa / 128) key
              exec .read s = .next ((u.chargeSectors 32 none pa 128 .read).reachAnswer h 0x81 0 fun _ => x.1 ++ leBytes 4 x.2.toNat ++ leBytes 4 0)
              ∧ ((u.sect (pa / 128)).live = true → x.1 = u.physRead (128 * (pa / 128)) 128
                  ∧ x.2 = Config.sectorMac (u.sect (pa / 128)).kmac (128 * (pa / 128)) (u.sect (pa / 128)).key (leNat x.1))))
      ∧ (ok 0x02 → data → u.reachOpen h = none → exec .write s = .next (u.reachAnswer h 0x82 cMemUe fun _ => []))
      ∧ (∀ bs t, ok 0x02 → data → u.reachOpen h = some bs →
          u.writeRuns pa key (byteRuns 0 ((List.range 128).map fun i => if bitOf h (128 + i) then some (bs.getD i 0) else none)) = .ok t →
          exec .write s = .next ((t.chargeSectors 32 none pa 128 .write).reachAnswer h 0x82 0 fun _ => []))
      ∧ (ok 0x03 → data →
          let word := pa + 8 * hdrField h 131 4
          let code := hdrField h 112 8
          (code < 0x28 ∨ 0x31 < code ∨ hdrField h 128 3 ≠ 0 ∨ hdrField h 135 121 ≠ 0 → exec .atomic s = .next (u.reachAnswer h 0x83 cProt fun _ => []))
          ∧ (0x28 ≤ code → code ≤ 0x31 → hdrField h 128 3 = 0 → hdrField h 135 121 = 0 → ∀ bs old, u.reachOpen h = some bs → u.readLoc (.hbm word key) 8 = .ok old →
              ∀ w t, atomicNew code (leNat old) (leNat (bs.take 8)) (leNat ((bs.drop 8).take 8)) = some w → u.writeLoc (.hbm word key) (leBytes 8 w) = .ok t →
                let t := t.chargeSectors 32 none pa 128 .atomic
                exec .atomic s = .next (t.reachAnswer h 0x83 0 fun hdr => t.reachSeal (t.ev.n % 8 / 2) key hdr old)))
      ∧ (∀ i type kind, (i, type, kind) ∈ [(Instr.readrsp, 0x81, 1), (.writeack, 0x82, 2), (.atomicrsp, 0x83, 3)] → ok type →
          (u.asked h kind = none → exec i s = .next u)
          ∧ ∀ k q, u.asked h kind = some (k, q) →
            let t := match q.ctx? with
              | some m => u.lea m 4 s.ev.bytes.length
              | none => u
            (hdrField h 24 8 ≠ 0 → exec i s = .next (t.reachFail k q (hdrField h 24 8)))
            ∧ (hdrField h 24 8 = 0 →
                (i = .readrsp → (∀ bs, t.openSector q (s.ev.bytes.drop 32) = some bs → exec .readrsp s = .next (t.gotSector k q bs))
                  ∧ (t.openSector q (s.ev.bytes.drop 32) = none → exec .readrsp s = .next ((t.remoteMac k q).reachFail k q cMemUe)))
                ∧ (let w := (t.dropReach k).storeAnswered q
                   (i = .writeack → q.cid ≠ 0 → exec .writeack s = .next ((w.updCopy q.cid fun j => { j with acks := j.acks - 1 }).copyProgress q.cid))
                   ∧ (i = .writeack → q.cid = 0 → q.slot = 4100 → exec .writeack s = .next (w.settle q.mcx))
                   ∧ (i = .writeack → q.cid = 0 → q.slot = slotRingWrite → exec .writeack s = .next (w.bindAnswered q.mcx))
                   ∧ (i = .writeack → q.cid = 0 → q.slot ≠ 4100 → q.slot ≠ slotRingWrite → q.who < 2 ^ 20 → w.mcxOf q.who = q.mcx → (w.strand q.who).st ≠ .saved →
                        (w.remotePending q.who = true → exec .writeack s = .next w)
                        ∧ (w.remotePending q.who = false → exec .writeack s = .next (((w.strand q.who).arvPend.foldl (fun x p =>
                            x.updCluster p.1 fun c => c.barArrive p.2) w).updStrand q.who fun x => { x with arvPend := [] }))))
                ∧ (i = .atomicrsp → q.slot ≠ 4099 → ∀ bs, t.reachOpen h = some bs → t.stillAsks k q = true →
                    exec .atomicrsp s = .next (((t.dropReach k).atomicSync q (leNat bs)).updStrand q.who fun x =>
                      { x with resp := x.resp.map fun w => w.fillFrom q bs }))
                ∧ (i = .atomicrsp → t.reachOpen h = none → exec .atomicrsp s = .next (t.reachFail k q cMemUe))))))
  ∧ (∀ (s : State) (q : ReachReq),
    let d := s.ev.n % 4
    let k := d * 2 ^ 16 + s.ev.m % 2 ^ 16
    (mget none s.reachReqs k = none → exec .reachTimeout s = .next s)
    ∧ (mget none s.reachReqs k = some q →
        (q.susp.isSome = true → exec .reachTimeout s = .next s)
        ∧ (q.susp = none → q.kind = 1 → q.sent < 4 → exec .reachTimeout s =
          .next ({ s with reachReqs := mset none s.reachReqs k (some { q with sent := q.sent + 1 }) }.reachSend d q.home q.ctx? q.msg))
        ∧ (q.susp = none → q.kind ≠ 1 ∨ 4 ≤ q.sent → exec .reachTimeout s = .next (s.reachFail k q cProt))))
  ∧ (∀ (s : State) (r : Reply) (code : Nat), r.done = .inl code →
      let size := (s.port r.req.port).segment (srcV6 r.req.src)
      s.sendReply r = s.replySegments r code size (r.body.length / size + 1) 0 0 r.body)
  ∧ ∀ (s : State) (r : Reply) (code cause : Nat), r.done = .inr (code, cause) →
      s.sendReply r = s.errorPacket r.mcx r.req.port r.req.src r.req.id r.req.nonce code cause

/-! ## The machine as a whole -/

/-- R67 to R71, R91 to R96, R253: decoding the encoding of a well-formed instruction gives it back, with every operand; R59: so does the literal form of any
bundle. The M slot is decoded with the header bit MRPT that its instruction asks for (R66, R244). Events have no words. -/
def Obligations.EncodeDecode : Prop :=
  (∀ i : Instr, i.wf = true → match i.code with
    | .s _ _ => (encode i).1 = 40 ∧ (encode i).2 < 2 ^ 40 ∧ decodeS (encode i).2 = .ok i
    | .v _ _ => (encode i).1 = 56 ∧ (encode i).2 < 2 ^ 56 ∧ decodeV (encode i).2 = .ok i
    | .l _ _ => (encode i).1 = 48 ∧ (encode i).2 < 2 ^ 48 ∧ decodeL (encode i).2 = .ok i
    | .b _ _ => (encode i).1 = 24 ∧ (encode i).2 < 2 ^ 24 ∧ decodeB (encode i).2 = .ok i
    | .m _ mrpt _ => (encode i).1 = 40 ∧ (encode i).2 < 2 ^ 40 ∧ decodeM mrpt (encode i).2 = .ok i
    | .u _ _ => (encode i).1 = 64 ∧ (encode i).2 < 2 ^ 64 ∧ decodeU (encode i).2 = some i
    | .event => (encode i).1 = 0)
  ∧ ∀ w, w < 2 ^ 384 → (literalWords w).length = 25 ∧ (literalWords w).head? = some 0xFFFE ∧ literalBundle ((literalWords w).drop 1) = w

/-- Words that the spec writes out decode to the instructions they stand for (R67, R68, R69, R70, R71, R175, R184, R253, R294, R295). -/
def Obligations.DecodeWords : Prop :=
  decodeS 0x030C100028 = .ok (.addi ⟨3, 1, 0, 40⟩)
  ∧ decodeS 0x2024000003 = .ok (.movi ⟨9, 0, 0, 3⟩)
  ∧ decodeS 0x012CB28000 = .ok (.add ⟨11, 11, 10, 0⟩)
  ∧ decodeS 0x240420C000 = .ok (.slts ⟨1, 2, 3, 0⟩)
  ∧ decodeV 0x040100400000A0 = .ok (.vadd { ty := 0, vd := 8, va := 4, vb := 0, vc := 0, g := 2, bpsel := 2, zero := false, nan := false, rnd := 0 })
  ∧ decodeL 0x3807_8000_0004 = .ok (.acq { reg := 15, xbase := 0, off := 0, g := 0, bpd := false, opx := false, scope := 4 })
  ∧ decodeL 0x1F00_9400_0000 = .ok (.ldgv { reg := 1, xbase := 10, off := 0, g := 0, bpd := false, opx := false, scope := 0 })
  ∧ decodeL 0xC503_8A00_0000 = .ok (.snapsave { reg := 7, xbase := 5, off := 0, g := 0, bpd := false, opx := false, scope := 0 })
  ∧ decodeM false 0x1100200010 = .ok (.mcall ⟨0x040, false, 2, 0x10⟩)
  ∧ decodeM false 0x2000700002 = .ok (.mwait ⟨0, false, 7, 2⟩)
  ∧ decodeB 0x180029 = .ok (.loop ⟨2, 4, true⟩)
  ∧ decodeB 0x280070 = .ok (.brk ⟨7, 0, false⟩)
  ∧ decodeB 0x0400C2 = .ok (.brut ⟨12, 1, false⟩)
  ∧ decodeB 0xC40000 = .ok (.eret ⟨0, 0, false⟩)
  ∧ decodeB 0xC80000 = .ok (.halt ⟨0, 0, false⟩)
  ∧ decodeU 0x1E42_2000_0000_0000 = some (.opstep { acc := 4, ta := 16, tb := 17 })
  ∧ decodeS 0x8000000000 = .error .illegal
  ∧ decodeS 0x4400000000 = .error .reserved
  ∧ decodeL 0xC80000000000 = .error .privUnassigned
  ∧ decodeB 0xCC0000 = .error .privUnassigned
  ∧ decodeTableWord 24 0x0400C2 = some (.brut ⟨12, 1, false⟩)

/-- R21, R22, R285, R286, R399, R442: after reset the four mill strands of each die's mill spindle are as they start, slot 0 at address 0 of the boot ROM; every
other slot is FREE, no partition is enabled, no context is cached and memory reads zero. That slot 0 is already selected is notes/assumptions/5.md; the values
of registers for which the spec gives none are those of notes/assumptions/4.md. -/
def Obligations.ResetState : Prop :=
  (∀ d, d < 4 → (State.reset.strand (384 * d)).st = .running ∧ (State.reset.spindle (96 * d)).running = some 0 ∧ (State.reset.core (384 * d)).pc = 0
    ∧ (State.reset.core (384 * d)).mpc = 0 ∧ (State.reset.core (384 * d)).loops = [] ∧ (State.reset.core (384 * d)).rets = [] ∧ (State.reset.core (384 * d)).shadows = []
    ∧ (State.reset.core (384 * d)).status = 0 ∧ (State.reset.core (384 * d)).intrap = false ∧ (State.reset.core (384 * d)).mtvec = 0
    ∧ (State.reset.core (384 * d)).rp 0 = BitVec.allOnes 128 ∧ (∀ r, 0 < r → r < 16 → (State.reset.core (384 * d)).rp r = 0)
    ∧ (∀ r, r < 64 → (State.reset.core (384 * d)).rx r = 0)
    ∧ (∀ b, b < 2 → ((State.reset.cluster (12 * d)).bank b).owner = .mill ∧ ((State.reset.cluster (12 * d)).bank b).mode = .scratch))
  ∧ (∀ sid, sid / 4 % 96 ≠ 0 → (State.reset.strand sid).st = .free)
  ∧ (∀ q, (State.reset.part q).enable = false)
  ∧ (∀ m, State.reset.ctx m = none ∧ State.reset.group m = none)
  ∧ (∀ a key n, State.reset.hbmRead a key n = .ok (List.replicate n 0))
  ∧ (∀ cl a, mget 0 (State.reset.cluster cl).bytes a = 0)
  ∧ (∀ k, State.reset.keySlot k = none)
  ∧ State.reset.held = false ∧ State.reset.tripped = false ∧ State.reset.agenda = []
  ∧ State.reset.memWf

/-- R25, R58 to R62, R214, R447, R448: a step runs the first scheduled row, or one that the machine's own parts may run, in turn (notes/assumptions/1.md). A
strand that presents a bundle with one operation runs exec of the instruction that the bundle decodes to; a call runs exec of its next micro-op; dies without
power run nothing. R439: with `ev.n` = 4, or 3 for a call, the row brings an uncorrectable error that the strand or the call finds (notes/assumptions/26.md). -/
def Obligations.StepRunsTheDecodedInstruction : Prop :=
  ∀ s : State,
    let runs (s0 : State) (a : Act) (o : Host.Outcome State Fault Refusal) : Prop :=
      let u : State := { s0 with focus := a.who, frame := a.frame, ev := a.ev }
      (s0.held = true ∨ s0.tripped = true → powerRow a.i = false → o = .next u)
      ∧ ((s0.held = false ∧ s0.tripped = false) ∨ powerRow a.i = true →
          (rowKind a.i = .event → o = exec a.i u)
          ∧ (rowKind a.i = .slotOp → (a.ev.n = 4 → u.canIssue a.who = true → o = .next (u.foundError a.who))
              ∧ (a.ev.n ≠ 4 ∨ u.canIssue a.who = false → (∀ i fr, u.soloOp a.who = some (i, fr) → o = exec i { u with frame := fr })
                  ∧ (u.soloOp a.who = none → o = exec .bundleIssue u)))
          ∧ (rowKind a.i = .microOp →
              ((u.spindle (gnumOf a.who)).runningCall = none → o = .next u)
              ∧ ∀ c, (u.spindle (gnumOf a.who)).runningCall = some c →
                  (a.ev.n = 3 ∨ a.ev.n = 4 → o = .next (u.callFinds (gnumOf a.who) c))
                  ∧ (a.ev.n ≠ 3 → a.ev.n ≠ 4 → (∀ i, u.nextUop c = some i → o = exec i u) ∧ (u.nextUop c = none → o = .next (u.callError (gnumOf a.who) c 0x01)))))
    (∀ a r, s.agenda = a :: r → runs { s with agenda := r } a (step s))
    ∧ (s.agenda = [] → (s.ownActs = [] → step s = .next s)
        ∧ ∀ a, s.ownActs[s.turn % s.ownActs.length]? = some a → runs { s with turn := s.turn + 1 } a (step s))
    ∧ ∀ (sid len w : Nat) (s' : State), s.canIssue sid = true → s.fetchBundle sid (s.core sid).pc.toNat = .ok (len, w) s' →
        (∀ sl i, ((decodeSlots w).filter fun p => p.2 != .empty) = [(sl, .op i)] →
          s.soloOp sid = some (i, { hdr := BitVec.ofNat 16 (w / 2 ^ 368), bp := BitVec.ofNat 16 w, second := sl == .s1 || sl == .v1 || sl == .l1 }))
        ∧ ((∀ sl i, ((decodeSlots w).filter fun p => p.2 != .empty) ≠ [(sl, .op i)]) → s.soloOp sid = none)

/-- R58, R62, R73: an instruction that a bundle holds alone has as exec of the instruction the same meaning that the whole bundle has. The code word at the PC and
the bundle are to leave the same translations behind. -/
def Obligations.SoloBundlesAgree : Prop :=
  ∀ (s s' : State) (i : Instr) (len w w0 : Nat), s.soloOp s.focus = some (i, s.frame) →
    s.fetchBundle s.focus (s.core s.focus).pc.toNat = .ok (len, w) s' → s.codeWord s.focus (s.core s.focus).pc.toNat = .ok w0 s' →
    exec .bundleIssue s = exec i s

/-- R2, R126, R131, R149, R286, R388, R389, R399, R440: what is written to memory is read back, and every other byte is as it was; a sector read under another key
than it was written under fails its MAC; a cleared sector reads zero under every key; bytes are stored low byte first. That two keys never give one MAC is taken
for granted (DESIGN CHOICE, notes/assumptions/3.md). A sector whose key index has another KXTS since it was written, and the same KMAC, passes its check and
opens to other bytes. -/
def Obligations.MemoryReadsBack : Prop :=
  (∀ (n x : Nat), leNat (leBytes n x) = x % 256 ^ n ∧ ∀ i, i < n → (leBytes n x)[i]? = some (BitVec.ofNat 8 (x / 256 ^ i)))
  ∧ (∀ (s t : State) (pa key : Nat) (bs : List Byte), s.writeLoc (.hbm pa key) bs = .ok t →
      t.readLoc (.hbm pa key) bs.length = .ok bs
      ∧ (∀ a, a < pa ∨ pa + bs.length ≤ a → (a / 128 ∈ sectorsOf pa bs.length → t.plainByte key a = s.plainByte key a)
          ∧ (a / 128 ∉ sectorsOf pa bs.length ∨ s.rekeyed key (a / 128) = false → mget 0 t.hbm a = mget 0 s.hbm a))
      ∧ (∀ n, n ∉ sectorsOf pa bs.length → t.sect n = s.sect n)
      ∧ ∀ other, other ≠ key → ∀ n ∈ sectorsOf pa bs.length, t.readLoc (.hbm (128 * n) other) 128 = .error .mac)
  ∧ (∀ (s : State) (pa key : Nat) (bs : List Byte), 0 < bs.length → pa % 128 + bs.length ≤ 128 → bs.length ≠ 128 → (s.sect (pa / 128)).poison = true →
      s.writeLoc (.hbm pa key) bs = .error .poison)
  ∧ (∀ (s : State) (pa : Nat) (bs : List Byte),
      (s.physWrite pa bs).physRead pa bs.length = bs ∧ ∀ a, a < pa ∨ pa + bs.length ≤ a → (s.physWrite pa bs).physByte a = s.physByte a)
  ∧ (∀ (s t : State) (cl off : Nat) (bs : List Byte), s.writeLoc (.spad cl off) bs = .ok t →
      getBytes (t.cluster cl).bytes off bs.length = bs
      ∧ (∀ a, a < off ∨ off + bs.length ≤ a → mget 0 (t.cluster cl).bytes a = mget 0 (s.cluster cl).bytes a)
      ∧ (∀ k, k ≠ cl → t.cluster k = s.cluster k) ∧ t.hbm = s.hbm)
  ∧ (∀ (s : State) (cl off : Nat) (bs : List Byte), 0 < bs.length → off % 128 + bs.length ≤ 128 → bs.length ≠ 128 →
      mget false (s.cluster cl).poison (off / 128) = true → s.writeLoc (.spad cl off) bs = .error .spoison)
  ∧ (∀ (s : State) (pa n key a k : Nat), pa % 128 = 0 → n % 128 = 0 → pa ≤ a → a + k ≤ pa + n → (s.hbmClear pa n).hbmRead a key k = .ok (List.replicate k 0))

/-- R293, R332 to R336, R338, R354: a trap of a mill strand enters its handler, or stops the strand and is logged when it is in a handler already; a trap of a
tenant strand whose image names a handler enters that, with the PC of EPC and the loop depth on the return stack, and ends the request otherwise; a BREAK that
the debugger has asked for stops the group; a fault rolls the
strand back and has it wait for service. CAUSE and EPC are written as R83 and R84 lay them out. -/
def Obligations.TrapsAndFaults : Prop :=
  (∀ (s : State) (sid : Nat) (t : Trap),
    let c := s.core sid
    let cause := BitVec.ofNat 64 (t.cause + t.slot * 2 ^ 8 + t.boost.toNat * 2 ^ 12 + t.info % 2 ^ 16 * 2 ^ 16)
    let epc := BitVec.ofNat 64 (c.pc.toNat + c.mpc.toNat * 2 ^ 32)
    let saved : Core := { c with cause := cause, epc := epc }
    let u := s.updCore sid fun _ => saved
    (isMill sid = true → c.intrap = false →
      (s.takeTrap sid t).core sid = { saved with shadows := [], flight := c.flight.filter fun f => f.shadow.isNone, intrap := true, mldepth := c.loops.length,
                                                  mrdepth := c.rets.length, mtval := BitVec.ofNat 48 t.addr, pc := c.mtvec }
      ∧ ∀ j, j ≠ sid → (s.takeTrap sid t).strand j = s.strand j)
    ∧ (isMill sid = true → c.intrap = true → ∀ v, u.commitRegion sid = .ok v →
        s.takeTrap sid t = (v.killStrand sid []).1.logError (dieOf sid) 0x05 6 none 0 0 (dieOf sid + slotOf sid * 4) t.cause)
    ∧ (isMill sid = false →
        (t.cause ∈ [cNonUniform, cReelFull, cDiverge, cRecompute] → ∀ l, s.handlerOf (s.mcxOf sid) = some l → c.rets.length ≠ 16 →
          (s.takeTrap sid t).core sid = { saved with shadows := [], flight := c.flight.filter fun f => f.shadow.isNone, pc := l,
                                                      rets := { addr := c.pc.toNat, depth := c.loops.length } :: c.rets }
          ∧ ∀ j, j ≠ sid → (s.takeTrap sid t).strand j = s.strand j)
        ∧ (t.cause = cBreak → (s.die (dieOf sid)).dbgBrk = true → (s.die (dieOf sid)).dbgMcx.toNat = s.mcxOf sid → s.debugPermits (s.mcxOf sid) = true →
            s.takeTrap sid t = u.stopGroup (s.mcxOf sid) { debug := some (cBreak, false) })
        ∧ (t.cause ∉ [cNonUniform, cReelFull, cDiverge, cRecompute] →
            t.cause ≠ cBreak ∨ (s.die (dieOf sid)).dbgBrk = false ∨ (s.die (dieOf sid)).dbgMcx.toNat ≠ s.mcxOf sid ∨ s.debugPermits (s.mcxOf sid) = false → s.takeTrap sid t = ((((u.killAt sid []).1).endRequest (s.mcxOf sid) t.cause).whorl (s.mcxOf sid)))))
  ∧ ∀ (s : State) (sid access slot : Nat) (f : MemFault) (boost : Bool),
    let x := s.strand sid
    let p : Core := if x.nBund = 0 then { x.core with reel := x.reelAt.getD x.core.reel } else x.ckpt
    let saved : Core := { p with
      cause := BitVec.ofNat 64 (f.cause + slot * 2 ^ 8 + boost.toNat * 2 ^ 12), epc := BitVec.ofNat 64 (p.pc.toNat + p.mpc.toNat * 2 ^ 32) }
    let t := s.takeFault sid f access slot boost
    (isMill sid = false → f.ue = none → f.refetch = none → f.cause ≠ cMemUe →
      t.core sid = saved ∧ (t.strand sid).st = .blocked ∧ (t.strand sid).stores = [] ∧ (t.strand sid).heldCopies = []
      ∧ (∃ k, (t.strand sid).waits = [.fault (dieOf sid) k] ∧ ((t.die (dieOf sid)).fault k).isSome = true)
      ∧ t.hbm = s.hbm ∧ ∀ j, j ≠ sid → t.strand j = s.strand j)
    ∧ (isMill sid = true → f.ue = none → p.intrap = false →
        t.core sid = { saved with shadows := [], flight := p.flight.filter fun g => g.shadow.isNone, intrap := true, mldepth := p.loops.length, mrdepth := p.rets.length,
                                  mtval := BitVec.ofNat 48 f.addr, pc := p.mtvec })

/-- R447, R448: while the supply or a thermal trip holds the dies, every step goes on and leaves strands, memories, contexts and keys as they are; only the
supply's return, or the recovery, lifts the hold, and it schedules a cold reset. -/
def Obligations.HeldDiesStandStill : Prop :=
  ∀ s : State, s.held = true ∨ s.tripped = true →
    ∃ t, step s = .next t ∧ t.strands = s.strands ∧ t.spindles = s.spindles ∧ t.clusters = s.clusters ∧ t.copies = s.copies ∧ t.hbm = s.hbm ∧ t.sects = s.sects
      ∧ t.tlb = s.tlb ∧ t.ctxs = s.ctxs ∧ t.groups = s.groups ∧ t.parts = s.parts ∧ t.keng = s.keng ∧ t.flash = s.flash ∧ t.hostMem = s.hostMem ∧ t.fns = s.fns
      ∧ t.cmds = s.cmds ∧ t.ports = s.ports ∧ t.sent = s.sent
      ∧ (t.held = false → t.tripped = false → t.agenda.head? = some { i := .coldReset })

/-- R66: an MRPT bundle whose M slot is not a valid MCALL is malformed, whatever else it holds, and its issue traps ILLEGAL. -/
def Obligations.MrptNeedsMcall : Prop :=
  ∀ w : Nat,
    let hdr : BitVec 16 := BitVec.ofNat 16 (w / 2 ^ 368)
    let slots := decodeSlots w
    let views := slots.map fun p => (p.1.num, p.2)
    w / 2 ^ 373 % 2 = 1 → (∀ f, (Slot.m, SlotView.op (.mcallRpt f)) ∉ slots) →
    (∃ k, malformed hdr (BitVec.ofNat 16 w) views = some k)
    ∧ ∀ (s s' : State) (len : Nat), s.canIssue s.focus = true → (s'.strand s.focus).engTrap = none → s.fetchBundle s.focus (s.core s.focus).pc.toNat = .ok (len, w) s' →
        ∃ k, exec .bundleIssue s = .next (s'.trapCycle s.focus { cause := 0x01, slot := k })
end

