-- ==== Sys2Proof/Laws/Map.lean ====
section
/-! SUPPORT. Canonical maps and byte memories: what a map reads after a write, that writes keep the canonical form, and that bytes put at an address are read
there. -/

namespace Sys2Proof.Laws

open Sys2Proof Sys2Proof.Machine

theorem mget_of_above {α : Type} (d : α) (m : AMap α) (k j : Nat) (h : mabove k m = true) (hj : j ≤ k) : mget d m j = d := by
  cases m with
  | nil => rfl
  | cons p m =>
    simp only [mabove, decide_eq_true_eq] at h
    have h1 : ¬ j = p.1 := by omega
    have h2 : j < p.1 := by omega
    simp [mget, h1, h2]

/-- What a map reads after one key is given a value. -/
theorem mget_mset {α : Type} [DecidableEq α] (d : α) (m : AMap α) (k j : Nat) (v : α) :
    mget d (mset d m k v) j = if j = k then v else mget d m j := by
  induction m with
  | nil => by_cases hv : v = d <;> by_cases hj : j = k <;> simp [mset, mget, hv, hj]
  | cons p m ih =>
    obtain ⟨k', v'⟩ := p
    by_cases hk : k = k'
    · subst hk
      by_cases hv : v = d ∧ mabove k m = true
      · simp only [mset, hv, and_self, if_true]
        by_cases hj : j = k
        · simp [hj, mget_of_above d m k k hv.2 (Nat.le_refl k)]
        · by_cases hl : j < k
          · simp [mget, hj, hl, mget_of_above d m k j hv.2 (Nat.le_of_lt hl)]
          · simp [mget, hj, hl]
      · by_cases hj : j = k <;> simp [mset, mget, hv, hj]
    · by_cases hl : k < k'
      · by_cases hv : v = d
        · by_cases hj : j = k
          · simp [mset, mget, hk, hl, hv, hj]
          · simp [mset, hk, hl, hv, hj]
        · by_cases hj : j = k
          · simp [mset, mget, hk, hl, hv, hj]
          · by_cases h1 : j < k
            · have : ¬ j = k' := by omega
              have h2 : j < k' := by omega
              simp [mset, mget, hk, hl, hv, hj, h1, this, h2]
            · simp [mset, mget, hk, hl, hv, hj, h1]
      · simp only [mset, hk, hl, if_false, mget, ih]
        by_cases hj : j = k
        · subst hj; simp [hk, hl]
        · simp [hj]

@[simp] theorem mget_mset_self {α : Type} [DecidableEq α] (d : α) (m : AMap α) (k : Nat) (v : α) : mget d (mset d m k v) k = v := by
  simp [mget_mset]

theorem mget_mset_other {α : Type} [DecidableEq α] (d : α) (m : AMap α) (k j : Nat) (v : α) (h : j ≠ k) :
    mget d (mset d m k v) j = mget d m j := by
  simp [mget_mset, h]

theorem mwfFrom_weaken {α : Type} [DecidableEq α] (d : α) (m : AMap α) (lo hi : Nat) (h : lo ≤ hi) (w : mwfFrom d hi m = true) :
    mwfFrom d lo m = true := by
  cases m with
  | nil => rfl
  | cons p m => simp only [mwfFrom, Bool.and_eq_true, decide_eq_true_eq] at w ⊢; exact ⟨⟨by omega, w.1.2⟩, w.2⟩

/-- A write keeps the canonical form. -/
theorem mwfFrom_mset {α : Type} [DecidableEq α] (d : α) (m : AMap α) (lo k : Nat) (v : α) (hk : lo ≤ k) (w : mwfFrom d lo m = true) :
    mwfFrom d lo (mset d m k v) = true := by
  induction m generalizing lo with
  | nil => by_cases hv : v = d <;> simp [mset, mwfFrom, hv, hk]
  | cons p m ih =>
    obtain ⟨k', v'⟩ := p
    have w0 := w
    simp only [mwfFrom, Bool.and_eq_true, decide_eq_true_eq] at w
    by_cases h : k = k'
    · subst h
      by_cases hv : v = d ∧ mabove k m = true
      · simp only [mset, hv, and_self, if_true]; exact mwfFrom_weaken d m lo (k + 1) (by omega) w.2
      · by_cases hv' : v = d
        · -- the rest of a canonical map lies above
          exfalso
          apply hv
          refine ⟨hv', ?_⟩
          cases m with
          | nil => rfl
          | cons q m =>
            have := w.2
            simp only [mwfFrom, Bool.and_eq_true, decide_eq_true_eq] at this
            simp only [mabove, decide_eq_true_eq]
            omega
        · simp [mset, hv', mwfFrom, hk, w.2]
    · by_cases hl : k < k'
      · by_cases hv : v = d
        · simp [mset, h, hl, hv, w0]
        · simp [mset, h, hl, hv, mwfFrom, hk, w.1.2, w.2]
      · simp only [mset, h, hl, if_false, mwfFrom, Bool.and_eq_true, decide_eq_true_eq]
        exact ⟨w.1, ih (k' + 1) (by omega) w.2⟩

theorem mwf_mset {α : Type} [DecidableEq α] (d : α) (m : AMap α) (k : Nat) (v : α) (w : mwf d m = true) : mwf d (mset d m k v) = true :=
  mwfFrom_mset d m 0 k v (Nat.zero_le k) w

/-- Filtering keeps the canonical form. -/
theorem mwfFrom_filter {α : Type} [DecidableEq α] (d : α) (p : Nat × α → Bool) (m : AMap α) (lo : Nat) (w : mwfFrom d lo m = true) :
    mwfFrom d lo (m.filter p) = true := by
  induction m generalizing lo with
  | nil => rfl
  | cons q m ih =>
    obtain ⟨k, v⟩ := q
    simp only [mwfFrom, Bool.and_eq_true, decide_eq_true_eq] at w
    by_cases h : p (k, v) = true
    · simp only [List.filter, h, mwfFrom, Bool.and_eq_true, decide_eq_true_eq]; exact ⟨w.1, ih (k + 1) w.2⟩
    · simp only [List.filter, h]; exact ih lo (mwfFrom_weaken d m lo (k + 1) (by omega) w.2)

theorem mwf_dropRange {α : Type} [DecidableEq α] (d : α) (m : AMap α) (lo n : Nat) (w : mwf d m = true) : mwf d (dropRange m lo n) = true :=
  mwfFrom_filter d _ m 0 w

/-! ## Bytes -/

/-- What a byte memory reads after bytes are put at an address. -/
theorem mget_putBytes (m : AMap Byte) (a : Nat) (bs : List Byte) (j : Nat) :
    mget 0 (putBytes m a bs) j = if a ≤ j ∧ j < a + bs.length then bs.getD (j - a) 0 else mget 0 m j := by
  induction bs generalizing m a with
  | nil => simp only [putBytes, List.length_nil]; rw [if_neg (by omega)]
  | cons b bs ih =>
    simp only [putBytes, ih, List.length_cons, mget_mset]
    by_cases h1 : a + 1 ≤ j ∧ j < a + 1 + bs.length
    · rw [if_pos h1, if_pos (by omega)]
      obtain ⟨i, rfl⟩ : ∃ i, j = a + 1 + i := ⟨j - (a + 1), by omega⟩
      have e1 : a + 1 + i - (a + 1) = i := by omega
      have e2 : a + 1 + i - a = i + 1 := by omega
      rw [e1, e2]; rfl
    · rw [if_neg h1]
      by_cases h2 : j = a
      · subst h2; rw [if_pos rfl, if_pos (by omega)]; simp
      · rw [if_neg h2, if_neg (by omega)]

/-- Bytes put at an address are read there. -/
theorem getBytes_putBytes (m : AMap Byte) (a : Nat) (bs : List Byte) : getBytes (putBytes m a bs) a bs.length = bs := by
  apply List.ext_getElem
  · simp [getBytes]
  · intro i h1 h2
    have h3 : i < bs.length := by simpa [getBytes] using h1
    simp only [getBytes, List.getElem_map, List.getElem_range, mget_putBytes]
    rw [if_pos (by omega), show a + i - a = i by omega]
    simp [List.getD, h3]

/-- Bytes elsewhere are as before. -/
theorem mget_putBytes_other (m : AMap Byte) (a : Nat) (bs : List Byte) (j : Nat) (h : j < a ∨ a + bs.length ≤ j) :
    mget 0 (putBytes m a bs) j = mget 0 m j := by
  rw [mget_putBytes, if_neg (by omega)]

theorem mwf_putBytes (m : AMap Byte) (a : Nat) (bs : List Byte) (w : mwf 0 m = true) : mwf 0 (putBytes m a bs) = true := by
  induction bs generalizing m a with
  | nil => exact w
  | cons b bs ih => exact ih _ _ (mwf_mset 0 m a b w)

theorem mwf_putMasked (m : AMap Byte) (a : Nat) (bs : List (Option Byte)) (w : mwf 0 m = true) : mwf 0 (putMasked m a bs) = true := by
  induction bs generalizing m a with
  | nil => exact w
  | cons b bs ih => cases b with
    | none => exact ih _ _ w
    | some b => exact ih _ _ (mwf_mset 0 m a b w)

end Sys2Proof.Laws
end

