-- ==== Sys2Proof/Laws/State.lean ====
section
/-! SUPPORT. What each named update of the state leaves in each field, and what each accessor reads after each update. -/

namespace Sys2Proof.Laws

open Sys2Proof Sys2Proof.Machine

/-! ## setStrand -/

@[simp] theorem setStrand_agenda (s : State) (k : Nat) (x : Strand) : (s.setStrand k x).agenda = s.agenda := rfl
@[simp] theorem setStrand_ev (s : State) (k : Nat) (x : Strand) : (s.setStrand k x).ev = s.ev := rfl
@[simp] theorem setStrand_frame (s : State) (k : Nat) (x : Strand) : (s.setStrand k x).frame = s.frame := rfl
@[simp] theorem setStrand_focus (s : State) (k : Nat) (x : Strand) : (s.setStrand k x).focus = s.focus := rfl
@[simp] theorem setStrand_turn (s : State) (k : Nat) (x : Strand) : (s.setStrand k x).turn = s.turn := rfl
@[simp] theorem setStrand_free (s : State) (k : Nat) (x : Strand) : (s.setStrand k x).free = s.free := rfl
@[simp] theorem setStrand_nextId (s : State) (k : Nat) (x : Strand) : (s.setStrand k x).nextId = s.nextId := rfl
@[simp] theorem setStrand_spindles (s : State) (k : Nat) (x : Strand) : (s.setStrand k x).spindles = s.spindles := rfl
@[simp] theorem setStrand_clusters (s : State) (k : Nat) (x : Strand) : (s.setStrand k x).clusters = s.clusters := rfl
@[simp] theorem setStrand_copies (s : State) (k : Nat) (x : Strand) : (s.setStrand k x).copies = s.copies := rfl
@[simp] theorem setStrand_groups (s : State) (k : Nat) (x : Strand) : (s.setStrand k x).groups = s.groups := rfl
@[simp] theorem setStrand_hbm (s : State) (k : Nat) (x : Strand) : (s.setStrand k x).hbm = s.hbm := rfl
@[simp] theorem setStrand_sects (s : State) (k : Nat) (x : Strand) : (s.setStrand k x).sects = s.sects := rfl
@[simp] theorem setStrand_reltags (s : State) (k : Nat) (x : Strand) : (s.setStrand k x).reltags = s.reltags := rfl
@[simp] theorem setStrand_rom (s : State) (k : Nat) (x : Strand) : (s.setStrand k x).rom = s.rom := rfl
@[simp] theorem setStrand_tlb (s : State) (k : Nat) (x : Strand) : (s.setStrand k x).tlb = s.tlb := rfl
@[simp] theorem setStrand_dies (s : State) (k : Nat) (x : Strand) : (s.setStrand k x).dies = s.dies := rfl
@[simp] theorem setStrand_ctxs (s : State) (k : Nat) (x : Strand) : (s.setStrand k x).ctxs = s.ctxs := rfl
@[simp] theorem setStrand_keyIndex (s : State) (k : Nat) (x : Strand) : (s.setStrand k x).keyIndex = s.keyIndex := rfl
@[simp] theorem setStrand_waiting (s : State) (k : Nat) (x : Strand) : (s.setStrand k x).waiting = s.waiting := rfl
@[simp] theorem setStrand_replies (s : State) (k : Nat) (x : Strand) : (s.setStrand k x).replies = s.replies := rfl
@[simp] theorem setStrand_stops (s : State) (k : Nat) (x : Strand) : (s.setStrand k x).stops = s.stops := rfl
@[simp] theorem setStrand_images (s : State) (k : Nat) (x : Strand) : (s.setStrand k x).images = s.images := rfl
@[simp] theorem setStrand_redirects (s : State) (k : Nat) (x : Strand) : (s.setStrand k x).redirects = s.redirects := rfl
@[simp] theorem setStrand_restoring (s : State) (k : Nat) (x : Strand) : (s.setStrand k x).restoring = s.restoring := rfl
@[simp] theorem setStrand_parts (s : State) (k : Nat) (x : Strand) : (s.setStrand k x).parts = s.parts := rfl
@[simp] theorem setStrand_chans (s : State) (k : Nat) (x : Strand) : (s.setStrand k x).chans = s.chans := rfl
@[simp] theorem setStrand_modcap (s : State) (k : Nat) (x : Strand) : (s.setStrand k x).modcap = s.modcap := rfl
@[simp] theorem setStrand_perr (s : State) (k : Nat) (x : Strand) : (s.setStrand k x).perr = s.perr := rfl
@[simp] theorem setStrand_keng (s : State) (k : Nat) (x : Strand) : (s.setStrand k x).keng = s.keng := rfl
@[simp] theorem setStrand_ports (s : State) (k : Nat) (x : Strand) : (s.setStrand k x).ports = s.ports := rfl
@[simp] theorem setStrand_reach (s : State) (k : Nat) (x : Strand) : (s.setStrand k x).reach = s.reach := rfl
@[simp] theorem setStrand_reachReqs (s : State) (k : Nat) (x : Strand) : (s.setStrand k x).reachReqs = s.reachReqs := rfl
@[simp] theorem setStrand_reachIn (s : State) (k : Nat) (x : Strand) : (s.setStrand k x).reachIn = s.reachIn := rfl
@[simp] theorem setStrand_fns (s : State) (k : Nat) (x : Strand) : (s.setStrand k x).fns = s.fns := rfl
@[simp] theorem setStrand_cmds (s : State) (k : Nat) (x : Strand) : (s.setStrand k x).cmds = s.cmds := rfl
@[simp] theorem setStrand_hostMem (s : State) (k : Nat) (x : Strand) : (s.setStrand k x).hostMem = s.hostMem := rfl
@[simp] theorem setStrand_flash (s : State) (k : Nat) (x : Strand) : (s.setStrand k x).flash = s.flash := rfl
@[simp] theorem setStrand_drives (s : State) (k : Nat) (x : Strand) : (s.setStrand k x).drives = s.drives := rfl
@[simp] theorem setStrand_fwSlot (s : State) (k : Nat) (x : Strand) : (s.setStrand k x).fwSlot = s.fwSlot := rfl
@[simp] theorem setStrand_sent (s : State) (k : Nat) (x : Strand) : (s.setStrand k x).sent = s.sent := rfl
@[simp] theorem setStrand_msix (s : State) (k : Nat) (x : Strand) : (s.setStrand k x).msix = s.msix := rfl
@[simp] theorem setStrand_mgmt (s : State) (k : Nat) (x : Strand) : (s.setStrand k x).mgmt = s.mgmt := rfl
@[simp] theorem setStrand_leaAcc (s : State) (k : Nat) (x : Strand) : (s.setStrand k x).leaAcc = s.leaAcc := rfl
@[simp] theorem setStrand_evAcc (s : State) (k : Nat) (x : Strand) : (s.setStrand k x).evAcc = s.evAcc := rfl
@[simp] theorem setStrand_sclines (s : State) (k : Nat) (x : Strand) : (s.setStrand k x).sclines = s.sclines := rfl
@[simp] theorem setStrand_ways (s : State) (k : Nat) (x : Strand) : (s.setStrand k x).ways = s.ways := rfl
@[simp] theorem setStrand_hitAcc (s : State) (k : Nat) (x : Strand) : (s.setStrand k x).hitAcc = s.hitAcc := rfl
@[simp] theorem setStrand_outbox (s : State) (k : Nat) (x : Strand) : (s.setStrand k x).outbox = s.outbox := rfl
@[simp] theorem setStrand_held (s : State) (k : Nat) (x : Strand) : (s.setStrand k x).held = s.held := rfl
@[simp] theorem setStrand_tripped (s : State) (k : Nat) (x : Strand) : (s.setStrand k x).tripped = s.tripped := rfl
@[simp] theorem setStrand_strand (s : State) (k j : Nat) (x : Strand) : (s.setStrand k x).strand j = if j = k then x else s.strand j := mget_mset _ _ _ _ _
@[simp] theorem setStrand_spindle (s : State) (k j : Nat) (x : Strand) : (s.setStrand k x).spindle j = s.spindle j := rfl
@[simp] theorem setStrand_cluster (s : State) (k j : Nat) (x : Strand) : (s.setStrand k x).cluster j = s.cluster j := rfl
@[simp] theorem setStrand_copyJob (s : State) (k j : Nat) (x : Strand) : (s.setStrand k x).copyJob j = s.copyJob j := rfl
@[simp] theorem setStrand_group (s : State) (k j : Nat) (x : Strand) : (s.setStrand k x).group j = s.group j := rfl
@[simp] theorem setStrand_die (s : State) (k j : Nat) (x : Strand) : (s.setStrand k x).die j = s.die j := rfl
@[simp] theorem setStrand_ctx (s : State) (k j : Nat) (x : Strand) : (s.setStrand k x).ctx j = s.ctx j := rfl
@[simp] theorem setStrand_part (s : State) (k j : Nat) (x : Strand) : (s.setStrand k x).part j = s.part j := rfl
@[simp] theorem setStrand_chan (s : State) (k j : Nat) (x : Strand) : (s.setStrand k x).chan j = s.chan j := rfl
@[simp] theorem setStrand_port (s : State) (k j : Nat) (x : Strand) : (s.setStrand k x).port j = s.port j := rfl
@[simp] theorem setStrand_fn (s : State) (k j : Nat) (x : Strand) : (s.setStrand k x).fn j = s.fn j := rfl
@[simp] theorem setStrand_cmd (s : State) (k j : Nat) (x : Strand) : (s.setStrand k x).cmd j = s.cmd j := rfl
@[simp] theorem setStrand_stop (s : State) (k j : Nat) (x : Strand) : (s.setStrand k x).stop j = s.stop j := rfl
@[simp] theorem setStrand_sect (s : State) (k j : Nat) (x : Strand) : (s.setStrand k x).sect j = s.sect j := rfl

/-! ## setSpindle -/

@[simp] theorem setSpindle_agenda (s : State) (k : Nat) (x : Spindle) : (s.setSpindle k x).agenda = s.agenda := rfl
@[simp] theorem setSpindle_ev (s : State) (k : Nat) (x : Spindle) : (s.setSpindle k x).ev = s.ev := rfl
@[simp] theorem setSpindle_frame (s : State) (k : Nat) (x : Spindle) : (s.setSpindle k x).frame = s.frame := rfl
@[simp] theorem setSpindle_focus (s : State) (k : Nat) (x : Spindle) : (s.setSpindle k x).focus = s.focus := rfl
@[simp] theorem setSpindle_turn (s : State) (k : Nat) (x : Spindle) : (s.setSpindle k x).turn = s.turn := rfl
@[simp] theorem setSpindle_free (s : State) (k : Nat) (x : Spindle) : (s.setSpindle k x).free = s.free := rfl
@[simp] theorem setSpindle_nextId (s : State) (k : Nat) (x : Spindle) : (s.setSpindle k x).nextId = s.nextId := rfl
@[simp] theorem setSpindle_strands (s : State) (k : Nat) (x : Spindle) : (s.setSpindle k x).strands = s.strands := rfl
@[simp] theorem setSpindle_clusters (s : State) (k : Nat) (x : Spindle) : (s.setSpindle k x).clusters = s.clusters := rfl
@[simp] theorem setSpindle_copies (s : State) (k : Nat) (x : Spindle) : (s.setSpindle k x).copies = s.copies := rfl
@[simp] theorem setSpindle_groups (s : State) (k : Nat) (x : Spindle) : (s.setSpindle k x).groups = s.groups := rfl
@[simp] theorem setSpindle_hbm (s : State) (k : Nat) (x : Spindle) : (s.setSpindle k x).hbm = s.hbm := rfl
@[simp] theorem setSpindle_sects (s : State) (k : Nat) (x : Spindle) : (s.setSpindle k x).sects = s.sects := rfl
@[simp] theorem setSpindle_reltags (s : State) (k : Nat) (x : Spindle) : (s.setSpindle k x).reltags = s.reltags := rfl
@[simp] theorem setSpindle_rom (s : State) (k : Nat) (x : Spindle) : (s.setSpindle k x).rom = s.rom := rfl
@[simp] theorem setSpindle_tlb (s : State) (k : Nat) (x : Spindle) : (s.setSpindle k x).tlb = s.tlb := rfl
@[simp] theorem setSpindle_dies (s : State) (k : Nat) (x : Spindle) : (s.setSpindle k x).dies = s.dies := rfl
@[simp] theorem setSpindle_ctxs (s : State) (k : Nat) (x : Spindle) : (s.setSpindle k x).ctxs = s.ctxs := rfl
@[simp] theorem setSpindle_keyIndex (s : State) (k : Nat) (x : Spindle) : (s.setSpindle k x).keyIndex = s.keyIndex := rfl
@[simp] theorem setSpindle_waiting (s : State) (k : Nat) (x : Spindle) : (s.setSpindle k x).waiting = s.waiting := rfl
@[simp] theorem setSpindle_replies (s : State) (k : Nat) (x : Spindle) : (s.setSpindle k x).replies = s.replies := rfl
@[simp] theorem setSpindle_stops (s : State) (k : Nat) (x : Spindle) : (s.setSpindle k x).stops = s.stops := rfl
@[simp] theorem setSpindle_images (s : State) (k : Nat) (x : Spindle) : (s.setSpindle k x).images = s.images := rfl
@[simp] theorem setSpindle_redirects (s : State) (k : Nat) (x : Spindle) : (s.setSpindle k x).redirects = s.redirects := rfl
@[simp] theorem setSpindle_restoring (s : State) (k : Nat) (x : Spindle) : (s.setSpindle k x).restoring = s.restoring := rfl
@[simp] theorem setSpindle_parts (s : State) (k : Nat) (x : Spindle) : (s.setSpindle k x).parts = s.parts := rfl
@[simp] theorem setSpindle_chans (s : State) (k : Nat) (x : Spindle) : (s.setSpindle k x).chans = s.chans := rfl
@[simp] theorem setSpindle_modcap (s : State) (k : Nat) (x : Spindle) : (s.setSpindle k x).modcap = s.modcap := rfl
@[simp] theorem setSpindle_perr (s : State) (k : Nat) (x : Spindle) : (s.setSpindle k x).perr = s.perr := rfl
@[simp] theorem setSpindle_keng (s : State) (k : Nat) (x : Spindle) : (s.setSpindle k x).keng = s.keng := rfl
@[simp] theorem setSpindle_ports (s : State) (k : Nat) (x : Spindle) : (s.setSpindle k x).ports = s.ports := rfl
@[simp] theorem setSpindle_reach (s : State) (k : Nat) (x : Spindle) : (s.setSpindle k x).reach = s.reach := rfl
@[simp] theorem setSpindle_reachReqs (s : State) (k : Nat) (x : Spindle) : (s.setSpindle k x).reachReqs = s.reachReqs := rfl
@[simp] theorem setSpindle_reachIn (s : State) (k : Nat) (x : Spindle) : (s.setSpindle k x).reachIn = s.reachIn := rfl
@[simp] theorem setSpindle_fns (s : State) (k : Nat) (x : Spindle) : (s.setSpindle k x).fns = s.fns := rfl
@[simp] theorem setSpindle_cmds (s : State) (k : Nat) (x : Spindle) : (s.setSpindle k x).cmds = s.cmds := rfl
@[simp] theorem setSpindle_hostMem (s : State) (k : Nat) (x : Spindle) : (s.setSpindle k x).hostMem = s.hostMem := rfl
@[simp] theorem setSpindle_flash (s : State) (k : Nat) (x : Spindle) : (s.setSpindle k x).flash = s.flash := rfl
@[simp] theorem setSpindle_drives (s : State) (k : Nat) (x : Spindle) : (s.setSpindle k x).drives = s.drives := rfl
@[simp] theorem setSpindle_fwSlot (s : State) (k : Nat) (x : Spindle) : (s.setSpindle k x).fwSlot = s.fwSlot := rfl
@[simp] theorem setSpindle_sent (s : State) (k : Nat) (x : Spindle) : (s.setSpindle k x).sent = s.sent := rfl
@[simp] theorem setSpindle_msix (s : State) (k : Nat) (x : Spindle) : (s.setSpindle k x).msix = s.msix := rfl
@[simp] theorem setSpindle_mgmt (s : State) (k : Nat) (x : Spindle) : (s.setSpindle k x).mgmt = s.mgmt := rfl
@[simp] theorem setSpindle_leaAcc (s : State) (k : Nat) (x : Spindle) : (s.setSpindle k x).leaAcc = s.leaAcc := rfl
@[simp] theorem setSpindle_evAcc (s : State) (k : Nat) (x : Spindle) : (s.setSpindle k x).evAcc = s.evAcc := rfl
@[simp] theorem setSpindle_sclines (s : State) (k : Nat) (x : Spindle) : (s.setSpindle k x).sclines = s.sclines := rfl
@[simp] theorem setSpindle_ways (s : State) (k : Nat) (x : Spindle) : (s.setSpindle k x).ways = s.ways := rfl
@[simp] theorem setSpindle_hitAcc (s : State) (k : Nat) (x : Spindle) : (s.setSpindle k x).hitAcc = s.hitAcc := rfl
@[simp] theorem setSpindle_outbox (s : State) (k : Nat) (x : Spindle) : (s.setSpindle k x).outbox = s.outbox := rfl
@[simp] theorem setSpindle_held (s : State) (k : Nat) (x : Spindle) : (s.setSpindle k x).held = s.held := rfl
@[simp] theorem setSpindle_tripped (s : State) (k : Nat) (x : Spindle) : (s.setSpindle k x).tripped = s.tripped := rfl
@[simp] theorem setSpindle_spindle (s : State) (k j : Nat) (x : Spindle) : (s.setSpindle k x).spindle j = if j = k then x else s.spindle j := mget_mset _ _ _ _ _
@[simp] theorem setSpindle_strand (s : State) (k j : Nat) (x : Spindle) : (s.setSpindle k x).strand j = s.strand j := rfl
@[simp] theorem setSpindle_cluster (s : State) (k j : Nat) (x : Spindle) : (s.setSpindle k x).cluster j = s.cluster j := rfl
@[simp] theorem setSpindle_copyJob (s : State) (k j : Nat) (x : Spindle) : (s.setSpindle k x).copyJob j = s.copyJob j := rfl
@[simp] theorem setSpindle_group (s : State) (k j : Nat) (x : Spindle) : (s.setSpindle k x).group j = s.group j := rfl
@[simp] theorem setSpindle_die (s : State) (k j : Nat) (x : Spindle) : (s.setSpindle k x).die j = s.die j := rfl
@[simp] theorem setSpindle_ctx (s : State) (k j : Nat) (x : Spindle) : (s.setSpindle k x).ctx j = s.ctx j := rfl
@[simp] theorem setSpindle_part (s : State) (k j : Nat) (x : Spindle) : (s.setSpindle k x).part j = s.part j := rfl
@[simp] theorem setSpindle_chan (s : State) (k j : Nat) (x : Spindle) : (s.setSpindle k x).chan j = s.chan j := rfl
@[simp] theorem setSpindle_port (s : State) (k j : Nat) (x : Spindle) : (s.setSpindle k x).port j = s.port j := rfl
@[simp] theorem setSpindle_fn (s : State) (k j : Nat) (x : Spindle) : (s.setSpindle k x).fn j = s.fn j := rfl
@[simp] theorem setSpindle_cmd (s : State) (k j : Nat) (x : Spindle) : (s.setSpindle k x).cmd j = s.cmd j := rfl
@[simp] theorem setSpindle_stop (s : State) (k j : Nat) (x : Spindle) : (s.setSpindle k x).stop j = s.stop j := rfl
@[simp] theorem setSpindle_sect (s : State) (k j : Nat) (x : Spindle) : (s.setSpindle k x).sect j = s.sect j := rfl

/-! ## setCluster -/

@[simp] theorem setCluster_agenda (s : State) (k : Nat) (x : Cluster) : (s.setCluster k x).agenda = s.agenda := rfl
@[simp] theorem setCluster_ev (s : State) (k : Nat) (x : Cluster) : (s.setCluster k x).ev = s.ev := rfl
@[simp] theorem setCluster_frame (s : State) (k : Nat) (x : Cluster) : (s.setCluster k x).frame = s.frame := rfl
@[simp] theorem setCluster_focus (s : State) (k : Nat) (x : Cluster) : (s.setCluster k x).focus = s.focus := rfl
@[simp] theorem setCluster_turn (s : State) (k : Nat) (x : Cluster) : (s.setCluster k x).turn = s.turn := rfl
@[simp] theorem setCluster_free (s : State) (k : Nat) (x : Cluster) : (s.setCluster k x).free = s.free := rfl
@[simp] theorem setCluster_nextId (s : State) (k : Nat) (x : Cluster) : (s.setCluster k x).nextId = s.nextId := rfl
@[simp] theorem setCluster_strands (s : State) (k : Nat) (x : Cluster) : (s.setCluster k x).strands = s.strands := rfl
@[simp] theorem setCluster_spindles (s : State) (k : Nat) (x : Cluster) : (s.setCluster k x).spindles = s.spindles := rfl
@[simp] theorem setCluster_copies (s : State) (k : Nat) (x : Cluster) : (s.setCluster k x).copies = s.copies := rfl
@[simp] theorem setCluster_groups (s : State) (k : Nat) (x : Cluster) : (s.setCluster k x).groups = s.groups := rfl
@[simp] theorem setCluster_hbm (s : State) (k : Nat) (x : Cluster) : (s.setCluster k x).hbm = s.hbm := rfl
@[simp] theorem setCluster_sects (s : State) (k : Nat) (x : Cluster) : (s.setCluster k x).sects = s.sects := rfl
@[simp] theorem setCluster_reltags (s : State) (k : Nat) (x : Cluster) : (s.setCluster k x).reltags = s.reltags := rfl
@[simp] theorem setCluster_rom (s : State) (k : Nat) (x : Cluster) : (s.setCluster k x).rom = s.rom := rfl
@[simp] theorem setCluster_tlb (s : State) (k : Nat) (x : Cluster) : (s.setCluster k x).tlb = s.tlb := rfl
@[simp] theorem setCluster_dies (s : State) (k : Nat) (x : Cluster) : (s.setCluster k x).dies = s.dies := rfl
@[simp] theorem setCluster_ctxs (s : State) (k : Nat) (x : Cluster) : (s.setCluster k x).ctxs = s.ctxs := rfl
@[simp] theorem setCluster_keyIndex (s : State) (k : Nat) (x : Cluster) : (s.setCluster k x).keyIndex = s.keyIndex := rfl
@[simp] theorem setCluster_waiting (s : State) (k : Nat) (x : Cluster) : (s.setCluster k x).waiting = s.waiting := rfl
@[simp] theorem setCluster_replies (s : State) (k : Nat) (x : Cluster) : (s.setCluster k x).replies = s.replies := rfl
@[simp] theorem setCluster_stops (s : State) (k : Nat) (x : Cluster) : (s.setCluster k x).stops = s.stops := rfl
@[simp] theorem setCluster_images (s : State) (k : Nat) (x : Cluster) : (s.setCluster k x).images = s.images := rfl
@[simp] theorem setCluster_redirects (s : State) (k : Nat) (x : Cluster) : (s.setCluster k x).redirects = s.redirects := rfl
@[simp] theorem setCluster_restoring (s : State) (k : Nat) (x : Cluster) : (s.setCluster k x).restoring = s.restoring := rfl
@[simp] theorem setCluster_parts (s : State) (k : Nat) (x : Cluster) : (s.setCluster k x).parts = s.parts := rfl
@[simp] theorem setCluster_chans (s : State) (k : Nat) (x : Cluster) : (s.setCluster k x).chans = s.chans := rfl
@[simp] theorem setCluster_modcap (s : State) (k : Nat) (x : Cluster) : (s.setCluster k x).modcap = s.modcap := rfl
@[simp] theorem setCluster_perr (s : State) (k : Nat) (x : Cluster) : (s.setCluster k x).perr = s.perr := rfl
@[simp] theorem setCluster_keng (s : State) (k : Nat) (x : Cluster) : (s.setCluster k x).keng = s.keng := rfl
@[simp] theorem setCluster_ports (s : State) (k : Nat) (x : Cluster) : (s.setCluster k x).ports = s.ports := rfl
@[simp] theorem setCluster_reach (s : State) (k : Nat) (x : Cluster) : (s.setCluster k x).reach = s.reach := rfl
@[simp] theorem setCluster_reachReqs (s : State) (k : Nat) (x : Cluster) : (s.setCluster k x).reachReqs = s.reachReqs := rfl
@[simp] theorem setCluster_reachIn (s : State) (k : Nat) (x : Cluster) : (s.setCluster k x).reachIn = s.reachIn := rfl
@[simp] theorem setCluster_fns (s : State) (k : Nat) (x : Cluster) : (s.setCluster k x).fns = s.fns := rfl
@[simp] theorem setCluster_cmds (s : State) (k : Nat) (x : Cluster) : (s.setCluster k x).cmds = s.cmds := rfl
@[simp] theorem setCluster_hostMem (s : State) (k : Nat) (x : Cluster) : (s.setCluster k x).hostMem = s.hostMem := rfl
@[simp] theorem setCluster_flash (s : State) (k : Nat) (x : Cluster) : (s.setCluster k x).flash = s.flash := rfl
@[simp] theorem setCluster_drives (s : State) (k : Nat) (x : Cluster) : (s.setCluster k x).drives = s.drives := rfl
@[simp] theorem setCluster_fwSlot (s : State) (k : Nat) (x : Cluster) : (s.setCluster k x).fwSlot = s.fwSlot := rfl
@[simp] theorem setCluster_sent (s : State) (k : Nat) (x : Cluster) : (s.setCluster k x).sent = s.sent := rfl
@[simp] theorem setCluster_msix (s : State) (k : Nat) (x : Cluster) : (s.setCluster k x).msix = s.msix := rfl
@[simp] theorem setCluster_mgmt (s : State) (k : Nat) (x : Cluster) : (s.setCluster k x).mgmt = s.mgmt := rfl
@[simp] theorem setCluster_leaAcc (s : State) (k : Nat) (x : Cluster) : (s.setCluster k x).leaAcc = s.leaAcc := rfl
@[simp] theorem setCluster_evAcc (s : State) (k : Nat) (x : Cluster) : (s.setCluster k x).evAcc = s.evAcc := rfl
@[simp] theorem setCluster_sclines (s : State) (k : Nat) (x : Cluster) : (s.setCluster k x).sclines = s.sclines := rfl
@[simp] theorem setCluster_ways (s : State) (k : Nat) (x : Cluster) : (s.setCluster k x).ways = s.ways := rfl
@[simp] theorem setCluster_hitAcc (s : State) (k : Nat) (x : Cluster) : (s.setCluster k x).hitAcc = s.hitAcc := rfl
@[simp] theorem setCluster_outbox (s : State) (k : Nat) (x : Cluster) : (s.setCluster k x).outbox = s.outbox := rfl
@[simp] theorem setCluster_held (s : State) (k : Nat) (x : Cluster) : (s.setCluster k x).held = s.held := rfl
@[simp] theorem setCluster_tripped (s : State) (k : Nat) (x : Cluster) : (s.setCluster k x).tripped = s.tripped := rfl
@[simp] theorem setCluster_cluster (s : State) (k j : Nat) (x : Cluster) : (s.setCluster k x).cluster j = if j = k then x else s.cluster j := mget_mset _ _ _ _ _
@[simp] theorem setCluster_strand (s : State) (k j : Nat) (x : Cluster) : (s.setCluster k x).strand j = s.strand j := rfl
@[simp] theorem setCluster_spindle (s : State) (k j : Nat) (x : Cluster) : (s.setCluster k x).spindle j = s.spindle j := rfl
@[simp] theorem setCluster_copyJob (s : State) (k j : Nat) (x : Cluster) : (s.setCluster k x).copyJob j = s.copyJob j := rfl
@[simp] theorem setCluster_group (s : State) (k j : Nat) (x : Cluster) : (s.setCluster k x).group j = s.group j := rfl
@[simp] theorem setCluster_die (s : State) (k j : Nat) (x : Cluster) : (s.setCluster k x).die j = s.die j := rfl
@[simp] theorem setCluster_ctx (s : State) (k j : Nat) (x : Cluster) : (s.setCluster k x).ctx j = s.ctx j := rfl
@[simp] theorem setCluster_part (s : State) (k j : Nat) (x : Cluster) : (s.setCluster k x).part j = s.part j := rfl
@[simp] theorem setCluster_chan (s : State) (k j : Nat) (x : Cluster) : (s.setCluster k x).chan j = s.chan j := rfl
@[simp] theorem setCluster_port (s : State) (k j : Nat) (x : Cluster) : (s.setCluster k x).port j = s.port j := rfl
@[simp] theorem setCluster_fn (s : State) (k j : Nat) (x : Cluster) : (s.setCluster k x).fn j = s.fn j := rfl
@[simp] theorem setCluster_cmd (s : State) (k j : Nat) (x : Cluster) : (s.setCluster k x).cmd j = s.cmd j := rfl
@[simp] theorem setCluster_stop (s : State) (k j : Nat) (x : Cluster) : (s.setCluster k x).stop j = s.stop j := rfl
@[simp] theorem setCluster_sect (s : State) (k j : Nat) (x : Cluster) : (s.setCluster k x).sect j = s.sect j := rfl

/-! ## setCopy -/

@[simp] theorem setCopy_agenda (s : State) (k : Nat) (x : Option CopyJob) : (s.setCopy k x).agenda = s.agenda := rfl
@[simp] theorem setCopy_ev (s : State) (k : Nat) (x : Option CopyJob) : (s.setCopy k x).ev = s.ev := rfl
@[simp] theorem setCopy_frame (s : State) (k : Nat) (x : Option CopyJob) : (s.setCopy k x).frame = s.frame := rfl
@[simp] theorem setCopy_focus (s : State) (k : Nat) (x : Option CopyJob) : (s.setCopy k x).focus = s.focus := rfl
@[simp] theorem setCopy_turn (s : State) (k : Nat) (x : Option CopyJob) : (s.setCopy k x).turn = s.turn := rfl
@[simp] theorem setCopy_free (s : State) (k : Nat) (x : Option CopyJob) : (s.setCopy k x).free = s.free := rfl
@[simp] theorem setCopy_nextId (s : State) (k : Nat) (x : Option CopyJob) : (s.setCopy k x).nextId = s.nextId := rfl
@[simp] theorem setCopy_strands (s : State) (k : Nat) (x : Option CopyJob) : (s.setCopy k x).strands = s.strands := rfl
@[simp] theorem setCopy_spindles (s : State) (k : Nat) (x : Option CopyJob) : (s.setCopy k x).spindles = s.spindles := rfl
@[simp] theorem setCopy_clusters (s : State) (k : Nat) (x : Option CopyJob) : (s.setCopy k x).clusters = s.clusters := rfl
@[simp] theorem setCopy_groups (s : State) (k : Nat) (x : Option CopyJob) : (s.setCopy k x).groups = s.groups := rfl
@[simp] theorem setCopy_hbm (s : State) (k : Nat) (x : Option CopyJob) : (s.setCopy k x).hbm = s.hbm := rfl
@[simp] theorem setCopy_sects (s : State) (k : Nat) (x : Option CopyJob) : (s.setCopy k x).sects = s.sects := rfl
@[simp] theorem setCopy_reltags (s : State) (k : Nat) (x : Option CopyJob) : (s.setCopy k x).reltags = s.reltags := rfl
@[simp] theorem setCopy_rom (s : State) (k : Nat) (x : Option CopyJob) : (s.setCopy k x).rom = s.rom := rfl
@[simp] theorem setCopy_tlb (s : State) (k : Nat) (x : Option CopyJob) : (s.setCopy k x).tlb = s.tlb := rfl
@[simp] theorem setCopy_dies (s : State) (k : Nat) (x : Option CopyJob) : (s.setCopy k x).dies = s.dies := rfl
@[simp] theorem setCopy_ctxs (s : State) (k : Nat) (x : Option CopyJob) : (s.setCopy k x).ctxs = s.ctxs := rfl
@[simp] theorem setCopy_keyIndex (s : State) (k : Nat) (x : Option CopyJob) : (s.setCopy k x).keyIndex = s.keyIndex := rfl
@[simp] theorem setCopy_waiting (s : State) (k : Nat) (x : Option CopyJob) : (s.setCopy k x).waiting = s.waiting := rfl
@[simp] theorem setCopy_replies (s : State) (k : Nat) (x : Option CopyJob) : (s.setCopy k x).replies = s.replies := rfl
@[simp] theorem setCopy_stops (s : State) (k : Nat) (x : Option CopyJob) : (s.setCopy k x).stops = s.stops := rfl
@[simp] theorem setCopy_images (s : State) (k : Nat) (x : Option CopyJob) : (s.setCopy k x).images = s.images := rfl
@[simp] theorem setCopy_redirects (s : State) (k : Nat) (x : Option CopyJob) : (s.setCopy k x).redirects = s.redirects := rfl
@[simp] theorem setCopy_restoring (s : State) (k : Nat) (x : Option CopyJob) : (s.setCopy k x).restoring = s.restoring := rfl
@[simp] theorem setCopy_parts (s : State) (k : Nat) (x : Option CopyJob) : (s.setCopy k x).parts = s.parts := rfl
@[simp] theorem setCopy_chans (s : State) (k : Nat) (x : Option CopyJob) : (s.setCopy k x).chans = s.chans := rfl
@[simp] theorem setCopy_modcap (s : State) (k : Nat) (x : Option CopyJob) : (s.setCopy k x).modcap = s.modcap := rfl
@[simp] theorem setCopy_perr (s : State) (k : Nat) (x : Option CopyJob) : (s.setCopy k x).perr = s.perr := rfl
@[simp] theorem setCopy_keng (s : State) (k : Nat) (x : Option CopyJob) : (s.setCopy k x).keng = s.keng := rfl
@[simp] theorem setCopy_ports (s : State) (k : Nat) (x : Option CopyJob) : (s.setCopy k x).ports = s.ports := rfl
@[simp] theorem setCopy_reach (s : State) (k : Nat) (x : Option CopyJob) : (s.setCopy k x).reach = s.reach := rfl
@[simp] theorem setCopy_reachReqs (s : State) (k : Nat) (x : Option CopyJob) : (s.setCopy k x).reachReqs = s.reachReqs := rfl
@[simp] theorem setCopy_reachIn (s : State) (k : Nat) (x : Option CopyJob) : (s.setCopy k x).reachIn = s.reachIn := rfl
@[simp] theorem setCopy_fns (s : State) (k : Nat) (x : Option CopyJob) : (s.setCopy k x).fns = s.fns := rfl
@[simp] theorem setCopy_cmds (s : State) (k : Nat) (x : Option CopyJob) : (s.setCopy k x).cmds = s.cmds := rfl
@[simp] theorem setCopy_hostMem (s : State) (k : Nat) (x : Option CopyJob) : (s.setCopy k x).hostMem = s.hostMem := rfl
@[simp] theorem setCopy_flash (s : State) (k : Nat) (x : Option CopyJob) : (s.setCopy k x).flash = s.flash := rfl
@[simp] theorem setCopy_drives (s : State) (k : Nat) (x : Option CopyJob) : (s.setCopy k x).drives = s.drives := rfl
@[simp] theorem setCopy_fwSlot (s : State) (k : Nat) (x : Option CopyJob) : (s.setCopy k x).fwSlot = s.fwSlot := rfl
@[simp] theorem setCopy_sent (s : State) (k : Nat) (x : Option CopyJob) : (s.setCopy k x).sent = s.sent := rfl
@[simp] theorem setCopy_msix (s : State) (k : Nat) (x : Option CopyJob) : (s.setCopy k x).msix = s.msix := rfl
@[simp] theorem setCopy_mgmt (s : State) (k : Nat) (x : Option CopyJob) : (s.setCopy k x).mgmt = s.mgmt := rfl
@[simp] theorem setCopy_leaAcc (s : State) (k : Nat) (x : Option CopyJob) : (s.setCopy k x).leaAcc = s.leaAcc := rfl
@[simp] theorem setCopy_evAcc (s : State) (k : Nat) (x : Option CopyJob) : (s.setCopy k x).evAcc = s.evAcc := rfl
@[simp] theorem setCopy_sclines (s : State) (k : Nat) (x : Option CopyJob) : (s.setCopy k x).sclines = s.sclines := rfl
@[simp] theorem setCopy_ways (s : State) (k : Nat) (x : Option CopyJob) : (s.setCopy k x).ways = s.ways := rfl
@[simp] theorem setCopy_hitAcc (s : State) (k : Nat) (x : Option CopyJob) : (s.setCopy k x).hitAcc = s.hitAcc := rfl
@[simp] theorem setCopy_outbox (s : State) (k : Nat) (x : Option CopyJob) : (s.setCopy k x).outbox = s.outbox := rfl
@[simp] theorem setCopy_held (s : State) (k : Nat) (x : Option CopyJob) : (s.setCopy k x).held = s.held := rfl
@[simp] theorem setCopy_tripped (s : State) (k : Nat) (x : Option CopyJob) : (s.setCopy k x).tripped = s.tripped := rfl
@[simp] theorem setCopy_copyJob (s : State) (k j : Nat) (x : Option CopyJob) : (s.setCopy k x).copyJob j = if j = k then x else s.copyJob j := mget_mset _ _ _ _ _
@[simp] theorem setCopy_strand (s : State) (k j : Nat) (x : Option CopyJob) : (s.setCopy k x).strand j = s.strand j := rfl
@[simp] theorem setCopy_spindle (s : State) (k j : Nat) (x : Option CopyJob) : (s.setCopy k x).spindle j = s.spindle j := rfl
@[simp] theorem setCopy_cluster (s : State) (k j : Nat) (x : Option CopyJob) : (s.setCopy k x).cluster j = s.cluster j := rfl
@[simp] theorem setCopy_group (s : State) (k j : Nat) (x : Option CopyJob) : (s.setCopy k x).group j = s.group j := rfl
@[simp] theorem setCopy_die (s : State) (k j : Nat) (x : Option CopyJob) : (s.setCopy k x).die j = s.die j := rfl
@[simp] theorem setCopy_ctx (s : State) (k j : Nat) (x : Option CopyJob) : (s.setCopy k x).ctx j = s.ctx j := rfl
@[simp] theorem setCopy_part (s : State) (k j : Nat) (x : Option CopyJob) : (s.setCopy k x).part j = s.part j := rfl
@[simp] theorem setCopy_chan (s : State) (k j : Nat) (x : Option CopyJob) : (s.setCopy k x).chan j = s.chan j := rfl
@[simp] theorem setCopy_port (s : State) (k j : Nat) (x : Option CopyJob) : (s.setCopy k x).port j = s.port j := rfl
@[simp] theorem setCopy_fn (s : State) (k j : Nat) (x : Option CopyJob) : (s.setCopy k x).fn j = s.fn j := rfl
@[simp] theorem setCopy_cmd (s : State) (k j : Nat) (x : Option CopyJob) : (s.setCopy k x).cmd j = s.cmd j := rfl
@[simp] theorem setCopy_stop (s : State) (k j : Nat) (x : Option CopyJob) : (s.setCopy k x).stop j = s.stop j := rfl
@[simp] theorem setCopy_sect (s : State) (k j : Nat) (x : Option CopyJob) : (s.setCopy k x).sect j = s.sect j := rfl

/-! ## setGroup -/

@[simp] theorem setGroup_agenda (s : State) (k : Nat) (x : Option Group) : (s.setGroup k x).agenda = s.agenda := rfl
@[simp] theorem setGroup_ev (s : State) (k : Nat) (x : Option Group) : (s.setGroup k x).ev = s.ev := rfl
@[simp] theorem setGroup_frame (s : State) (k : Nat) (x : Option Group) : (s.setGroup k x).frame = s.frame := rfl
@[simp] theorem setGroup_focus (s : State) (k : Nat) (x : Option Group) : (s.setGroup k x).focus = s.focus := rfl
@[simp] theorem setGroup_turn (s : State) (k : Nat) (x : Option Group) : (s.setGroup k x).turn = s.turn := rfl
@[simp] theorem setGroup_free (s : State) (k : Nat) (x : Option Group) : (s.setGroup k x).free = s.free := rfl
@[simp] theorem setGroup_nextId (s : State) (k : Nat) (x : Option Group) : (s.setGroup k x).nextId = s.nextId := rfl
@[simp] theorem setGroup_strands (s : State) (k : Nat) (x : Option Group) : (s.setGroup k x).strands = s.strands := rfl
@[simp] theorem setGroup_spindles (s : State) (k : Nat) (x : Option Group) : (s.setGroup k x).spindles = s.spindles := rfl
@[simp] theorem setGroup_clusters (s : State) (k : Nat) (x : Option Group) : (s.setGroup k x).clusters = s.clusters := rfl
@[simp] theorem setGroup_copies (s : State) (k : Nat) (x : Option Group) : (s.setGroup k x).copies = s.copies := rfl
@[simp] theorem setGroup_hbm (s : State) (k : Nat) (x : Option Group) : (s.setGroup k x).hbm = s.hbm := rfl
@[simp] theorem setGroup_sects (s : State) (k : Nat) (x : Option Group) : (s.setGroup k x).sects = s.sects := rfl
@[simp] theorem setGroup_reltags (s : State) (k : Nat) (x : Option Group) : (s.setGroup k x).reltags = s.reltags := rfl
@[simp] theorem setGroup_rom (s : State) (k : Nat) (x : Option Group) : (s.setGroup k x).rom = s.rom := rfl
@[simp] theorem setGroup_tlb (s : State) (k : Nat) (x : Option Group) : (s.setGroup k x).tlb = s.tlb := rfl
@[simp] theorem setGroup_dies (s : State) (k : Nat) (x : Option Group) : (s.setGroup k x).dies = s.dies := rfl
@[simp] theorem setGroup_ctxs (s : State) (k : Nat) (x : Option Group) : (s.setGroup k x).ctxs = s.ctxs := rfl
@[simp] theorem setGroup_keyIndex (s : State) (k : Nat) (x : Option Group) : (s.setGroup k x).keyIndex = s.keyIndex := rfl
@[simp] theorem setGroup_waiting (s : State) (k : Nat) (x : Option Group) : (s.setGroup k x).waiting = s.waiting := rfl
@[simp] theorem setGroup_replies (s : State) (k : Nat) (x : Option Group) : (s.setGroup k x).replies = s.replies := rfl
@[simp] theorem setGroup_stops (s : State) (k : Nat) (x : Option Group) : (s.setGroup k x).stops = s.stops := rfl
@[simp] theorem setGroup_images (s : State) (k : Nat) (x : Option Group) : (s.setGroup k x).images = s.images := rfl
@[simp] theorem setGroup_redirects (s : State) (k : Nat) (x : Option Group) : (s.setGroup k x).redirects = s.redirects := rfl
@[simp] theorem setGroup_restoring (s : State) (k : Nat) (x : Option Group) : (s.setGroup k x).restoring = s.restoring := rfl
@[simp] theorem setGroup_parts (s : State) (k : Nat) (x : Option Group) : (s.setGroup k x).parts = s.parts := rfl
@[simp] theorem setGroup_chans (s : State) (k : Nat) (x : Option Group) : (s.setGroup k x).chans = s.chans := rfl
@[simp] theorem setGroup_modcap (s : State) (k : Nat) (x : Option Group) : (s.setGroup k x).modcap = s.modcap := rfl
@[simp] theorem setGroup_perr (s : State) (k : Nat) (x : Option Group) : (s.setGroup k x).perr = s.perr := rfl
@[simp] theorem setGroup_keng (s : State) (k : Nat) (x : Option Group) : (s.setGroup k x).keng = s.keng := rfl
@[simp] theorem setGroup_ports (s : State) (k : Nat) (x : Option Group) : (s.setGroup k x).ports = s.ports := rfl
@[simp] theorem setGroup_reach (s : State) (k : Nat) (x : Option Group) : (s.setGroup k x).reach = s.reach := rfl
@[simp] theorem setGroup_reachReqs (s : State) (k : Nat) (x : Option Group) : (s.setGroup k x).reachReqs = s.reachReqs := rfl
@[simp] theorem setGroup_reachIn (s : State) (k : Nat) (x : Option Group) : (s.setGroup k x).reachIn = s.reachIn := rfl
@[simp] theorem setGroup_fns (s : State) (k : Nat) (x : Option Group) : (s.setGroup k x).fns = s.fns := rfl
@[simp] theorem setGroup_cmds (s : State) (k : Nat) (x : Option Group) : (s.setGroup k x).cmds = s.cmds := rfl
@[simp] theorem setGroup_hostMem (s : State) (k : Nat) (x : Option Group) : (s.setGroup k x).hostMem = s.hostMem := rfl
@[simp] theorem setGroup_flash (s : State) (k : Nat) (x : Option Group) : (s.setGroup k x).flash = s.flash := rfl
@[simp] theorem setGroup_drives (s : State) (k : Nat) (x : Option Group) : (s.setGroup k x).drives = s.drives := rfl
@[simp] theorem setGroup_fwSlot (s : State) (k : Nat) (x : Option Group) : (s.setGroup k x).fwSlot = s.fwSlot := rfl
@[simp] theorem setGroup_sent (s : State) (k : Nat) (x : Option Group) : (s.setGroup k x).sent = s.sent := rfl
@[simp] theorem setGroup_msix (s : State) (k : Nat) (x : Option Group) : (s.setGroup k x).msix = s.msix := rfl
@[simp] theorem setGroup_mgmt (s : State) (k : Nat) (x : Option Group) : (s.setGroup k x).mgmt = s.mgmt := rfl
@[simp] theorem setGroup_leaAcc (s : State) (k : Nat) (x : Option Group) : (s.setGroup k x).leaAcc = s.leaAcc := rfl
@[simp] theorem setGroup_evAcc (s : State) (k : Nat) (x : Option Group) : (s.setGroup k x).evAcc = s.evAcc := rfl
@[simp] theorem setGroup_sclines (s : State) (k : Nat) (x : Option Group) : (s.setGroup k x).sclines = s.sclines := rfl
@[simp] theorem setGroup_ways (s : State) (k : Nat) (x : Option Group) : (s.setGroup k x).ways = s.ways := rfl
@[simp] theorem setGroup_hitAcc (s : State) (k : Nat) (x : Option Group) : (s.setGroup k x).hitAcc = s.hitAcc := rfl
@[simp] theorem setGroup_outbox (s : State) (k : Nat) (x : Option Group) : (s.setGroup k x).outbox = s.outbox := rfl
@[simp] theorem setGroup_held (s : State) (k : Nat) (x : Option Group) : (s.setGroup k x).held = s.held := rfl
@[simp] theorem setGroup_tripped (s : State) (k : Nat) (x : Option Group) : (s.setGroup k x).tripped = s.tripped := rfl
@[simp] theorem setGroup_group (s : State) (k j : Nat) (x : Option Group) : (s.setGroup k x).group j = if j = k then x else s.group j := mget_mset _ _ _ _ _
@[simp] theorem setGroup_strand (s : State) (k j : Nat) (x : Option Group) : (s.setGroup k x).strand j = s.strand j := rfl
@[simp] theorem setGroup_spindle (s : State) (k j : Nat) (x : Option Group) : (s.setGroup k x).spindle j = s.spindle j := rfl
@[simp] theorem setGroup_cluster (s : State) (k j : Nat) (x : Option Group) : (s.setGroup k x).cluster j = s.cluster j := rfl
@[simp] theorem setGroup_copyJob (s : State) (k j : Nat) (x : Option Group) : (s.setGroup k x).copyJob j = s.copyJob j := rfl
@[simp] theorem setGroup_die (s : State) (k j : Nat) (x : Option Group) : (s.setGroup k x).die j = s.die j := rfl
@[simp] theorem setGroup_ctx (s : State) (k j : Nat) (x : Option Group) : (s.setGroup k x).ctx j = s.ctx j := rfl
@[simp] theorem setGroup_part (s : State) (k j : Nat) (x : Option Group) : (s.setGroup k x).part j = s.part j := rfl
@[simp] theorem setGroup_chan (s : State) (k j : Nat) (x : Option Group) : (s.setGroup k x).chan j = s.chan j := rfl
@[simp] theorem setGroup_port (s : State) (k j : Nat) (x : Option Group) : (s.setGroup k x).port j = s.port j := rfl
@[simp] theorem setGroup_fn (s : State) (k j : Nat) (x : Option Group) : (s.setGroup k x).fn j = s.fn j := rfl
@[simp] theorem setGroup_cmd (s : State) (k j : Nat) (x : Option Group) : (s.setGroup k x).cmd j = s.cmd j := rfl
@[simp] theorem setGroup_stop (s : State) (k j : Nat) (x : Option Group) : (s.setGroup k x).stop j = s.stop j := rfl
@[simp] theorem setGroup_sect (s : State) (k j : Nat) (x : Option Group) : (s.setGroup k x).sect j = s.sect j := rfl

/-! ## setDie -/

@[simp] theorem setDie_agenda (s : State) (k : Nat) (x : Die) : (s.setDie k x).agenda = s.agenda := rfl
@[simp] theorem setDie_ev (s : State) (k : Nat) (x : Die) : (s.setDie k x).ev = s.ev := rfl
@[simp] theorem setDie_frame (s : State) (k : Nat) (x : Die) : (s.setDie k x).frame = s.frame := rfl
@[simp] theorem setDie_focus (s : State) (k : Nat) (x : Die) : (s.setDie k x).focus = s.focus := rfl
@[simp] theorem setDie_turn (s : State) (k : Nat) (x : Die) : (s.setDie k x).turn = s.turn := rfl
@[simp] theorem setDie_free (s : State) (k : Nat) (x : Die) : (s.setDie k x).free = s.free := rfl
@[simp] theorem setDie_nextId (s : State) (k : Nat) (x : Die) : (s.setDie k x).nextId = s.nextId := rfl
@[simp] theorem setDie_strands (s : State) (k : Nat) (x : Die) : (s.setDie k x).strands = s.strands := rfl
@[simp] theorem setDie_spindles (s : State) (k : Nat) (x : Die) : (s.setDie k x).spindles = s.spindles := rfl
@[simp] theorem setDie_clusters (s : State) (k : Nat) (x : Die) : (s.setDie k x).clusters = s.clusters := rfl
@[simp] theorem setDie_copies (s : State) (k : Nat) (x : Die) : (s.setDie k x).copies = s.copies := rfl
@[simp] theorem setDie_groups (s : State) (k : Nat) (x : Die) : (s.setDie k x).groups = s.groups := rfl
@[simp] theorem setDie_hbm (s : State) (k : Nat) (x : Die) : (s.setDie k x).hbm = s.hbm := rfl
@[simp] theorem setDie_sects (s : State) (k : Nat) (x : Die) : (s.setDie k x).sects = s.sects := rfl
@[simp] theorem setDie_reltags (s : State) (k : Nat) (x : Die) : (s.setDie k x).reltags = s.reltags := rfl
@[simp] theorem setDie_rom (s : State) (k : Nat) (x : Die) : (s.setDie k x).rom = s.rom := rfl
@[simp] theorem setDie_tlb (s : State) (k : Nat) (x : Die) : (s.setDie k x).tlb = s.tlb := rfl
@[simp] theorem setDie_ctxs (s : State) (k : Nat) (x : Die) : (s.setDie k x).ctxs = s.ctxs := rfl
@[simp] theorem setDie_keyIndex (s : State) (k : Nat) (x : Die) : (s.setDie k x).keyIndex = s.keyIndex := rfl
@[simp] theorem setDie_waiting (s : State) (k : Nat) (x : Die) : (s.setDie k x).waiting = s.waiting := rfl
@[simp] theorem setDie_replies (s : State) (k : Nat) (x : Die) : (s.setDie k x).replies = s.replies := rfl
@[simp] theorem setDie_stops (s : State) (k : Nat) (x : Die) : (s.setDie k x).stops = s.stops := rfl
@[simp] theorem setDie_images (s : State) (k : Nat) (x : Die) : (s.setDie k x).images = s.images := rfl
@[simp] theorem setDie_redirects (s : State) (k : Nat) (x : Die) : (s.setDie k x).redirects = s.redirects := rfl
@[simp] theorem setDie_restoring (s : State) (k : Nat) (x : Die) : (s.setDie k x).restoring = s.restoring := rfl
@[simp] theorem setDie_parts (s : State) (k : Nat) (x : Die) : (s.setDie k x).parts = s.parts := rfl
@[simp] theorem setDie_chans (s : State) (k : Nat) (x : Die) : (s.setDie k x).chans = s.chans := rfl
@[simp] theorem setDie_modcap (s : State) (k : Nat) (x : Die) : (s.setDie k x).modcap = s.modcap := rfl
@[simp] theorem setDie_perr (s : State) (k : Nat) (x : Die) : (s.setDie k x).perr = s.perr := rfl
@[simp] theorem setDie_keng (s : State) (k : Nat) (x : Die) : (s.setDie k x).keng = s.keng := rfl
@[simp] theorem setDie_ports (s : State) (k : Nat) (x : Die) : (s.setDie k x).ports = s.ports := rfl
@[simp] theorem setDie_reach (s : State) (k : Nat) (x : Die) : (s.setDie k x).reach = s.reach := rfl
@[simp] theorem setDie_reachReqs (s : State) (k : Nat) (x : Die) : (s.setDie k x).reachReqs = s.reachReqs := rfl
@[simp] theorem setDie_reachIn (s : State) (k : Nat) (x : Die) : (s.setDie k x).reachIn = s.reachIn := rfl
@[simp] theorem setDie_fns (s : State) (k : Nat) (x : Die) : (s.setDie k x).fns = s.fns := rfl
@[simp] theorem setDie_cmds (s : State) (k : Nat) (x : Die) : (s.setDie k x).cmds = s.cmds := rfl
@[simp] theorem setDie_hostMem (s : State) (k : Nat) (x : Die) : (s.setDie k x).hostMem = s.hostMem := rfl
@[simp] theorem setDie_flash (s : State) (k : Nat) (x : Die) : (s.setDie k x).flash = s.flash := rfl
@[simp] theorem setDie_drives (s : State) (k : Nat) (x : Die) : (s.setDie k x).drives = s.drives := rfl
@[simp] theorem setDie_fwSlot (s : State) (k : Nat) (x : Die) : (s.setDie k x).fwSlot = s.fwSlot := rfl
@[simp] theorem setDie_sent (s : State) (k : Nat) (x : Die) : (s.setDie k x).sent = s.sent := rfl
@[simp] theorem setDie_msix (s : State) (k : Nat) (x : Die) : (s.setDie k x).msix = s.msix := rfl
@[simp] theorem setDie_mgmt (s : State) (k : Nat) (x : Die) : (s.setDie k x).mgmt = s.mgmt := rfl
@[simp] theorem setDie_leaAcc (s : State) (k : Nat) (x : Die) : (s.setDie k x).leaAcc = s.leaAcc := rfl
@[simp] theorem setDie_evAcc (s : State) (k : Nat) (x : Die) : (s.setDie k x).evAcc = s.evAcc := rfl
@[simp] theorem setDie_sclines (s : State) (k : Nat) (x : Die) : (s.setDie k x).sclines = s.sclines := rfl
@[simp] theorem setDie_ways (s : State) (k : Nat) (x : Die) : (s.setDie k x).ways = s.ways := rfl
@[simp] theorem setDie_hitAcc (s : State) (k : Nat) (x : Die) : (s.setDie k x).hitAcc = s.hitAcc := rfl
@[simp] theorem setDie_outbox (s : State) (k : Nat) (x : Die) : (s.setDie k x).outbox = s.outbox := rfl
@[simp] theorem setDie_held (s : State) (k : Nat) (x : Die) : (s.setDie k x).held = s.held := rfl
@[simp] theorem setDie_tripped (s : State) (k : Nat) (x : Die) : (s.setDie k x).tripped = s.tripped := rfl
@[simp] theorem setDie_die (s : State) (k j : Nat) (x : Die) : (s.setDie k x).die j = if j = k then x else s.die j := mget_mset _ _ _ _ _
@[simp] theorem setDie_strand (s : State) (k j : Nat) (x : Die) : (s.setDie k x).strand j = s.strand j := rfl
@[simp] theorem setDie_spindle (s : State) (k j : Nat) (x : Die) : (s.setDie k x).spindle j = s.spindle j := rfl
@[simp] theorem setDie_cluster (s : State) (k j : Nat) (x : Die) : (s.setDie k x).cluster j = s.cluster j := rfl
@[simp] theorem setDie_copyJob (s : State) (k j : Nat) (x : Die) : (s.setDie k x).copyJob j = s.copyJob j := rfl
@[simp] theorem setDie_group (s : State) (k j : Nat) (x : Die) : (s.setDie k x).group j = s.group j := rfl
@[simp] theorem setDie_ctx (s : State) (k j : Nat) (x : Die) : (s.setDie k x).ctx j = s.ctx j := rfl
@[simp] theorem setDie_part (s : State) (k j : Nat) (x : Die) : (s.setDie k x).part j = s.part j := rfl
@[simp] theorem setDie_chan (s : State) (k j : Nat) (x : Die) : (s.setDie k x).chan j = s.chan j := rfl
@[simp] theorem setDie_port (s : State) (k j : Nat) (x : Die) : (s.setDie k x).port j = s.port j := rfl
@[simp] theorem setDie_fn (s : State) (k j : Nat) (x : Die) : (s.setDie k x).fn j = s.fn j := rfl
@[simp] theorem setDie_cmd (s : State) (k j : Nat) (x : Die) : (s.setDie k x).cmd j = s.cmd j := rfl
@[simp] theorem setDie_stop (s : State) (k j : Nat) (x : Die) : (s.setDie k x).stop j = s.stop j := rfl
@[simp] theorem setDie_sect (s : State) (k j : Nat) (x : Die) : (s.setDie k x).sect j = s.sect j := rfl

/-! ## setCtx -/

@[simp] theorem setCtx_agenda (s : State) (k : Nat) (x : Option Ctx) : (s.setCtx k x).agenda = s.agenda := rfl
@[simp] theorem setCtx_ev (s : State) (k : Nat) (x : Option Ctx) : (s.setCtx k x).ev = s.ev := rfl
@[simp] theorem setCtx_frame (s : State) (k : Nat) (x : Option Ctx) : (s.setCtx k x).frame = s.frame := rfl
@[simp] theorem setCtx_focus (s : State) (k : Nat) (x : Option Ctx) : (s.setCtx k x).focus = s.focus := rfl
@[simp] theorem setCtx_turn (s : State) (k : Nat) (x : Option Ctx) : (s.setCtx k x).turn = s.turn := rfl
@[simp] theorem setCtx_free (s : State) (k : Nat) (x : Option Ctx) : (s.setCtx k x).free = s.free := rfl
@[simp] theorem setCtx_nextId (s : State) (k : Nat) (x : Option Ctx) : (s.setCtx k x).nextId = s.nextId := rfl
@[simp] theorem setCtx_strands (s : State) (k : Nat) (x : Option Ctx) : (s.setCtx k x).strands = s.strands := rfl
@[simp] theorem setCtx_spindles (s : State) (k : Nat) (x : Option Ctx) : (s.setCtx k x).spindles = s.spindles := rfl
@[simp] theorem setCtx_clusters (s : State) (k : Nat) (x : Option Ctx) : (s.setCtx k x).clusters = s.clusters := rfl
@[simp] theorem setCtx_copies (s : State) (k : Nat) (x : Option Ctx) : (s.setCtx k x).copies = s.copies := rfl
@[simp] theorem setCtx_groups (s : State) (k : Nat) (x : Option Ctx) : (s.setCtx k x).groups = s.groups := rfl
@[simp] theorem setCtx_hbm (s : State) (k : Nat) (x : Option Ctx) : (s.setCtx k x).hbm = s.hbm := rfl
@[simp] theorem setCtx_sects (s : State) (k : Nat) (x : Option Ctx) : (s.setCtx k x).sects = s.sects := rfl
@[simp] theorem setCtx_reltags (s : State) (k : Nat) (x : Option Ctx) : (s.setCtx k x).reltags = s.reltags := rfl
@[simp] theorem setCtx_rom (s : State) (k : Nat) (x : Option Ctx) : (s.setCtx k x).rom = s.rom := rfl
@[simp] theorem setCtx_tlb (s : State) (k : Nat) (x : Option Ctx) : (s.setCtx k x).tlb = s.tlb := rfl
@[simp] theorem setCtx_dies (s : State) (k : Nat) (x : Option Ctx) : (s.setCtx k x).dies = s.dies := rfl
@[simp] theorem setCtx_keyIndex (s : State) (k : Nat) (x : Option Ctx) : (s.setCtx k x).keyIndex = s.keyIndex := rfl
@[simp] theorem setCtx_waiting (s : State) (k : Nat) (x : Option Ctx) : (s.setCtx k x).waiting = s.waiting := rfl
@[simp] theorem setCtx_replies (s : State) (k : Nat) (x : Option Ctx) : (s.setCtx k x).replies = s.replies := rfl
@[simp] theorem setCtx_stops (s : State) (k : Nat) (x : Option Ctx) : (s.setCtx k x).stops = s.stops := rfl
@[simp] theorem setCtx_images (s : State) (k : Nat) (x : Option Ctx) : (s.setCtx k x).images = s.images := rfl
@[simp] theorem setCtx_redirects (s : State) (k : Nat) (x : Option Ctx) : (s.setCtx k x).redirects = s.redirects := rfl
@[simp] theorem setCtx_restoring (s : State) (k : Nat) (x : Option Ctx) : (s.setCtx k x).restoring = s.restoring := rfl
@[simp] theorem setCtx_parts (s : State) (k : Nat) (x : Option Ctx) : (s.setCtx k x).parts = s.parts := rfl
@[simp] theorem setCtx_chans (s : State) (k : Nat) (x : Option Ctx) : (s.setCtx k x).chans = s.chans := rfl
@[simp] theorem setCtx_modcap (s : State) (k : Nat) (x : Option Ctx) : (s.setCtx k x).modcap = s.modcap := rfl
@[simp] theorem setCtx_perr (s : State) (k : Nat) (x : Option Ctx) : (s.setCtx k x).perr = s.perr := rfl
@[simp] theorem setCtx_keng (s : State) (k : Nat) (x : Option Ctx) : (s.setCtx k x).keng = s.keng := rfl
@[simp] theorem setCtx_ports (s : State) (k : Nat) (x : Option Ctx) : (s.setCtx k x).ports = s.ports := rfl
@[simp] theorem setCtx_reach (s : State) (k : Nat) (x : Option Ctx) : (s.setCtx k x).reach = s.reach := rfl
@[simp] theorem setCtx_reachReqs (s : State) (k : Nat) (x : Option Ctx) : (s.setCtx k x).reachReqs = s.reachReqs := rfl
@[simp] theorem setCtx_reachIn (s : State) (k : Nat) (x : Option Ctx) : (s.setCtx k x).reachIn = s.reachIn := rfl
@[simp] theorem setCtx_fns (s : State) (k : Nat) (x : Option Ctx) : (s.setCtx k x).fns = s.fns := rfl
@[simp] theorem setCtx_cmds (s : State) (k : Nat) (x : Option Ctx) : (s.setCtx k x).cmds = s.cmds := rfl
@[simp] theorem setCtx_hostMem (s : State) (k : Nat) (x : Option Ctx) : (s.setCtx k x).hostMem = s.hostMem := rfl
@[simp] theorem setCtx_flash (s : State) (k : Nat) (x : Option Ctx) : (s.setCtx k x).flash = s.flash := rfl
@[simp] theorem setCtx_drives (s : State) (k : Nat) (x : Option Ctx) : (s.setCtx k x).drives = s.drives := rfl
@[simp] theorem setCtx_fwSlot (s : State) (k : Nat) (x : Option Ctx) : (s.setCtx k x).fwSlot = s.fwSlot := rfl
@[simp] theorem setCtx_sent (s : State) (k : Nat) (x : Option Ctx) : (s.setCtx k x).sent = s.sent := rfl
@[simp] theorem setCtx_msix (s : State) (k : Nat) (x : Option Ctx) : (s.setCtx k x).msix = s.msix := rfl
@[simp] theorem setCtx_mgmt (s : State) (k : Nat) (x : Option Ctx) : (s.setCtx k x).mgmt = s.mgmt := rfl
@[simp] theorem setCtx_leaAcc (s : State) (k : Nat) (x : Option Ctx) : (s.setCtx k x).leaAcc = s.leaAcc := rfl
@[simp] theorem setCtx_evAcc (s : State) (k : Nat) (x : Option Ctx) : (s.setCtx k x).evAcc = s.evAcc := rfl
@[simp] theorem setCtx_sclines (s : State) (k : Nat) (x : Option Ctx) : (s.setCtx k x).sclines = s.sclines := rfl
@[simp] theorem setCtx_ways (s : State) (k : Nat) (x : Option Ctx) : (s.setCtx k x).ways = s.ways := rfl
@[simp] theorem setCtx_hitAcc (s : State) (k : Nat) (x : Option Ctx) : (s.setCtx k x).hitAcc = s.hitAcc := rfl
@[simp] theorem setCtx_outbox (s : State) (k : Nat) (x : Option Ctx) : (s.setCtx k x).outbox = s.outbox := rfl
@[simp] theorem setCtx_held (s : State) (k : Nat) (x : Option Ctx) : (s.setCtx k x).held = s.held := rfl
@[simp] theorem setCtx_tripped (s : State) (k : Nat) (x : Option Ctx) : (s.setCtx k x).tripped = s.tripped := rfl
@[simp] theorem setCtx_ctx (s : State) (k j : Nat) (x : Option Ctx) : (s.setCtx k x).ctx j = if j = k then x else s.ctx j := mget_mset _ _ _ _ _
@[simp] theorem setCtx_strand (s : State) (k j : Nat) (x : Option Ctx) : (s.setCtx k x).strand j = s.strand j := rfl
@[simp] theorem setCtx_spindle (s : State) (k j : Nat) (x : Option Ctx) : (s.setCtx k x).spindle j = s.spindle j := rfl
@[simp] theorem setCtx_cluster (s : State) (k j : Nat) (x : Option Ctx) : (s.setCtx k x).cluster j = s.cluster j := rfl
@[simp] theorem setCtx_copyJob (s : State) (k j : Nat) (x : Option Ctx) : (s.setCtx k x).copyJob j = s.copyJob j := rfl
@[simp] theorem setCtx_group (s : State) (k j : Nat) (x : Option Ctx) : (s.setCtx k x).group j = s.group j := rfl
@[simp] theorem setCtx_die (s : State) (k j : Nat) (x : Option Ctx) : (s.setCtx k x).die j = s.die j := rfl
@[simp] theorem setCtx_part (s : State) (k j : Nat) (x : Option Ctx) : (s.setCtx k x).part j = s.part j := rfl
@[simp] theorem setCtx_chan (s : State) (k j : Nat) (x : Option Ctx) : (s.setCtx k x).chan j = s.chan j := rfl
@[simp] theorem setCtx_port (s : State) (k j : Nat) (x : Option Ctx) : (s.setCtx k x).port j = s.port j := rfl
@[simp] theorem setCtx_fn (s : State) (k j : Nat) (x : Option Ctx) : (s.setCtx k x).fn j = s.fn j := rfl
@[simp] theorem setCtx_cmd (s : State) (k j : Nat) (x : Option Ctx) : (s.setCtx k x).cmd j = s.cmd j := rfl
@[simp] theorem setCtx_stop (s : State) (k j : Nat) (x : Option Ctx) : (s.setCtx k x).stop j = s.stop j := rfl
@[simp] theorem setCtx_sect (s : State) (k j : Nat) (x : Option Ctx) : (s.setCtx k x).sect j = s.sect j := rfl

/-! ## setPart -/

@[simp] theorem setPart_agenda (s : State) (k : Nat) (x : Part) : (s.setPart k x).agenda = s.agenda := rfl
@[simp] theorem setPart_ev (s : State) (k : Nat) (x : Part) : (s.setPart k x).ev = s.ev := rfl
@[simp] theorem setPart_frame (s : State) (k : Nat) (x : Part) : (s.setPart k x).frame = s.frame := rfl
@[simp] theorem setPart_focus (s : State) (k : Nat) (x : Part) : (s.setPart k x).focus = s.focus := rfl
@[simp] theorem setPart_turn (s : State) (k : Nat) (x : Part) : (s.setPart k x).turn = s.turn := rfl
@[simp] theorem setPart_free (s : State) (k : Nat) (x : Part) : (s.setPart k x).free = s.free := rfl
@[simp] theorem setPart_nextId (s : State) (k : Nat) (x : Part) : (s.setPart k x).nextId = s.nextId := rfl
@[simp] theorem setPart_strands (s : State) (k : Nat) (x : Part) : (s.setPart k x).strands = s.strands := rfl
@[simp] theorem setPart_spindles (s : State) (k : Nat) (x : Part) : (s.setPart k x).spindles = s.spindles := rfl
@[simp] theorem setPart_clusters (s : State) (k : Nat) (x : Part) : (s.setPart k x).clusters = s.clusters := rfl
@[simp] theorem setPart_copies (s : State) (k : Nat) (x : Part) : (s.setPart k x).copies = s.copies := rfl
@[simp] theorem setPart_groups (s : State) (k : Nat) (x : Part) : (s.setPart k x).groups = s.groups := rfl
@[simp] theorem setPart_hbm (s : State) (k : Nat) (x : Part) : (s.setPart k x).hbm = s.hbm := rfl
@[simp] theorem setPart_sects (s : State) (k : Nat) (x : Part) : (s.setPart k x).sects = s.sects := rfl
@[simp] theorem setPart_reltags (s : State) (k : Nat) (x : Part) : (s.setPart k x).reltags = s.reltags := rfl
@[simp] theorem setPart_rom (s : State) (k : Nat) (x : Part) : (s.setPart k x).rom = s.rom := rfl
@[simp] theorem setPart_tlb (s : State) (k : Nat) (x : Part) : (s.setPart k x).tlb = s.tlb := rfl
@[simp] theorem setPart_dies (s : State) (k : Nat) (x : Part) : (s.setPart k x).dies = s.dies := rfl
@[simp] theorem setPart_ctxs (s : State) (k : Nat) (x : Part) : (s.setPart k x).ctxs = s.ctxs := rfl
@[simp] theorem setPart_keyIndex (s : State) (k : Nat) (x : Part) : (s.setPart k x).keyIndex = s.keyIndex := rfl
@[simp] theorem setPart_waiting (s : State) (k : Nat) (x : Part) : (s.setPart k x).waiting = s.waiting := rfl
@[simp] theorem setPart_replies (s : State) (k : Nat) (x : Part) : (s.setPart k x).replies = s.replies := rfl
@[simp] theorem setPart_stops (s : State) (k : Nat) (x : Part) : (s.setPart k x).stops = s.stops := rfl
@[simp] theorem setPart_images (s : State) (k : Nat) (x : Part) : (s.setPart k x).images = s.images := rfl
@[simp] theorem setPart_redirects (s : State) (k : Nat) (x : Part) : (s.setPart k x).redirects = s.redirects := rfl
@[simp] theorem setPart_restoring (s : State) (k : Nat) (x : Part) : (s.setPart k x).restoring = s.restoring := rfl
@[simp] theorem setPart_chans (s : State) (k : Nat) (x : Part) : (s.setPart k x).chans = s.chans := rfl
@[simp] theorem setPart_modcap (s : State) (k : Nat) (x : Part) : (s.setPart k x).modcap = s.modcap := rfl
@[simp] theorem setPart_perr (s : State) (k : Nat) (x : Part) : (s.setPart k x).perr = s.perr := rfl
@[simp] theorem setPart_keng (s : State) (k : Nat) (x : Part) : (s.setPart k x).keng = s.keng := rfl
@[simp] theorem setPart_ports (s : State) (k : Nat) (x : Part) : (s.setPart k x).ports = s.ports := rfl
@[simp] theorem setPart_reach (s : State) (k : Nat) (x : Part) : (s.setPart k x).reach = s.reach := rfl
@[simp] theorem setPart_reachReqs (s : State) (k : Nat) (x : Part) : (s.setPart k x).reachReqs = s.reachReqs := rfl
@[simp] theorem setPart_reachIn (s : State) (k : Nat) (x : Part) : (s.setPart k x).reachIn = s.reachIn := rfl
@[simp] theorem setPart_fns (s : State) (k : Nat) (x : Part) : (s.setPart k x).fns = s.fns := rfl
@[simp] theorem setPart_cmds (s : State) (k : Nat) (x : Part) : (s.setPart k x).cmds = s.cmds := rfl
@[simp] theorem setPart_hostMem (s : State) (k : Nat) (x : Part) : (s.setPart k x).hostMem = s.hostMem := rfl
@[simp] theorem setPart_flash (s : State) (k : Nat) (x : Part) : (s.setPart k x).flash = s.flash := rfl
@[simp] theorem setPart_drives (s : State) (k : Nat) (x : Part) : (s.setPart k x).drives = s.drives := rfl
@[simp] theorem setPart_fwSlot (s : State) (k : Nat) (x : Part) : (s.setPart k x).fwSlot = s.fwSlot := rfl
@[simp] theorem setPart_sent (s : State) (k : Nat) (x : Part) : (s.setPart k x).sent = s.sent := rfl
@[simp] theorem setPart_msix (s : State) (k : Nat) (x : Part) : (s.setPart k x).msix = s.msix := rfl
@[simp] theorem setPart_mgmt (s : State) (k : Nat) (x : Part) : (s.setPart k x).mgmt = s.mgmt := rfl
@[simp] theorem setPart_leaAcc (s : State) (k : Nat) (x : Part) : (s.setPart k x).leaAcc = s.leaAcc := rfl
@[simp] theorem setPart_evAcc (s : State) (k : Nat) (x : Part) : (s.setPart k x).evAcc = s.evAcc := rfl
@[simp] theorem setPart_sclines (s : State) (k : Nat) (x : Part) : (s.setPart k x).sclines = s.sclines := rfl
@[simp] theorem setPart_ways (s : State) (k : Nat) (x : Part) : (s.setPart k x).ways = s.ways := rfl
@[simp] theorem setPart_hitAcc (s : State) (k : Nat) (x : Part) : (s.setPart k x).hitAcc = s.hitAcc := rfl
@[simp] theorem setPart_outbox (s : State) (k : Nat) (x : Part) : (s.setPart k x).outbox = s.outbox := rfl
@[simp] theorem setPart_held (s : State) (k : Nat) (x : Part) : (s.setPart k x).held = s.held := rfl
@[simp] theorem setPart_tripped (s : State) (k : Nat) (x : Part) : (s.setPart k x).tripped = s.tripped := rfl
@[simp] theorem setPart_part (s : State) (k j : Nat) (x : Part) : (s.setPart k x).part j = if j = k then x else s.part j := mget_mset _ _ _ _ _
@[simp] theorem setPart_strand (s : State) (k j : Nat) (x : Part) : (s.setPart k x).strand j = s.strand j := rfl
@[simp] theorem setPart_spindle (s : State) (k j : Nat) (x : Part) : (s.setPart k x).spindle j = s.spindle j := rfl
@[simp] theorem setPart_cluster (s : State) (k j : Nat) (x : Part) : (s.setPart k x).cluster j = s.cluster j := rfl
@[simp] theorem setPart_copyJob (s : State) (k j : Nat) (x : Part) : (s.setPart k x).copyJob j = s.copyJob j := rfl
@[simp] theorem setPart_group (s : State) (k j : Nat) (x : Part) : (s.setPart k x).group j = s.group j := rfl
@[simp] theorem setPart_die (s : State) (k j : Nat) (x : Part) : (s.setPart k x).die j = s.die j := rfl
@[simp] theorem setPart_ctx (s : State) (k j : Nat) (x : Part) : (s.setPart k x).ctx j = s.ctx j := rfl
@[simp] theorem setPart_chan (s : State) (k j : Nat) (x : Part) : (s.setPart k x).chan j = s.chan j := rfl
@[simp] theorem setPart_port (s : State) (k j : Nat) (x : Part) : (s.setPart k x).port j = s.port j := rfl
@[simp] theorem setPart_fn (s : State) (k j : Nat) (x : Part) : (s.setPart k x).fn j = s.fn j := rfl
@[simp] theorem setPart_cmd (s : State) (k j : Nat) (x : Part) : (s.setPart k x).cmd j = s.cmd j := rfl
@[simp] theorem setPart_stop (s : State) (k j : Nat) (x : Part) : (s.setPart k x).stop j = s.stop j := rfl
@[simp] theorem setPart_sect (s : State) (k j : Nat) (x : Part) : (s.setPart k x).sect j = s.sect j := rfl

/-! ## setChan -/

@[simp] theorem setChan_agenda (s : State) (k : Nat) (x : Chan) : (s.setChan k x).agenda = s.agenda := rfl
@[simp] theorem setChan_ev (s : State) (k : Nat) (x : Chan) : (s.setChan k x).ev = s.ev := rfl
@[simp] theorem setChan_frame (s : State) (k : Nat) (x : Chan) : (s.setChan k x).frame = s.frame := rfl
@[simp] theorem setChan_focus (s : State) (k : Nat) (x : Chan) : (s.setChan k x).focus = s.focus := rfl
@[simp] theorem setChan_turn (s : State) (k : Nat) (x : Chan) : (s.setChan k x).turn = s.turn := rfl
@[simp] theorem setChan_free (s : State) (k : Nat) (x : Chan) : (s.setChan k x).free = s.free := rfl
@[simp] theorem setChan_nextId (s : State) (k : Nat) (x : Chan) : (s.setChan k x).nextId = s.nextId := rfl
@[simp] theorem setChan_strands (s : State) (k : Nat) (x : Chan) : (s.setChan k x).strands = s.strands := rfl
@[simp] theorem setChan_spindles (s : State) (k : Nat) (x : Chan) : (s.setChan k x).spindles = s.spindles := rfl
@[simp] theorem setChan_clusters (s : State) (k : Nat) (x : Chan) : (s.setChan k x).clusters = s.clusters := rfl
@[simp] theorem setChan_copies (s : State) (k : Nat) (x : Chan) : (s.setChan k x).copies = s.copies := rfl
@[simp] theorem setChan_groups (s : State) (k : Nat) (x : Chan) : (s.setChan k x).groups = s.groups := rfl
@[simp] theorem setChan_hbm (s : State) (k : Nat) (x : Chan) : (s.setChan k x).hbm = s.hbm := rfl
@[simp] theorem setChan_sects (s : State) (k : Nat) (x : Chan) : (s.setChan k x).sects = s.sects := rfl
@[simp] theorem setChan_reltags (s : State) (k : Nat) (x : Chan) : (s.setChan k x).reltags = s.reltags := rfl
@[simp] theorem setChan_rom (s : State) (k : Nat) (x : Chan) : (s.setChan k x).rom = s.rom := rfl
@[simp] theorem setChan_tlb (s : State) (k : Nat) (x : Chan) : (s.setChan k x).tlb = s.tlb := rfl
@[simp] theorem setChan_dies (s : State) (k : Nat) (x : Chan) : (s.setChan k x).dies = s.dies := rfl
@[simp] theorem setChan_ctxs (s : State) (k : Nat) (x : Chan) : (s.setChan k x).ctxs = s.ctxs := rfl
@[simp] theorem setChan_keyIndex (s : State) (k : Nat) (x : Chan) : (s.setChan k x).keyIndex = s.keyIndex := rfl
@[simp] theorem setChan_waiting (s : State) (k : Nat) (x : Chan) : (s.setChan k x).waiting = s.waiting := rfl
@[simp] theorem setChan_replies (s : State) (k : Nat) (x : Chan) : (s.setChan k x).replies = s.replies := rfl
@[simp] theorem setChan_stops (s : State) (k : Nat) (x : Chan) : (s.setChan k x).stops = s.stops := rfl
@[simp] theorem setChan_images (s : State) (k : Nat) (x : Chan) : (s.setChan k x).images = s.images := rfl
@[simp] theorem setChan_redirects (s : State) (k : Nat) (x : Chan) : (s.setChan k x).redirects = s.redirects := rfl
@[simp] theorem setChan_restoring (s : State) (k : Nat) (x : Chan) : (s.setChan k x).restoring = s.restoring := rfl
@[simp] theorem setChan_parts (s : State) (k : Nat) (x : Chan) : (s.setChan k x).parts = s.parts := rfl
@[simp] theorem setChan_modcap (s : State) (k : Nat) (x : Chan) : (s.setChan k x).modcap = s.modcap := rfl
@[simp] theorem setChan_perr (s : State) (k : Nat) (x : Chan) : (s.setChan k x).perr = s.perr := rfl
@[simp] theorem setChan_keng (s : State) (k : Nat) (x : Chan) : (s.setChan k x).keng = s.keng := rfl
@[simp] theorem setChan_ports (s : State) (k : Nat) (x : Chan) : (s.setChan k x).ports = s.ports := rfl
@[simp] theorem setChan_reach (s : State) (k : Nat) (x : Chan) : (s.setChan k x).reach = s.reach := rfl
@[simp] theorem setChan_reachReqs (s : State) (k : Nat) (x : Chan) : (s.setChan k x).reachReqs = s.reachReqs := rfl
@[simp] theorem setChan_reachIn (s : State) (k : Nat) (x : Chan) : (s.setChan k x).reachIn = s.reachIn := rfl
@[simp] theorem setChan_fns (s : State) (k : Nat) (x : Chan) : (s.setChan k x).fns = s.fns := rfl
@[simp] theorem setChan_cmds (s : State) (k : Nat) (x : Chan) : (s.setChan k x).cmds = s.cmds := rfl
@[simp] theorem setChan_hostMem (s : State) (k : Nat) (x : Chan) : (s.setChan k x).hostMem = s.hostMem := rfl
@[simp] theorem setChan_flash (s : State) (k : Nat) (x : Chan) : (s.setChan k x).flash = s.flash := rfl
@[simp] theorem setChan_drives (s : State) (k : Nat) (x : Chan) : (s.setChan k x).drives = s.drives := rfl
@[simp] theorem setChan_fwSlot (s : State) (k : Nat) (x : Chan) : (s.setChan k x).fwSlot = s.fwSlot := rfl
@[simp] theorem setChan_sent (s : State) (k : Nat) (x : Chan) : (s.setChan k x).sent = s.sent := rfl
@[simp] theorem setChan_msix (s : State) (k : Nat) (x : Chan) : (s.setChan k x).msix = s.msix := rfl
@[simp] theorem setChan_mgmt (s : State) (k : Nat) (x : Chan) : (s.setChan k x).mgmt = s.mgmt := rfl
@[simp] theorem setChan_leaAcc (s : State) (k : Nat) (x : Chan) : (s.setChan k x).leaAcc = s.leaAcc := rfl
@[simp] theorem setChan_evAcc (s : State) (k : Nat) (x : Chan) : (s.setChan k x).evAcc = s.evAcc := rfl
@[simp] theorem setChan_sclines (s : State) (k : Nat) (x : Chan) : (s.setChan k x).sclines = s.sclines := rfl
@[simp] theorem setChan_ways (s : State) (k : Nat) (x : Chan) : (s.setChan k x).ways = s.ways := rfl
@[simp] theorem setChan_hitAcc (s : State) (k : Nat) (x : Chan) : (s.setChan k x).hitAcc = s.hitAcc := rfl
@[simp] theorem setChan_outbox (s : State) (k : Nat) (x : Chan) : (s.setChan k x).outbox = s.outbox := rfl
@[simp] theorem setChan_held (s : State) (k : Nat) (x : Chan) : (s.setChan k x).held = s.held := rfl
@[simp] theorem setChan_tripped (s : State) (k : Nat) (x : Chan) : (s.setChan k x).tripped = s.tripped := rfl
@[simp] theorem setChan_chan (s : State) (k j : Nat) (x : Chan) : (s.setChan k x).chan j = if j = k then x else s.chan j := mget_mset _ _ _ _ _
@[simp] theorem setChan_strand (s : State) (k j : Nat) (x : Chan) : (s.setChan k x).strand j = s.strand j := rfl
@[simp] theorem setChan_spindle (s : State) (k j : Nat) (x : Chan) : (s.setChan k x).spindle j = s.spindle j := rfl
@[simp] theorem setChan_cluster (s : State) (k j : Nat) (x : Chan) : (s.setChan k x).cluster j = s.cluster j := rfl
@[simp] theorem setChan_copyJob (s : State) (k j : Nat) (x : Chan) : (s.setChan k x).copyJob j = s.copyJob j := rfl
@[simp] theorem setChan_group (s : State) (k j : Nat) (x : Chan) : (s.setChan k x).group j = s.group j := rfl
@[simp] theorem setChan_die (s : State) (k j : Nat) (x : Chan) : (s.setChan k x).die j = s.die j := rfl
@[simp] theorem setChan_ctx (s : State) (k j : Nat) (x : Chan) : (s.setChan k x).ctx j = s.ctx j := rfl
@[simp] theorem setChan_part (s : State) (k j : Nat) (x : Chan) : (s.setChan k x).part j = s.part j := rfl
@[simp] theorem setChan_port (s : State) (k j : Nat) (x : Chan) : (s.setChan k x).port j = s.port j := rfl
@[simp] theorem setChan_fn (s : State) (k j : Nat) (x : Chan) : (s.setChan k x).fn j = s.fn j := rfl
@[simp] theorem setChan_cmd (s : State) (k j : Nat) (x : Chan) : (s.setChan k x).cmd j = s.cmd j := rfl
@[simp] theorem setChan_stop (s : State) (k j : Nat) (x : Chan) : (s.setChan k x).stop j = s.stop j := rfl
@[simp] theorem setChan_sect (s : State) (k j : Nat) (x : Chan) : (s.setChan k x).sect j = s.sect j := rfl

/-! ## setPort -/

@[simp] theorem setPort_agenda (s : State) (k : Nat) (x : Port) : (s.setPort k x).agenda = s.agenda := rfl
@[simp] theorem setPort_ev (s : State) (k : Nat) (x : Port) : (s.setPort k x).ev = s.ev := rfl
@[simp] theorem setPort_frame (s : State) (k : Nat) (x : Port) : (s.setPort k x).frame = s.frame := rfl
@[simp] theorem setPort_focus (s : State) (k : Nat) (x : Port) : (s.setPort k x).focus = s.focus := rfl
@[simp] theorem setPort_turn (s : State) (k : Nat) (x : Port) : (s.setPort k x).turn = s.turn := rfl
@[simp] theorem setPort_free (s : State) (k : Nat) (x : Port) : (s.setPort k x).free = s.free := rfl
@[simp] theorem setPort_nextId (s : State) (k : Nat) (x : Port) : (s.setPort k x).nextId = s.nextId := rfl
@[simp] theorem setPort_strands (s : State) (k : Nat) (x : Port) : (s.setPort k x).strands = s.strands := rfl
@[simp] theorem setPort_spindles (s : State) (k : Nat) (x : Port) : (s.setPort k x).spindles = s.spindles := rfl
@[simp] theorem setPort_clusters (s : State) (k : Nat) (x : Port) : (s.setPort k x).clusters = s.clusters := rfl
@[simp] theorem setPort_copies (s : State) (k : Nat) (x : Port) : (s.setPort k x).copies = s.copies := rfl
@[simp] theorem setPort_groups (s : State) (k : Nat) (x : Port) : (s.setPort k x).groups = s.groups := rfl
@[simp] theorem setPort_hbm (s : State) (k : Nat) (x : Port) : (s.setPort k x).hbm = s.hbm := rfl
@[simp] theorem setPort_sects (s : State) (k : Nat) (x : Port) : (s.setPort k x).sects = s.sects := rfl
@[simp] theorem setPort_reltags (s : State) (k : Nat) (x : Port) : (s.setPort k x).reltags = s.reltags := rfl
@[simp] theorem setPort_rom (s : State) (k : Nat) (x : Port) : (s.setPort k x).rom = s.rom := rfl
@[simp] theorem setPort_tlb (s : State) (k : Nat) (x : Port) : (s.setPort k x).tlb = s.tlb := rfl
@[simp] theorem setPort_dies (s : State) (k : Nat) (x : Port) : (s.setPort k x).dies = s.dies := rfl
@[simp] theorem setPort_ctxs (s : State) (k : Nat) (x : Port) : (s.setPort k x).ctxs = s.ctxs := rfl
@[simp] theorem setPort_keyIndex (s : State) (k : Nat) (x : Port) : (s.setPort k x).keyIndex = s.keyIndex := rfl
@[simp] theorem setPort_waiting (s : State) (k : Nat) (x : Port) : (s.setPort k x).waiting = s.waiting := rfl
@[simp] theorem setPort_replies (s : State) (k : Nat) (x : Port) : (s.setPort k x).replies = s.replies := rfl
@[simp] theorem setPort_stops (s : State) (k : Nat) (x : Port) : (s.setPort k x).stops = s.stops := rfl
@[simp] theorem setPort_images (s : State) (k : Nat) (x : Port) : (s.setPort k x).images = s.images := rfl
@[simp] theorem setPort_redirects (s : State) (k : Nat) (x : Port) : (s.setPort k x).redirects = s.redirects := rfl
@[simp] theorem setPort_restoring (s : State) (k : Nat) (x : Port) : (s.setPort k x).restoring = s.restoring := rfl
@[simp] theorem setPort_parts (s : State) (k : Nat) (x : Port) : (s.setPort k x).parts = s.parts := rfl
@[simp] theorem setPort_chans (s : State) (k : Nat) (x : Port) : (s.setPort k x).chans = s.chans := rfl
@[simp] theorem setPort_modcap (s : State) (k : Nat) (x : Port) : (s.setPort k x).modcap = s.modcap := rfl
@[simp] theorem setPort_perr (s : State) (k : Nat) (x : Port) : (s.setPort k x).perr = s.perr := rfl
@[simp] theorem setPort_keng (s : State) (k : Nat) (x : Port) : (s.setPort k x).keng = s.keng := rfl
@[simp] theorem setPort_reach (s : State) (k : Nat) (x : Port) : (s.setPort k x).reach = s.reach := rfl
@[simp] theorem setPort_reachReqs (s : State) (k : Nat) (x : Port) : (s.setPort k x).reachReqs = s.reachReqs := rfl
@[simp] theorem setPort_reachIn (s : State) (k : Nat) (x : Port) : (s.setPort k x).reachIn = s.reachIn := rfl
@[simp] theorem setPort_fns (s : State) (k : Nat) (x : Port) : (s.setPort k x).fns = s.fns := rfl
@[simp] theorem setPort_cmds (s : State) (k : Nat) (x : Port) : (s.setPort k x).cmds = s.cmds := rfl
@[simp] theorem setPort_hostMem (s : State) (k : Nat) (x : Port) : (s.setPort k x).hostMem = s.hostMem := rfl
@[simp] theorem setPort_flash (s : State) (k : Nat) (x : Port) : (s.setPort k x).flash = s.flash := rfl
@[simp] theorem setPort_drives (s : State) (k : Nat) (x : Port) : (s.setPort k x).drives = s.drives := rfl
@[simp] theorem setPort_fwSlot (s : State) (k : Nat) (x : Port) : (s.setPort k x).fwSlot = s.fwSlot := rfl
@[simp] theorem setPort_sent (s : State) (k : Nat) (x : Port) : (s.setPort k x).sent = s.sent := rfl
@[simp] theorem setPort_msix (s : State) (k : Nat) (x : Port) : (s.setPort k x).msix = s.msix := rfl
@[simp] theorem setPort_mgmt (s : State) (k : Nat) (x : Port) : (s.setPort k x).mgmt = s.mgmt := rfl
@[simp] theorem setPort_leaAcc (s : State) (k : Nat) (x : Port) : (s.setPort k x).leaAcc = s.leaAcc := rfl
@[simp] theorem setPort_evAcc (s : State) (k : Nat) (x : Port) : (s.setPort k x).evAcc = s.evAcc := rfl
@[simp] theorem setPort_sclines (s : State) (k : Nat) (x : Port) : (s.setPort k x).sclines = s.sclines := rfl
@[simp] theorem setPort_ways (s : State) (k : Nat) (x : Port) : (s.setPort k x).ways = s.ways := rfl
@[simp] theorem setPort_hitAcc (s : State) (k : Nat) (x : Port) : (s.setPort k x).hitAcc = s.hitAcc := rfl
@[simp] theorem setPort_outbox (s : State) (k : Nat) (x : Port) : (s.setPort k x).outbox = s.outbox := rfl
@[simp] theorem setPort_held (s : State) (k : Nat) (x : Port) : (s.setPort k x).held = s.held := rfl
@[simp] theorem setPort_tripped (s : State) (k : Nat) (x : Port) : (s.setPort k x).tripped = s.tripped := rfl
@[simp] theorem setPort_port (s : State) (k j : Nat) (x : Port) : (s.setPort k x).port j = if j = k then x else s.port j := mget_mset _ _ _ _ _
@[simp] theorem setPort_strand (s : State) (k j : Nat) (x : Port) : (s.setPort k x).strand j = s.strand j := rfl
@[simp] theorem setPort_spindle (s : State) (k j : Nat) (x : Port) : (s.setPort k x).spindle j = s.spindle j := rfl
@[simp] theorem setPort_cluster (s : State) (k j : Nat) (x : Port) : (s.setPort k x).cluster j = s.cluster j := rfl
@[simp] theorem setPort_copyJob (s : State) (k j : Nat) (x : Port) : (s.setPort k x).copyJob j = s.copyJob j := rfl
@[simp] theorem setPort_group (s : State) (k j : Nat) (x : Port) : (s.setPort k x).group j = s.group j := rfl
@[simp] theorem setPort_die (s : State) (k j : Nat) (x : Port) : (s.setPort k x).die j = s.die j := rfl
@[simp] theorem setPort_ctx (s : State) (k j : Nat) (x : Port) : (s.setPort k x).ctx j = s.ctx j := rfl
@[simp] theorem setPort_part (s : State) (k j : Nat) (x : Port) : (s.setPort k x).part j = s.part j := rfl
@[simp] theorem setPort_chan (s : State) (k j : Nat) (x : Port) : (s.setPort k x).chan j = s.chan j := rfl
@[simp] theorem setPort_fn (s : State) (k j : Nat) (x : Port) : (s.setPort k x).fn j = s.fn j := rfl
@[simp] theorem setPort_cmd (s : State) (k j : Nat) (x : Port) : (s.setPort k x).cmd j = s.cmd j := rfl
@[simp] theorem setPort_stop (s : State) (k j : Nat) (x : Port) : (s.setPort k x).stop j = s.stop j := rfl
@[simp] theorem setPort_sect (s : State) (k j : Nat) (x : Port) : (s.setPort k x).sect j = s.sect j := rfl

/-! ## setFn -/

@[simp] theorem setFn_agenda (s : State) (k : Nat) (x : HostFn) : (s.setFn k x).agenda = s.agenda := rfl
@[simp] theorem setFn_ev (s : State) (k : Nat) (x : HostFn) : (s.setFn k x).ev = s.ev := rfl
@[simp] theorem setFn_frame (s : State) (k : Nat) (x : HostFn) : (s.setFn k x).frame = s.frame := rfl
@[simp] theorem setFn_focus (s : State) (k : Nat) (x : HostFn) : (s.setFn k x).focus = s.focus := rfl
@[simp] theorem setFn_turn (s : State) (k : Nat) (x : HostFn) : (s.setFn k x).turn = s.turn := rfl
@[simp] theorem setFn_free (s : State) (k : Nat) (x : HostFn) : (s.setFn k x).free = s.free := rfl
@[simp] theorem setFn_nextId (s : State) (k : Nat) (x : HostFn) : (s.setFn k x).nextId = s.nextId := rfl
@[simp] theorem setFn_strands (s : State) (k : Nat) (x : HostFn) : (s.setFn k x).strands = s.strands := rfl
@[simp] theorem setFn_spindles (s : State) (k : Nat) (x : HostFn) : (s.setFn k x).spindles = s.spindles := rfl
@[simp] theorem setFn_clusters (s : State) (k : Nat) (x : HostFn) : (s.setFn k x).clusters = s.clusters := rfl
@[simp] theorem setFn_copies (s : State) (k : Nat) (x : HostFn) : (s.setFn k x).copies = s.copies := rfl
@[simp] theorem setFn_groups (s : State) (k : Nat) (x : HostFn) : (s.setFn k x).groups = s.groups := rfl
@[simp] theorem setFn_hbm (s : State) (k : Nat) (x : HostFn) : (s.setFn k x).hbm = s.hbm := rfl
@[simp] theorem setFn_sects (s : State) (k : Nat) (x : HostFn) : (s.setFn k x).sects = s.sects := rfl
@[simp] theorem setFn_reltags (s : State) (k : Nat) (x : HostFn) : (s.setFn k x).reltags = s.reltags := rfl
@[simp] theorem setFn_rom (s : State) (k : Nat) (x : HostFn) : (s.setFn k x).rom = s.rom := rfl
@[simp] theorem setFn_tlb (s : State) (k : Nat) (x : HostFn) : (s.setFn k x).tlb = s.tlb := rfl
@[simp] theorem setFn_dies (s : State) (k : Nat) (x : HostFn) : (s.setFn k x).dies = s.dies := rfl
@[simp] theorem setFn_ctxs (s : State) (k : Nat) (x : HostFn) : (s.setFn k x).ctxs = s.ctxs := rfl
@[simp] theorem setFn_keyIndex (s : State) (k : Nat) (x : HostFn) : (s.setFn k x).keyIndex = s.keyIndex := rfl
@[simp] theorem setFn_waiting (s : State) (k : Nat) (x : HostFn) : (s.setFn k x).waiting = s.waiting := rfl
@[simp] theorem setFn_replies (s : State) (k : Nat) (x : HostFn) : (s.setFn k x).replies = s.replies := rfl
@[simp] theorem setFn_stops (s : State) (k : Nat) (x : HostFn) : (s.setFn k x).stops = s.stops := rfl
@[simp] theorem setFn_images (s : State) (k : Nat) (x : HostFn) : (s.setFn k x).images = s.images := rfl
@[simp] theorem setFn_redirects (s : State) (k : Nat) (x : HostFn) : (s.setFn k x).redirects = s.redirects := rfl
@[simp] theorem setFn_restoring (s : State) (k : Nat) (x : HostFn) : (s.setFn k x).restoring = s.restoring := rfl
@[simp] theorem setFn_parts (s : State) (k : Nat) (x : HostFn) : (s.setFn k x).parts = s.parts := rfl
@[simp] theorem setFn_chans (s : State) (k : Nat) (x : HostFn) : (s.setFn k x).chans = s.chans := rfl
@[simp] theorem setFn_modcap (s : State) (k : Nat) (x : HostFn) : (s.setFn k x).modcap = s.modcap := rfl
@[simp] theorem setFn_perr (s : State) (k : Nat) (x : HostFn) : (s.setFn k x).perr = s.perr := rfl
@[simp] theorem setFn_keng (s : State) (k : Nat) (x : HostFn) : (s.setFn k x).keng = s.keng := rfl
@[simp] theorem setFn_ports (s : State) (k : Nat) (x : HostFn) : (s.setFn k x).ports = s.ports := rfl
@[simp] theorem setFn_reach (s : State) (k : Nat) (x : HostFn) : (s.setFn k x).reach = s.reach := rfl
@[simp] theorem setFn_reachReqs (s : State) (k : Nat) (x : HostFn) : (s.setFn k x).reachReqs = s.reachReqs := rfl
@[simp] theorem setFn_reachIn (s : State) (k : Nat) (x : HostFn) : (s.setFn k x).reachIn = s.reachIn := rfl
@[simp] theorem setFn_cmds (s : State) (k : Nat) (x : HostFn) : (s.setFn k x).cmds = s.cmds := rfl
@[simp] theorem setFn_hostMem (s : State) (k : Nat) (x : HostFn) : (s.setFn k x).hostMem = s.hostMem := rfl
@[simp] theorem setFn_flash (s : State) (k : Nat) (x : HostFn) : (s.setFn k x).flash = s.flash := rfl
@[simp] theorem setFn_drives (s : State) (k : Nat) (x : HostFn) : (s.setFn k x).drives = s.drives := rfl
@[simp] theorem setFn_fwSlot (s : State) (k : Nat) (x : HostFn) : (s.setFn k x).fwSlot = s.fwSlot := rfl
@[simp] theorem setFn_sent (s : State) (k : Nat) (x : HostFn) : (s.setFn k x).sent = s.sent := rfl
@[simp] theorem setFn_msix (s : State) (k : Nat) (x : HostFn) : (s.setFn k x).msix = s.msix := rfl
@[simp] theorem setFn_mgmt (s : State) (k : Nat) (x : HostFn) : (s.setFn k x).mgmt = s.mgmt := rfl
@[simp] theorem setFn_leaAcc (s : State) (k : Nat) (x : HostFn) : (s.setFn k x).leaAcc = s.leaAcc := rfl
@[simp] theorem setFn_evAcc (s : State) (k : Nat) (x : HostFn) : (s.setFn k x).evAcc = s.evAcc := rfl
@[simp] theorem setFn_sclines (s : State) (k : Nat) (x : HostFn) : (s.setFn k x).sclines = s.sclines := rfl
@[simp] theorem setFn_ways (s : State) (k : Nat) (x : HostFn) : (s.setFn k x).ways = s.ways := rfl
@[simp] theorem setFn_hitAcc (s : State) (k : Nat) (x : HostFn) : (s.setFn k x).hitAcc = s.hitAcc := rfl
@[simp] theorem setFn_outbox (s : State) (k : Nat) (x : HostFn) : (s.setFn k x).outbox = s.outbox := rfl
@[simp] theorem setFn_held (s : State) (k : Nat) (x : HostFn) : (s.setFn k x).held = s.held := rfl
@[simp] theorem setFn_tripped (s : State) (k : Nat) (x : HostFn) : (s.setFn k x).tripped = s.tripped := rfl
@[simp] theorem setFn_fn (s : State) (k j : Nat) (x : HostFn) : (s.setFn k x).fn j = if j = k then x else s.fn j := mget_mset _ _ _ _ _
@[simp] theorem setFn_strand (s : State) (k j : Nat) (x : HostFn) : (s.setFn k x).strand j = s.strand j := rfl
@[simp] theorem setFn_spindle (s : State) (k j : Nat) (x : HostFn) : (s.setFn k x).spindle j = s.spindle j := rfl
@[simp] theorem setFn_cluster (s : State) (k j : Nat) (x : HostFn) : (s.setFn k x).cluster j = s.cluster j := rfl
@[simp] theorem setFn_copyJob (s : State) (k j : Nat) (x : HostFn) : (s.setFn k x).copyJob j = s.copyJob j := rfl
@[simp] theorem setFn_group (s : State) (k j : Nat) (x : HostFn) : (s.setFn k x).group j = s.group j := rfl
@[simp] theorem setFn_die (s : State) (k j : Nat) (x : HostFn) : (s.setFn k x).die j = s.die j := rfl
@[simp] theorem setFn_ctx (s : State) (k j : Nat) (x : HostFn) : (s.setFn k x).ctx j = s.ctx j := rfl
@[simp] theorem setFn_part (s : State) (k j : Nat) (x : HostFn) : (s.setFn k x).part j = s.part j := rfl
@[simp] theorem setFn_chan (s : State) (k j : Nat) (x : HostFn) : (s.setFn k x).chan j = s.chan j := rfl
@[simp] theorem setFn_port (s : State) (k j : Nat) (x : HostFn) : (s.setFn k x).port j = s.port j := rfl
@[simp] theorem setFn_cmd (s : State) (k j : Nat) (x : HostFn) : (s.setFn k x).cmd j = s.cmd j := rfl
@[simp] theorem setFn_stop (s : State) (k j : Nat) (x : HostFn) : (s.setFn k x).stop j = s.stop j := rfl
@[simp] theorem setFn_sect (s : State) (k j : Nat) (x : HostFn) : (s.setFn k x).sect j = s.sect j := rfl

/-! ## setCmd -/

@[simp] theorem setCmd_agenda (s : State) (k : Nat) (x : Option Cmd) : (s.setCmd k x).agenda = s.agenda := rfl
@[simp] theorem setCmd_ev (s : State) (k : Nat) (x : Option Cmd) : (s.setCmd k x).ev = s.ev := rfl
@[simp] theorem setCmd_frame (s : State) (k : Nat) (x : Option Cmd) : (s.setCmd k x).frame = s.frame := rfl
@[simp] theorem setCmd_focus (s : State) (k : Nat) (x : Option Cmd) : (s.setCmd k x).focus = s.focus := rfl
@[simp] theorem setCmd_turn (s : State) (k : Nat) (x : Option Cmd) : (s.setCmd k x).turn = s.turn := rfl
@[simp] theorem setCmd_free (s : State) (k : Nat) (x : Option Cmd) : (s.setCmd k x).free = s.free := rfl
@[simp] theorem setCmd_nextId (s : State) (k : Nat) (x : Option Cmd) : (s.setCmd k x).nextId = s.nextId := rfl
@[simp] theorem setCmd_strands (s : State) (k : Nat) (x : Option Cmd) : (s.setCmd k x).strands = s.strands := rfl
@[simp] theorem setCmd_spindles (s : State) (k : Nat) (x : Option Cmd) : (s.setCmd k x).spindles = s.spindles := rfl
@[simp] theorem setCmd_clusters (s : State) (k : Nat) (x : Option Cmd) : (s.setCmd k x).clusters = s.clusters := rfl
@[simp] theorem setCmd_copies (s : State) (k : Nat) (x : Option Cmd) : (s.setCmd k x).copies = s.copies := rfl
@[simp] theorem setCmd_groups (s : State) (k : Nat) (x : Option Cmd) : (s.setCmd k x).groups = s.groups := rfl
@[simp] theorem setCmd_hbm (s : State) (k : Nat) (x : Option Cmd) : (s.setCmd k x).hbm = s.hbm := rfl
@[simp] theorem setCmd_sects (s : State) (k : Nat) (x : Option Cmd) : (s.setCmd k x).sects = s.sects := rfl
@[simp] theorem setCmd_reltags (s : State) (k : Nat) (x : Option Cmd) : (s.setCmd k x).reltags = s.reltags := rfl
@[simp] theorem setCmd_rom (s : State) (k : Nat) (x : Option Cmd) : (s.setCmd k x).rom = s.rom := rfl
@[simp] theorem setCmd_tlb (s : State) (k : Nat) (x : Option Cmd) : (s.setCmd k x).tlb = s.tlb := rfl
@[simp] theorem setCmd_dies (s : State) (k : Nat) (x : Option Cmd) : (s.setCmd k x).dies = s.dies := rfl
@[simp] theorem setCmd_ctxs (s : State) (k : Nat) (x : Option Cmd) : (s.setCmd k x).ctxs = s.ctxs := rfl
@[simp] theorem setCmd_keyIndex (s : State) (k : Nat) (x : Option Cmd) : (s.setCmd k x).keyIndex = s.keyIndex := rfl
@[simp] theorem setCmd_waiting (s : State) (k : Nat) (x : Option Cmd) : (s.setCmd k x).waiting = s.waiting := rfl
@[simp] theorem setCmd_replies (s : State) (k : Nat) (x : Option Cmd) : (s.setCmd k x).replies = s.replies := rfl
@[simp] theorem setCmd_stops (s : State) (k : Nat) (x : Option Cmd) : (s.setCmd k x).stops = s.stops := rfl
@[simp] theorem setCmd_images (s : State) (k : Nat) (x : Option Cmd) : (s.setCmd k x).images = s.images := rfl
@[simp] theorem setCmd_redirects (s : State) (k : Nat) (x : Option Cmd) : (s.setCmd k x).redirects = s.redirects := rfl
@[simp] theorem setCmd_restoring (s : State) (k : Nat) (x : Option Cmd) : (s.setCmd k x).restoring = s.restoring := rfl
@[simp] theorem setCmd_parts (s : State) (k : Nat) (x : Option Cmd) : (s.setCmd k x).parts = s.parts := rfl
@[simp] theorem setCmd_chans (s : State) (k : Nat) (x : Option Cmd) : (s.setCmd k x).chans = s.chans := rfl
@[simp] theorem setCmd_modcap (s : State) (k : Nat) (x : Option Cmd) : (s.setCmd k x).modcap = s.modcap := rfl
@[simp] theorem setCmd_perr (s : State) (k : Nat) (x : Option Cmd) : (s.setCmd k x).perr = s.perr := rfl
@[simp] theorem setCmd_keng (s : State) (k : Nat) (x : Option Cmd) : (s.setCmd k x).keng = s.keng := rfl
@[simp] theorem setCmd_ports (s : State) (k : Nat) (x : Option Cmd) : (s.setCmd k x).ports = s.ports := rfl
@[simp] theorem setCmd_reach (s : State) (k : Nat) (x : Option Cmd) : (s.setCmd k x).reach = s.reach := rfl
@[simp] theorem setCmd_reachReqs (s : State) (k : Nat) (x : Option Cmd) : (s.setCmd k x).reachReqs = s.reachReqs := rfl
@[simp] theorem setCmd_reachIn (s : State) (k : Nat) (x : Option Cmd) : (s.setCmd k x).reachIn = s.reachIn := rfl
@[simp] theorem setCmd_fns (s : State) (k : Nat) (x : Option Cmd) : (s.setCmd k x).fns = s.fns := rfl
@[simp] theorem setCmd_hostMem (s : State) (k : Nat) (x : Option Cmd) : (s.setCmd k x).hostMem = s.hostMem := rfl
@[simp] theorem setCmd_flash (s : State) (k : Nat) (x : Option Cmd) : (s.setCmd k x).flash = s.flash := rfl
@[simp] theorem setCmd_drives (s : State) (k : Nat) (x : Option Cmd) : (s.setCmd k x).drives = s.drives := rfl
@[simp] theorem setCmd_fwSlot (s : State) (k : Nat) (x : Option Cmd) : (s.setCmd k x).fwSlot = s.fwSlot := rfl
@[simp] theorem setCmd_sent (s : State) (k : Nat) (x : Option Cmd) : (s.setCmd k x).sent = s.sent := rfl
@[simp] theorem setCmd_msix (s : State) (k : Nat) (x : Option Cmd) : (s.setCmd k x).msix = s.msix := rfl
@[simp] theorem setCmd_mgmt (s : State) (k : Nat) (x : Option Cmd) : (s.setCmd k x).mgmt = s.mgmt := rfl
@[simp] theorem setCmd_leaAcc (s : State) (k : Nat) (x : Option Cmd) : (s.setCmd k x).leaAcc = s.leaAcc := rfl
@[simp] theorem setCmd_evAcc (s : State) (k : Nat) (x : Option Cmd) : (s.setCmd k x).evAcc = s.evAcc := rfl
@[simp] theorem setCmd_sclines (s : State) (k : Nat) (x : Option Cmd) : (s.setCmd k x).sclines = s.sclines := rfl
@[simp] theorem setCmd_ways (s : State) (k : Nat) (x : Option Cmd) : (s.setCmd k x).ways = s.ways := rfl
@[simp] theorem setCmd_hitAcc (s : State) (k : Nat) (x : Option Cmd) : (s.setCmd k x).hitAcc = s.hitAcc := rfl
@[simp] theorem setCmd_outbox (s : State) (k : Nat) (x : Option Cmd) : (s.setCmd k x).outbox = s.outbox := rfl
@[simp] theorem setCmd_held (s : State) (k : Nat) (x : Option Cmd) : (s.setCmd k x).held = s.held := rfl
@[simp] theorem setCmd_tripped (s : State) (k : Nat) (x : Option Cmd) : (s.setCmd k x).tripped = s.tripped := rfl
@[simp] theorem setCmd_cmd (s : State) (k j : Nat) (x : Option Cmd) : (s.setCmd k x).cmd j = if j = k then x else s.cmd j := mget_mset _ _ _ _ _
@[simp] theorem setCmd_strand (s : State) (k j : Nat) (x : Option Cmd) : (s.setCmd k x).strand j = s.strand j := rfl
@[simp] theorem setCmd_spindle (s : State) (k j : Nat) (x : Option Cmd) : (s.setCmd k x).spindle j = s.spindle j := rfl
@[simp] theorem setCmd_cluster (s : State) (k j : Nat) (x : Option Cmd) : (s.setCmd k x).cluster j = s.cluster j := rfl
@[simp] theorem setCmd_copyJob (s : State) (k j : Nat) (x : Option Cmd) : (s.setCmd k x).copyJob j = s.copyJob j := rfl
@[simp] theorem setCmd_group (s : State) (k j : Nat) (x : Option Cmd) : (s.setCmd k x).group j = s.group j := rfl
@[simp] theorem setCmd_die (s : State) (k j : Nat) (x : Option Cmd) : (s.setCmd k x).die j = s.die j := rfl
@[simp] theorem setCmd_ctx (s : State) (k j : Nat) (x : Option Cmd) : (s.setCmd k x).ctx j = s.ctx j := rfl
@[simp] theorem setCmd_part (s : State) (k j : Nat) (x : Option Cmd) : (s.setCmd k x).part j = s.part j := rfl
@[simp] theorem setCmd_chan (s : State) (k j : Nat) (x : Option Cmd) : (s.setCmd k x).chan j = s.chan j := rfl
@[simp] theorem setCmd_port (s : State) (k j : Nat) (x : Option Cmd) : (s.setCmd k x).port j = s.port j := rfl
@[simp] theorem setCmd_fn (s : State) (k j : Nat) (x : Option Cmd) : (s.setCmd k x).fn j = s.fn j := rfl
@[simp] theorem setCmd_stop (s : State) (k j : Nat) (x : Option Cmd) : (s.setCmd k x).stop j = s.stop j := rfl
@[simp] theorem setCmd_sect (s : State) (k j : Nat) (x : Option Cmd) : (s.setCmd k x).sect j = s.sect j := rfl

/-! ## setStop -/

@[simp] theorem setStop_agenda (s : State) (k : Nat) (x : Option Stop) : (s.setStop k x).agenda = s.agenda := rfl
@[simp] theorem setStop_ev (s : State) (k : Nat) (x : Option Stop) : (s.setStop k x).ev = s.ev := rfl
@[simp] theorem setStop_frame (s : State) (k : Nat) (x : Option Stop) : (s.setStop k x).frame = s.frame := rfl
@[simp] theorem setStop_focus (s : State) (k : Nat) (x : Option Stop) : (s.setStop k x).focus = s.focus := rfl
@[simp] theorem setStop_turn (s : State) (k : Nat) (x : Option Stop) : (s.setStop k x).turn = s.turn := rfl
@[simp] theorem setStop_free (s : State) (k : Nat) (x : Option Stop) : (s.setStop k x).free = s.free := rfl
@[simp] theorem setStop_nextId (s : State) (k : Nat) (x : Option Stop) : (s.setStop k x).nextId = s.nextId := rfl
@[simp] theorem setStop_strands (s : State) (k : Nat) (x : Option Stop) : (s.setStop k x).strands = s.strands := rfl
@[simp] theorem setStop_spindles (s : State) (k : Nat) (x : Option Stop) : (s.setStop k x).spindles = s.spindles := rfl
@[simp] theorem setStop_clusters (s : State) (k : Nat) (x : Option Stop) : (s.setStop k x).clusters = s.clusters := rfl
@[simp] theorem setStop_copies (s : State) (k : Nat) (x : Option Stop) : (s.setStop k x).copies = s.copies := rfl
@[simp] theorem setStop_groups (s : State) (k : Nat) (x : Option Stop) : (s.setStop k x).groups = s.groups := rfl
@[simp] theorem setStop_hbm (s : State) (k : Nat) (x : Option Stop) : (s.setStop k x).hbm = s.hbm := rfl
@[simp] theorem setStop_sects (s : State) (k : Nat) (x : Option Stop) : (s.setStop k x).sects = s.sects := rfl
@[simp] theorem setStop_reltags (s : State) (k : Nat) (x : Option Stop) : (s.setStop k x).reltags = s.reltags := rfl
@[simp] theorem setStop_rom (s : State) (k : Nat) (x : Option Stop) : (s.setStop k x).rom = s.rom := rfl
@[simp] theorem setStop_tlb (s : State) (k : Nat) (x : Option Stop) : (s.setStop k x).tlb = s.tlb := rfl
@[simp] theorem setStop_dies (s : State) (k : Nat) (x : Option Stop) : (s.setStop k x).dies = s.dies := rfl
@[simp] theorem setStop_ctxs (s : State) (k : Nat) (x : Option Stop) : (s.setStop k x).ctxs = s.ctxs := rfl
@[simp] theorem setStop_keyIndex (s : State) (k : Nat) (x : Option Stop) : (s.setStop k x).keyIndex = s.keyIndex := rfl
@[simp] theorem setStop_waiting (s : State) (k : Nat) (x : Option Stop) : (s.setStop k x).waiting = s.waiting := rfl
@[simp] theorem setStop_replies (s : State) (k : Nat) (x : Option Stop) : (s.setStop k x).replies = s.replies := rfl
@[simp] theorem setStop_images (s : State) (k : Nat) (x : Option Stop) : (s.setStop k x).images = s.images := rfl
@[simp] theorem setStop_redirects (s : State) (k : Nat) (x : Option Stop) : (s.setStop k x).redirects = s.redirects := rfl
@[simp] theorem setStop_restoring (s : State) (k : Nat) (x : Option Stop) : (s.setStop k x).restoring = s.restoring := rfl
@[simp] theorem setStop_parts (s : State) (k : Nat) (x : Option Stop) : (s.setStop k x).parts = s.parts := rfl
@[simp] theorem setStop_chans (s : State) (k : Nat) (x : Option Stop) : (s.setStop k x).chans = s.chans := rfl
@[simp] theorem setStop_modcap (s : State) (k : Nat) (x : Option Stop) : (s.setStop k x).modcap = s.modcap := rfl
@[simp] theorem setStop_perr (s : State) (k : Nat) (x : Option Stop) : (s.setStop k x).perr = s.perr := rfl
@[simp] theorem setStop_keng (s : State) (k : Nat) (x : Option Stop) : (s.setStop k x).keng = s.keng := rfl
@[simp] theorem setStop_ports (s : State) (k : Nat) (x : Option Stop) : (s.setStop k x).ports = s.ports := rfl
@[simp] theorem setStop_reach (s : State) (k : Nat) (x : Option Stop) : (s.setStop k x).reach = s.reach := rfl
@[simp] theorem setStop_reachReqs (s : State) (k : Nat) (x : Option Stop) : (s.setStop k x).reachReqs = s.reachReqs := rfl
@[simp] theorem setStop_reachIn (s : State) (k : Nat) (x : Option Stop) : (s.setStop k x).reachIn = s.reachIn := rfl
@[simp] theorem setStop_fns (s : State) (k : Nat) (x : Option Stop) : (s.setStop k x).fns = s.fns := rfl
@[simp] theorem setStop_cmds (s : State) (k : Nat) (x : Option Stop) : (s.setStop k x).cmds = s.cmds := rfl
@[simp] theorem setStop_hostMem (s : State) (k : Nat) (x : Option Stop) : (s.setStop k x).hostMem = s.hostMem := rfl
@[simp] theorem setStop_flash (s : State) (k : Nat) (x : Option Stop) : (s.setStop k x).flash = s.flash := rfl
@[simp] theorem setStop_drives (s : State) (k : Nat) (x : Option Stop) : (s.setStop k x).drives = s.drives := rfl
@[simp] theorem setStop_fwSlot (s : State) (k : Nat) (x : Option Stop) : (s.setStop k x).fwSlot = s.fwSlot := rfl
@[simp] theorem setStop_sent (s : State) (k : Nat) (x : Option Stop) : (s.setStop k x).sent = s.sent := rfl
@[simp] theorem setStop_msix (s : State) (k : Nat) (x : Option Stop) : (s.setStop k x).msix = s.msix := rfl
@[simp] theorem setStop_mgmt (s : State) (k : Nat) (x : Option Stop) : (s.setStop k x).mgmt = s.mgmt := rfl
@[simp] theorem setStop_leaAcc (s : State) (k : Nat) (x : Option Stop) : (s.setStop k x).leaAcc = s.leaAcc := rfl
@[simp] theorem setStop_evAcc (s : State) (k : Nat) (x : Option Stop) : (s.setStop k x).evAcc = s.evAcc := rfl
@[simp] theorem setStop_sclines (s : State) (k : Nat) (x : Option Stop) : (s.setStop k x).sclines = s.sclines := rfl
@[simp] theorem setStop_ways (s : State) (k : Nat) (x : Option Stop) : (s.setStop k x).ways = s.ways := rfl
@[simp] theorem setStop_hitAcc (s : State) (k : Nat) (x : Option Stop) : (s.setStop k x).hitAcc = s.hitAcc := rfl
@[simp] theorem setStop_outbox (s : State) (k : Nat) (x : Option Stop) : (s.setStop k x).outbox = s.outbox := rfl
@[simp] theorem setStop_held (s : State) (k : Nat) (x : Option Stop) : (s.setStop k x).held = s.held := rfl
@[simp] theorem setStop_tripped (s : State) (k : Nat) (x : Option Stop) : (s.setStop k x).tripped = s.tripped := rfl
@[simp] theorem setStop_stop (s : State) (k j : Nat) (x : Option Stop) : (s.setStop k x).stop j = if j = k then x else s.stop j := mget_mset _ _ _ _ _
@[simp] theorem setStop_strand (s : State) (k j : Nat) (x : Option Stop) : (s.setStop k x).strand j = s.strand j := rfl
@[simp] theorem setStop_spindle (s : State) (k j : Nat) (x : Option Stop) : (s.setStop k x).spindle j = s.spindle j := rfl
@[simp] theorem setStop_cluster (s : State) (k j : Nat) (x : Option Stop) : (s.setStop k x).cluster j = s.cluster j := rfl
@[simp] theorem setStop_copyJob (s : State) (k j : Nat) (x : Option Stop) : (s.setStop k x).copyJob j = s.copyJob j := rfl
@[simp] theorem setStop_group (s : State) (k j : Nat) (x : Option Stop) : (s.setStop k x).group j = s.group j := rfl
@[simp] theorem setStop_die (s : State) (k j : Nat) (x : Option Stop) : (s.setStop k x).die j = s.die j := rfl
@[simp] theorem setStop_ctx (s : State) (k j : Nat) (x : Option Stop) : (s.setStop k x).ctx j = s.ctx j := rfl
@[simp] theorem setStop_part (s : State) (k j : Nat) (x : Option Stop) : (s.setStop k x).part j = s.part j := rfl
@[simp] theorem setStop_chan (s : State) (k j : Nat) (x : Option Stop) : (s.setStop k x).chan j = s.chan j := rfl
@[simp] theorem setStop_port (s : State) (k j : Nat) (x : Option Stop) : (s.setStop k x).port j = s.port j := rfl
@[simp] theorem setStop_fn (s : State) (k j : Nat) (x : Option Stop) : (s.setStop k x).fn j = s.fn j := rfl
@[simp] theorem setStop_cmd (s : State) (k j : Nat) (x : Option Stop) : (s.setStop k x).cmd j = s.cmd j := rfl
@[simp] theorem setStop_sect (s : State) (k j : Nat) (x : Option Stop) : (s.setStop k x).sect j = s.sect j := rfl

/-! ## setSect -/

@[simp] theorem setSect_agenda (s : State) (k : Nat) (x : Sector) : (s.setSect k x).agenda = s.agenda := rfl
@[simp] theorem setSect_ev (s : State) (k : Nat) (x : Sector) : (s.setSect k x).ev = s.ev := rfl
@[simp] theorem setSect_frame (s : State) (k : Nat) (x : Sector) : (s.setSect k x).frame = s.frame := rfl
@[simp] theorem setSect_focus (s : State) (k : Nat) (x : Sector) : (s.setSect k x).focus = s.focus := rfl
@[simp] theorem setSect_turn (s : State) (k : Nat) (x : Sector) : (s.setSect k x).turn = s.turn := rfl
@[simp] theorem setSect_free (s : State) (k : Nat) (x : Sector) : (s.setSect k x).free = s.free := rfl
@[simp] theorem setSect_nextId (s : State) (k : Nat) (x : Sector) : (s.setSect k x).nextId = s.nextId := rfl
@[simp] theorem setSect_strands (s : State) (k : Nat) (x : Sector) : (s.setSect k x).strands = s.strands := rfl
@[simp] theorem setSect_spindles (s : State) (k : Nat) (x : Sector) : (s.setSect k x).spindles = s.spindles := rfl
@[simp] theorem setSect_clusters (s : State) (k : Nat) (x : Sector) : (s.setSect k x).clusters = s.clusters := rfl
@[simp] theorem setSect_copies (s : State) (k : Nat) (x : Sector) : (s.setSect k x).copies = s.copies := rfl
@[simp] theorem setSect_groups (s : State) (k : Nat) (x : Sector) : (s.setSect k x).groups = s.groups := rfl
@[simp] theorem setSect_hbm (s : State) (k : Nat) (x : Sector) : (s.setSect k x).hbm = s.hbm := rfl
@[simp] theorem setSect_reltags (s : State) (k : Nat) (x : Sector) : (s.setSect k x).reltags = s.reltags := rfl
@[simp] theorem setSect_rom (s : State) (k : Nat) (x : Sector) : (s.setSect k x).rom = s.rom := rfl
@[simp] theorem setSect_tlb (s : State) (k : Nat) (x : Sector) : (s.setSect k x).tlb = s.tlb := rfl
@[simp] theorem setSect_dies (s : State) (k : Nat) (x : Sector) : (s.setSect k x).dies = s.dies := rfl
@[simp] theorem setSect_ctxs (s : State) (k : Nat) (x : Sector) : (s.setSect k x).ctxs = s.ctxs := rfl
@[simp] theorem setSect_keyIndex (s : State) (k : Nat) (x : Sector) : (s.setSect k x).keyIndex = s.keyIndex := rfl
@[simp] theorem setSect_waiting (s : State) (k : Nat) (x : Sector) : (s.setSect k x).waiting = s.waiting := rfl
@[simp] theorem setSect_replies (s : State) (k : Nat) (x : Sector) : (s.setSect k x).replies = s.replies := rfl
@[simp] theorem setSect_stops (s : State) (k : Nat) (x : Sector) : (s.setSect k x).stops = s.stops := rfl
@[simp] theorem setSect_images (s : State) (k : Nat) (x : Sector) : (s.setSect k x).images = s.images := rfl
@[simp] theorem setSect_redirects (s : State) (k : Nat) (x : Sector) : (s.setSect k x).redirects = s.redirects := rfl
@[simp] theorem setSect_restoring (s : State) (k : Nat) (x : Sector) : (s.setSect k x).restoring = s.restoring := rfl
@[simp] theorem setSect_parts (s : State) (k : Nat) (x : Sector) : (s.setSect k x).parts = s.parts := rfl
@[simp] theorem setSect_chans (s : State) (k : Nat) (x : Sector) : (s.setSect k x).chans = s.chans := rfl
@[simp] theorem setSect_modcap (s : State) (k : Nat) (x : Sector) : (s.setSect k x).modcap = s.modcap := rfl
@[simp] theorem setSect_perr (s : State) (k : Nat) (x : Sector) : (s.setSect k x).perr = s.perr := rfl
@[simp] theorem setSect_keng (s : State) (k : Nat) (x : Sector) : (s.setSect k x).keng = s.keng := rfl
@[simp] theorem setSect_ports (s : State) (k : Nat) (x : Sector) : (s.setSect k x).ports = s.ports := rfl
@[simp] theorem setSect_reach (s : State) (k : Nat) (x : Sector) : (s.setSect k x).reach = s.reach := rfl
@[simp] theorem setSect_reachReqs (s : State) (k : Nat) (x : Sector) : (s.setSect k x).reachReqs = s.reachReqs := rfl
@[simp] theorem setSect_reachIn (s : State) (k : Nat) (x : Sector) : (s.setSect k x).reachIn = s.reachIn := rfl
@[simp] theorem setSect_fns (s : State) (k : Nat) (x : Sector) : (s.setSect k x).fns = s.fns := rfl
@[simp] theorem setSect_cmds (s : State) (k : Nat) (x : Sector) : (s.setSect k x).cmds = s.cmds := rfl
@[simp] theorem setSect_hostMem (s : State) (k : Nat) (x : Sector) : (s.setSect k x).hostMem = s.hostMem := rfl
@[simp] theorem setSect_flash (s : State) (k : Nat) (x : Sector) : (s.setSect k x).flash = s.flash := rfl
@[simp] theorem setSect_drives (s : State) (k : Nat) (x : Sector) : (s.setSect k x).drives = s.drives := rfl
@[simp] theorem setSect_fwSlot (s : State) (k : Nat) (x : Sector) : (s.setSect k x).fwSlot = s.fwSlot := rfl
@[simp] theorem setSect_sent (s : State) (k : Nat) (x : Sector) : (s.setSect k x).sent = s.sent := rfl
@[simp] theorem setSect_msix (s : State) (k : Nat) (x : Sector) : (s.setSect k x).msix = s.msix := rfl
@[simp] theorem setSect_mgmt (s : State) (k : Nat) (x : Sector) : (s.setSect k x).mgmt = s.mgmt := rfl
@[simp] theorem setSect_leaAcc (s : State) (k : Nat) (x : Sector) : (s.setSect k x).leaAcc = s.leaAcc := rfl
@[simp] theorem setSect_evAcc (s : State) (k : Nat) (x : Sector) : (s.setSect k x).evAcc = s.evAcc := rfl
@[simp] theorem setSect_sclines (s : State) (k : Nat) (x : Sector) : (s.setSect k x).sclines = s.sclines := rfl
@[simp] theorem setSect_ways (s : State) (k : Nat) (x : Sector) : (s.setSect k x).ways = s.ways := rfl
@[simp] theorem setSect_hitAcc (s : State) (k : Nat) (x : Sector) : (s.setSect k x).hitAcc = s.hitAcc := rfl
@[simp] theorem setSect_outbox (s : State) (k : Nat) (x : Sector) : (s.setSect k x).outbox = s.outbox := rfl
@[simp] theorem setSect_held (s : State) (k : Nat) (x : Sector) : (s.setSect k x).held = s.held := rfl
@[simp] theorem setSect_tripped (s : State) (k : Nat) (x : Sector) : (s.setSect k x).tripped = s.tripped := rfl
@[simp] theorem setSect_sect (s : State) (k j : Nat) (x : Sector) : (s.setSect k x).sect j = if j = k then x else s.sect j := mget_mset _ _ _ _ _
@[simp] theorem setSect_strand (s : State) (k j : Nat) (x : Sector) : (s.setSect k x).strand j = s.strand j := rfl
@[simp] theorem setSect_spindle (s : State) (k j : Nat) (x : Sector) : (s.setSect k x).spindle j = s.spindle j := rfl
@[simp] theorem setSect_cluster (s : State) (k j : Nat) (x : Sector) : (s.setSect k x).cluster j = s.cluster j := rfl
@[simp] theorem setSect_copyJob (s : State) (k j : Nat) (x : Sector) : (s.setSect k x).copyJob j = s.copyJob j := rfl
@[simp] theorem setSect_group (s : State) (k j : Nat) (x : Sector) : (s.setSect k x).group j = s.group j := rfl
@[simp] theorem setSect_die (s : State) (k j : Nat) (x : Sector) : (s.setSect k x).die j = s.die j := rfl
@[simp] theorem setSect_ctx (s : State) (k j : Nat) (x : Sector) : (s.setSect k x).ctx j = s.ctx j := rfl
@[simp] theorem setSect_part (s : State) (k j : Nat) (x : Sector) : (s.setSect k x).part j = s.part j := rfl
@[simp] theorem setSect_chan (s : State) (k j : Nat) (x : Sector) : (s.setSect k x).chan j = s.chan j := rfl
@[simp] theorem setSect_port (s : State) (k j : Nat) (x : Sector) : (s.setSect k x).port j = s.port j := rfl
@[simp] theorem setSect_fn (s : State) (k j : Nat) (x : Sector) : (s.setSect k x).fn j = s.fn j := rfl
@[simp] theorem setSect_cmd (s : State) (k j : Nat) (x : Sector) : (s.setSect k x).cmd j = s.cmd j := rfl
@[simp] theorem setSect_stop (s : State) (k j : Nat) (x : Sector) : (s.setSect k x).stop j = s.stop j := rfl

/-! ## push -/

@[simp] theorem push_ev (s : State) (a : Act) : (s.push a).ev = s.ev := rfl
@[simp] theorem push_frame (s : State) (a : Act) : (s.push a).frame = s.frame := rfl
@[simp] theorem push_focus (s : State) (a : Act) : (s.push a).focus = s.focus := rfl
@[simp] theorem push_turn (s : State) (a : Act) : (s.push a).turn = s.turn := rfl
@[simp] theorem push_free (s : State) (a : Act) : (s.push a).free = s.free := rfl
@[simp] theorem push_nextId (s : State) (a : Act) : (s.push a).nextId = s.nextId := rfl
@[simp] theorem push_strands (s : State) (a : Act) : (s.push a).strands = s.strands := rfl
@[simp] theorem push_spindles (s : State) (a : Act) : (s.push a).spindles = s.spindles := rfl
@[simp] theorem push_clusters (s : State) (a : Act) : (s.push a).clusters = s.clusters := rfl
@[simp] theorem push_copies (s : State) (a : Act) : (s.push a).copies = s.copies := rfl
@[simp] theorem push_groups (s : State) (a : Act) : (s.push a).groups = s.groups := rfl
@[simp] theorem push_hbm (s : State) (a : Act) : (s.push a).hbm = s.hbm := rfl
@[simp] theorem push_sects (s : State) (a : Act) : (s.push a).sects = s.sects := rfl
@[simp] theorem push_reltags (s : State) (a : Act) : (s.push a).reltags = s.reltags := rfl
@[simp] theorem push_rom (s : State) (a : Act) : (s.push a).rom = s.rom := rfl
@[simp] theorem push_tlb (s : State) (a : Act) : (s.push a).tlb = s.tlb := rfl
@[simp] theorem push_dies (s : State) (a : Act) : (s.push a).dies = s.dies := rfl
@[simp] theorem push_ctxs (s : State) (a : Act) : (s.push a).ctxs = s.ctxs := rfl
@[simp] theorem push_keyIndex (s : State) (a : Act) : (s.push a).keyIndex = s.keyIndex := rfl
@[simp] theorem push_waiting (s : State) (a : Act) : (s.push a).waiting = s.waiting := rfl
@[simp] theorem push_replies (s : State) (a : Act) : (s.push a).replies = s.replies := rfl
@[simp] theorem push_stops (s : State) (a : Act) : (s.push a).stops = s.stops := rfl
@[simp] theorem push_images (s : State) (a : Act) : (s.push a).images = s.images := rfl
@[simp] theorem push_redirects (s : State) (a : Act) : (s.push a).redirects = s.redirects := rfl
@[simp] theorem push_restoring (s : State) (a : Act) : (s.push a).restoring = s.restoring := rfl
@[simp] theorem push_parts (s : State) (a : Act) : (s.push a).parts = s.parts := rfl
@[simp] theorem push_chans (s : State) (a : Act) : (s.push a).chans = s.chans := rfl
@[simp] theorem push_modcap (s : State) (a : Act) : (s.push a).modcap = s.modcap := rfl
@[simp] theorem push_perr (s : State) (a : Act) : (s.push a).perr = s.perr := rfl
@[simp] theorem push_keng (s : State) (a : Act) : (s.push a).keng = s.keng := rfl
@[simp] theorem push_ports (s : State) (a : Act) : (s.push a).ports = s.ports := rfl
@[simp] theorem push_reach (s : State) (a : Act) : (s.push a).reach = s.reach := rfl
@[simp] theorem push_reachReqs (s : State) (a : Act) : (s.push a).reachReqs = s.reachReqs := rfl
@[simp] theorem push_reachIn (s : State) (a : Act) : (s.push a).reachIn = s.reachIn := rfl
@[simp] theorem push_fns (s : State) (a : Act) : (s.push a).fns = s.fns := rfl
@[simp] theorem push_cmds (s : State) (a : Act) : (s.push a).cmds = s.cmds := rfl
@[simp] theorem push_hostMem (s : State) (a : Act) : (s.push a).hostMem = s.hostMem := rfl
@[simp] theorem push_flash (s : State) (a : Act) : (s.push a).flash = s.flash := rfl
@[simp] theorem push_drives (s : State) (a : Act) : (s.push a).drives = s.drives := rfl
@[simp] theorem push_fwSlot (s : State) (a : Act) : (s.push a).fwSlot = s.fwSlot := rfl
@[simp] theorem push_sent (s : State) (a : Act) : (s.push a).sent = s.sent := rfl
@[simp] theorem push_msix (s : State) (a : Act) : (s.push a).msix = s.msix := rfl
@[simp] theorem push_mgmt (s : State) (a : Act) : (s.push a).mgmt = s.mgmt := rfl
@[simp] theorem push_leaAcc (s : State) (a : Act) : (s.push a).leaAcc = s.leaAcc := rfl
@[simp] theorem push_evAcc (s : State) (a : Act) : (s.push a).evAcc = s.evAcc := rfl
@[simp] theorem push_sclines (s : State) (a : Act) : (s.push a).sclines = s.sclines := rfl
@[simp] theorem push_ways (s : State) (a : Act) : (s.push a).ways = s.ways := rfl
@[simp] theorem push_hitAcc (s : State) (a : Act) : (s.push a).hitAcc = s.hitAcc := rfl
@[simp] theorem push_outbox (s : State) (a : Act) : (s.push a).outbox = s.outbox := rfl
@[simp] theorem push_held (s : State) (a : Act) : (s.push a).held = s.held := rfl
@[simp] theorem push_tripped (s : State) (a : Act) : (s.push a).tripped = s.tripped := rfl
@[simp] theorem push_strand (s : State) (a : Act) (j : Nat) : (s.push a).strand j = s.strand j := rfl
@[simp] theorem push_spindle (s : State) (a : Act) (j : Nat) : (s.push a).spindle j = s.spindle j := rfl
@[simp] theorem push_cluster (s : State) (a : Act) (j : Nat) : (s.push a).cluster j = s.cluster j := rfl
@[simp] theorem push_copyJob (s : State) (a : Act) (j : Nat) : (s.push a).copyJob j = s.copyJob j := rfl
@[simp] theorem push_group (s : State) (a : Act) (j : Nat) : (s.push a).group j = s.group j := rfl
@[simp] theorem push_die (s : State) (a : Act) (j : Nat) : (s.push a).die j = s.die j := rfl
@[simp] theorem push_ctx (s : State) (a : Act) (j : Nat) : (s.push a).ctx j = s.ctx j := rfl
@[simp] theorem push_part (s : State) (a : Act) (j : Nat) : (s.push a).part j = s.part j := rfl
@[simp] theorem push_chan (s : State) (a : Act) (j : Nat) : (s.push a).chan j = s.chan j := rfl
@[simp] theorem push_port (s : State) (a : Act) (j : Nat) : (s.push a).port j = s.port j := rfl
@[simp] theorem push_fn (s : State) (a : Act) (j : Nat) : (s.push a).fn j = s.fn j := rfl
@[simp] theorem push_cmd (s : State) (a : Act) (j : Nat) : (s.push a).cmd j = s.cmd j := rfl
@[simp] theorem push_stop (s : State) (a : Act) (j : Nat) : (s.push a).stop j = s.stop j := rfl
@[simp] theorem push_sect (s : State) (a : Act) (j : Nat) : (s.push a).sect j = s.sect j := rfl

/-! ## later -/

@[simp] theorem later_ev (s : State) (a : Act) : (s.later a).ev = s.ev := rfl
@[simp] theorem later_frame (s : State) (a : Act) : (s.later a).frame = s.frame := rfl
@[simp] theorem later_focus (s : State) (a : Act) : (s.later a).focus = s.focus := rfl
@[simp] theorem later_turn (s : State) (a : Act) : (s.later a).turn = s.turn := rfl
@[simp] theorem later_free (s : State) (a : Act) : (s.later a).free = s.free := rfl
@[simp] theorem later_nextId (s : State) (a : Act) : (s.later a).nextId = s.nextId := rfl
@[simp] theorem later_strands (s : State) (a : Act) : (s.later a).strands = s.strands := rfl
@[simp] theorem later_spindles (s : State) (a : Act) : (s.later a).spindles = s.spindles := rfl
@[simp] theorem later_clusters (s : State) (a : Act) : (s.later a).clusters = s.clusters := rfl
@[simp] theorem later_copies (s : State) (a : Act) : (s.later a).copies = s.copies := rfl
@[simp] theorem later_groups (s : State) (a : Act) : (s.later a).groups = s.groups := rfl
@[simp] theorem later_hbm (s : State) (a : Act) : (s.later a).hbm = s.hbm := rfl
@[simp] theorem later_sects (s : State) (a : Act) : (s.later a).sects = s.sects := rfl
@[simp] theorem later_reltags (s : State) (a : Act) : (s.later a).reltags = s.reltags := rfl
@[simp] theorem later_rom (s : State) (a : Act) : (s.later a).rom = s.rom := rfl
@[simp] theorem later_tlb (s : State) (a : Act) : (s.later a).tlb = s.tlb := rfl
@[simp] theorem later_dies (s : State) (a : Act) : (s.later a).dies = s.dies := rfl
@[simp] theorem later_ctxs (s : State) (a : Act) : (s.later a).ctxs = s.ctxs := rfl
@[simp] theorem later_keyIndex (s : State) (a : Act) : (s.later a).keyIndex = s.keyIndex := rfl
@[simp] theorem later_waiting (s : State) (a : Act) : (s.later a).waiting = s.waiting := rfl
@[simp] theorem later_replies (s : State) (a : Act) : (s.later a).replies = s.replies := rfl
@[simp] theorem later_stops (s : State) (a : Act) : (s.later a).stops = s.stops := rfl
@[simp] theorem later_images (s : State) (a : Act) : (s.later a).images = s.images := rfl
@[simp] theorem later_redirects (s : State) (a : Act) : (s.later a).redirects = s.redirects := rfl
@[simp] theorem later_restoring (s : State) (a : Act) : (s.later a).restoring = s.restoring := rfl
@[simp] theorem later_parts (s : State) (a : Act) : (s.later a).parts = s.parts := rfl
@[simp] theorem later_chans (s : State) (a : Act) : (s.later a).chans = s.chans := rfl
@[simp] theorem later_modcap (s : State) (a : Act) : (s.later a).modcap = s.modcap := rfl
@[simp] theorem later_perr (s : State) (a : Act) : (s.later a).perr = s.perr := rfl
@[simp] theorem later_keng (s : State) (a : Act) : (s.later a).keng = s.keng := rfl
@[simp] theorem later_ports (s : State) (a : Act) : (s.later a).ports = s.ports := rfl
@[simp] theorem later_reach (s : State) (a : Act) : (s.later a).reach = s.reach := rfl
@[simp] theorem later_reachReqs (s : State) (a : Act) : (s.later a).reachReqs = s.reachReqs := rfl
@[simp] theorem later_reachIn (s : State) (a : Act) : (s.later a).reachIn = s.reachIn := rfl
@[simp] theorem later_fns (s : State) (a : Act) : (s.later a).fns = s.fns := rfl
@[simp] theorem later_cmds (s : State) (a : Act) : (s.later a).cmds = s.cmds := rfl
@[simp] theorem later_hostMem (s : State) (a : Act) : (s.later a).hostMem = s.hostMem := rfl
@[simp] theorem later_flash (s : State) (a : Act) : (s.later a).flash = s.flash := rfl
@[simp] theorem later_drives (s : State) (a : Act) : (s.later a).drives = s.drives := rfl
@[simp] theorem later_fwSlot (s : State) (a : Act) : (s.later a).fwSlot = s.fwSlot := rfl
@[simp] theorem later_sent (s : State) (a : Act) : (s.later a).sent = s.sent := rfl
@[simp] theorem later_msix (s : State) (a : Act) : (s.later a).msix = s.msix := rfl
@[simp] theorem later_mgmt (s : State) (a : Act) : (s.later a).mgmt = s.mgmt := rfl
@[simp] theorem later_leaAcc (s : State) (a : Act) : (s.later a).leaAcc = s.leaAcc := rfl
@[simp] theorem later_evAcc (s : State) (a : Act) : (s.later a).evAcc = s.evAcc := rfl
@[simp] theorem later_sclines (s : State) (a : Act) : (s.later a).sclines = s.sclines := rfl
@[simp] theorem later_ways (s : State) (a : Act) : (s.later a).ways = s.ways := rfl
@[simp] theorem later_hitAcc (s : State) (a : Act) : (s.later a).hitAcc = s.hitAcc := rfl
@[simp] theorem later_outbox (s : State) (a : Act) : (s.later a).outbox = s.outbox := rfl
@[simp] theorem later_held (s : State) (a : Act) : (s.later a).held = s.held := rfl
@[simp] theorem later_tripped (s : State) (a : Act) : (s.later a).tripped = s.tripped := rfl
@[simp] theorem later_strand (s : State) (a : Act) (j : Nat) : (s.later a).strand j = s.strand j := rfl
@[simp] theorem later_spindle (s : State) (a : Act) (j : Nat) : (s.later a).spindle j = s.spindle j := rfl
@[simp] theorem later_cluster (s : State) (a : Act) (j : Nat) : (s.later a).cluster j = s.cluster j := rfl
@[simp] theorem later_copyJob (s : State) (a : Act) (j : Nat) : (s.later a).copyJob j = s.copyJob j := rfl
@[simp] theorem later_group (s : State) (a : Act) (j : Nat) : (s.later a).group j = s.group j := rfl
@[simp] theorem later_die (s : State) (a : Act) (j : Nat) : (s.later a).die j = s.die j := rfl
@[simp] theorem later_ctx (s : State) (a : Act) (j : Nat) : (s.later a).ctx j = s.ctx j := rfl
@[simp] theorem later_part (s : State) (a : Act) (j : Nat) : (s.later a).part j = s.part j := rfl
@[simp] theorem later_chan (s : State) (a : Act) (j : Nat) : (s.later a).chan j = s.chan j := rfl
@[simp] theorem later_port (s : State) (a : Act) (j : Nat) : (s.later a).port j = s.port j := rfl
@[simp] theorem later_fn (s : State) (a : Act) (j : Nat) : (s.later a).fn j = s.fn j := rfl
@[simp] theorem later_cmd (s : State) (a : Act) (j : Nat) : (s.later a).cmd j = s.cmd j := rfl
@[simp] theorem later_stop (s : State) (a : Act) (j : Nat) : (s.later a).stop j = s.stop j := rfl
@[simp] theorem later_sect (s : State) (a : Act) (j : Nat) : (s.later a).sect j = s.sect j := rfl

/-! ## Updates by a function are updates -/

@[simp] theorem updStrand_eq (s : State) (k : Nat) (f : Strand → Strand) : s.updStrand k f = s.setStrand k (f (s.strand k)) := rfl
@[simp] theorem updSpindle_eq (s : State) (k : Nat) (f : Spindle → Spindle) : s.updSpindle k f = s.setSpindle k (f (s.spindle k)) := rfl
@[simp] theorem updCluster_eq (s : State) (k : Nat) (f : Cluster → Cluster) : s.updCluster k f = s.setCluster k (f (s.cluster k)) := rfl
@[simp] theorem updCopy_eq (s : State) (k : Nat) (f : CopyJob → CopyJob) : s.updCopy k f = s.setCopy k ((s.copyJob k).map f) := rfl
@[simp] theorem updGroup_eq (s : State) (k : Nat) (f : Group → Group) : s.updGroup k f = s.setGroup k ((s.group k).map f) := rfl
@[simp] theorem updDie_eq (s : State) (k : Nat) (f : Die → Die) : s.updDie k f = s.setDie k (f (s.die k)) := rfl
@[simp] theorem updCtx_eq (s : State) (k : Nat) (f : Ctx → Ctx) : s.updCtx k f = s.setCtx k ((s.ctx k).map f) := rfl
@[simp] theorem updPart_eq (s : State) (k : Nat) (f : Part → Part) : s.updPart k f = s.setPart k (f (s.part k)) := rfl
@[simp] theorem updPort_eq (s : State) (k : Nat) (f : Port → Port) : s.updPort k f = s.setPort k (f (s.port k)) := rfl
@[simp] theorem updFn_eq (s : State) (k : Nat) (f : HostFn → HostFn) : s.updFn k f = s.setFn k (f (s.fn k)) := rfl
@[simp] theorem updCore_eq (s : State) (k : Nat) (f : Core → Core) :
    s.updCore k f = s.setStrand k { s.strand k with core := f (s.strand k).core } := rfl

/-- The core of a strand after an update of a strand. -/
@[simp] theorem setStrand_core (s : State) (k j : Nat) (x : Strand) : (s.setStrand k x).core j = if j = k then x.core else s.core j := by
  unfold State.core; rw [setStrand_strand]; split <;> rfl

end Sys2Proof.Laws
end

