-- ==== Sys2Proof/Laws/Cycle.lean ====
section
/-! SUPPORT. What counting and the end of a cycle leave as they were (R75, R319, R329, R426): every unit, and every strand but for the results that land. -/

namespace Sys2Proof.Laws

open Sys2Proof Sys2Proof.Machine

/-! ## What stays as it was -/

theorem rest_refl (s : State) : RestSame s s := ⟨s.strands, s.tlb, s.dies, s.leaAcc, s.evAcc, s.hitAcc, s.sclines, s.ways, s.chans, rfl⟩

theorem rest_trans {s t u : State} (h : RestSame s t) (k : RestSame t u) : RestSame s u := by
  obtain ⟨_, _, _, _, _, _, _, _, _, rfl⟩ := h
  obtain ⟨_, _, _, _, _, _, _, _, _, rfl⟩ := k
  exact ⟨_, _, _, _, _, _, _, _, _, rfl⟩

theorem dies_refl (s : State) : DiesSame s s := fun d => ⟨(s.die d).wdogCount, (s.die d).deficit, rfl⟩

theorem dies_trans {s t u : State} (h : DiesSame s t) (k : DiesSame t u) : DiesSame s u := fun d => by
  obtain ⟨w, f, h⟩ := h d
  obtain ⟨w', f', k⟩ := k d
  exact ⟨w', f', by rw [k, h]⟩

theorem dies_of_eq {s t : State} (h : t.dies = s.dies) : DiesSame s t := fun d =>
  ⟨(s.die d).wdogCount, (s.die d).deficit, by unfold State.die; rw [h]⟩

/-- A change of the watchdogs and deficits of one die. -/
theorem dies_of_upd (s : State) (d : Nat) (f : Die → Die) (h : ∀ x, ∃ w q, f x = { x with wdogCount := w, deficit := q }) :
    DiesSame s (s.updDie d f) := fun e => by
  obtain ⟨w, q, hx⟩ := h (s.die d)
  by_cases he : e = d
  · subst he; exact ⟨w, q, by simpa using hx⟩
  · exact ⟨(s.die e).wdogCount, (s.die e).deficit, by simp [he]⟩

/-- `t` differs from `s` in no strand, and in other units only as `RestSame` and `DiesSame` allow. -/
structure Calm (s t : State) : Prop where
  rest : RestSame s t
  dies : DiesSame s t
  strands : t.strands = s.strands

theorem Calm.refl (s : State) : Calm s s := ⟨rest_refl s, dies_refl s, rfl⟩
theorem Calm.trans {s t u : State} (h : Calm s t) (k : Calm t u) : Calm s u :=
  ⟨rest_trans h.rest k.rest, dies_trans h.dies k.dies, k.strands.trans h.strands⟩

theorem Calm.strand {s t : State} (h : Calm s t) (j : Nat) : t.strand j = s.strand j := by unfold State.strand; rw [h.strands]
theorem Calm.core {s t : State} (h : Calm s t) (j : Nat) : t.core j = s.core j := by unfold State.core; rw [h.strand]

theorem rest_landing {s t : State} (h : RestSame s t) (g : Nat) : t.landing g = s.landing g := by
  obtain ⟨_, _, _, _, _, _, _, _, _, rfl⟩ := h; rfl
theorem rest_spindle {s t : State} (h : RestSame s t) (g : Nat) : t.spindle g = s.spindle g := by
  obtain ⟨_, _, _, _, _, _, _, _, _, rfl⟩ := h; rfl

/-! ## Counting -/

theorem lea_calm (s : State) (m k n : Nat) : Calm s (s.lea m k n) := by
  unfold State.lea; split
  · exact .refl s
  · exact ⟨⟨_, _, _, _, _, _, _, _, _, rfl⟩, dies_of_eq rfl, rfl⟩

theorem countEv_calm (s : State) (p e n : Nat) : Calm s (s.countEv p e n) := by
  unfold State.countEv; split
  · exact .refl s
  · exact ⟨⟨_, _, _, _, _, _, _, _, _, rfl⟩, dies_of_eq rfl, rfl⟩

theorem progress_calm (s : State) (p : Nat) : Calm s (s.progress p) := by
  unfold State.progress; split
  · exact .refl s
  · exact ⟨⟨_, _, _, _, _, _, _, _, _, rfl⟩, dies_of_upd _ _ _ fun x => ⟨_, _, rfl⟩, rfl⟩

theorem chargeClass_calm (s : State) (m n : Nat) : Calm s (s.chargeClass m n) := by
  unfold State.chargeClass
  exact ⟨⟨_, _, _, _, _, _, _, _, _, rfl⟩, dies_of_upd _ _ _ fun x => ⟨_, _, rfl⟩, rfl⟩

theorem countLanes_calm (s : State) (sid n : Nat) : Calm s (s.countLanes sid n) := by
  unfold State.countLanes
  split
  · exact countEv_calm _ _ _ _
  · exact (lea_calm _ _ _ _).trans (countEv_calm _ _ _ _)

/-- The bundle counted, before its cycle ends. -/
def counted (sid : Nat) (s : State) : State :=
  ((if isMill sid then s else s.lea (s.mcxOf sid) 0 1).countEv (s.partyOf sid) 1 1).progress (s.partyOf sid)

theorem counted_calm (sid : Nat) (s : State) : Calm s (counted sid s) := by
  unfold counted
  refine Calm.trans ?_ (progress_calm _ _)
  split
  · exact countEv_calm _ _ _ _
  · exact (lea_calm _ _ _ _).trans (countEv_calm _ _ _ _)

/-! ## The end of a cycle (R75) -/

/-- Do the results of a strand count down at the end of a cycle of a spindle? -/
def ticks (s : State) (g sid : Nat) : Bool := s.landing g && (strandsOf g).contains sid && !(s.strand sid).frozen

theorem tick_none (c : Core) (h : c.flight = []) : c.tick = c := by
  obtain ⟨⟩ := c
  simp only at h
  subst h
  rfl

/-- One strand of a spindle at the end of a cycle. -/
def tickOne (s : State) (sid : Nat) : State :=
  if (s.strand sid).frozen || (s.strand sid).core.flight.isEmpty then s else s.updCore sid Core.tick

theorem endCycle_eq (s : State) (g : Nat) : s.endCycle g = if s.landing g then (strandsOf g).foldl tickOne s else s := by
  unfold State.endCycle
  cases s.landing g <;> rfl

theorem tickOne_rest (s : State) (k : Nat) : RestSame s (tickOne s k) ∧ DiesSame s (tickOne s k) := by
  unfold tickOne; split
  · exact ⟨rest_refl s, dies_refl s⟩
  · exact ⟨⟨_, _, _, _, _, _, _, _, _, rfl⟩, dies_of_eq rfl⟩

theorem tickOne_core (s : State) (k j : Nat) :
    (tickOne s k).core j = if j = k ∧ (s.strand k).frozen = false then (s.core j).tick else s.core j := by
  unfold tickOne
  by_cases hf : (s.strand k).frozen = true
  · simp [hf]
  · by_cases he : (s.strand k).core.flight = []
    · by_cases hj : j = k
      · subst hj; simp [hf, he, State.core, tick_none _ he]
      · simp [hf, he, hj]
    · by_cases hj : j = k
      · subst hj; simp [hf, he, State.core]
      · simp [hf, he, hj]

theorem tickOne_frozen (s : State) (k j : Nat) : ((tickOne s k).strand j).frozen = (s.strand j).frozen := by
  unfold tickOne
  split
  · rfl
  · by_cases hj : j = k
    · subst hj; simp
    · simp [hj]

theorem tickOne_strand (s : State) (k j : Nat) : (tickOne s k).strand j = { s.strand j with core := (tickOne s k).core j } := by
  unfold tickOne
  split
  · rfl
  · simp only [updCore_eq, setStrand_strand, setStrand_core]
    split
    · next h => subst h; rfl
    · rfl

theorem endCycle_rest (s : State) (g : Nat) : RestSame s (s.endCycle g) ∧ DiesSame s (s.endCycle g) := by
  rw [endCycle_eq]
  split
  · simp only [strandsOf, List.foldl_cons, List.foldl_nil]
    have h0 := tickOne_rest s (4 * g)
    have h1 := tickOne_rest (tickOne s (4 * g)) (4 * g + 1)
    have h2 := tickOne_rest (tickOne (tickOne s (4 * g)) (4 * g + 1)) (4 * g + 2)
    have h3 := tickOne_rest (tickOne (tickOne (tickOne s (4 * g)) (4 * g + 1)) (4 * g + 2)) (4 * g + 3)
    exact ⟨rest_trans (rest_trans (rest_trans h0.1 h1.1) h2.1) h3.1, dies_trans (dies_trans (dies_trans h0.2 h1.2) h2.2) h3.2⟩
  · exact ⟨rest_refl s, dies_refl s⟩

theorem endCycle_core (s : State) (g j : Nat) : (s.endCycle g).core j = if ticks s g j then (s.core j).tick else s.core j := by
  rw [endCycle_eq]
  unfold ticks
  by_cases hl : s.landing g = true
  · simp only [hl, if_true, strandsOf, List.foldl_cons, List.foldl_nil, tickOne_core, tickOne_frozen, Bool.true_and, List.contains_eq_mem,
      List.mem_cons, List.not_mem_nil, or_false, Bool.and_eq_true, decide_eq_true_eq, Bool.not_eq_true']
    by_cases h0 : j = 4 * g
    · subst h0; simp
    · by_cases h1 : j = 4 * g + 1
      · subst h1; simp
      · by_cases h2 : j = 4 * g + 2
        · subst h2; simp
        · by_cases h3 : j = 4 * g + 3
          · subst h3; simp
          · simp [h0, h1, h2, h3]
  · simp [hl]

/-- A cycle changes a strand in its core alone. -/
theorem endCycle_strand (s : State) (g j : Nat) : (s.endCycle g).strand j = { s.strand j with core := (s.endCycle g).core j } := by
  rw [endCycle_eq]
  split
  · simp only [strandsOf, List.foldl_cons, List.foldl_nil, tickOne_strand]
  · rfl

/-- The end of a cycle of a spindle that is awake is the landing of results, and then the charge of the share class. -/
theorem cycle_calm (s : State) (g : Nat) (h : (s.spindle g).asleep = false) : Calm (s.endCycle g) (s.cycle g) := by
  unfold State.cycle
  simp only [h, Bool.false_eq_true, if_false]
  split
  · exact .refl _
  · exact ((lea_calm _ _ _ _).trans (chargeClass_calm _ _ _)).trans (countEv_calm _ _ _ _)

theorem cycle_rest (s : State) (g : Nat) (h : (s.spindle g).asleep = false) : RestSame s (s.cycle g) ∧ DiesSame s (s.cycle g) :=
  ⟨rest_trans (endCycle_rest s g).1 (cycle_calm s g h).rest, dies_trans (endCycle_rest s g).2 (cycle_calm s g h).dies⟩

theorem cycle_core (s : State) (g j : Nat) (h : (s.spindle g).asleep = false) :
    (s.cycle g).core j = if ticks s g j then (s.core j).tick else s.core j := by
  rw [(cycle_calm s g h).core, endCycle_core]

theorem cycle_strand (s : State) (g j : Nat) (h : (s.spindle g).asleep = false) : (s.cycle g).strand j = { s.strand j with core := (s.cycle g).core j } := by
  rw [(cycle_calm s g h).core, (cycle_calm s g h).strand, endCycle_strand]

/-- Without a debug step nothing follows a bundle (R355). -/
theorem stepStop_none (s : State) (sid r : Nat) (n : Bool) (h : (s.spindle (gnumOf sid)).stepSlot = none) : s.stepStop sid r n = s := by
  unfold State.stepStop
  simp [h]

theorem gnum_strands (sid : Nat) : (strandsOf (gnumOf sid)).contains sid = true := by
  simp only [strandsOf, gnumOf, List.contains_eq_mem, List.mem_cons, List.not_mem_nil, or_false, decide_eq_true_eq]
  omega

end Sys2Proof.Laws
end

