-- ==== Sys2Proof/Laws/Issue.lean ====
section
/-! SUPPORT. What the issue of an instruction alone in its bundle does: it takes effect, traps, or blocks, by what the instruction presents. -/

namespace Sys2Proof.Laws

open Sys2Proof Sys2Proof.Machine

theorem shadow_none (c : Core) (h : c.shadows = []) (e : Nat) : c.shadow e = {} := by simp [Core.shadow, h, mget]

theorem foldl_id {α β : Type} (f : β → α → β) (l : List α) (b : β) (h : ∀ x ∈ l, f b x = b) : l.foldl f b = b := by
  induction l with
  | nil => rfl
  | cons a l ih => rw [List.foldl_cons, h a (by simp), ih fun x hx => h x (by simp [hx])]

/-- Without shadow entries a write discards none. -/
theorem discard_none (c : Core) (h : c.shadows = []) (f : RFile) (r : Nat) : c.discard f r = c := by
  unfold Core.discard
  exact foldl_id _ _ _ fun e _ => by simp [shadow_none c h e]

/-- Without boost every result goes to its register (R186). -/
theorem allocAll_plain (c : Core) (h : c.shadows = []) (ws : List RW) : c.allocAll 0 ws = some (c, ws) := by
  induction ws with
  | nil => rfl
  | cons w ws ih =>
    unfold Core.allocAll
    by_cases hz : w.zero = true
    · simp [hz, ih]
    · simp [hz, discard_none c h, ih]

/-- One operation alone is checked once. -/
theorem evalSlots_ok (s : State) (c0 : Core) (sid : Nat) (b : Pres) (o : SlotOp) (fx : Fx) (hl : hdrBl b.hdr = 0) (hs : (s.core sid).shadows = [])
    (h : o.fx { s := s, c := c0, sid := sid, hdr := b.hdr, bp := b.bp, slot := o.slot, len := b.len } = .ok fx) :
    State.evalSlots c0 sid b s [o] = (fx.early (s.updCore sid fun _ => s.core sid), [(o, .ok fx)]) := by
  simp [State.evalSlots, State.evalFrom, State.evalSlot, hl, h, allocAll_plain _ hs]

theorem evalSlots_trap (s : State) (c0 : Core) (sid : Nat) (b : Pres) (o : SlotOp) (t : Trap) (hl : hdrBl b.hdr = 0)
    (h : o.fx { s := s, c := c0, sid := sid, hdr := b.hdr, bp := b.bp, slot := o.slot, len := b.len } = .trap t) :
    State.evalSlots c0 sid b s [o] = (s, [(o, .trap t)]) := by
  simp [State.evalSlots, State.evalFrom, State.evalSlot, hl, h]

theorem evalSlots_fault (s : State) (c0 : Core) (sid : Nat) (b : Pres) (o : SlotOp) (f : MemFault) (a : Nat) (hl : hdrBl b.hdr = 0)
    (h : o.fx { s := s, c := c0, sid := sid, hdr := b.hdr, bp := b.bp, slot := o.slot, len := b.len } = .fault f a) :
    State.evalSlots c0 sid b s [o] = (s, [(o, .fault f a)]) := by
  simp [State.evalSlots, State.evalFrom, State.evalSlot, hl, h]

theorem evalSlots_block (s : State) (c0 : Core) (sid : Nat) (b : Pres) (o : SlotOp) (ws : List Wait) (act : State → State) (hl : hdrBl b.hdr = 0)
    (h : o.fx { s := s, c := c0, sid := sid, hdr := b.hdr, bp := b.bp, slot := o.slot, len := b.len } = .block ws act) :
    State.evalSlots c0 sid b s [o] = (s, [(o, .block ws act)]) := by
  simp [State.evalSlots, State.evalFrom, State.evalSlot, hl, h]

/-- An instruction alone in its bundle acts (R175). -/
theorem alone_live {s : State} {i : Instr} {s' : State} {len : Nat} (a : Alone s i s' len) : (s.alonePres i len).live = s.alonePres i len := by
  unfold Pres.live State.alonePres
  rcases a.acts with h | h
  · simp [h]
  · simp [h]

/-- Its port names no tile outside the share (R72). -/
theorem alone_port {s : State} {i : Instr} {s' : State} {len : Nat} (a : Alone s i s' len) : s'.portTrap s.focus (s.alonePres i len) = none := by
  unfold State.portTrap State.alonePres
  by_cases h : bpMode s.frame.bp = 3
  · simp [a.port h]
  · simp [h]

/-- The issue of an instruction alone is its presentation (R25, R64, R247). -/
theorem issueAlone_present {s : State} {i : Instr} {s' : State} {len : Nat} (a : Alone s i s' len) :
    s.issueAlone i (fxOf i) = .next (s'.presentOk s.focus (s.alonePres i len)) := by
  obtain ⟨w, hw, hlen⟩ := a.fetch
  unfold State.issueAlone
  simp only [a.may, Bool.not_true, Bool.false_eq_true, if_false, hw, a.formed, State.present, a.quiet, hlen]
  exact congrArg (fun b => Host.Outcome.next (s'.presentOk s.focus b)) (alone_live a)

/-- An instruction alone that presents an effect, in a region with room, takes it. -/
theorem issueAlone_ok {s : State} {i : Instr} {s' : State} {len : Nat} {fx : Fx} (a : Alone s i s' len) (r : Roomy s i s' fx)
    (h : fxOf i (s.aloneEnv s' s' i len) = .ok fx) : s.issueAlone i (fxOf i) = .next (s.effected s' i len fx false) := by
  have hev := evalSlots_ok s' (s'.core s.focus).fmtStep s.focus (s.alonePres i len) { slot := (aloneSlot i s.frame.second).1, i := i, fx := fxOf i } fx
    a.level a.shadows h
  have hck : (s.alonePres i len).ckpt = false := r.plain
  have hfl := r.flights
  have hport := alone_port a
  rw [issueAlone_present a]
  unfold State.presentOk
  rw [hport]
  simp only [State.alonePres] at hev hck ⊢
  simp only [hev, firstTrap, lowestTrap, List.foldl_cons, List.foldl_nil, anyBlock, anyWait, List.any_cons, List.any_nil, Bool.or_false, effects,
    List.filterMap_cons, List.filterMap_nil, hck, r.region, r.waits, List.isEmpty_nil, Bool.not_true, Bool.false_eq_true, if_false, State.finish,
    List.findSome?, List.flatMap_cons, List.flatMap_nil, List.append_nil]
  rw [if_neg (by omega)]
  rfl

/-- A checkpoint alone that presents an effect once its region has committed takes it. -/
theorem issueAlone_ckpt {s : State} {i : Instr} {s' s1 : State} {len : Nat} {fx0 fx : Fx} (a : Alone s i s' len) (r : Commits s i s' s1 fx)
    (h0 : fxOf i (s.aloneEnv s' s' i len) = .ok fx0) (h : fxOf i (s.aloneEnv s' s1 i len) = .ok fx) :
    s.issueAlone i (fxOf i) = .next (s.effected s1 i len fx true) := by
  have hev0 := evalSlots_ok s' (s'.core s.focus).fmtStep s.focus (s.alonePres i len) { slot := (aloneSlot i s.frame.second).1, i := i, fx := fxOf i } fx0
    a.level a.shadows h0
  have hev := evalSlots_ok s1 (s'.core s.focus).fmtStep s.focus (s.alonePres i len) { slot := (aloneSlot i s.frame.second).1, i := i, fx := fxOf i } fx
    a.level r.shadows h
  have hck : (s.alonePres i len).ckpt = true := r.point
  have hfl := r.flights
  have hport := alone_port a
  obtain ⟨q, hq⟩ := r.stores
  rw [issueAlone_present a]
  unfold State.presentOk
  rw [hport]
  simp only [State.alonePres] at hev0 hev hck ⊢
  simp only [hev0, firstTrap, lowestTrap, List.foldl_cons, List.foldl_nil, anyBlock, List.any_cons, List.any_nil, Bool.or_false, Bool.false_or, effects,
    List.filterMap_cons, List.filterMap_nil, hck, Bool.or_true, Bool.true_or, if_true, r.region, r.ctrl, hev, Bool.false_eq_true, if_false, State.finish,
    List.findSome?, List.flatMap_cons, List.flatMap_nil, List.append_nil, hq]
  rw [if_neg (by omega)]
  rfl

/-- An instruction alone that traps is trapped (R332). -/
theorem issueAlone_trap {s : State} {i : Instr} {s' : State} {len : Nat} {t : Trap} (a : Alone s i s' len)
    (h : fxOf i (s.aloneEnv s' s' i len) = .trap t) : s.issueAlone i (fxOf i) = .next (s'.trapCycle s.focus t) := by
  have hev := evalSlots_trap s' (s'.core s.focus).fmtStep s.focus (s.alonePres i len) { slot := (aloneSlot i s.frame.second).1, i := i, fx := fxOf i } t
    a.level h
  have hport := alone_port a
  rw [issueAlone_present a]
  unfold State.presentOk
  rw [hport]
  simp only [State.alonePres] at hev ⊢
  simp only [hev, firstTrap, lowestTrap, List.foldl_cons, List.foldl_nil]

end Sys2Proof.Laws
end

