-- ==== Sys2Proof/Laws/Effect.lean ====
section
/-! SUPPORT. The state after an instruction alone in its bundle has taken effect: the core of its strand, the cores of the others, and every other field. -/

namespace Sys2Proof.Laws

open Sys2Proof Sys2Proof.Machine

/-- An operation of one slot collides with none. -/
theorem collide_one (o : SlotOp) (v : Verdict) : collide [(o, v)] = false := by
  unfold collide
  by_cases h : o.slot = 5
  · simp [h]
  · simp [h]

/-- The strand issued, after what the bundle does at once and before what it does at the end of issue. -/
def struck (s s1 : State) (i : Instr) (len : Nat) (fx : Fx) : State :=
  (fx.early (s1.updCore s.focus fun _ => s1.core s.focus)).updStrand s.focus fun t => t.issue (s1.core s.focus) (s.alonePres i len) [fx] false

/-- The effect of an instruction that neither waits nor ends the strand: its issue, and then a cycle (R25, R73, R75). -/
theorem effected_eq (s s1 : State) (i : Instr) (len : Nat) (fx : Fx) (hw : fx.waits = []) (hb : fx.b.bind BRes.brk = none)
    (hend : hdrEnd (aloneHdr i s.frame) = false) :
    s.effected s1 i len fx false
      = ((counted s.focus (fx.post (struck s s1 i len fx))).cycle (gnumOf s.focus)).stepStop s.focus 0 false := by
  have hbk : brkCode (s.alonePres i len) [fx] = none := by
    unfold brkCode State.alonePres
    simp only [hend, Bool.false_eq_true, if_false]
    cases hfb : fx.b with
    | none => simp [hfb]
    | some r => simpa [hfb] using hb
  unfold State.effected State.takeEffect
  simp only [hw, effects, List.filterMap_cons, List.filterMap_nil, List.foldl_cons, List.foldl_nil, List.flatMap_cons, List.flatMap_nil,
    List.append_nil, List.isEmpty_nil, Bool.false_and, Bool.false_eq_true, if_false, if_true, collide_one, hbk]
  simp only [State.alonePres, hend, Bool.false_eq_true, if_false]
  rfl

/-- The region that a checkpoint commits after its effect (R337 step 4). -/
def committed (sid : Nat) (s : State) : State :=
  match s.commitRegion sid with
  | .ok s' => s'
  | .error _ => s

/-- The effect of a checkpoint that neither waits nor ends the strand, its stores translated at issue. -/
theorem effected_eq_ckpt (s s1 : State) (i : Instr) (len : Nat) (fx : Fx) (hw : fx.waits = []) (hb : fx.b.bind BRes.brk = none)
    (hend : hdrEnd (aloneHdr i s.frame) = false) (hr : ((struck s s1 i len fx).strand s.focus).stores.all (fun p => p.pend.isNone) = true) :
    s.effected s1 i len fx true
      = ((committed s.focus (counted s.focus (fx.post (struck s s1 i len fx)))).cycle (gnumOf s.focus)).stepStop s.focus 0 false := by
  have hbk : brkCode (s.alonePres i len) [fx] = none := by
    unfold brkCode State.alonePres
    simp only [hend, Bool.false_eq_true, if_false]
    cases hfb : fx.b with
    | none => simp [hfb]
    | some r => simpa [hfb] using hb
  unfold State.effected State.takeEffect
  simp only [hw, effects, List.filterMap_cons, List.filterMap_nil, List.foldl_cons, List.foldl_nil, List.flatMap_cons, List.flatMap_nil,
    List.append_nil, List.isEmpty_nil, Bool.true_and, if_true, collide_one, hbk]
  have hres : (struck s s1 i len fx).resolveRegion s.focus = struck s s1 i len fx := by unfold State.resolveRegion; rw [if_pos hr]
  unfold struck at hres
  simp only [State.alonePres] at hres
  simp only [State.alonePres, hend, Bool.false_eq_true, if_false, hres]
  rfl

/-- The effect of an instruction that waits after its issue (R25): its strand is BLOCKED. -/
theorem effected_eq_wait (s s1 : State) (i : Instr) (len : Nat) (fx : Fx) (ck : Bool) (hw : fx.waits ≠ []) (hb : fx.b.bind BRes.brk = none)
    (hend : hdrEnd (aloneHdr i s.frame) = false) (hr : ((struck s s1 i len fx).strand s.focus).stores.all (fun p => p.pend.isNone) = true) :
    s.effected s1 i len fx ck
      = ((((counted s.focus (fx.post (struck s s1 i len fx))).updStrand s.focus fun t => { t with resp := fx.resp, ckptDue := ck, brk := none }).blockOn s.focus fx.waits true
          fx.firm).cycle (gnumOf s.focus)).stepStop s.focus 0 false := by
  have hbk : brkCode (s.alonePres i len) [fx] = none := by
    unfold brkCode State.alonePres
    simp only [hend, Bool.false_eq_true, if_false]
    cases hfb : fx.b with
    | none => simp [hfb]
    | some r => simpa [hfb] using hb
  have hwe : fx.waits.isEmpty = false := by cases h : fx.waits <;> simp_all
  unfold State.effected State.takeEffect
  simp only [effects, List.filterMap_cons, List.filterMap_nil, List.foldl_cons, List.foldl_nil, List.flatMap_cons, List.flatMap_nil,
    List.append_nil, hwe, Bool.and_false, Bool.false_eq_true, if_false, collide_one, hbk, List.any_cons, List.any_nil, Bool.or_false]
  have hres : (struck s s1 i len fx).resolveRegion s.focus = struck s s1 i len fx := by unfold State.resolveRegion; rw [if_pos hr]
  unfold struck at hres
  simp only [State.alonePres] at hres
  simp only [State.alonePres, hend, Bool.false_eq_true, if_false, hres, ite_self]
  rfl

/-- An effect that only writes results, moves the core and counts. -/
structure Plainly (fx : Fx) : Prop where
  early : fx.early = id
  post : ∀ x, Calm x (fx.post x)
  waits : fx.waits = []
  brk : fx.b.bind BRes.brk = none
  stores : fx.stores = []

theorem struck_core {s s1 : State} {i : Instr} {len : Nat} {fx : Fx} (p : Plainly fx) (j : Nat) :
    (struck s s1 i len fx).core j = if j = s.focus then (s1.core s.focus).issue (s.alonePres i len) [fx] false else s1.core j := by
  unfold struck
  rw [p.early]
  by_cases h : j = s.focus <;> simp [h, Strand.issue]

theorem struck_strand {s s1 : State} {i : Instr} {len : Nat} {fx : Fx} (p : Plainly fx) :
    (struck s s1 i len fx).strand s.focus = (s1.strand s.focus).issue (s1.core s.focus) (s.alonePres i len) [fx] false := by
  unfold struck
  rw [p.early]
  simp
  rfl

theorem struck_rest {s s1 : State} {i : Instr} {len : Nat} {fx : Fx} (p : Plainly fx) : RestSame s1 (struck s s1 i len fx) := by
  unfold struck
  rw [p.early]
  exact ⟨_, _, _, _, _, _, _, _, _, rfl⟩

/-- What a plain effect does (R25, R73, R75): the core of its strand issues and its due results land; other strands, and every unit, are as they were but for
the landing of results that were in flight. -/
theorem effected_plain {s s1 : State} {i : Instr} {len : Nat} {fx : Fx} (p : Plainly fx) (hend : hdrEnd (aloneHdr i s.frame) = false)
    (hl : s1.landing (gnumOf s.focus) = true) (hs : (s1.spindle (gnumOf s.focus)).stepSlot = none)
    (ha : (s1.spindle (gnumOf s.focus)).asleep = false) :
    (s.effected s1 i len fx false).core s.focus = ((s1.core s.focus).issue (s.alonePres i len) [fx] false).tick
      ∧ (∀ j, j ≠ s.focus → (s1.core j).flight = [] → (s.effected s1 i len fx false).core j = s1.core j)
      ∧ RestSame s1 (s.effected s1 i len fx false) ∧ DiesSame s1 (s.effected s1 i len fx false)
      ∧ ((s.effected s1 i len fx false).strand s.focus).stores = (s1.strand s.focus).stores := by
  have hc : Calm (struck s s1 i len fx) (counted s.focus (fx.post (struck s s1 i len fx))) := (p.post _).trans (counted_calm _ _)
  have hr : RestSame s1 (counted s.focus (fx.post (struck s s1 i len fx))) := rest_trans (struck_rest p) hc.rest
  have haw : ((counted s.focus (fx.post (struck s s1 i len fx))).spindle (gnumOf s.focus)).asleep = false := by
    rw [rest_spindle hr]; exact ha
  have hst : (((counted s.focus (fx.post (struck s s1 i len fx))).cycle (gnumOf s.focus)).spindle (gnumOf s.focus)).stepSlot = none := by
    rw [rest_spindle (cycle_rest _ _ haw).1, rest_spindle hr]; exact hs
  rw [effected_eq s s1 i len fx p.waits p.brk hend, stepStop_none _ _ _ _ hst]
  have hfz : ((counted s.focus (fx.post (struck s s1 i len fx))).strand s.focus).frozen = false := by
    rw [hc.strand, struck_strand p]; rfl
  refine ⟨?_, ?_, rest_trans hr (cycle_rest _ _ haw).1, ?_, ?_⟩
  · rw [cycle_core _ _ _ haw]
    have ht : ticks (counted s.focus (fx.post (struck s s1 i len fx))) (gnumOf s.focus) s.focus = true := by
      unfold ticks
      rw [rest_landing hr, hl, gnum_strands, hfz]; rfl
    rw [ht, if_pos rfl, hc.core, struck_core p, if_pos rfl]
  · intro j hj hf
    rw [cycle_core _ _ _ haw, hc.core, struck_core p, if_neg hj, tick_none _ hf, ite_self]
  · refine dies_trans (dies_trans ?_ hc.dies) (cycle_rest _ _ haw).2
    refine dies_of_eq ?_
    unfold struck
    rw [p.early]; rfl
  · rw [cycle_strand _ _ _ haw, hc.strand, struck_strand p]
    simp [Strand.issue, p.stores]

/-! ## The core after an issue -/

theorem fmtStep_none (c : Core) (h : c.fmtPend = []) : c.fmtStep = c := by
  obtain ⟨⟩ := c
  simp only at h
  subst h
  rfl

/-- A core after an issue that falls through: what the operation does to it, its results in flight, and the next bundle's address (R75, R77, R118, R175). -/
theorem issue_plain (c : Core) (b : Pres) (fx : Fx) (hm : c.fmtPend = []) (he : hdrEnd b.hdr = false) (hb : fx.b = none)
    (hloop : ∀ l ∈ (fx.core { c with mpc := c.mpc + BitVec.ofNat 32 fx.mpc }).loops.head?,
      l.last ≠ (fx.core { c with mpc := c.mpc + BitVec.ofNat 32 fx.mpc }).pc.toNat) :
    c.issue b [fx] false
      = { fx.core { c with mpc := c.mpc + BitVec.ofNat 32 fx.mpc } with
          flight := (fx.core { c with mpc := c.mpc + BitVec.ofNat 32 fx.mpc }).flight ++ flightsOf fx.writes
          pc := BitVec.ofNat 32 (((fx.core { c with mpc := c.mpc + BitVec.ofNat 32 fx.mpc }).pc.toNat + b.len) % 2 ^ 32) } := by
  unfold Core.issue
  rw [fmtStep_none c hm]
  simp only [List.map_cons, List.map_nil, List.sum_cons, List.sum_nil, Nat.add_zero, List.foldl_cons, List.foldl_nil, Bool.false_eq_true, if_false, he,
    List.flatMap_cons, List.flatMap_nil, List.append_nil, List.findSome?, hb]
  generalize hc1 : fx.core { c with mpc := c.mpc + BitVec.ofNat 32 fx.mpc } = c1
  rw [hc1] at hloop
  unfold Core.nextBundle
  cases hl : c1.loops with
  | nil => simp [Option.getD]
  | cons l r =>
    have h1 := hloop l (by simp [hl])
    simp [Option.getD, h1]

/-- One result in flight. -/
theorem flightsOf_one (w : RW) (hp : w.poison = none) : flightsOf [w] = [{ file := w.file, reg := w.reg, shadow := w.shadow, val := w.val, d := w.lat, sticky := w.sticky }] := by
  simp [flightsOf, hp]

/-- A single result of latency 1 lands at the end of its cycle (R75, R194). -/
theorem tick_one (c : Core) (f : Flight) (hf : c.flight = [f]) (hd : f.d ≤ 1) (hs : f.shadow = none) :
    c.tick = ({ c with flight := [] }.write f.file f.reg f.val).stick f.sticky := by
  unfold Core.tick
  simp [hf, hd, Core.land, hs]

/-- A single result of a longer latency stays in flight. -/
theorem tick_later (c : Core) (f : Flight) (hf : c.flight = [f]) (hd : 1 < f.d) : c.tick = { c with flight := [{ f with d := f.d - 1 }] } := by
  unfold Core.tick
  have h : ¬ f.d ≤ 1 := by omega
  simp [hf, h]

/-- A core after an issue of one result of latency 1, with nothing in flight before and no loop that ends there. -/
theorem issue_tick (c : Core) (b : Pres) (w : RW) (hf : c.flight = []) (hm : c.fmtPend = []) (he : hdrEnd b.hdr = false)
    (hloop : ∀ l ∈ c.loops.head?, l.last ≠ c.pc.toNat) (hp : w.poison = none) (hsh : w.shadow = none) (hlat : w.lat ≤ 1) :
    (c.issue b [{ writes := [w] }] false).tick
      = { (c.write w.file w.reg w.val).stick w.sticky with pc := BitVec.ofNat 32 ((c.pc.toNat + b.len) % 2 ^ 32) } := by
  rw [issue_plain c b _ hm he rfl (by simpa using hloop), tick_one _ _ (by simp [flightsOf_one w hp, hf]; rfl) hlat hsh]
  obtain ⟨⟩ := c
  simp only at hf
  subst hf
  simp only [id, BitVec.add_zero]
  cases w.file <;> simp only [Core.write, Core.stick, Core.wx, Core.wp, Core.wv] <;> (try split) <;> rfl

/-- A core after an issue of one result of a longer latency. -/
theorem issue_later (c : Core) (b : Pres) (w : RW) (hf : c.flight = []) (hm : c.fmtPend = []) (he : hdrEnd b.hdr = false)
    (hloop : ∀ l ∈ c.loops.head?, l.last ≠ c.pc.toNat) (hp : w.poison = none) (hsh : w.shadow = none) (hlat : 1 < w.lat) :
    (c.issue b [{ writes := [w] }] false).tick
      = { c with
          flight := [{ file := w.file, reg := w.reg, val := w.val, d := w.lat - 1, sticky := w.sticky }]
          pc := BitVec.ofNat 32 ((c.pc.toNat + b.len) % 2 ^ 32) } := by
  rw [issue_plain c b _ hm he rfl (by simpa using hloop), tick_later _ _ (by simp [flightsOf_one w hp, hf]; rfl) hlat]
  simp [hsh]

/-- A core after an issue without results. -/
theorem issue_none (c : Core) (b : Pres) (hf : c.flight = []) (hm : c.fmtPend = []) (he : hdrEnd b.hdr = false)
    (hloop : ∀ l ∈ c.loops.head?, l.last ≠ c.pc.toNat) :
    (c.issue b [{}] false).tick = { c with pc := BitVec.ofNat 32 ((c.pc.toNat + b.len) % 2 ^ 32) } := by
  rw [issue_plain c b _ hm he rfl (by simpa using hloop), tick_none]
  · simp [flightsOf]
  · simp [flightsOf, hf]

end Sys2Proof.Laws
end

