-- ==== Sys2Proof/Laws/Alone.lean ====
section
/-! SUPPORT. An instruction alone in its bundle, from end to end: `exec` answers the state in which its one result has landed or is in flight. -/

namespace Sys2Proof.Laws

open Sys2Proof Sys2Proof.Machine

/-- `s` with other TLBs, cached lines, transfers and counts not yet flushed. -/
def filled (s : State) (l : List TlbEnt) (c w : AMap (Option ScLine)) (h : AMap Chan) (e a q : AMap Nat) : State :=
  { s with tlb := l, sclines := c, ways := w, chans := h, evAcc := e, leaAcc := a, hitAcc := q }

/-- `t` is `s` but for the TLBs, the caches with the transfers of their fills and write-backs, and their counts. -/
def FillSame (s t : State) : Prop := ∃ l c w h e a q, t = filled s l c w h e a q

theorem FillSame.refl (s : State) : FillSame s s := ⟨s.tlb, s.sclines, s.ways, s.chans, s.evAcc, s.leaAcc, s.hitAcc, rfl⟩
theorem FillSame.trans {s t u : State} (h : FillSame s t) (k : FillSame t u) : FillSame s u := by
  obtain ⟨_, _, _, _, _, _, _, rfl⟩ := h
  obtain ⟨_, _, _, _, _, _, _, rfl⟩ := k
  exact ⟨_, _, _, _, _, _, _, rfl⟩

theorem FillSame.foldl {α : Type} (f : State → α → State) (h : ∀ s x, FillSame s (f s x)) (l : List α) (s : State) : FillSame s (l.foldl f s) := by
  induction l generalizing s with
  | nil => exact .refl s
  | cons x r ih => exact (h s x).trans (ih _)

theorem FillSame.ite {s a b : State} {c : Prop} [Decidable c] (ha : FillSame s a) (hb : FillSame s b) : FillSame s (if c then a else b) := by
  split
  · exact ha
  · exact hb

theorem countEv_fill (s : State) (p e n : Nat) : FillSame s (s.countEv p e n) := by
  unfold State.countEv
  split
  · exact .refl s
  · exact ⟨s.tlb, s.sclines, s.ways, s.chans, _, s.leaAcc, s.hitAcc, rfl⟩

theorem lea_fill (s : State) (m k n : Nat) : FillSame s (s.lea m k n) := by
  unfold State.lea
  split
  · exact .refl s
  · exact ⟨s.tlb, s.sclines, s.ways, s.chans, s.evAcc, _, s.hitAcc, rfl⟩

theorem hbmSector_fill (s : State) (p : Nat) (m : Option Nat) (k : Nat) (c : AccKind) : FillSame s (s.hbmSector p m k c) := by
  have h (q : Nat) : FillSame s ((s.transfer p (128 * k) q).countEv p 8 q) :=
    FillSame.trans ⟨s.tlb, s.sclines, s.ways, _, s.evAcc, s.leaAcc, s.hitAcc, rfl⟩ (countEv_fill _ _ _ _)
  unfold State.hbmSector
  dsimp only
  generalize (if c = AccKind.atomic then 2 else 1) = q
  split
  · exact (h q).trans (lea_fill _ _ _ _)
  · exact h q

theorem chargeSectors_fill (s : State) (p : Nat) (m : Option Nat) (a n : Nat) (c : AccKind) : FillSame s (s.chargeSectors p m a n c) :=
  FillSame.foldl _ (fun _ _ => hbmSector_fill _ _ _ _ _) _ _

theorem setLine_fill (s : State) (c : AMap (Option ScLine)) : FillSame s { s with sclines := c } :=
  ⟨s.tlb, c, s.ways, s.chans, s.evAcc, s.leaAcc, s.hitAcc, rfl⟩
theorem setWay_fill (s : State) (c : AMap (Option ScLine)) : FillSame s { s with ways := c } :=
  ⟨s.tlb, s.sclines, c, s.chans, s.evAcc, s.leaAcc, s.hitAcc, rfl⟩
theorem countHit_fill (s : State) (p b : Nat) (m : Bool) : FillSame s (s.countHit p b m) :=
  ⟨s.tlb, s.sclines, s.ways, s.chans, s.evAcc, s.leaAcc, _, rfl⟩

/-- A line that leaves the stacked cache leaves all else (R374). -/
theorem dropLine_fill (s : State) (q l : Nat) : FillSame s (s.dropLine q l) := by
  unfold State.dropLine
  dsimp only
  split
  · exact (setLine_fill s _).trans (FillSame.foldl _ (fun _ _ => hbmSector_fill _ _ _ _ _) _ _)
  · exact setLine_fill s _

/-- A line that leaves the ways of a cluster leaves all else (R124). -/
theorem dropWay_fill (s : State) (cl l : Nat) : FillSame s (s.dropWay cl l) := by
  unfold State.dropWay
  dsimp only
  split
  · exact setWay_fill s _
  · split
    · exact ⟨s.tlb, _, _, s.chans, s.evAcc, s.leaAcc, s.hitAcc, rfl⟩
    · exact (setWay_fill s _).trans (FillSame.foldl _ (fun _ _ => hbmSector_fill _ _ _ _ _) _ _)

theorem evictLine_fill (s : State) (b l : Nat) : FillSame s (s.evictLine b l) := by
  unfold State.evictLine
  exact .ite (.refl s) (dropLine_fill s _ _)

theorem evictWay_fill (s : State) (cl b l : Nat) : FillSame s (s.evictWay cl b l) := by
  unfold State.evictWay
  exact .ite (.refl s) (dropWay_fill s _ _)

theorem useLine_fill (s : State) (p l k key : Nat) (w : Bool) : FillSame s (s.useLine p l k key w).1 := by
  unfold State.useLine
  split
  · exact .refl s
  · split
    · exact (setLine_fill s _).trans (countHit_fill _ _ _ _)
    · next b _ _ _ =>
      have he := evictLine_fill s b l
      generalize s.evictLine b l = s1 at he ⊢
      exact (he.trans (setLine_fill _ _)).trans (countHit_fill _ _ _ _)

theorem leaveWays_fill (s : State) (cl l k : Nat) : FillSame s (s.leaveWays cl l k) := setWay_fill s _

theorem leaves_fill (s : State) (w : Bool) (cl l k : Nat) : FillSame s (if w then s.leaveWays cl l k else s) :=
  .ite (leaveWays_fill _ _ _ _) (.refl s)

theorem useWay_fill {s : State} {cl l k key : Nat} {w : Bool} {r : State × Bool} (h : s.useWay cl l k key w = some r) : FillSame s r.1 := by
  unfold State.useWay at h
  dsimp only at h
  split at h
  · cases h
  · split at h
    · cases h; exact (leaves_fill s w cl l k).trans (setWay_fill _ _)
    · cases h; exact ((leaves_fill s w cl l k).trans (evictWay_fill _ _ _ _)).trans (setWay_fill _ _)

theorem useSector_fill (s : State) (cl : Option Nat) (p : Nat) (m : Option Nat) (c key k : Nat) (d : AccKind) :
    FillSame s (s.useSector cl p m c key k d) := by
  unfold State.useSector
  dsimp only
  split
  · exact (leaves_fill _ _ _ _ _).trans (hbmSector_fill _ _ _ _ _)
  · have last (t : State) (h : FillSame s t) (b : Bool) : FillSame s
        (if (t.useLine p (k / 4) (k % 4) key b).2 then (t.useLine p (k / 4) (k % 4) key b).1
          else (t.useLine p (k / 4) (k % 4) key b).1.hbmSector p m k d) := by
      have h2 := h.trans (useLine_fill t p (k / 4) (k % 4) key b)
      exact .ite h2 (h2.trans (hbmSector_fill _ _ _ _ _))
    cases cl with
    | none => exact last _ (leaves_fill _ _ _ _ _) _
    | some c' =>
      dsimp only
      by_cases h0 : c = 0
      · simp only [h0, if_true]
        cases hw : s.useWay c' (k / 4) (k % 4) key (d != AccKind.read) with
        | none => exact last _ (leaves_fill _ _ _ _ _) _
        | some r =>
          obtain ⟨s1, b⟩ := r
          cases b with
          | true => exact useWay_fill hw
          | false => exact last _ (useWay_fill hw) _
      · simp only [h0, if_false]
        exact last _ (leaves_fill _ _ _ _ _) _

theorem chargeCtx_fill (s : State) (cl : Option Nat) (m : Nat) (pl : Place) (n : Nat) (c : AccKind) : FillSame s (s.chargeCtx cl m pl n c) := by
  unfold State.chargeCtx
  split
  · exact FillSame.foldl _ (fun _ _ => useSector_fill _ _ _ _ _ _ _ _) _ _
  · exact chargeSectors_fill _ _ _ _ _ _
  · exact .refl s

theorem tlbFill_fill (s : State) (m ea e lvl : Nat) : FillSame s (s.tlbFill m ea e lvl) := by
  unfold State.tlbFill
  split
  · exact .refl s
  · exact ⟨_, s.sclines, s.ways, s.chans, s.evAcc, s.leaAcc, s.hitAcc, rfl⟩

theorem chargeWalk_fill (s : State) (m ea : Nat) : FillSame s (s.chargeWalk m ea) := by
  unfold State.chargeWalk
  split
  · exact .refl s
  · exact FillSame.foldl _ (fun _ _ => hbmSector_fill _ _ _ _ _) _ _

/-- The place of an access fills the TLBs, is charged for its walk, and leaves all else. -/
theorem ctxPlace_frame {s : State} {m ea : Nat} {c : AccClass} {pl : Place} {s' : State} (h : s.ctxPlace m ea c = .ok (pl, s')) : FillSame s s' := by
  unfold State.ctxPlace at h
  split at h
  · cases h
  · simp only [Except.ok.injEq, Prod.mk.injEq] at h
    obtain ⟨-, rfl⟩ := h
    exact (chargeWalk_fill _ _ _).trans (tlbFill_fill _ _ _ _ _)

theorem chargeAt_fill (s : State) (cl : Option Nat) (m ea n : Nat) (c : AccClass) : FillSame s (s.chargeAt cl m ea n c) := by
  unfold State.chargeAt
  split
  · next h => exact (ctxPlace_frame h).trans (chargeCtx_fill _ _ _ _ _ _)
  · exact .refl s

theorem chargeFetch_fill (s : State) (sid ea n : Nat) : FillSame s (s.chargeFetch sid ea n) := by
  unfold State.chargeFetch
  dsimp only
  split
  · exact chargeAt_fill _ _ _ _ _ _
  · exact (chargeAt_fill _ _ _ _ _ _).trans (chargeAt_fill _ _ _ _ _ _)

theorem chargeCode_fill (s : State) (sid pc n : Nat) : FillSame s (s.chargeCode sid pc n) := by
  unfold State.chargeCode
  split
  · exact chargeFetch_fill _ _ _ _
  · split
    · exact chargeSectors_fill _ _ _ _ _ _
    · exact .refl s

theorem fetchPage_frame {s : State} {sid ea n : Nat} {bs : List Byte} {s' : State} (h : s.fetchPage sid ea n = .ok bs s') : FillSame s s' := by
  unfold State.fetchPage at h
  split at h
  · cases h
  · next hp =>
    split at h
    · cases h
    · cases h; exact ctxPlace_frame hp

theorem readCode_frame {s : State} {sid pc w : Nat} {s' : State} (h : s.readCode sid pc = .ok w s') : FillSame s s' := by
  unfold State.readCode at h
  dsimp only at h
  split at h
  · split at h
    · split at h
      · cases h
      · cases h; exact .refl s
    · split at h
      · cases h
      · cases h; exact .refl s
  · split at h
    · cases h
    · split at h
      · next hp => cases h; exact fetchPage_frame hp
      all_goals cases h

/-- A fetch fills the TLBs and the caches and leaves all else. -/
theorem codeWord_frame {s : State} {sid pc w : Nat} {s' : State} (h : s.codeWord sid pc = .ok w s') : FillSame s s' := by
  unfold State.codeWord at h
  split at h
  · next hr => cases h; exact (readCode_frame hr).trans (chargeCode_fill _ _ _ _)
  · next hn => exact absurd h (by intro h; exact hn _ _ h)

theorem alone_frame {s : State} {i : Instr} {s' : State} {len : Nat} (a : Alone s i s' len) : FillSame s s' := by
  obtain ⟨w, hw, -⟩ := a.fetch
  exact codeWord_frame hw

theorem canIssue_awake {s : State} (h : s.canIssue s.focus = true) : (s.spindle (gnumOf s.focus)).asleep = false := by
  unfold State.canIssue at h
  simp only [Bool.and_eq_true, Bool.not_eq_true'] at h
  exact h.1.1.2

/-- A strand that may issue without a debug step is not gated. -/
theorem canIssue_landing {s : State} (h : s.canIssue s.focus = true) (hs : (s.spindle (gnumOf s.focus)).stepSlot = none) :
    s.landing (gnumOf s.focus) = true := by
  unfold State.canIssue at h
  unfold State.landing
  simp only [hs] at h ⊢
  cases hg : (s.spindle (gnumOf s.focus)).gate <;> simp [hg] at h ⊢

theorem dedup_length_le (l : List Nat) : l.dedup.length ≤ l.length := (List.dedup_sublist l).length_le

/-- A region with room for one more result is not forced to commit (R339). -/
theorem forced_small (t : Strand) (c0 : Core) (fx : Fx) (hu : t.undo.length < 64) (hs : t.stores = []) (hn : t.nBund < 2048) (hf : t.newFrames c0 = 0)
    (hw : fx.writes.length + fx.resp.length ≤ 1) (hst : fx.stores = []) : t.forced c0 [fx] = false := by
  have hv : (vWrites [fx]).length ≤ 1 := by
    unfold vWrites
    refine Nat.le_trans (List.length_filterMap_le _ _) ?_
    simpa using hw
  have h1 : (t.undo ++ vWrites [fx]).dedup.length ≤ 64 := by
    refine Nat.le_trans (dedup_length_le _) ?_
    rw [List.length_append]; omega
  unfold Strand.forced
  simp [hs, hst, hf]
  omega

theorem newFrames_reel (t : Strand) {c d : Core} (h : c.reel = d.reel) : t.newFrames c = t.newFrames d := by
  unfold Strand.newFrames
  split
  · rw [h]
  · rfl

/-- An instruction alone that presents an effect, in a settled strand, takes it (R25). -/
theorem alone_ok {s : State} {i : Instr} {s' : State} {len : Nat} {fx : Fx} (a : Alone s i s' len) (q : Settled s i) (hck : ckptOp i = false)
    (hw : fx.writes.length + fx.resp.length ≤ 1) (hst : fx.stores = []) (hwt : fx.waits = []) (he : fx.early = id)
    (h : fxOf i (s.aloneEnv s' s' i len) = .ok fx) : s.issueAlone i (fxOf i) = .next (s.effected s' i len fx false) := by
  obtain ⟨l, c, w, h', v, ea, hi, hl⟩ := alone_frame a
  refine issueAlone_ok a ⟨?_, hwt, ?_, ?_⟩ h
  · unfold Pres.ckpt State.alonePres
    simp [q.noCkpt, q.noEnd, hck]
  · subst hl
    rw [he]
    have e : (id ((filled s l c w h' v ea hi).updCore s.focus fun _ =>
        (filled s l c w h' v ea hi).core s.focus)).strand s.focus = s.strand s.focus := by
      simp only [id, updCore_eq, setStrand_strand, if_true]; rfl
    rw [e]
    refine forced_small _ _ _ q.undo q.stores q.bundles ?_ hw hst
    exact Eq.trans (newFrames_reel (c := ((filled s l c w h' v ea hi).core s.focus).fmtStep) (d := s.core s.focus) _ rfl) q.frames
  · subst hl
    have := q.flight
    have h2 : (flightsOf fx.writes).length ≤ fx.writes.length := List.length_filterMap_le _ _
    change (s.core s.focus).flight.length + _ ≤ 64
    rw [this]; simp; omega

/-- What a plain effect alone leaves: the core of its strand issues and its due results land, and all else is untouched. -/
theorem alone_plain {s : State} {i : Instr} {s' : State} {len : Nat} {fx : Fx} (a : Alone s i s' len) (q : Settled s i) (hck : ckptOp i = false)
    (hx : exec i s = s.issueAlone i (fxOf i)) (h : fxOf i (s.aloneEnv s' s' i len) = .ok fx) (p : Plainly fx)
    (hw : fx.writes.length + fx.resp.length ≤ 1) :
    ∃ t, exec i s = .next t ∧ t.core s.focus = ((s.core s.focus).issue (s.alonePres i len) [fx] false).tick ∧ Untouched s t := by
  obtain ⟨l, c, w, h', v, ea, hi, hl⟩ := alone_frame a
  have hr0 : RestSame s s' := by rw [hl]; exact ⟨_, _, _, _, _, _, _, _, _, rfl⟩
  have haw : (s'.spindle (gnumOf s.focus)).asleep = false := by rw [rest_spindle hr0]; exact canIssue_awake a.may
  have hcore : ∀ j, s'.core j = s.core j := fun j => by rw [hl]; rfl
  have hland : s'.landing (gnumOf s.focus) = true := by rw [rest_landing hr0]; exact canIssue_landing a.may q.step
  have hstep : (s'.spindle (gnumOf s.focus)).stepSlot = none := by rw [rest_spindle hr0]; exact q.step
  obtain ⟨h1, h2, h3, h4, h5⟩ := effected_plain (s := s) (i := i) (len := len) p q.noEnd hland hstep haw
  rw [hcore] at h1
  have hr := rest_trans hr0 h3
  refine ⟨_, by rw [hx]; exact alone_ok a q hck hw p.stores p.waits p.early h, h1, ⟨⟨?_, ?_, ?_, ?_⟩, ?_, hr, dies_trans (dies_of_eq (by rw [hl]; rfl)) h4⟩⟩
  · obtain ⟨_, _, _, _, _, _, _, _, _, e⟩ := hr; intro x; rw [e]
  · obtain ⟨_, _, _, _, _, _, _, _, _, e⟩ := hr; rw [e]
  · obtain ⟨_, _, _, _, _, _, _, _, _, e⟩ := hr; intro k x; rw [e]; rfl
  · rw [h5, hl]; rfl
  · intro j hj hf
    rw [h2 j hj (by rw [hcore]; exact hf), hcore]

/-- One result of latency 1 (R75): it has landed. -/
theorem alone_one {s : State} {i : Instr} {s' : State} {len : Nat} {w : RW} {po : State → State} (a : Alone s i s' len) (q : Settled s i)
    (hck : ckptOp i = false) (hx : exec i s = s.issueAlone i (fxOf i)) (h : fxOf i (s.aloneEnv s' s' i len) = .ok { writes := [w], post := po })
    (hpo : ∀ x, Calm x (po x)) (hp : w.poison = none) (hsh : w.shadow = none) (hlat : w.lat ≤ 1) :
    ∃ t, exec i s = .next t ∧ t.core s.focus = { ((s.core s.focus).write w.file w.reg w.val).stick w.sticky with pc := s.fall len } ∧ Untouched s t := by
  obtain ⟨t, h1, h2, h3⟩ := alone_plain a q hck hx h ⟨rfl, hpo, rfl, rfl, rfl⟩ (by simp)
  exact ⟨t, h1, by rw [h2]; exact issue_tick (s.core s.focus) (s.alonePres i len) w q.flight q.fmt q.noEnd q.loops hp hsh hlat, h3⟩

/-- One result of a longer latency: it is in flight. -/
theorem alone_later {s : State} {i : Instr} {s' : State} {len : Nat} {w : RW} {po : State → State} (a : Alone s i s' len) (q : Settled s i)
    (hck : ckptOp i = false) (hx : exec i s = s.issueAlone i (fxOf i)) (h : fxOf i (s.aloneEnv s' s' i len) = .ok { writes := [w], post := po })
    (hpo : ∀ x, Calm x (po x)) (hp : w.poison = none) (hsh : w.shadow = none) (hlat : 1 < w.lat) :
    ∃ t, exec i s = .next t
      ∧ t.core s.focus = { s.core s.focus with
          flight := [{ file := w.file, reg := w.reg, val := w.val, d := w.lat - 1, sticky := w.sticky }], pc := s.fall len }
      ∧ Untouched s t := by
  obtain ⟨t, h1, h2, h3⟩ := alone_plain a q hck hx h ⟨rfl, hpo, rfl, rfl, rfl⟩ (by simp)
  exact ⟨t, h1, by rw [h2]; exact issue_later (s.core s.focus) (s.alonePres i len) w q.flight q.fmt q.noEnd q.loops hp hsh hlat, h3⟩

/-- Without an FMT write pending, an instruction alone and not boosted reads the registers of its strand (R73, R187). -/
theorem aloneEnv_rd {s : State} {i : Instr} {s' s1 : State} {len : Nat} (a : Alone s i s' len) (q : Settled s i) (f : RFile) (r : Nat) :
    (s.aloneEnv s' s1 i len).rd f r = (s.core s.focus).read f r := by
  obtain ⟨l, c, w, h, v, ea, hi, rfl⟩ := alone_frame a
  have hc : (State.aloneEnv s (filled s l c w h v ea hi) s1 i len).c = s.core s.focus := fmtStep_none (s.core s.focus) q.fmt
  have hl : (State.aloneEnv s (filled s l c w h v ea hi) s1 i len).lvl = 0 := a.level
  unfold Env.rd Core.seeShadow
  rw [hl, hc]
  simp

end Sys2Proof.Laws
end

