-- ==== Sys2Proof/Laws/Gives.lean ====
section
/-! SUPPORT. From what an instruction presents to what claims say of it: a scalar result, a change of the core, a transfer, a result in flight, a trap. -/

namespace Sys2Proof.Laws

open Sys2Proof Sys2Proof.Machine

theorem stick_zero (c : Core) : c.stick 0 = c := by cases c; simp [Core.stick]

/-- What a ready instruction reads: the registers of its strand, and its strand as it was. -/
theorem ready_rd {s : State} {i : Instr} {s' : State} {len : Nat} (q : Ready s i s' len) (f : RFile) (r : Nat) :
    (s.aloneEnv s' s' i len).rd f r = s.me.read f r := aloneEnv_rd q.alone q.settled f r

theorem ready_c {s : State} {i : Instr} {s' : State} {len : Nat} (q : Ready s i s' len) : (s.aloneEnv s' s' i len).c = s.me := by
  obtain ⟨l, c, w, h, e, a, k, rfl⟩ := alone_frame q.alone
  exact fmtStep_none _ q.settled.fmt

theorem ready_strand {s : State} {i : Instr} {s' : State} {len : Nat} (q : Ready s i s' len) (j : Nat) : s'.strand j = s.strand j := by
  obtain ⟨l, c, w, h, e, a, k, rfl⟩ := alone_frame q.alone
  rfl

/-- One result of latency 1. -/
theorem gives_one {s : State} {i : Instr} {s' : State} {len : Nat} {w : RW} (hx : exec i s = s.issueAlone i (fxOf i)) (hck : ckptOp i = false)
    (h : Ready s i s' len → fxOf i (s.aloneEnv s' s' i len) = .ok { writes := [w] }) (hp : w.poison = none) (hs : w.shadow = none) (hl : w.lat ≤ 1) :
    SGives s i s' len ((s.me.write w.file w.reg w.val).stick w.sticky) := fun q =>
  alone_one q.alone q.settled hck hx (h q) (fun x => Calm.refl x) hp hs hl

/-- A scalar result (R160). -/
theorem gives_x {s : State} {i : Instr} {s' : State} {len : Nat} {f : SF} {n : Nat} {v : Word} (hx : exec i s = s.issueAlone i (fxOf i)) (hck : ckptOp i = false)
    (h : Ready s i s' len → fxOf i (s.aloneEnv s' s' i len) = sX f n) (hv : BitVec.ofNat 64 (n % two64) = v) : GivesX s i s' len f.xd.toNat v := by
  intro q
  have := gives_one (w := wr .x f.xd.toNat (n % two64) 1 0) hx hck h rfl rfl (Nat.le_refl _) q
  simp only [wr, stick_zero, Core.write, hv] at this
  exact this

/-- A uniform predicate result (R160). -/
theorem gives_p {s : State} {i : Instr} {s' : State} {len : Nat} {f : SF} {b : Bool} (hx : exec i s = s.issueAlone i (fxOf i)) (hck : ckptOp i = false)
    (h : Ready s i s' len → fxOf i (s.aloneEnv s' s' i len) = sP f b) : GivesP s i s' len (f.xd.toNat % 16) (uniform b) := by
  intro q
  have := gives_one (w := wr .p (f.xd.toNat % 16) (if b then 2 ^ 128 - 1 else 0) 1) hx hck h rfl rfl (Nat.le_refl _) q
  simp only [wr, stick_zero, Core.write] at this
  cases b <;> exact this

/-- The core after the issue of a change of the core that leaves its flights, its loops and its PC. -/
theorem issue_core (c d : Core) (b : Pres) (g : Core → Core) (hf : c.flight = []) (hm : c.fmtPend = []) (he : hdrEnd b.hdr = false)
    (hloop : ∀ l ∈ c.loops.head?, l.last ≠ c.pc.toNat) (hg : g c = d) (h1 : d.flight = c.flight) (h2 : d.loops = c.loops) (h3 : d.pc = c.pc) :
    (c.issue b [{ core := g }] false).tick = { d with pc := BitVec.ofNat 32 ((c.pc.toNat + b.len) % 2 ^ 32) } := by
  have hz : ({ c with mpc := c.mpc + BitVec.ofNat 32 0 } : Core) = c := by simp
  have hgz : g { c with mpc := c.mpc + BitVec.ofNat 32 0 } = d := (congrArg g hz).trans hg
  have hi := issue_plain c b { core := g } hm he rfl
  dsimp only at hi
  rw [hgz] at hi
  rw [hi (by rw [h2, h3]; exact hloop), h1, hf, h3]
  obtain ⟨⟩ := d
  simp only at h1
  subst h1
  rw [hf]
  exact tick_none _ rfl

/-- The core after the issue of a B-slot operation that transfers. -/
theorem issue_go (c : Core) (b : Pres) (g : Core → Core) (n : Nat) (hm : c.fmtPend = []) (he : hdrEnd b.hdr = false) (h1 : (g c).flight = []) :
    (c.issue b [{ b := some { next := some n, taken := true, core := g } }] false).tick = { g c with pc := BitVec.ofNat 32 n } := by
  have hi : c.issue b [{ b := some { next := some n, taken := true, core := g } }] false = { g c with pc := BitVec.ofNat 32 n } := by
    unfold Core.issue
    rw [fmtStep_none c hm]
    simp [he, flightsOf, Core.nextBundle]
  rw [hi]
  exact tick_none _ h1

/-- The core after the issue of a B-slot operation that falls through and leaves the core. -/
theorem issue_fall (c : Core) (b : Pres) (g : Core → Core) (hf : c.flight = []) (hm : c.fmtPend = []) (he : hdrEnd b.hdr = false)
    (hloop : ∀ l ∈ c.loops.head?, l.last ≠ c.pc.toNat) (hg : g c = c) :
    (c.issue b [{ b := some { core := g } }] false).tick = { c with pc := BitVec.ofNat 32 ((c.pc.toNat + b.len) % 2 ^ 32) } := by
  have hz : ({ c with mpc := c.mpc + BitVec.ofNat 32 0 } : Core) = c := by simp
  have hi : c.issue b [{ b := some { core := g } }] false = { c with pc := BitVec.ofNat 32 ((c.pc.toNat + b.len) % 2 ^ 32) } := by
    unfold Core.issue
    rw [fmtStep_none c hm]
    simp only [List.map_cons, List.map_nil, List.sum_cons, List.sum_nil, Nat.add_zero, List.foldl_cons, List.foldl_nil, Bool.false_eq_true, if_false, he,
      List.flatMap_cons, List.flatMap_nil, List.append_nil, List.findSome?, id, flightsOf, List.filterMap_nil, hz, Core.nextBundle, Option.getD_some, hg]
    cases hl : c.loops with
    | nil => simp [hl]
    | cons l r =>
      have := hloop l (by simp [hl])
      simp [this, hl]
  rw [hi]
  exact tick_none _ hf

/-- A change of the core that leaves its flights, its loops and its PC. -/
theorem gives_core {s : State} {i : Instr} {s' : State} {len : Nat} {g : Core → Core} {c : Core} (hx : exec i s = s.issueAlone i (fxOf i)) (hck : ckptOp i = false)
    (h : Ready s i s' len → fxOf i (s.aloneEnv s' s' i len) = .ok { core := g }) (hc : g s.me = c) (hf : c.flight = s.me.flight) (hl : c.loops = s.me.loops)
    (hpc : c.pc = s.me.pc) : SGives s i s' len c := by
  intro q
  obtain ⟨t, h1, h2, h3⟩ := alone_plain q.alone q.settled hck hx (h q) ⟨rfl, fun x => Calm.refl x, rfl, rfl, rfl⟩ (by simp)
  exact ⟨t, h1, h2.trans (issue_core s.me c (s.alonePres i len) g q.settled.flight q.settled.fmt q.settled.noEnd q.settled.loops hc hf hl hpc), h3⟩

/-- A taken transfer. -/
theorem goes {s : State} {i : Instr} {s' : State} {len : Nat} {g : Core → Core} {next : Nat} {c : Core} (hx : exec i s = s.issueAlone i (fxOf i))
    (hck : ckptOp i = false) (h : Ready s i s' len → fxOf i (s.aloneEnv s' s' i len) = go next g)
    (hc : Ready s i s' len → { g s.me with pc := BitVec.ofNat 32 (next % 2 ^ 32) } = c) (hf : Ready s i s' len → (g s.me).flight = []) : SGoes s i s' len c := by
  intro q
  obtain ⟨t, h1, h2, h3⟩ := alone_plain q.alone q.settled hck hx (h q) ⟨rfl, fun x => Calm.refl x, rfl, rfl, rfl⟩ (by simp)
  exact ⟨t, h1, h2.trans ((issue_go s.me (s.alonePres i len) g _ q.settled.fmt q.settled.noEnd (hf q)).trans (hc q)), h3⟩

/-- A bundle that falls through after a change of the core by its B slot. -/
theorem gives_fall {s : State} {i : Instr} {s' : State} {len : Nat} {g : Core → Core} (hx : exec i s = s.issueAlone i (fxOf i))
    (hck : ckptOp i = false) (h : Ready s i s' len → fxOf i (s.aloneEnv s' s' i len) = fallOn g) (hc : Ready s i s' len → g s.me = s.me) :
    SGives s i s' len s.me := by
  intro q
  obtain ⟨t, h1, h2, h3⟩ := alone_plain q.alone q.settled hck hx (h q) ⟨rfl, fun x => Calm.refl x, rfl, rfl, rfl⟩ (by simp)
  exact ⟨t, h1, h2.trans (issue_fall s.me (s.alonePres i len) g q.settled.flight q.settled.fmt q.settled.noEnd q.settled.loops (hc q)), h3⟩

/-- A trap of an instruction alone (R332). -/
theorem traps {s : State} {i : Instr} {s' : State} {len : Nat} {cause info addr : Nat} (hx : exec i s = s.issueAlone i (fxOf i)) (a : Alone s i s' len)
    (h : fxOf i (s.aloneEnv s' s' i len) = (s.aloneEnv s' s' i len).trap cause info addr) : Traps s i s' cause info addr := by
  unfold Traps
  rw [hx]
  exact issueAlone_trap a h

/-- A result of a longer latency. -/
theorem flies {s : State} {i : Instr} {s' : State} {len : Nat} {w : RW} {po : State → State} (hx : exec i s = s.issueAlone i (fxOf i)) (hck : ckptOp i = false)
    (q : Ready s i s' len) (h : fxOf i (s.aloneEnv s' s' i len) = .ok { writes := [w], post := po }) (hpo : ∀ x, Calm x (po x)) (hp : w.poison = none)
    (hs : w.shadow = none) (hl : 1 < w.lat) : Flies s i len w.file w.reg w.val w.lat w.sticky :=
  alone_later q.alone q.settled hck hx h hpo hp hs hl

end Sys2Proof.Laws
end

