-- ==== Sys2Proof/Laws/Memory.lean ====
section
/-! SUPPORT. What the memory operations do to memory as a whole: each keeps its canonical form. -/

namespace Sys2Proof.Laws

open Sys2Proof Sys2Proof.Machine

theorem memWf_hbm (s : State) (m : AMap Byte) (k : AMap Sector) (h : s.memWf) (w : mwf 0 m = true) : ({ s with hbm := m, sects := k } : State).memWf :=
  ⟨w, h.2.1, h.2.2.1, h.2.2.2⟩

theorem memWf_setSect (s : State) (n : Nat) (x : Sector) (h : s.memWf) : (s.setSect n x).memWf := h

theorem memWf_hbmPut (s t : State) (pa key : Nat) (bs : List Byte) (h : s.memWf) (e : s.hbmPut pa key bs = .ok t) : t.memWf := by
  have base : mwf 0 (if s.rekeyed key (pa / 128) then putBytes s.hbm (pa / 128 * 128)
      ((List.range 128).map fun i => s.plainByte key (pa / 128 * 128 + i)) else s.hbm) = true := by
    split
    · exact mwf_putBytes _ _ _ h.1
    · exact h.1
  unfold State.hbmPut at e
  dsimp only at e
  split at e
  · split at e
    · cases e
    · cases e; exact ⟨mwf_putBytes _ _ _ base, h.2.1, h.2.2.1, h.2.2.2⟩
  · split at e
    · cases e
    · cases e; exact ⟨mwf_putBytes _ _ _ base, h.2.1, h.2.2.1, h.2.2.2⟩

theorem memWf_hbmWriteAll (key : Nat) (ps : List (Nat × List Byte)) (s t : State) (h : s.memWf) (e : s.hbmWriteAll key ps = .ok t) : t.memWf := by
  induction ps generalizing s with
  | nil => cases e; exact h
  | cons p r ih =>
    unfold State.hbmWriteAll at e
    split at e
    · cases e
    · rename_i s' h'
      exact ih s' (memWf_hbmPut s s' _ _ _ h h') e

theorem memWf_hbmWrite (s t : State) (pa key : Nat) (bs : List Byte) (h : s.memWf) (e : s.hbmWrite pa key bs = .ok t) : t.memWf :=
  memWf_hbmWriteAll key _ s t h e

theorem memWf_physPut (s : State) (pa : Nat) (bs : List Byte) (h : s.memWf) : (s.physPut pa bs).memWf :=
  ⟨mwf_putBytes _ _ _ (mwf_putBytes _ _ _ h.1), h.2.1, h.2.2.1, h.2.2.2⟩

theorem memWf_physWrite (s : State) (pa : Nat) (bs : List Byte) (h : s.memWf) : (s.physWrite pa bs).memWf := by
  unfold State.physWrite
  generalize cutAt pa bs = ps
  induction ps generalizing s with
  | nil => exact h
  | cons p r ih => exact ih _ (memWf_physPut s _ _ h)

theorem memWf_hbmClear (s : State) (pa n : Nat) (h : s.memWf) : (s.hbmClear pa n).memWf :=
  ⟨mwf_dropRange _ _ _ _ h.1, h.2.1, h.2.2.1, h.2.2.2⟩

theorem memWf_updCluster (s : State) (k : Nat) (f : Cluster → Cluster) (h : s.memWf) (w : mwf 0 (f (s.cluster k)).bytes = true) :
    (s.updCluster k f).memWf := by
  refine ⟨h.1, h.2.1, h.2.2.1, fun j => ?_⟩
  unfold State.updCluster State.setCluster State.cluster
  by_cases hj : j = k
  · subst hj; simpa [State.cluster] using w
  · simpa only [mget_mset_other _ _ _ _ _ hj, State.cluster] using h.2.2.2 j

theorem memWf_writeLoc (s t : State) (l : Loc) (bs : List Byte) (h : s.memWf) (e : s.writeLoc l bs = .ok t) : t.memWf := by
  have hc : (s.clearTags l bs.length).memWf := ⟨h.1, h.2.1, h.2.2.1, h.2.2.2⟩
  unfold State.writeLoc at e
  dsimp only at e
  split at e
  · split at e
    · cases e
    · cases e
      exact memWf_updCluster _ _ _ hc (mwf_putBytes _ _ _ (hc.2.2.2 _))
  · exact memWf_hbmWrite _ _ _ _ _ hc e
  · cases e; exact memWf_physWrite _ _ _ hc
  · cases e; exact hc
  · cases e; exact hc

end Sys2Proof.Laws
end

