-- ==== Sys2Proof/Laws/Vector.lean ====
section
/-! SUPPORT. Results placed in the lanes of a vector register (R192): a field stored over a number, the lanes that items write, and what a V operation that places
its results has in flight. -/

namespace Sys2Proof.Laws

open Sys2Proof Sys2Proof.Machine

/-- A number cut at a field of `w` bits from bit `lo`. -/
theorem field_split (x lo w : Nat) : x = x % 2 ^ lo + x / 2 ^ lo % 2 ^ w * 2 ^ lo + x / 2 ^ (lo + w) * 2 ^ (lo + w) := by
  have h1 := Nat.div_add_mod x (2 ^ lo)
  have h2 := Nat.div_add_mod (x / 2 ^ lo) (2 ^ w)
  rw [Nat.div_div_eq_div_mul, ← Nat.pow_add] at h2
  calc x = 2 ^ lo * (x / 2 ^ lo) + x % 2 ^ lo := h1.symm
    _ = 2 ^ lo * (2 ^ w * (x / 2 ^ (lo + w)) + x / 2 ^ lo % 2 ^ w) + x % 2 ^ lo := by rw [h2]
    _ = _ := by rw [Nat.pow_add]; ring

/-- A field stored: the bits below it, the value, the bits above it. -/
theorem setField_eq (x lo w v : Nat) : setField x lo w v = x % 2 ^ lo + v % 2 ^ w * 2 ^ lo + x / 2 ^ (lo + w) * 2 ^ (lo + w) := by
  unfold setField
  have h := field_split x lo w
  omega

theorem setField_testBit (x lo w v k : Nat) :
    (setField x lo w v).testBit k = if lo ≤ k ∧ k < lo + w then v.testBit (k - lo) else x.testBit k := by
  rw [setField_eq]
  have hlow : x % 2 ^ lo + v % 2 ^ w * 2 ^ lo < 2 ^ (lo + w) := by
    have h1 : x % 2 ^ lo < 2 ^ lo := Nat.mod_lt _ (by positivity)
    have h2 : v % 2 ^ w + 1 ≤ 2 ^ w := Nat.mod_lt _ (by positivity)
    calc x % 2 ^ lo + v % 2 ^ w * 2 ^ lo < 2 ^ lo + v % 2 ^ w * 2 ^ lo := by omega
      _ = (v % 2 ^ w + 1) * 2 ^ lo := by ring
      _ ≤ 2 ^ w * 2 ^ lo := Nat.mul_le_mul_right _ h2
      _ = 2 ^ (lo + w) := by rw [Nat.pow_add]; ring
  rw [Nat.add_comm _ (x / 2 ^ (lo + w) * 2 ^ (lo + w)), Nat.mul_comm (x / 2 ^ (lo + w)), Nat.testBit_two_pow_mul_add _ hlow]
  have h1 : x % 2 ^ lo < 2 ^ lo := Nat.mod_lt _ (by positivity)
  rw [Nat.add_comm (x % 2 ^ lo), Nat.mul_comm (v % 2 ^ w), Nat.testBit_two_pow_mul_add _ h1]
  rw [Nat.testBit_mod_two_pow, Nat.testBit_mod_two_pow, Nat.testBit_div_two_pow]
  by_cases a : k < lo
  · have : k < lo + w := by omega
    have : ¬ lo ≤ k := by omega
    simp [*]
  · by_cases b : k < lo + w
    · have : lo ≤ k := by omega
      have h3 : k - lo < w := by omega
      simp [*]
    · have h4 : k - (lo + w) + (lo + w) = k := by omega
      have : lo + w ≤ k := by omega
      simp [b, h4]

theorem laneOf_testBit (w x j k : Nat) : (laneOf w x j).testBit k = (decide (k < w) && x.testBit (w * j + k)) := by
  unfold laneOf
  rw [Nat.testBit_mod_two_pow, Nat.testBit_div_two_pow, Nat.add_comm]

/-- A lane after a lane is stored (R79). -/
theorem laneOf_setField (w x i j v : Nat) : laneOf w (setField x (w * i) w v) j = if j = i then v % 2 ^ w else laneOf w x j := by
  apply Nat.eq_of_testBit_eq
  intro k
  rw [laneOf_testBit, setField_testBit]
  by_cases hk : k < w
  · by_cases hj : j = i
    · subst hj
      have h1 : w * j ≤ w * j + k ∧ w * j + k < w * j + w := by omega
      rw [if_pos h1, if_pos rfl, Nat.testBit_mod_two_pow]
      simp [hk]
    · have h1 : ¬ (w * i ≤ w * j + k ∧ w * j + k < w * i + w) := by
        rintro ⟨a, b⟩
        apply hj
        have h2 : w * i < w * (j + 1) := by rw [Nat.mul_add]; omega
        have h3 : w * j < w * (i + 1) := by rw [Nat.mul_add]; omega
        have h4 := Nat.lt_of_mul_lt_mul_left h2
        have h5 := Nat.lt_of_mul_lt_mul_left h3
        omega
      rw [if_neg h1, if_neg hj, laneOf_testBit]
  · by_cases hj : j = i
    · rw [if_pos hj, Nat.testBit_mod_two_pow]; simp [hk]
    · rw [if_neg hj, laneOf_testBit]; simp [hk]

/-- A lane of what WriteVector leaves (R192): no item, or one, has it. -/
theorem writeVector_lane (act : Nat → Bool) (zero : Bool) (dw : Nat) (items : List VItem) (hd : (items.map VItem.lane).Nodup) (old : Nat) :
    (∀ it ∈ items, laneOf dw (writeVector act zero dw old items) it.lane
      = if act it.bit then it.val.1 % 2 ^ dw else if zero then 0 else laneOf dw old it.lane)
    ∧ ∀ j, (∀ it ∈ items, it.lane ≠ j) → laneOf dw (writeVector act zero dw old items) j = laneOf dw old j := by
  induction items generalizing old with
  | nil => simp [writeVector]
  | cons a l ih =>
    rw [List.map_cons, List.nodup_cons] at hd
    obtain ⟨hn, hd⟩ := hd
    have hl : ∀ it ∈ l, it.lane ≠ a.lane := fun it h e => hn (List.mem_map.2 ⟨it, h, e⟩)
    obtain ⟨h1, h2⟩ := ih hd (if act a.bit then setField old (dw * a.lane) dw a.val.1 else if zero then setField old (dw * a.lane) dw 0 else old)
    have hw : writeVector act zero dw old (a :: l)
      = writeVector act zero dw (if act a.bit then setField old (dw * a.lane) dw a.val.1 else if zero then setField old (dw * a.lane) dw 0 else old) l := rfl
    have hstep : ∀ j, laneOf dw (if act a.bit then setField old (dw * a.lane) dw a.val.1 else if zero then setField old (dw * a.lane) dw 0 else old) j
        = if j = a.lane then (if act a.bit then a.val.1 % 2 ^ dw else if zero then 0 else laneOf dw old j) else laneOf dw old j := by
      intro j
      split
      · rw [laneOf_setField]
      · split
        · rw [laneOf_setField]; simp
        · simp
    rw [hw]
    refine ⟨fun it hit => ?_, fun j hj => ?_⟩
    · rcases List.mem_cons.1 hit with rfl | hit
      · rw [h2 _ hl, hstep, if_pos rfl]
      · rw [h1 it hit, hstep, if_neg (hl it hit)]
    · rw [h2 j fun it h => hj it (List.mem_cons_of_mem _ h), hstep, if_neg (fun e => hj a (List.mem_cons_self ..) e.symm)]

/-- The sticky bits of the active items (R194). -/
theorem stickyOf_bit (act : Nat → Bool) (items : List VItem) (k : Nat) :
    (stickyOf act items).getLsbD k = items.any fun it => act it.bit && it.val.2.getLsbD k := by
  have : ∀ (l : List VItem) (st : Sticky), (l.foldl (fun st it => if act it.bit then st ||| it.val.2 else st) st).getLsbD k
      = (st.getLsbD k || l.any fun it => act it.bit && it.val.2.getLsbD k) := by
    intro l
    induction l with
    | nil => simp
    | cons a l ih =>
      intro st
      rw [List.foldl_cons, ih]
      cases h : act a.bit <;> simp [h, Bool.or_assoc]
  unfold stickyOf
  rw [this]
  simp

/-- What a V operation that places its results presents, its registers in the bank (R192, R193). -/
theorem vChecked_fits {e : Env} {f : VF} {rs : List Nat} {k : Verdict} (h : VFits e f rs) : e.vChecked f rs k = k := by
  unfold Env.vChecked Env.vBound
  have h1 : (rs.find? fun r => e.t.bank ≤ r) = none := by
    rw [List.find?_eq_none]
    intro r hr
    have := h.1 r hr
    simp; omega
  rw [h1]
  by_cases hb : f.bpsel = 0
  · simp [hb]
  · simp only [hb, if_false]
    unfold Env.bpBound Env.tileBound
    by_cases hm : bpMode e.bp = 3
    · have := h.2 hb hm
      simp only [hm, if_true]
      rw [if_neg (by omega)]
    · simp [hm]

theorem vPlaced_out (e : Env) (f : VF) (dw : Nat) (items : List VItem) (hd : (items.map VItem.lane).Nodup) :
    VPlaced e f dw items (writeVector (e.active f) f.zero dw (e.rv f.vd.toNat) items) (stickyOf (e.active f) items) where
  written := (writeVector_lane _ _ _ _ hd _).1
  kept := fun j _ => (writeVector_lane _ _ _ _ hd _).2 j
  sticky := stickyOf_bit _ _

/-- A V operation that places its results has them in flight (R75, R192). -/
theorem vgives_items {s : State} {i : Instr} {s' : State} {len : Nat} {f : VF} {regs : List Nat} {lat dw : Nat} {items : Env → List VItem}
    (hx : exec i s = s.issueAlone i (fxOf i)) (hck : ckptOp i = false) (hlat : 1 < lat)
    (hd : ((items (s.aloneEnv s' s' i len)).map VItem.lane).Nodup)
    (h : fxOf i (s.aloneEnv s' s' i len) = (s.aloneEnv s' s' i len).vChecked f regs ((s.aloneEnv s' s' i len).vOut f lat dw (items (s.aloneEnv s' s' i len)))) :
    VGivesItems s i s' len f regs lat dw items := by
  unfold VGivesItems
  dsimp only
  intro q hf
  rw [vChecked_fits hf] at h
  exact ⟨_, _, vPlaced_out _ f dw (items _) hd, flies hx hck q h (fun x => countLanes_calm _ _ _) rfl rfl hlat⟩

theorem eachLane_nodup (w : Nat) (g : Nat → Nat × Sticky) : ((eachLane w g).map VItem.lane).Nodup := by
  unfold eachLane
  rw [List.map_map]
  exact (List.nodup_range (n := lanes w)).map fun a b h => h

/-- A lanewise V operation has its results in flight. -/
theorem vgives {s : State} {i : Instr} {s' : State} {len : Nat} {f : VF} {sels : List Nat} {lat : Nat} {g : Env → Nat → Nat × Sticky}
    (hx : exec i s = s.issueAlone i (fxOf i)) (hck : ckptOp i = false) (hlat : 1 < lat)
    (h : fxOf i (s.aloneEnv s' s' i len) = (s.aloneEnv s' s' i len).lanewise f sels lat (g (s.aloneEnv s' s' i len))) : VGives s i s' len f sels lat g :=
  vgives_items hx hck hlat (eachLane_nodup _ _) h

end Sys2Proof.Laws
end

