-- ==== Sys2Proof/Tests/Slice0.lean ====
section
/-! SUPPORT. Tests: ill-formed instructions are refused, words of the spec decode to their instructions, single steps give what the spec's examples and rules say,
and for each statement with hypotheses a state and operands that meet them (`meets_…`). -/

namespace Sys2Proof.Tests

set_option Elab.async false

open Sys2Proof Sys2Proof.Machine

/-! ## When an instruction is ready -/

/-- The state after the fetch of the code word at the PC, whose access is charged and may fill translations. -/
def fetched (s : State) : State :=
  match s.codeWord s.focus (s.core s.focus).pc.toNat with
  | .ok _ t => t
  | _ => s

/-- The conditions of `Presents`. -/
def presentsF (s : State) (i : Instr) (len : Nat) : Bool :=
  let t := fetched s
  s.canIssue s.focus
    && (match s.codeWord s.focus (s.core s.focus).pc.toNat with
      | .ok w _ => bundleLength w == len
      | _ => false)
    && (malformed (aloneHdr i s.frame) s.frame.bp [((aloneSlot i s.frame.second).1, .op i)]).isNone
    && (t.strand s.focus).engTrap.isNone && hdrBl (aloneHdr i s.frame) == 0 && (t.core s.focus).shadows.isEmpty
    && (!hdrEnd (aloneHdr i s.frame) || (aloneSlot i s.frame.second).1 != 7)

/-- The conditions of `Alone`. -/
def aloneF (s : State) (i : Instr) (len : Nat) : Bool :=
  presentsF s i len && (bpMode s.frame.bp != 3 || decide (bpSrc s.frame.bp % 16 < ((fetched s).strand s.focus).ntile))

/-- The conditions of `Alone`, where the fetch leaves the state as it is, as that of a mill strand does. -/
def aloneB (s : State) (i : Instr) (len : Nat) : Bool := decide (fetched s = s) && aloneF s i len

/-- The conditions of `Settled`. -/
def settledB (s : State) (i : Instr) : Bool :=
  (s.core s.focus).flight.isEmpty && (s.core s.focus).fmtPend.isEmpty
    && (match (s.core s.focus).loops with
      | l :: _ => l.last != (s.core s.focus).pc.toNat
      | [] => true)
    && (s.spindle (gnumOf s.focus)).stepSlot.isNone && decide ((s.strand s.focus).undo.length < 64) && (s.strand s.focus).stores.isEmpty
    && decide ((s.strand s.focus).nBund < 2048) && (s.strand s.focus).newFrames (s.core s.focus) == 0 && !hdrEnd (aloneHdr i s.frame) && !hdrCkpt (aloneHdr i s.frame) && (s.strand s.focus).heldCopies.isEmpty

/-- The conditions of `Ready`. -/
def readyF (s : State) (i : Instr) (len : Nat) : Bool := aloneF s i len && settledB s i
def readyB (s : State) (i : Instr) (len : Nat) : Bool := aloneB s i len && settledB s i

theorem presentsF_of (s : State) (i : Instr) (len : Nat) (h : presentsF s i len = true) : Presents s i (fetched s) len := by
  simp only [presentsF, Bool.and_eq_true, Option.isNone_iff_eq_none, beq_iff_eq, List.isEmpty_iff, Bool.or_eq_true, Bool.not_eq_true', bne_iff_ne] at h
  obtain ⟨⟨⟨⟨⟨⟨h1, h2⟩, h3⟩, h4⟩, h5⟩, h6⟩, h7⟩ := h
  refine ⟨h1, ?_, h3, h4, h5, h6, h7⟩
  split at h2
  · rename_i w t hw
    have e : fetched s = t := by simp only [fetched, hw]
    exact ⟨w, e ▸ hw, by simpa using h2⟩
  · cases h2

theorem aloneF_of (s : State) (i : Instr) (len : Nat) (h : aloneF s i len = true) : Alone s i (fetched s) len := by
  simp only [aloneF, Bool.and_eq_true, Bool.or_eq_true, bne_iff_ne, decide_eq_true_eq] at h
  exact ⟨presentsF_of s i len h.1, fun m => h.2.resolve_left fun n => n m⟩

theorem presents_of (s : State) (i : Instr) (len : Nat) (h : (decide (fetched s = s) && presentsF s i len) = true) : Presents s i s len := by
  simp only [Bool.and_eq_true, decide_eq_true_eq] at h
  simpa only [h.1] using presentsF_of s i len h.2

theorem alone_of (s : State) (i : Instr) (len : Nat) (h : aloneB s i len = true) : Alone s i s len := by
  simp only [aloneB, Bool.and_eq_true, decide_eq_true_eq] at h
  simpa only [h.1] using aloneF_of s i len h.2

theorem settled_of (s : State) (i : Instr) (h : settledB s i = true) : Settled s i := by
  simp only [settledB, Bool.and_eq_true, Option.isNone_iff_eq_none, decide_eq_true_eq, List.isEmpty_iff, Bool.not_eq_true', beq_iff_eq] at h
  obtain ⟨⟨⟨⟨⟨⟨⟨⟨⟨⟨h2, h3⟩, h4⟩, h5⟩, h6⟩, h7⟩, h8⟩, h12⟩, h9⟩, h10⟩, h11⟩ := h
  refine ⟨h2, h3, fun l hl => ?_, h5, h6, h7, h8, h12, h9, h10, h11⟩
  split at h4
  · rename_i l' r e
    simp only [e, List.head?_cons, Option.mem_def, Option.some.injEq] at hl
    subst hl
    simpa using h4
  · rename_i e
    simp [e] at hl

theorem readyF_of (s : State) (i : Instr) (len : Nat) (h : readyF s i len = true) : Ready s i (fetched s) len := by
  simp only [readyF, Bool.and_eq_true] at h
  exact ⟨aloneF_of s i len h.1, settled_of s i h.2⟩
theorem ready_of (s : State) (i : Instr) (len : Nat) (h : readyB s i len = true) : Ready s i s len := by
  simp only [readyB, Bool.and_eq_true] at h
  exact ⟨alone_of s i len h.1, settled_of s i h.2⟩

/-! ## States -/

/-- A mill strand at address 0 of its boot ROM, where one code word stands; its registers as `c` gives them. -/
def mill (c : Core → Core := id) : State := { State.reset with rom := [(0, 0), (1, 0)] }.updCore 0 c

/-- The values of scalar registers 1 to 5. -/
def xs (a : List Nat) (c : Core) : Core := { c with x := (a.mapIdx fun k v => (k + 1, BitVec.ofNat 64 v)).filter fun p => p.2 != 0 }

/-- A core with x1 = 7, x2 = −3, x3 = 0. -/
def c1 : Core → Core := xs [7, 2 ^ 64 - 3]

/-- The core of the strand in focus after an instruction. -/
def coreAfter (i : Instr) (s : State) : Option Core :=
  match exec i s with
  | .next t => some (t.core t.focus)
  | _ => none

def sf (xd xa xb imm : Nat) : SF := ⟨BitVec.ofNat 6 xd, BitVec.ofNat 6 xa, BitVec.ofNat 6 xb, BitVec.ofNat 14 imm⟩

def vf (ty vd va vb vc : Nat) (bpsel rnd g : Nat := 0) (zero nan : Bool := false) : VF :=
  { ty := BitVec.ofNat 4 ty, vd := BitVec.ofNat 9 vd, va := BitVec.ofNat 9 va, vb := BitVec.ofNat 9 vb, vc := BitVec.ofNat 9 vc, g := BitVec.ofNat 4 g
    bpsel := BitVec.ofNat 2 bpsel, zero := zero, nan := nan, rnd := BitVec.ofNat 2 rnd }
def lf (reg xbase off : Nat) (scope : Nat := 0) (opx bpd : Bool := false) (g : Nat := 0) : LF :=
  { reg := BitVec.ofNat 9 reg, xbase := BitVec.ofNat 6 xbase, off := BitVec.ofNat 16 off, g := BitVec.ofNat 4 g, bpd := bpd, opx := opx, scope := BitVec.ofNat 3 scope }
def bf (disp pred : Nat) (asm : Bool := false) : BF := ⟨BitVec.ofNat 14 disp, BitVec.ofNat 3 pred, asm⟩
def mf (rout imm : Nat) (flags : Nat := 0) (bpi : Bool := false) : MF := ⟨BitVec.ofNat 10 rout, bpi, BitVec.ofNat 5 flags, BitVec.ofNat 20 imm⟩

def xAfter (i : Instr) (s : State) (r : Nat) : Option Nat := (coreAfter i s).map fun c => (c.rx r).toNat
def pAfter (i : Instr) (s : State) (r : Nat) : Option Nat := (coreAfter i s).map fun c => (c.rp r).toNat
/-- CAUSE after an instruction that traps in a mill strand, which is then in its handler. -/
def trapOf (i : Instr) (s : State) : Option Nat := (coreAfter i s).bind fun c => if c.intrap then some c.cause.toNat else none

theorem ready_all (s : State) (is : List Instr) (h : (is.all fun i => readyB s i 1) = true) : ∀ i ∈ is, Ready s i s 1 :=
  fun i hi => ready_of s i 1 (List.all_eq_true.mp h i hi)
theorem readyF_all (s : State) (is : List Instr) (h : (is.all fun i => readyF s i 1) = true) : ∀ i ∈ is, Ready s i (fetched s) 1 :=
  fun i hi => readyF_of s i 1 (List.all_eq_true.mp h i hi)
theorem aloneF_all (s : State) (is : List Instr) (h : (is.all fun i => aloneF s i 1) = true) : ∀ i ∈ is, Alone s i (fetched s) 1 :=
  fun i hi => aloneF_of s i 1 (List.all_eq_true.mp h i hi)
theorem alone_all (s : State) (is : List Instr) (h : (is.all fun i => aloneB s i 1) = true) : ∀ i ∈ is, Alone s i s 1 :=
  fun i hi => alone_of s i 1 (List.all_eq_true.mp h i hi)

/-! ## Scalar operations. Expected values are worked out by hand from the rules named. -/

def scalars3 : List (SF → Instr) :=
  [.add, .sub, .mul, .mulhs, .mulhn, .divs, .divn, .rems, .remn, .addshl, .mins, .minn, .maxs, .maxn, .and, .or, .xor, .andn, .shl, .shrl, .shra, .rotr]

theorem meets_ScalarArithmetic :
    (∀ i ∈ scalars3.map (· (sf 3 1 2 0)) ++ [.addi (sf 3 1 0 40)], Ready (mill c1) i (mill c1) 1) ∧ (mill c1).me.rx 2 ≠ 0
    ∧ (∀ i ∈ scalars3.map (· (sf 3 1 4 0)), Ready (mill c1) i (mill c1) 1) ∧ (mill c1).me.rx 4 = 0 :=
  ⟨ready_all _ _ (by decide +kernel), by decide +kernel, ready_all _ _ (by decide +kernel), by decide +kernel⟩

/-- A = 7, B = −3 (R161, R162). -/
theorem test_scalar_arithmetic :
    (scalars3.take 14).map (fun i => xAfter (i (sf 3 1 2 0)) (mill c1) 3) =
      [4, 10, 2 ^ 64 - 21, 2 ^ 64 - 1, 6, 2 ^ 64 - 2, 0, 1, 7, 4, 2 ^ 64 - 3, 7, 7, 2 ^ 64 - 3].map some := by decide +kernel
theorem test_addi_addshl_immediates : xAfter (.addi (sf 3 1 0 0x3FFF)) (mill c1) 3 = some 6 ∧ xAfter (.addshl (sf 3 1 2 3)) (mill c1) 3 = some (2 ^ 64 - 17) := by
  decide +kernel
theorem test_divide_by_zero : (coreAfter (.divs (sf 3 1 4 0)) (mill c1)).map (fun c => ((c.rx 3).toNat, c.status.toNat)) = some (2 ^ 64 - 1, 8)
    ∧ xAfter (.rems (sf 3 1 4 0)) (mill c1) 3 = some 7 := by decide +kernel
theorem test_divide_wraps : xAfter (.divs (sf 3 1 2 0)) (mill (xs [2 ^ 63, 2 ^ 64 - 1])) 3 = some (2 ^ 63)
    ∧ xAfter (.rems (sf 3 1 2 0)) (mill (xs [2 ^ 63, 2 ^ 64 - 1])) 3 = some 0 := by decide +kernel
theorem test_x0_discards : xAfter (.add (sf 0 1 2 0)) (mill c1) 0 = some 0 := by decide +kernel

def scalarsI : List Instr :=
  [.andi (sf 3 1 0 6), .ori (sf 3 1 0 8), .xori (sf 3 1 0 0x3FFF), .shli (sf 3 1 0 2), .shrli (sf 3 2 0 60), .shrai (sf 3 2 0 1), .rotri (sf 3 2 0 2),
   .movi (sf 3 0x3F 0x3F 0x3FFB), .movhi (sf 3 1 0x04 0x2345)]
def compares : List Instr := [.seq (sf 1 1 2 0), .sne (sf 1 1 2 0), .slts (sf 1 1 2 0), .sltn (sf 1 1 2 0), .sltis (sf 1 1 0 8), .sltin (sf 1 1 0 7)]

theorem meets_ScalarLogicAndCompares : ∀ i ∈ scalars3.map (· (sf 3 1 2 0)) ++ scalarsI ++ compares, Ready (mill c1) i (mill c1) 1 :=
  ready_all _ _ (by decide +kernel)

/-- R163: 7 and −3, then −3 shifted and rotated by 7. -/
theorem test_scalar_logic :
    [Instr.and, .or, .xor, .andn].map (fun i => xAfter (i (sf 3 1 2 0)) (mill c1) 3) = [5, 2 ^ 64 - 1, 2 ^ 64 - 6, 2].map some
    ∧ xAfter (.shl (sf 3 1 2 0)) (mill c1) 3 = some (7 * 2 ^ 61)
    ∧ [Instr.shrl, .shra, .rotr].map (fun i => xAfter (i (sf 3 2 1 0)) (mill c1) 3) = [2 ^ 57 - 1, 2 ^ 64 - 1, 0xFBFFFFFFFFFFFFFF].map some := by decide +kernel
/-- R163, R164. -/
theorem test_scalar_immediates :
    scalarsI.map (fun i => xAfter i (mill c1) 3) = [6, 15, 2 ^ 64 - 8, 28, 15, 2 ^ 64 - 2, 2 ^ 62 - 1 + 2 ^ 62, 2 ^ 64 - 5, 0x712345].map some := by decide +kernel
/-- R165. -/
theorem test_scalar_compares : compares.map (fun i => pAfter i (mill c1) 1) = [0, 2 ^ 128 - 1, 0, 2 ^ 128 - 1, 2 ^ 128 - 1, 0].map some := by decide +kernel

def fields : List Instr := [.bfxs (sf 3 2 0 (1 + 2 * 64)), .bfxn (sf 3 2 0 (1 + 2 * 64)), .bfi (sf 1 2 0 (4 + 3 * 64))]
def preds : List Instr := [.psetx (sf 2 1 2 0), .pany (sf 3 1 2 0), .pall (sf 3 1 2 0), .pcnt (sf 3 1 2 0)]
/-- The field of 64 bits at 1 passes bit 63. -/
def fieldsPast : List Instr := [.bfxs (sf 3 2 0 (1 + 63 * 64)), .bfxn (sf 3 2 0 (1 + 63 * 64)), .bfi (sf 3 2 0 (1 + 63 * 64))]
def c2 (c : Core) : Core := { c1 c with p := [(1, 0x0F), (2, 0x1F)] }

theorem meets_ScalarFieldsAndPredicates : (∀ i ∈ fields ++ preds, Ready (mill c2) i (mill c2) 1) ∧ ∀ i ∈ fieldsPast, Alone (mill c2) i (mill c2) 1 :=
  ⟨ready_all _ _ (by decide +kernel), alone_all _ _ (by decide +kernel)⟩
/-- R166: −3 is …11111101, so its field [3:1] is 110; the field [7:4] of 7 becomes 1101. -/
theorem test_bit_fields : fields.map (fun i => (coreAfter i (mill c2)).map fun c => ((c.rx 3).toNat, (c.rx 1).toNat)) =
    [(2 ^ 64 - 2, 7), (6, 7), (0, 0xD7)].map some ∧ trapOf (.bfxs (sf 3 2 0 (1 + 63 * 64))) (mill c2) = some 1 := by decide +kernel
/-- R168. -/
theorem test_scalar_predicates : pAfter (.psetx (sf 2 1 2 0)) (mill c2) 2 = some ((2 ^ 64 - 3) * 2 ^ 64 + 7)
    ∧ (preds.drop 1).map (fun i => xAfter i (mill c2) 3) = [1, 0, 4].map some := by decide +kernel

def counts (a : Nat) : List Instr := [.popc (sf 3 a 0 0), .clz (sf 3 a 0 0), .ctz (sf 3 a 0 0)]
theorem meets_BitCounts : (∀ i ∈ counts 1 ++ counts 2 ++ counts 4, Ready (mill c1) i (mill c1) 1) ∧ (mill c1).me.rx 4 = 0
    ∧ ((mill c1).me.rx 1).getLsbD 2 = true ∧ (∀ j, 2 < j → j < 64 → ((mill c1).me.rx 1).getLsbD j = false) ∧ ((mill c1).me.rx 1).getLsbD 0 = true := by
  refine ⟨ready_all _ _ (by decide +kernel), by decide +kernel, by decide +kernel, ?_, by decide +kernel⟩
  intro j h1 h2
  have : ∀ j < 64, 2 < j → ((mill c1).me.rx 1).getLsbD j = false := by decide +kernel
  exact this j h2 h1
/-- R167. -/
theorem test_bit_counts : (counts 1 ++ counts 2 ++ counts 4).map (fun i => xAfter i (mill c1) 3) = [3, 61, 0, 63, 0, 0, 0, 64, 64].map some := by decide +kernel

def c3 (c : Core) : Core := { c1 c with m := [(2, 5)], d := [(1, 0x1122)] }
def shares (s : State) : State := s.updStrand s.focus fun t => { t with bank := 64, ntile := 4, nacc := 2 }
def moves : List Instr := [.sNop (sf 0 0 0 0), .msetp (sf 2 1 0 1), .mgetp (sf 3 2 0 0), .mpcset (sf 0 1 0 1), .dset (sf 1 1 0 3), .dget (sf 3 1 0 0), .setfmt (sf 0 1 0 0)]
/-- x4 = 0 is a shape of one element; x2 gives 128 × 1,024 elements, past 131,072 bits (R87). -/
theorem meets_MovesAndFormat : (∀ i ∈ moves ++ [.tshape (sf 3 4 0 0)], Ready (shares (mill c3)) i (shares (mill c3)) 1)
    ∧ 3 < ((shares (mill c3)).strand 0).ntile ∧ ((shares (mill c3)).strand 0).ntile ≤ 4
    ∧ Alone (shares (mill c3)) (.tshape (sf 4 4 0 0)) (shares (mill c3)) 1
    ∧ tshapeOk 0 = true ∧ tshapeOk 0x1FFFF0 = false ∧ Alone (shares (mill c3)) (.tshape (sf 3 2 0 0)) (shares (mill c3)) 1 :=
  ⟨ready_all _ _ (by decide +kernel), by decide +kernel, by decide +kernel, alone_of _ _ _ (by decide +kernel), by decide +kernel, by decide +kernel,
   alone_of _ _ _ (by decide +kernel)⟩
/-- R172 to R174: m2 := 7 + 1, x3 := m2, MPC := 7 + 1, and the doubleword 3 or 0 of d1. -/
theorem test_moves : (coreAfter (.msetp (sf 2 1 0 1)) (mill c3)).map (fun c => (mget 0 c.m 2).toNat) = some 8 ∧ xAfter (.mgetp (sf 3 2 0 0)) (mill c3) 3 = some 5
    ∧ (coreAfter (.mpcset (sf 0 1 0 1)) (mill c3)).map (fun c => c.mpc.toNat) = some 8
    ∧ (coreAfter (.dset (sf 1 1 0 3)) (mill c3)).map (fun c => (mget 0 c.d 1).toNat) = some (7 * 2 ^ 192 + 0x1122) ∧ xAfter (.dget (sf 3 1 0 0)) (mill c3) 3 = some 0x1122 := by
  decide +kernel
/-- R118, R170. -/
theorem test_setfmt_pends : (coreAfter (.setfmt (sf 0 1 0 0)) (mill c3)).map (fun c => (c.fmt.toNat, c.fmtPend.map fun p => (p.1.toNat, p.2))) = some (0, [(7, 5)]) := by
  decide +kernel
theorem test_tshape : trapOf (.tshape (sf 3 2 0 0)) (shares (mill c3)) = some 1
    ∧ (coreAfter (.tshape (sf 3 0 0 0x21)) (shares (mill c3))).map (fun c => (mget 0 c.tshape 3).toNat) = some 0x21 := by decide +kernel

def crr (n : Nat) : Instr := .crr (sf 3 0 0 n)
def crw (n a : Nat) : Instr := .crw (sf 0 a 0 n)
def c4 (c : Core) : Core := { xs [7, 2 ^ 64 - 3, 0, 3, 16] c with cause := 9, tshape := [(3, 0x21)], mstride := [(7, 0x40)], mscratch := [(3, 0x55)], status := 0x0F }
theorem meets_ControlRegisters :
    (∀ i ∈ [0x000, 0x001, 0x002, 0x003, 0x004, 0x005, 0x008, 0x00F, 0x010, 0x013, 0x022, 0x800, 0x802, 0x804, 0x808, 0x80B].map crr,
      Ready (shares (mill c4)) i (shares (mill c4)) 1)
    ∧ (∀ i ∈ [0x000, 0x001, 0x002, 0x004, 0x006, 0x007, 0x021, 0x003, 0x005, 0x008, 0x00F, 0x010, 0x013].map (crw · 1) ++ [crw 0x020 2, crw 0x022 5],
      Ready (shares (mill c4)) i (shares (mill c4)) 1)
    ∧ (∀ i ∈ [crr 0x014, crr 0x01F, crr 0x023, crr 0x7FF, crw 0x013 2, crw 0x020 4, crw 0x022 1, crw 0x023 1, crw 0x7FF 1],
      Alone (shares (mill c4)) i (shares (mill c4)) 1)
    ∧ isMill (shares (mill c4)).focus = true :=
  ⟨ready_all _ _ (by decide +kernel), ready_all _ _ (by decide +kernel), alone_all _ _ (by decide +kernel), by decide +kernel⟩
/-- R81 to R90: MODE of a mill strand reads 1; STATUS is cleared by ones; 3 is no reel policy. -/
theorem test_control_registers :
    [0x000, 0x001, 0x00F, 0x013, 0x80B].map (fun n => xAfter (crr n) (shares (mill c4)) 3) = [0x1000F, 9, 0x40, 0x21, 0x55].map some
    ∧ (coreAfter (crw 0x000 1) (shares (mill c4))).map (fun c => c.status.toNat) = some 8 ∧ trapOf (crw 0x020 4) (shares (mill c4)) = some 1
    ∧ trapOf (crr 0x014) (shares (mill c4)) = some (4 * 2 ^ 16 + 7) := by decide +kernel

/-! ## Control flow -/

/-- At code word 100 in a loop body from 90 to 110, with a return entry that was pushed at depth 0. -/
def c5 (c : Core) : Core :=
  { xs [2, 0] c with
    pc := 100
    p := [(1, BitVec.allOnes 128), (2, 5)]
    loops := [{ start := 90, last := 110, count := 3 }]
    rets := [{ addr := 40, depth := 0 }] }
def at100 (c : Core → Core := c5) : State := ({ State.reset with rom := (List.range 256).map fun k => (k, 0) } : State).updCore 0 c

theorem meets_ConditionalBranches :
    (∀ i ∈ [.brut (bf 5 1), .brut (bf 20 1), .bruf (bf 5 3), .brut (bf 5 3), .bruf (bf 5 1)], Ready (at100) i (at100) 1)
    ∧ (∀ i ∈ [.brut (bf 5 2), .bruf (bf 5 2)], Alone (at100) i (at100) 1)
    ∧ (at100).me.rp 1 = uniform true ∧ (at100).me.rp 3 = uniform false ∧ (at100).me.rp 2 ≠ uniform true ∧ (at100).me.rp 2 ≠ uniform false
    ∧ Ready (at100 fun c => { c5 c with pc := 80 }) (.brut (bf 12 1)) (at100 fun c => { c5 c with pc := 80 }) 1
    ∧ (([{ start := 90, last := 110, count := 3 }] : List LoopEnt).any fun l => l.holds 92 && !l.holds 80) = true :=
  ⟨ready_all _ _ (by decide +kernel), alone_all _ _ (by decide +kernel), by decide +kernel, by decide +kernel, by decide +kernel, by decide +kernel,
   ready_of _ _ _ (by decide +kernel), by decide +kernel⟩
/-- R176, R182: a branch out of the body pops its loop; into a body, it traps. -/
theorem test_branches :
    (coreAfter (.brut (bf 20 1)) (at100)).map (fun c => (c.pc.toNat, c.loops.length)) = some (120, 0)
    ∧ (coreAfter (.bruf (bf 5 1)) (at100)).map (fun c => (c.pc.toNat, c.loops.length)) = some (101, 1)
    ∧ trapOf (.brut (bf 12 1)) (at100 fun c => { c5 c with pc := 80 }) = some (0x04 + 7 * 256)
    ∧ trapOf (.brut (bf 5 2)) (at100) = some (0x02 + 7 * 256) := by decide +kernel

def fullRets (c : Core) : Core := { c5 c with rets := List.replicate 16 { addr := 1, depth := 0 } }
theorem meets_CallsAndReturns :
    (∀ i ∈ [.bNop (bf 0 0), .call (bf 8 0), .ret (bf 0 0), .brk (bf 7 0)], Ready (at100) i (at100) 1)
    ∧ Alone (at100 fullRets) (.call (bf 8 0)) (at100 fullRets) 1 ∧ 16 ≤ (at100 fullRets).me.rets.length
    ∧ Alone (mill) (.ret (bf 0 0)) (mill) 1 ∧ (mill).me.rets = [] ∧ (at100).me.rets.length < 16 ∧ isMill (at100).focus = true ∧ (at100).me.intrap = false :=
  ⟨ready_all _ _ (by decide +kernel), alone_of _ _ _ (by decide +kernel), by decide +kernel, alone_of _ _ _ (by decide +kernel), by decide +kernel, by decide +kernel,
   by decide +kernel, by decide +kernel⟩
/-- R178, R184. -/
theorem test_calls :
    (coreAfter (.call (bf 8 0)) (at100)).map (fun c => (c.pc.toNat, c.rets.head?.map fun r => (r.addr, r.depth))) = some (108, some (101, 1))
    ∧ (coreAfter (.ret (bf 0 0)) (at100)).map (fun c => (c.pc.toNat, c.loops.length, c.rets.length)) = some (40, 0, 0)
    ∧ (coreAfter (.brk (bf 7 0)) (at100)).map (fun c => (c.cause.toNat, c.epc.toNat, c.intrap)) = some (0x51 + 7 * 256 + 7 * 65536, 101, true)
    ∧ trapOf (.ret (bf 0 0)) (mill) = some (0x06 + 7 * 256) := by decide +kernel

def fourLoops (c : Core) : Core := { c5 c with loops := List.replicate 4 { start := 90, last := 110, count := 3 } }
def outside (c : Core) : Core := { c5 c with pc := 111 }
theorem meets_HardwareLoops :
    (∀ i ∈ [.loop (bf 5 0 true), .loop (bf 5 1), .leavet (bf 0 1), .leavef (bf 0 3), .leavet (bf 0 3)], Ready (at100) i (at100) 1)
    ∧ Ready (at100 fourLoops) (.loop (bf 5 0 true)) (at100 fourLoops) 1 ∧ 4 ≤ (at100 fourLoops).me.loops.length
    ∧ (∀ i ∈ [.leavet (bf 0 1), .leavef (bf 0 3)], Alone (at100 outside) i (at100 outside) 1)
    ∧ (∀ i ∈ [.leavet (bf 0 2), .leavef (bf 0 2)], Alone (at100) i (at100) 1)
    ∧ ({ start := 90, last := 110, count := 3 } : LoopEnt).holds 100 = true ∧ ({ start := 90, last := 110, count := 3 } : LoopEnt).holds 111 = false
    ∧ (match (at100).codeWord 0 110 with | .ok w t => decide (t = at100) && w == 0 | _ => false) = true
    ∧ (match (at100).codeWord 0 105 with | .ok w t => decide (t = at100) && w == 0 | _ => false) = true :=
  ⟨ready_all _ _ (by decide +kernel), ready_of _ _ _ (by decide +kernel), by decide +kernel, alone_all _ _ (by decide +kernel), alone_all _ _ (by decide +kernel),
   by decide +kernel, by decide +kernel, by decide +kernel, by decide +kernel⟩
/-- R179 to R181. -/
theorem test_loops :
    (coreAfter (.loop (bf 5 0 true)) (at100)).map (fun c => (c.pc.toNat, c.loops.head?.map fun l => (l.start, l.last, l.count))) = some (101, some (101, 105, 2))
    ∧ (coreAfter (.loop (bf 5 1)) (at100)).map (fun c => (c.pc.toNat, c.loops.length)) = some (106, 1)
    ∧ (coreAfter (.leavet (bf 0 1)) (at100)).map (fun c => (c.pc.toNat, c.loops.length)) = some (111, 0)
    ∧ trapOf (.loop (bf 5 0 true)) (at100 fourLoops) = some (0x05 + 7 * 256) ∧ trapOf (.leavet (bf 0 1)) (at100 outside) = some (0x05 + 7 * 256) := by decide +kernel

def atLast (n : Nat) : Core := { c5 {} with pc := 110, loops := [{ start := 90, last := 110, count := n }, { start := 80, last := 110, count := 9 }] }
theorem meets_LoopEnds : (({} : BRes).taken = false) ∧ ({ next := some 5, taken := true } : BRes).taken = true
    ∧ (atLast 2).loops.length = 2 ∧ 110 = (atLast 2).pc.toNat ∧ ({} : Core).loops = [] ∧ (110 : Nat) ≠ (c5 {}).pc.toNat := by decide
/-- R180: only the innermost entry is tested. -/
theorem test_loop_end : ((atLast 2).nextBundle 1 none).pc = 90 ∧ ((atLast 2).nextBundle 1 none).loops.map (·.count) = [1, 9]
    ∧ ((atLast 1).nextBundle 1 none).pc = 111 ∧ ((atLast 1).nextBundle 1 none).loops.map (·.count) = [9] := by decide

/-! ## A tenant strand: context 5 runs on strand 4, with code at 0x10000 and data at 0x20000, both in HBM at the same address. -/

def hostLine (l : List (Nat × Nat)) : List Word := (List.range 64).map fun k => BitVec.ofNat 64 (((l.find? fun p => p.1 == k).map fun p => p.2).getD 0)
/-- H5 and H6: the code and its length; H8, H9: sync objects; H12: a jump table of 2 entries at 0x11000; H3: one slot. -/
def line5 : List (Nat × Nat) := [(0, 0xABC), (5, 0x10000), (6, 1000), (12, 0x11000 + 2 * 2 ^ 48)]
def leafData (frame : Nat) : Word := BitVec.ofNat 64 (0x27 + frame * 2 ^ 28)
def leafCode (frame : Nat) : Word := BitVec.ofNat 64 (0x2B + frame * 2 ^ 28)
def tenant (c : Core → Core := id) (t : Strand → Strand := id) (g : Group → Group := id) (h : List (Nat × Nat) := []) : State :=
  { State.reset with
    focus := 4
    strands := [(4, t { st := .running, mcx := 5, bank := 64, ntile := 4, nacc := 2, scope := 1, core := c {} })]
    spindles := [(1, { running := some 0, last := some 0, mcx := some 5 })]
    ctxs := [(5, some { die := 0, host := hostLine (h ++ line5), st := .bound, root := 1 })]
    tlb := [{ mcx := 5, base := 0x10000, size := 65536, leaf := leafCode 1 }, { mcx := 5, base := 0x20000, size := 65536, leaf := leafData 2 }]
    groups := [(5, some (g { spindles := [1], root := 1, scopes := [(1, some {})] }))]
    clusters := [(0, { banks := [(0, { mode := .scratch, owner := .mill }), (1, { mode := .scratch, owner := .mill }),
      (2, { mode := .scratch, owner := .ctx 5 }), (3, { mode := .fifo, owner := .ctx 5 }), (4, { mode := .fifo, owner := .ctx 5 })] })] }

theorem meets_JumpTable :
    Ready (tenant (xs [1, 2])) (.jt (bf 0 0 true)) (fetched (tenant (xs [1, 2]))) 1 ∧ isMill (tenant (xs [1, 2])).focus = false
    ∧ Alone (tenant (xs [1, 2])) (.jt (bf 0 1)) (fetched (tenant (xs [1, 2]))) 1
    ∧ (match (tenant (xs [1, 2])).fetchBytes 4 0x11004 4 with | .ok t _ => t == 0 | _ => false) = true :=
  ⟨readyF_of _ _ _ (by decide +kernel), by decide +kernel, aloneF_of _ _ _ (by decide +kernel), by decide +kernel⟩
theorem test_jump_table : (coreAfter (.jt (bf 0 0 true)) (tenant (xs [1, 2]))).map (fun c => c.pc.toNat) = some 0 := by decide +kernel

/-! ## Vectors -/

/-- v4 and v5 hold in lane 0 the FP32 values 1.5 and −2.5, in lane 1 the numbers 7 and −3 as S32, in lane 2 infinity and zero; p1 is all ones but for bit 1. -/
def cv (c : Core) : Core :=
  { c with
    v := [(4, BitVec.ofNat 4096 (0x3FC00000 + 7 * 2 ^ 32 + 0x7F800000 * 2 ^ 64)), (5, BitVec.ofNat 4096 (0xC0200000 + (2 ^ 32 - 3) * 2 ^ 32)), (6, BitVec.ofNat 4096 0x3F800000)]
    p := [(1, BitVec.allOnes 128 - 2)] }
def vs : State := shares (mill cv)
/-- The value in flight after an instruction. -/
def flies (i : Instr) (s : State) : Option (Nat × Nat × Nat × Nat) :=
  (coreAfter i s).bind fun c => c.flight.head?.map fun f => (f.reg, f.val, f.d, f.sticky.toNat)
/-- Lane k of 32 bits in flight. -/
def lane32 (i : Instr) (s : State) (k : Nat) : Option Nat := (flies i s).map fun f => laneOf 32 f.2.1 k
/-- Types: 0 f32, 3 s32, 4 u32, 9 b32. -/
def two (ty : Nat) : VF := vf ty 8 4 5 0 0 0 0
def one (ty : Nat) : VF := vf ty 8 4 0 0 0 0 0
def vList : List Instr :=
  [.vadd (two 0), .vadd (two 3), .vsub (two 0), .vsub (two 3), .vmul (two 0), .vmul (two 3), .vfma (vf 0 8 4 5 6), .vfma (vf 3 8 4 5 6), .vfms (vf 0 8 4 5 6), .vfms (vf 3 8 4 5 6),
   .vfnma (vf 0 8 4 5 6), .vfnma (vf 3 8 4 5 6), .vmov (one 9), .vmulh (two 3), .vmin (two 3), .vmin (two 0), .vmax (two 3), .vmax (two 0), .vabs (one 3), .vabs (one 0), .vneg (one 3),
   .vneg (one 0), .vaddsat (two 3), .vsubsat (two 4), .vavg (two 4), .vand (two 9), .vor (two 9), .vxor (two 9), .vandn (two 9), .vshl (two 9), .vshr (two 3), .vshr (two 4), .vpopc (one 9),
   .vclz (one 9)]
theorem meets_Vector1 : (∀ i ∈ vList, Ready vs i vs 1) ∧ (two 0).tyF = true ∧ (two 3).tyF = false ∧ (two 3).tyS = true ∧ (two 4).tyS = false := by
  exact ⟨ready_all _ _ (by decide +kernel), by decide, by decide, by decide, by decide⟩
/-- R196: 1.5 and −2.5 in lane 0, with 1.0 added or subtracted; 7 and −3 in lane 1. -/
theorem test_vector_arithmetic :
    [Instr.vadd (two 0), .vsub (two 0), .vmul (two 0), .vfma (vf 0 8 4 5 6), .vfms (vf 0 8 4 5 6), .vfnma (vf 0 8 4 5 6)].map (fun i => lane32 i vs 0) =
      [0xBF800000, 0x40800000, 0xC0700000, 0xC0300000, 0xC0980000, 0x40980000].map some
    ∧ [Instr.vadd (two 3), .vsub (two 3), .vmul (two 3), .vfma (vf 3 8 4 5 6), .vfms (vf 3 8 4 5 6), .vfnma (vf 3 8 4 5 6)].map (fun i => lane32 i vs 1) =
      [4, 10, 2 ^ 32 - 21, 2 ^ 32 - 21, 2 ^ 32 - 21, 21].map some := by decide +kernel
/-- R192: lane 1 is inactive under p1: it keeps v8's value, zero here, or becomes zero; the result is in flight for 4 cycles. -/
theorem test_vector_guard : lane32 (.vadd (vf 3 5 4 5 0 0 0 1)) vs 1 = some (2 ^ 32 - 3) ∧ lane32 (.vadd (vf 3 5 4 5 0 0 0 1 true)) vs 1 = some 0
    ∧ (flies (.vadd (two 0)) vs).map (fun f => (f.1, f.2.2.1)) = some (8, 3) := by decide +kernel
/-- R197. -/
theorem test_vector_minmax :
    [Instr.vmov (one 9), .vmulh (two 3), .vmin (two 3), .vmax (two 3), .vabs (one 3), .vneg (one 3), .vaddsat (two 3), .vsubsat (two 4), .vavg (two 4)].map (fun i => lane32 i vs 1) =
      [7, 2 ^ 32 - 1, 2 ^ 32 - 3, 7, 7, 2 ^ 32 - 7, 4, 0, 0x80000002].map some
    ∧ [Instr.vmin (two 0), .vmax (two 0), .vabs (one 0), .vneg (one 0)].map (fun i => lane32 i vs 0) = [0xC0200000, 0x3FC00000, 0x3FC00000, 0xBFC00000].map some
    ∧ (flies (.vsubsat (two 4)) vs).map (fun f => f.2.2.2) = some 0x20 := by decide +kernel
/-- R198. -/
theorem test_vector_bits :
    [Instr.vand (two 9), .vor (two 9), .vxor (two 9), .vandn (two 9), .vshl (two 9), .vshr (two 3), .vpopc (one 9), .vclz (one 9)].map (fun i => lane32 i vs 1) =
      [5, 2 ^ 32 - 1, 2 ^ 32 - 6, 2, 7 * 2 ^ 29, 0, 3, 29].map some := by decide +kernel

def fList : List Instr := [.vrcp (one 0), .vrsqrt (one 0), .vexp2 (one 0), .vlog2 (one 0), .vtanh (one 0), .vsigm (one 0)]
theorem meets_VectorFunctions : (∀ i ∈ fList, Ready vs i vs 1) ∧ vNum (one 0) 0x7FC00000 = .nan ∧ vNum (one 0) 0x7F800000 = .inf false ∧ vNum (one 0) 0xFF800000 = .inf true
    ∧ (match vNum (one 0) 0x80000000, vNum (one 0) 0 with | .fin true 0 _, .fin false 0 _ => true | _, _ => false) = true :=
  ⟨ready_all _ _ (by decide +kernel), by decide +kernel, by decide +kernel, by decide +kernel, by decide +kernel⟩
/-- R199: 1 ÷ 1.5 rounds to 0x3F2AAAAB; the reciprocal of −0 is −∞ with DIVZERO; the square root of 4 inverts to 0.5; the logistic function of +∞ is 1. -/
theorem test_vector_functions : vRcpFun (one 0) 0x3FC00000 = (0x3F2AAAAB, 1) ∧ vRcpFun (one 0) 0x80000000 = (0xFF800000, 8)
    ∧ vRsqrtFun (one 0) 0x40800000 = (0x3F000000, 0) ∧ vSigmFun (one 0) 0x7F800000 = (0x3F800000, 0) ∧ vTanhFun (one 0) 0xFF800000 = (0xBF800000, 0)
    ∧ vExp2Fun (one 0) 0 = (0x3F800000, 0) ∧ (vLog2Fun (one 0) 0xBF800000).2 = 0x10 := by decide +kernel

def cmpList : List Instr := [.vcmpeq (vf 3 2 4 5 0), .vcmpne (vf 3 2 4 5 0), .vcmplt (vf 3 2 4 5 0), .vcmple (vf 3 2 4 5 0), .vclass (vf 0 2 4 0 0x1FF)]
def pList : List Instr := [.pand (vf 9 3 1 2 0), .por (vf 9 3 1 2 0), .pxor (vf 9 3 1 2 0), .pandn (vf 9 3 1 2 0), .pnot (vf 9 3 1 0 0), .pfirst (vf 9 3 1 0 0)]
theorem meets_ComparesAndPredicates : (∀ i ∈ cmpList ++ pList, Ready vs i vs 1) ∧ (vf 3 2 4 5 0).tyF = false ∧ (vf 0 2 4 5 0).tyF = true :=
  ⟨ready_all _ _ (by decide +kernel), by decide, by decide⟩
/-- R200: 7 and −3 in bit 1. R211 on p1 = …1101 and p2 = 0. -/
theorem test_compares : (cmpList.take 4).map (fun i => (flies i vs).map fun f => f.2.1 / 2 % 2) = [0, 1, 0, 0].map some
    ∧ pList.map (fun i => (flies i vs).map fun f => f.2.1 % 4) = [0, 1, 1, 1, 2, 1].map some := by decide +kernel

def permList : List Instr :=
  [.vsel (vf 9 8 4 5 1), .vperm (vf 9 8 4 5 6), .vslideup (vf 9 8 4 5 1), .vslidedn (vf 9 8 4 5 1), .vbcast (vf 9 8 4 0 1), .vzip (vf 9 8 4 5 0), .vunzip (vf 9 8 4 5 1), .vrev (vf 9 8 4 0 0)]
theorem meets_VectorPermutes : ∀ i ∈ permList, Ready vs i vs 1 := ready_all _ _ (by decide +kernel)
/-- R202, R203 in lane 1: p1's bit 1 is 0, so VSEL takes b; index −3 is past 256, so VPERM writes 0; a slide by 1; a broadcast of lane 1; b[0] zipped; a[3] unzipped. -/
theorem test_permutes : permList.map (fun i => lane32 i vs 1) = [2 ^ 32 - 3, 0, 0x3FC00000, 0x7F800000, 7, 0xC0200000, 0, 0].map some := by decide +kernel

def redList : List Instr := [.vredadd (vf 3 8 4 5 0), .vredmin (vf 3 8 4 5 0), .vredmax (vf 3 8 4 5 0), .vscan (vf 3 8 4 5 0)]
theorem meets_VectorReductionsAndScans : (∀ i ∈ redList ++ [.vredadd (vf 0 8 4 5 0), .vscan (vf 0 8 4 5 0)], Ready vs i vs 1) ∧ (vf 3 8 4 5 0).tyF = false :=
  ⟨ready_all _ _ (by decide +kernel), by decide⟩
/-- R204, R205: b[0] = 0xC0200000 is negative as S32; the sum with 0x3FC00000, 7 and 0x7F800000 is 0x7F600007. -/
theorem test_reductions : redList.map (fun i => lane32 i vs 0) = [0x7F600007, 0xC0200000, 0x7F800000, 0xFFE00000].map some := by decide +kernel

/-- The word of the spec's VCVT example. -/
def cvtWord : Nat := 0xD0028070008CC8
theorem meets_VectorConversions : (∀ i ∈ [.vcvt (vf 0 8 4 0 3), .vcvt (vf 0 8 4 0 (3 + 16))], Ready vs i vs 1) ∧ (vf 0 8 4 0 3).vc.getLsbD 4 = false
    ∧ (vf 0 8 4 0 (3 + 16)).vc.getLsbD 4 = true := ⟨ready_all _ _ (by decide +kernel), by decide, by decide⟩
/-- FP32 lanes 0 to 3, the others 2.0. -/
def lanes32 (l : List Nat) : Nat := ((l ++ List.replicate (128 - l.length) 0x40000000).mapIdx fun k v => v * 2 ^ (32 * k)).sum
def quantCore (c : Core) : Core :=
  { c with
    x := [(12, 0x00803800)]
    v := [(6, BitVec.ofNat 4096 (lanes32 [0x3FA66666, 0xC28C0000, 0x42800000, 0xBE800000])), (7, BitVec.ofNat 4096 (lanes32 [0x3F800000, 0x43FA0000, 0x7FC00000, 0x3DCCCCCD])),
      (9, BitVec.ofNat 4096 (0x83 + 0xFF * 2 ^ 16 + 0x80 * 2 ^ 24)), (10, BitVec.ofNat 4096 (0x00803800 + 0x00803800 * 2 ^ 32 + 0x00803800 * 2 ^ 64 + 0x00803800 * 2 ^ 96))]
    p := [(3, BitVec.allOnes 128 - 32)] }
def qs : State := shares (mill quantCore)
/-- R206, with the spec's example: bytes 128 to 133 of v20, and its sticky bits OVERFLOW and INEXACT. -/
theorem test_vcvt : (match decodeV 0xD0028070008CC8 with
    | .ok i => (flies i qs).map fun f => (f.1, (List.range 6).map fun k => laneOf 8 f.2.1 (128 + k), f.2.2.2)
    | _ => none) = some (20, [0x38, 0x7E, 0x7F, 0x1D, 0x40, 0], 5) := by decide +kernel
def quants : List Instr := [.vquant (vf 0 30 6 10 9), .vdequant (vf 0 31 9 10 9), .vquantScales (vf 0 30 6 0 (12 + 16)), .vpack (vf 11 8 9 0 5), .vunpack (vf 11 8 9 0 5)]
theorem meets_VectorQuantisationAndPacking : ∀ i ∈ quants, Ready qs i qs 1 := ready_all _ _ (by decide +kernel)
/-- R208, R209 with the spec's example: codes 0x83, 0, 0xFF and 0x80; then 1.5, −64.0, 63.5 and +0. -/
theorem test_quantise :
    (flies (.vquant (vf 0 30 6 10 9)) qs).map (fun f => (List.range 4).map fun k => laneOf 8 f.2.1 k) = some [0x83, 0, 0xFF, 0x80]
    ∧ (List.range 4).map (fun k => lane32 (.vdequant (vf 0 31 9 10 9)) qs k) = [0x3FC00000, 0xC2800000, 0x427E0000, 0].map some := by decide +kernel
/-- R210: containers 0x83, 0, 0xFF, 0x80 pack to six-bit elements 3, 0, 63, 0. -/
theorem test_pack : (flies (.vpack (vf 11 8 9 0 5)) qs).map (fun f => f.2.1 % 2 ^ 32) = some (3 + 63 * 2 ^ 12)
    ∧ (flies (.vunpack (vf 11 8 9 0 5)) qs).map (fun f => f.2.1 % 2 ^ 32) = some (3 + 2 * 2 ^ 8 + 48 * 2 ^ 16 + 63 * 2 ^ 24) := by decide +kernel

def portFrame (s : State) (bp : Nat) : State := { s with frame := { bp := BitVec.ofNat 16 bp } }
/-- A port of mode 3 names tile 7, outside the share of 4. -/
theorem meets_VectorBankAndPort :
    Alone vs (.vadd (vf 0 64 4 5 0)) vs 1 ∧ (vs.aloneEnv vs vs (.vadd (vf 0 64 4 5 0)) 1).t.bank ≤ 64
    ∧ Presents (portFrame vs 0xC700) (.vadd (vf 4 8 4 0 0 2)) (portFrame vs 0xC700) 1 ∧ Presents (portFrame vs 0xC700) (.vadd (vf 4 8 4 0 0)) (portFrame vs 0xC700) 1
    ∧ bpMode 0xC700 = 3 ∧ 4 ≤ bpSrc 0xC700 % 16
    ∧ (vf 0 8 0 5 0 1).bpsel = 1 ∧ bpMode 0x4500 = 1 ∧ bpLf 0x4500 = 0 ∧ bpLf 0x4540 = 1 ∧ bpLf 0x4580 = 2 := by
  refine ⟨alone_of _ _ _ (by decide +kernel), by decide +kernel, presents_of _ _ _ (by decide +kernel), presents_of _ _ _ (by decide +kernel), ?_⟩
  decide +kernel

/-! ## Memory -/

/-- x1 = 0x40, x2 = 0x1122334455667788, x3 = 0x41, x4 = 2^20, x5 = 0x20000; p1 = 0, p2 is lanes 0 and 1. The scratchpad holds 0x80 and 0xFF at 0x40. -/
def cm (c : Core) : Core := { xs [0x40, 0x1122334455667788, 0x41, 2 ^ 20, 0x20000] c with p := [(2, 3)], v := [(8, BitVec.ofNat 4096 (4 + 8 * 2 ^ 32)), (9, BitVec.ofNat 4096 (16 + 32 * 2 ^ 32))] }
def ms : State := (shares (mill cm)).updCluster 0 fun c => { c with bytes := [(0x40, 0x80), (0x41, 0xFF), (0x44, 0x7F), (0x440, 1)] }
/-- The same with granule 0 owned by an engine. -/
def msEng : State := ms.updCluster 0 fun c => { c with grans := [(0, { eng := some (.copy 9) })] }
def loads8 (f : LF) : List Instr := [.ldsS8 f, .ldsN8 f, .ldsS16 f, .ldsN16 f, .ldsS32 f, .ldsN32 f, .ldsB64 f]
theorem meets_ScratchpadLoads :
    (∀ i ∈ .lNop (lf 0 0 0) :: loads8 (lf 6 1 0) ++ loads8 (lf 6 1 0 0 false false 1) ++ loads8 (lf 6 3 0) ++ loads8 (lf 6 4 0), Ready ms i ms 1)
    ∧ (∀ i ∈ loads8 (lf 6 1 0), Ready msEng i msEng 1) ∧ ms.guardOn (lf 6 1 0) = true ∧ ms.guardOn (lf 6 1 0 0 false false 1) = false
    ∧ ms.spadCheck 0 0x40 8 8 = none ∧ ms.engineOwned 0 0x40 8 = false ∧ ms.spadPoisoned 0 0x40 8 = false ∧ msEng.spadCheck 0 0x40 8 8 = none
    ∧ msEng.engineOwned 0 0x40 8 = true ∧ (ms.spadCheck 0 0x41 8 8).isSome = true ∧ (ms.spadCheck 0 (2 ^ 20) 8 8).isSome = true := by
  refine ⟨ready_all _ _ (by decide +kernel), ready_all _ _ (by decide +kernel), ?_⟩
  decide +kernel
/-- R216: the bytes 80 FF 00 00 7F 00 00 00, extended; a misaligned access traps ALIGN, one outside the owned banks SPBOUND (R123). -/
theorem test_scratchpad_loads :
    (loads8 (lf 6 1 0)).map (fun i => (flies i ms).map fun f => f.2.1) =
      [2 ^ 64 - 128, 0x80, 2 ^ 64 - 0x80, 0xFF80, 0xFF80, 0xFF80, 0x7F0000FF80].map some
    ∧ trapOf (.ldsB64 (lf 6 3 0)) ms = some (0x09 + 5 * 256) ∧ trapOf (.ldsB64 (lf 6 4 0)) ms = some (0x0A + 5 * 256) := by decide +kernel

def stores8 (f : LF) : List Instr := [.stsB8 f, .stsB16 f, .stsB32 f, .stsB64 f]
/-- The stores that the strand in focus withholds after an instruction. -/
def withheld (i : Instr) (s : State) : Option (List (Loc × List Nat)) :=
  match exec i s with
  | .next t => some ((t.strand t.focus).stores.map fun p => (p.loc, p.bytes.map BitVec.toNat))
  | _ => none
theorem meets_ScratchpadStores :
    (∀ i ∈ stores8 (lf 2 1 0) ++ stores8 (lf 2 1 0 0 false false 1) ++ stores8 (lf 2 3 0), Ready ms i ms 1) ∧ ms.spadStoreCheck 0 0x40 8 8 = none
    ∧ (ms.spadStoreCheck 0 0x41 8 8).isSome = true := by
  refine ⟨ready_all _ _ (by decide +kernel), ?_⟩
  decide +kernel
theorem test_scratchpad_stores : (stores8 (lf 2 1 0)).map (fun i => withheld i ms) =
    [[0x88], [0x88, 0x77], [0x88, 0x77, 0x66, 0x55], [0x88, 0x77, 0x66, 0x55, 0x44, 0x33, 0x22, 0x11]].map fun b => some [(.spad 0 0x40, b)] := by decide +kernel

def vmem : List Instr := [.ldsv (lf 8 0 0), .stsv (lf 8 0 0), .ldsvs (lf 8 1 0x400), .stsvs (lf 8 1 0x400), .gather (lf 8 1 0), .scatter (lf 8 1 0)]
def vmemG : List Instr := [.stsv (lf 8 0 0 0 false false 2), .ldsvs (lf 8 1 0x400 0 false false 2), .gather (lf 8 1 0 0 false false 2), .scatter (lf 8 1 0 0 false false 2)]
theorem meets_ScratchpadVectorAccess :
    (∀ i ∈ vmem ++ vmemG ++ [.ldsv (lf 8 0 0 0 false false 1), .gather (lf 8 1 0 0 false false 1)], Ready ms i ms 1)
    ∧ ms.spadCheck 0 0 512 512 = none ∧ ms.engineOwned 0 0 512 = false ∧ ms.spadPoisoned 0 0 512 = false ∧ ms.spadStoreCheck 0 0 512 4 = none
    ∧ (∀ a ∈ [0x40, 0x440, 0x44, 0x48, 0x50, 0x60], ms.spadCheck 0 a 4 4 = none ∧ ms.engineOwned 0 a 4 = false ∧ ms.spadPoisoned 0 a 4 = false
      ∧ ms.spadStoreCheck 0 a 4 4 = none) ∧ 8 + 1 < (ms.strand 0).bank := by
  refine ⟨ready_all _ _ (by decide +kernel), ?_⟩
  decide +kernel
/-- R217 to R219: lane 16 of the whole register is the word at 0x40; a stride of 0x400; offsets 4 and 8 from v8; two lanes scattered by v9 to 0x50 and 0x60. -/
theorem test_scratchpad_vectors : lane32 (.ldsv (lf 8 0 0)) ms 16 = some 0xFF80 ∧ lane32 (.ldsvs (lf 8 1 0x400 0 false false 2)) ms 1 = some 1
    ∧ lane32 (.gather (lf 8 1 0 0 true false 2)) ms 0 = some 0x7F
    ∧ withheld (.scatter (lf 8 1 0 0 false false 2)) ms = some [(.spad 0 0x50, [4, 0, 0, 0]), (.spad 0 0x60, [8, 0, 0, 0])]
    ∧ withheld (.stsvs (lf 8 1 0x400 0 false false 2)) ms = some [(.spad 0 0x40, [4, 0, 0, 0]), (.spad 0 0x440, [8, 0, 0, 0])]
    ∧ withheld (.stsv (lf 8 0 0 0 false false 2)) ms = some [(.spad 0 0, [4, 0, 0, 0, 8, 0, 0, 0])] := by decide +kernel

def loadsG (f : LF) : List Instr := [.ldgS8 f, .ldgN8 f, .ldgS16 f, .ldgN16 f, .ldgS32 f, .ldgN32 f, .ldgB64 f]
def storesG (f : LF) : List Instr := [.stgB8 f, .stgB16 f, .stgB32 f, .stgB64 f]
/-- A tenant with the same registers; 0x20000 holds 80 FF, 0x50000 is not translated. -/
def ts : State := { tenant cm with hbm := [(0x20000, 0x80), (0x20001, 0xFF)] }
/-- The results that a strand waits for. -/
def awaited (i : Instr) (s : State) : Option (List Wait × List (Nat × Nat)) :=
  match exec i s with
  | .next t => some ((t.strand t.focus).waits, (t.strand t.focus).resp.map fun w => (w.reg, w.val))
  | _ => none
theorem meets_GlobalLoads :
    (∀ i ∈ loadsG (lf 6 5 0) ++ loadsG (lf 6 5 0 0 false false 1) ++ loadsG (lf 6 5 1) ++ [.ldgv (lf 8 5 0)], Ready ts i (fetched ts) 1 ∧ Ready ms i ms 1)
    ∧ (match (ts.base (.ldgB64 (lf 6 5 0)) ts).place 4 0x20000 .read with | .ok (pl, _) => pl.loc == .hbm 0x20000 0 | _ => false) = true
    ∧ (match (ms.base (.ldgB64 (lf 6 5 0)) ms).place 0 0x20000 .read with | .ok (pl, _) => pl.loc == .phys 0x20000 | _ => false) = true
    ∧ (match ts.place 4 0x50000 .read with | .error _ => true | _ => false) = true
    ∧ (match ts.readPlace { loc := .hbm 0x20000 0, ea := 0x20000 } 8 with | .ok _ => true | _ => false) = true
    ∧ (match ({ ts with sects := [(0x400, { poison := true })] } : State).readPlace { loc := .hbm 0x20000 0, ea := 0x20000 } 8 with | .error _ => true | _ => false) = true
    ∧ (ts.me.rp 0).getLsbD 0 = true := by
  refine ⟨?_, ?_⟩
  · intro i hi
    exact ⟨readyF_all ts _ (by decide +kernel) i hi, ready_all ms _ (by decide +kernel) i hi⟩
  · decide +kernel
/-- R220: 80 FF, extended. -/
theorem test_global_loads : (loadsG (lf 6 5 0)).map (fun i => awaited i ts) =
    [2 ^ 64 - 128, 0x80, 2 ^ 64 - 0x80, 0xFF80, 0xFF80, 0xFF80, 0xFF80].map fun v => some ([.resp], [(6, v)]) := by decide +kernel

theorem meets_GlobalStores :
    (∀ i ∈ storesG (lf 2 5 0) ++ storesG (lf 2 5 0 0 false false 1) ++ storesG (lf 2 5 1) ++ [.stgv (lf 8 5 0 0 false false 2)], Ready ts i (fetched ts) 1 ∧ Ready ms i ms 1)
    ∧ (ts.tlbHit 5 0x20000).isSome = true ∧ (ts.tlbHit 5 0x50000).isNone = true
    ∧ (match ts.place 4 0x20000 .write with | .ok (pl, _) => pl.loc == .hbm 0x20000 0 | _ => false) = true
    ∧ ((ts.acting (.stgv (lf 8 5 0 0 false false 2)) ts 1).lactive (lf 8 5 0 0 false false 2)).isEmpty = false := by
  refine ⟨?_, ?_⟩
  · intro i hi
    exact ⟨readyF_all ts _ (by decide +kernel) i hi, ready_all ms _ (by decide +kernel) i hi⟩
  · decide +kernel
theorem test_global_stores : withheld (.stgB16 (lf 2 5 0)) ts = some [(.hbm 0x20000 0, [0x88, 0x77])]
    ∧ withheld (.stgv (lf 8 5 0 0 false false 2)) ms = some [(.phys 0x20000, [4, 0, 0, 0, 8, 0, 0, 0])] := by decide +kernel

def held1 : State := ms.updStrand 0 fun t => { t with stores := [{ loc := .spad 0 0x40, bytes := [1, 2], slot := 5 }] }
theorem meets_StoresSeenAndCommitted : (held1.strand 0).stores = [{ loc := .spad 0 0x40, bytes := [1, 2], slot := 5 }] ∧ (held1.strand 0).heldCopies = []
    ∧ held1.spadPartPoison 0 0x40 [1, 2] = false ∧ mwf 0 (held1.cluster 0).bytes = true := by decide +kernel
theorem test_commit : (match held1.commitRegion 0 with
    | .ok t => some (getBytes (t.cluster 0).bytes 0x40 5, (t.strand 0).stores)
    | _ => none) = some ([1, 2, 0, 0, 0x7F], []) := by decide +kernel

/-- Doublewords placed in a byte memory. -/
def words (l : List (Nat × Nat)) : List Host.Cell := l.foldl (fun m p => putBytes m p.1 (leBytes 8 p.2)) []
def atomics (f : LF) : List Instr := [.aadd f, .asmin f, .anmin f, .asmax f, .anmax f, .aand f, .aor f, .axor f, .aswap f]
/-- x1 = 0x80, x2 = −3, x3 = 5, x5 = 0x20000, x6 = 7, x7 = 9; the word at 0x80 of the scratchpad is 7. -/
def ca (c : Core) : Core := { xs [0x80, 2 ^ 64 - 3, 5, 0x44, 0x20000, 7, 9] c with p := [(2, 3)] }
def as : State := (shares (mill ca)).updCluster 0 fun c => { c with bytes := [(0x80, 7)] }
def asG : State := { tenant ca with hbm := [(0x20000, 7)] }
theorem meets_Atomics :
    (∀ i ∈ atomics (lf 2 1 0 0 true) ++ atomics (lf 2 5 0) ++ atomics (lf 2 4 0 0 true) ++ atomics (lf 2 1 0 0 true false 1) ++ [.acas (lf 6 1 0 0 true), .acas (lf 2 1 0 0 true)],
      Ready as i as 1)
    ∧ (∀ i ∈ atomics (lf 2 5 0), Ready asG i (fetched asG) 1)
    ∧ as.spadStoreCheck 0 0x80 8 8 = none ∧ as.spadPoisoned 0 0x80 8 = false ∧ 0x44 % 8 ≠ 0
    ∧ (match asG.place 4 0x20000 .write with | .ok (pl, _) => pl.loc == .hbm 0x20000 0 && (match asG.readPlace pl 8 with | .ok bs => leNat bs == 7 | _ => false) | _ => false) = true
    ∧ (match as.place 0 0x20000 .write with | .ok (pl, _) => pl.loc == .phys 0x20000 | _ => false) = true := by
  refine ⟨ready_all _ _ (by decide +kernel), readyF_all _ _ (by decide +kernel), ?_⟩
  decide +kernel
/-- The word at 0x80 of the scratchpad, and at 0x20000 of HBM, after an instruction. -/
def wordAfter (i : Instr) (s : State) : Option (Nat × Nat) :=
  match exec i s with
  | .next t => some (leNat (getBytes (t.cluster 0).bytes 0x80 8), leNat (getBytes t.hbm 0x20000 8))
  | _ => none
/-- R222, R223 on 7 and −3; the old value 7 is what the strand waits for. -/
theorem test_atomics :
    (atomics (lf 2 1 0 0 true)).map (fun i => wordAfter i as) = [4, 2 ^ 64 - 3, 7, 7, 2 ^ 64 - 3, 5, 2 ^ 64 - 1, 2 ^ 64 - 6, 2 ^ 64 - 3].map (fun v => some (v, 0))
    ∧ wordAfter (.acas (lf 6 1 0 0 true)) as = some (9, 0) ∧ wordAfter (.acas (lf 2 1 0 0 true)) as = some (7, 0)
    ∧ wordAfter (.aadd (lf 2 5 0)) asG = some (0, 4) ∧ awaited (.aadd (lf 2 5 0)) asG = some ([.resp], [(2, 7)]) := by decide +kernel

/-- Sync object 0 is a scratchpad word of bank 2, object 1 the global word 0x20040. -/
def syncs : State :=
  { tenant ca id id [(11, 0x12000 + 2 * 2 ^ 48)] with hbm := words [(0x12000, 0x80000 + 2 ^ 48), (0x12040, 0x20040), (0x20040, 6)] }
theorem meets_AcquireReleaseFence :
    (∀ i ∈ [.acq (lf 6 0 0 4), .acq (lf 6 0 1 4), .acq (lf 6 0 2 4), .rel (lf 3 0 0 4), .rel (lf 3 0 1 4), .fence (lf 0 0 0), .fence (lf 0 0 0 3)], Ready syncs i (fetched syncs) 1)
    ∧ (∀ i ∈ [.acq (lf 6 0 0 4), .rel (lf 3 0 0 4)], Alone as i as 1)
    ∧ syncs.syncCount 5 = 2 ∧ syncs.syncD0 5 0 = 0x80000 + 2 ^ 48 ∧ syncs.syncD0 5 1 = 0x20040 ∧ syncs.spadCheck 4 0x80000 8 8 = none
    ∧ syncs.engineOwned 0 0x80000 8 = false ∧ syncs.spadPoisoned 0 0x80000 8 = false ∧ syncs.spadStoreCheck 4 0x80000 8 8 = none ∧ syncs.remotePending 4 = false
    ∧ (match syncs.place 4 0x20040 .write with | .ok (pl, _) => (match syncs.readPlace pl 8 with | .ok bs => leNat bs == 6 | _ => false) | _ => false) = true := by
  refine ⟨readyF_all _ _ (by decide +kernel), alone_all _ _ (by decide +kernel), ?_⟩
  decide +kernel
/-- R224, R226: an ACQ waits for 7 at object 0; a mill strand has no sync table; a FENCE.strand does not wait. -/
theorem test_acquire : awaited (.acq (lf 6 0 0 4)) syncs = some ([.acq (.spad 0 0x80000) 0x80000 7 6 { scope := 4, mcx := 5 }], [(6, 0)])
    ∧ trapOf (.acq (lf 6 0 0 4)) as = some (1 + 5 * 256) ∧ awaited (.fence (lf 0 0 0)) syncs = some ([], []) ∧ awaited (.fence (lf 0 0 0 3)) syncs = some ([.fence], []) := by
  decide +kernel
theorem test_release : (match exec (.rel (lf 3 0 1 4)) syncs with | .next t => some (leNat (getBytes t.hbm 0x20040 8)) | _ => none) = some 5 := by decide +kernel

/-- x6 = 0x100 bytes expected and 2 arrivals. -/
def cb (c : Core) : Core := { xs [0x80, 0, 0, 0x48, 0, 0x100 + 2 * 2 ^ 32] c with p := [(2, 3)] }
def bs0 : State := shares (mill cb)
def armed (s : State) : State := s.updCluster 0 fun c => c.barInit 0x80 (0x100 + 2 * 2 ^ 32) 0
theorem meets_Barriers :
    (∀ i ∈ [.barinit (lf 6 1 0), .barinit (lf 6 4 0), .barwait (lf 6 1 0), .bararv (lf 0 1 0)], Ready bs0 i bs0 1)
    ∧ (∀ i ∈ [.barinit (lf 6 1 0), .bararv (lf 0 1 0), .barwait (lf 6 1 0), .barwait (lf 6 1 0 0 true)], Ready (armed bs0) i (armed bs0) 1)
    ∧ bs0.barCheck 0 0x80 = none ∧ (bs0.barCheck 0 0x48).isSome = true ∧ ((armed bs0).cluster 0).mark 0x80 = { armed := true } ∧ (bs0.cluster 0).mark 0x80 = {}
    ∧ bs0.engineOwned 0 0x80 16 = false ∧ ((armed bs0).cluster 0).barPhase 0x80 = false ∧ mwf 0 (bs0.cluster 0).bytes = true := by
  refine ⟨ready_all _ _ (by decide +kernel), ready_all _ _ (by decide +kernel), ?_⟩
  decide +kernel
/-- R131, R227, R228: W0 to W3 of the armed object, one arrival, and a wait for phase 0. -/
theorem test_barriers :
    (match exec (.barinit (lf 6 1 0)) bs0 with | .next t => some (leNat (getBytes (t.cluster 0).bytes 0x80 16)) | _ => none) =
      some (0x80000100 + 0x100 * 2 ^ 32 + 0x20002 * 2 ^ 64)
    ∧ (match exec (.bararv (lf 0 1 0)) (armed bs0) with | .next t => some (leNat (getBytes (t.cluster 0).bytes 0x88 4)) | _ => none) = some 0x20001
    ∧ awaited (.barwait (lf 6 1 0)) (armed bs0) = some ([.barrier 0 0x80 false], []) ∧ trapOf (.bararv (lf 0 1 0)) bs0 = some (0x08 + 5 * 256) := by decide +kernel

/-- A bobbin of two slots of 1 KiB in bank 3, its slot 0 FULL and its slot 1 DRAINING. -/
def bob : Bobbin := { slotsm1 := 1, tags := [.full, .draining] }
def bobs (o : Option Bobbin) (x : Nat := 1) : State := (tenant (xs [3, x, 3 * 2 ^ 18 + 1024, 2, 3 * 2 ^ 18])).updCluster 0 fun c => c.setBobbin 3 o
theorem meets_BobbinsAndBankModes :
    (∀ i ∈ [.bobpop (lf 6 1 0), .bobstat (lf 6 1 0), .bobrel (lf 0 3 0), .bobrel (lf 0 5 0)], Ready (bobs (some bob)) i (fetched (bobs (some bob))) 1)
    ∧ Ready (bobs (some { bob with tags := [.empty, .draining] })) (.bobpop (lf 6 1 0)) (fetched (bobs (some { bob with tags := [.empty, .draining] }))) 1
    ∧ (∀ i ∈ [.bobpop (lf 6 1 0), .bobstat (lf 6 1 0), .bobinit (lf 2 1 0), .bankmode (lf 2 1 0), .bankmode (lf 1 1 0), .bankmode (lf 0 4 0)], Ready (bobs none) i (fetched (bobs none)) 1)
    ∧ (bobs none).ownsBank 4 3 = true ∧ ((bobs none).cluster 0).trans = [] ∧ (bobs none).transOk 0 3 .fifo = true ∧ (bobs none).transOk 0 2 .cache = true
    ∧ (bobs (some bob)).transOk 0 3 .scratch = false ∧ Ready (bobs (some bob)) (.bankmode (lf 1 1 0)) (fetched (bobs (some bob))) 1
    ∧ ((bobs (some bob)).cluster 0).slotAt (3 * 2 ^ 18 + 1024) = some (3, bob, 1) ∧ ((bobs (some bob)).cluster 0).slotAt (3 * 2 ^ 18) = some (3, bob, 0)
    ∧ (∀ k, 3 ≤ k → k ≤ 3 → ((bobs none).cluster 0).bank k = { mode := .fifo, owner := .ctx 5 } ∧ ((bobs none).cluster 0).bobbinOf k = none) := by
  refine ⟨readyF_all _ _ (by decide +kernel), readyF_of _ _ _ (by decide +kernel), readyF_all _ _ (by decide +kernel), by decide +kernel, by decide +kernel, by decide +kernel,
    by decide +kernel, by decide +kernel, readyF_of _ _ _ (by decide +kernel), by decide +kernel, by decide +kernel, ?_⟩
  intro k h1 h2
  have : k = 3 := by omega
  subst this
  decide +kernel
/-- R128, R129, R232: BOBPOP gives the offset of the FULL slot and makes it DRAINING; BOBREL empties slot 1; a bank with a bobbin does not change its mode. -/
theorem test_bobbins : (flies (.bobpop (lf 6 1 0)) (bobs (some bob))).map (fun f => f.2.1) = some (3 * 2 ^ 18)
    ∧ (match exec (.bobrel (lf 0 3 0)) (bobs (some bob)) with | .next t => ((t.cluster 0).bobbin 3).map fun o => o.tags | _ => none) = some [.full, .empty]
    ∧ (flies (.bobstat (lf 6 1 0)) (bobs (some bob))).map (fun f => f.2.1) = some (2 ^ 9 + 2 ^ 34)
    ∧ awaited (.bankmode (lf 1 1 0)) (bobs none) = some ([.bankmode 0 3 1], []) := by decide +kernel

/-! ## Units that a strand asks -/

/-- Four bytes from 0x20000 of HBM to offset 0x100 of the scratchpad, with a record of one level of Q8 at 0x30000. -/
def rec1 : List Word := [0x19, 0, 0, 0, 0, 0, 0, 0]
def desc (base space n : Nat) : BitVec 256 :=
  BitVec.ofNat 256 (base + space * 2 ^ 51 + n * 2 ^ 64 + (1 + 2 ^ 16 + 2 ^ 32 + 2 ^ 48 + 2 ^ 64) * 2 ^ 88 + 0x30000 * 2 ^ 168)
def cc (c : Core) : Core := { xs [0x80, 0x20000] c with d := [(1, desc 0x20000 0 4), (2, desc 0x100 1 4), (3, desc 0x100 1 0), (4, desc 0x20000 0 0), (5, desc 0x100 3 4), (6, desc 0x100 1 5)] }
def cs : State := { shares (mill cc) with hbm := words [(0x30000, 0x19), (0x20000, 0x44332211)] }
def go (src dst : Nat) : LF := lf (src + 8 * dst) 1 0
def noBar (src dst : Nat) : Instr := .copygoNobar (lf (src + 8 * dst) 0 0 0 true)
/-- Sixteen copies of channel 0. -/
def fullChan : State := (List.range 16).foldl (fun (s : State) k => s.setCopy (k + 1) (some { id := k + 1, sid := 0, mcx := 0, mill := true, cl := 0, ch := 0, src := 0, dst := 0, srec := [], drec := [], bar := none })) cs
/-- The charge of reading the record. -/
def chargeRec (s : State) : State := s.chargeSectors 32 none 0x30000 64 .read
theorem meets_layoutRec (k : List Word → Verdict) (i : Instr) (d : BitVec 256) (hd : dLrec d = 0x30000) (hi : (cs.acting i cs 1).s.physRead 0x30000 64 = cs.physRead 0x30000 64)
    (hm : (cs.acting i cs 1).mill = true) : (cs.acting i cs 1).layoutRec d k = (k rec1).also chargeRec := by
  have h : ((List.range 8).map fun i => BitVec.ofNat 64 (leNat (((cs.physRead 0x30000 64).drop (8 * i)).take 8))) = rec1 := by decide +kernel
  have hb : (0x30000 : Nat) < hbmEnd := by decide
  simp [Env.layoutRec, hd, hm, hi, hb, h]
  rfl
theorem meets_CopyInstructions :
    (∀ i ∈ [.copyld (lf 1 1 0 0 true), .copyld (lf 1 2 0), noBar 1 2, noBar 1 5, noBar 4 3, noBar 1 6, .drain (lf 0 0 0)], Ready cs i cs 1)
    ∧ Ready (armed cs) (.copygo (go 1 2)) (armed cs) 1 ∧ Ready cs (.copygo (go 1 2)) cs 1 ∧ (∀ i ∈ [noBar 1 2, .drain (lf 0 0 0)], Ready fullChan i fullChan 1)
    ∧ cs.spadCheck 0 0x80 32 32 = none ∧ cs.engineOwned 0 0x80 32 = false ∧ cs.spadPoisoned 0 0x80 32 = false
    ∧ dSpace (desc 0x20000 0 4) = 0 ∧ dSpace (desc 0x100 1 4) = 1 ∧ descOk (desc 0x20000 0 4) = true ∧ descOk (desc 0x100 1 4) = true
    ∧ (∀ k, (cs.acting (noBar 1 2) cs 1).layoutRec (desc 0x20000 0 4) k = (k rec1).also chargeRec)
    ∧ (∀ k, (cs.acting (noBar 1 2) cs 1).layoutRec (desc 0x100 1 4) k = (k rec1).also chargeRec)
    ∧ cs.layoutOk 0 (desc 0x20000 0 4) (desc 0x100 1 4) rec1 rec1 = true ∧ cs.layoutOk 0 (desc 0x20000 0 4) (desc 0x100 1 5) rec1 rec1 = false
    ∧ (cs.acting (noBar 1 2) cs 1).copyBar none = none ∧ (cs.acting (noBar 1 2) cs 1).copyBound (desc 0x20000 0 4) (desc 0x100 1 4) rec1 rec1 = none
    ∧ (cs.acting (noBar 1 2) cs 1).copyOwned (desc 0x100 1 4) rec1 = none ∧ dCount (desc 0x100 1 4) ≠ 0 ∧ dCount (desc 0x100 1 0) = 0
    ∧ (fullChan.channelCopies 0 0).length = 16 ∧ cs.channelCopies 0 0 = [] := by
  refine ⟨ready_all _ _ (by decide +kernel), ready_of _ _ _ (by decide +kernel), ready_of _ _ _ (by decide +kernel), ready_all _ _ (by decide +kernel), by decide +kernel, by decide +kernel, by decide +kernel,
    by decide +kernel, by decide +kernel, by decide +kernel, by decide +kernel, ?_, ?_, ?_⟩
  · exact fun k => meets_layoutRec k _ _ (by decide +kernel) (by decide +kernel) (by decide +kernel)
  · exact fun k => meets_layoutRec k _ _ (by decide +kernel) (by decide +kernel) (by decide +kernel)
  · decide +kernel
theorem test_copygo : (match exec (noBar 1 2) cs with
      | .next t => (t.copyJob 1).map fun j => (j.todo, (t.strand 0).heldCopies, ((t.cluster 0).gran 0).eng)
      | _ => none) = some ([2], [1], some (.copy 1))
    ∧ trapOf (noBar 1 5) cs = some (0x14 + 5 * 256) ∧ awaited (.drain (lf 0 0 0)) fullChan = some ([.drain 0], []) := by decide +kernel

/-! ## Whorl requests, skeins and cancellation -/

/-- Node 0 a KERNEL with entry 0x100 and MPC 0x20, node 1 a RANGE of grain 4 that ends at 100. -/
def nodeTab : List (Nat × Nat) := [(0x13000, 1), (0x13008, 0x100 + 0x20 * 2 ^ 32), (0x13028, 77), (0x13040, 6), (0x13050, 2), (0x13060, 100), (0x13068, 4)]
def cw (c : Core) : Core := { xs [0x40, 8, 1] c with p := [(2, 3)] }
def whorls (g : Group → Group := id) (t : Strand → Strand := id) (mem : List (Nat × Nat) := []) (c : Core → Core := cw) : State :=
  { tenant c t g [(10, 0x13000 + 2 ^ 48)] with hbm := words (nodeTab ++ mem) }
/-- The activation of the RANGE node: the strand holds 10 to 20. -/
def rangeAct : Activation := { node := 1, words := [6, 0, 2, 0, 100, 4, 0, 0].map (BitVec.ofNat 64), live := 2, ranges := [(4, some (10, 20))] }
def rangeSt (x : Activation := rangeAct) : State := whorls (fun g => { g with acts := [(3, some x)] }) (fun t => { t with act := 3 })
theorem meets_WhorlRequests :
    (∀ i ∈ [Instr.spawn (lf 6 1 0), .spawn (lf 6 1 1), .spawn (lf 6 1 2), .spawnSc (lf 6 1 0 0 true), .scopenew (lf 6 0 0), .spawn (lf 6 1 0 0 false false 1)], Ready (whorls) i (fetched (whorls)) 1)
    ∧ Ready (rangeSt) (.rangenext (lf 6 0 0)) (fetched (rangeSt)) 1 ∧ (whorls.group 5).isSome = true ∧ (rangeSt.group 5).isSome = true ∧ isMill whorls.focus = false
    ∧ whorls.guardOn (lf 6 1 0) = true ∧ whorls.hw 5 10 / 2 ^ 48 % 2 ^ 12 = 1 ∧ nodeKind ((whorls.nodeWords 5 0).headD 0).toNat = 1
    ∧ nodeKind ((whorls.nodeWords 5 1).headD 0).toNat = 6 ∧ ((rangeSt.group 5).bind fun g => g.act 3) = some rangeAct ∧ (rangeSt.strand rangeSt.focus).dyn = false
    ∧ nodeKind (rangeAct.words.headD 0).toNat = 6 ∧ mget none rangeAct.ranges 4 = some (10, 20) := by
  refine ⟨readyF_all _ _ (by decide +kernel), readyF_of _ _ _ (by decide +kernel), ?_⟩
  decide +kernel
/-- The group of context 5 after an instruction, and the results in flight. -/
def groupAfter (i : Instr) (s : State) : Option (Group × List (Nat × Nat)) :=
  match exec i s with
  | .next t => (t.group 5).map fun g => (g, (t.core t.focus).flight.map fun f => (f.reg, f.val))
  | _ => none
/-- R45, R234: the task's arguments are x1, x2 and the last three doublewords of the node; its scope is the issuer's. -/
theorem test_spawn :
    (groupAfter (.spawn (lf 6 1 0)) whorls).map (fun p => (p.1.ready.map fun t => (t.args.map BitVec.toNat, [t.entry.toNat, t.mpc0.toNat, t.scope, t.dyn.toNat]), p.2)) =
      some ([([0x40, 8, 77, 0, 0], [0x100, 0x20, 1, 1])], [(6, 0)])
    ∧ (groupAfter (.spawn (lf 6 1 0)) (whorls fun g => { g with ended := some 0 })).map (fun p => (p.1.ready.length, p.2)) = some (0, [(6, 3)]) := by decide +kernel
/-- R46, R47, R235: the next chunk of 4, a steal of half of a range of 80 in units of the grain, the end; and the least free scope. -/
theorem test_ranges :
    (groupAfter (.rangenext (lf 6 0 0)) rangeSt).map (fun p => p.2) = some [(6, 10), (7, 14)]
    ∧ (groupAfter (.rangenext (lf 6 0 0)) (rangeSt { rangeAct with ranges := [(4, some (20, 20)), (8, some (20, 100))] })).map (fun p => p.2) = some [(6, 60), (7, 64)]
    ∧ (groupAfter (.rangenext (lf 6 0 0)) (rangeSt { rangeAct with ranges := [(4, some (20, 20))] })).map (fun p => p.2) = some [(6, 100), (7, 100)]
    ∧ (groupAfter (.scopenew (lf 6 0 0)) whorls).map (fun p => ((p.1.scope 2).map fun x => (x.parent, x.depth, x.creator), p.2)) = some (some (1, 2, some 4), [(6, 2)]) := by
  decide +kernel

/-- x1 is a scratchpad offset of bank 2, x3 = 1 names the root scope, x4 = 300. -/
def ck (c : Core) : Core := xs [0x80000, 9, 1, 300] c
def skeins (g : Group → Group := id) (t : Strand → Strand := id) : State :=
  (whorls g t [] ck).updCluster 0 fun c => { c with bytes := putBytes [] 0x80040 (leBytes 8 (2 ^ 12 + 1)) }
/-- The strand is the one member of skein 9. -/
def member : State := skeins fun g => { g with skeins := [(9, { members := [4] })] }
def arrived : State := skeins (fun g => { g with skeins := [(9, { members := [4] })] }) fun t => { t with skPend := [9], skGo := [9] }
theorem meets_SkeinsAndCancellation :
    (∀ i ∈ [Instr.skjoin (lf 0 2 0), .skleave (lf 0 2 0), .skbar (lf 0 2 0), .skjoin (lf 0 4 0), .skleave (lf 0 4 0), .skbar (lf 0 4 0), .cancel (lf 3 1 0 0 true),
      .cwait (lf 6 1 0 0 true), .cwait (lf 6 1 0x40 0 true)], Ready skeins i (fetched skeins) 1)
    ∧ Ready member (.skbar (lf 0 2 0)) (fetched member) 1 ∧ Ready arrived (.skbar (lf 0 2 0)) (fetched arrived) 1 ∧ skeins.eaOf (lf 0 2 0) = 9 ∧ 256 ≤ skeins.eaOf (lf 0 4 0)
    ∧ (member.strand 4).skGo.contains 9 = false ∧ ((member.group 5).map fun g => (g.skein 9).members.contains 4) = some true ∧ (arrived.strand 4).skGo.contains 9 = true
    ∧ skeins.eaOf (lf 3 1 0 0 true) = 0x80000 ∧ skeins.spadStoreCheck 4 0x80000 8 8 = none ∧ skeins.spadPoisoned 0 0x80000 8 = false
    ∧ skeins.eaOf (lf 6 1 0x40 0 true) = 0x80040 ∧ skeins.spadStoreCheck 4 0x80040 8 8 = none ∧ skeins.spadPoisoned 0 0x80040 8 = false
    ∧ bitOf (leNat (getBytes (skeins.cluster 0).bytes 0x80040 8)) 12 = true ∧ bitOf (leNat (getBytes (skeins.cluster 0).bytes 0x80000 8)) 12 = false := by
  refine ⟨readyF_all _ _ (by decide +kernel), readyF_of _ _ _ (by decide +kernel), readyF_of _ _ _ (by decide +kernel), ?_⟩
  decide +kernel
theorem test_skeins :
    (groupAfter (.skjoin (lf 0 2 0)) skeins).map (fun p => (p.1.skein 9).members) = some [4]
    ∧ (groupAfter (.skleave (lf 0 2 0)) member).map (fun p => (p.1.skein 9).members) = some []
    ∧ (match exec (.skbar (lf 0 2 0)) member with | .next t => some ((t.core 4).pc.toNat, (t.strand 4).skGo) | _ => none) = some (0, [9])
    ∧ (coreAfter (.skbar (lf 0 2 0)) skeins).map (fun c => c.pc.toNat) = some 1 := by decide +kernel
/-- R50, R51, R55: CANCEL of the root scope makes it CANCELLING; CWAIT gives the word at once when DONE is 1. -/
theorem test_cancel :
    (groupAfter (.cancel (lf 3 1 0 0 true)) skeins).map (fun p => ((p.1.scope 1).map fun x => x.st, p.2)) = some (some .cancelling, [(3, 0)])
    ∧ xAfter (.cwait (lf 6 1 0x40 0 true)) skeins 6 = some 0x1001 ∧ (coreAfter (.cwait (lf 6 1 0 0 true)) skeins).map (fun c => c.pc.toNat) = some 0 := by decide +kernel

/-! ## The reel -/

/-- A channel of two frames of 512 bytes: x1 = 7, p1 true, p2 false, p3 mixed, v4 = 9; its records as given. -/
def reelCore (r : Reel) (c : Core) : Core := { xs [7, 8] c with p := [(1, uniform true), (3, 1)], v := [(4, 9)], reel := r }
def reels (r : Reel := {}) (on : Bool := true) : State := tenant (reelCore r) id id [(2, if on then 2 ^ 49 else 0), (14, 0x20000 + 10 * 2 ^ 48)]
def recsOf (l : List ReelRec) : Reel := { live := true, recs := l }
def pushes : List Instr := [.recx (lf 1 0 0), .recp (lf 1 0 0), .rmark (lf 0 0 7), .recb (lf 1 0 0), .recb (lf 2 0 0), .recv (lf 4 0 0)]
def pops : List Instr := [.rpopx (lf 6 0 0), .rpopp (lf 5 0 0), .rpopv (lf 8 0 0), .rmarkPop (lf 6 0 0 0 true), .rchk (lf 1 0 0), .rchkV (lf 4 0 0 0 true), .rseal (lf 6 0 0), .brt (bf 2 0)]
theorem meets_ReelInstructions :
    (∀ i ∈ pushes ++ pops ++ [.recb (lf 3 0 0)], Ready (reels) i (fetched (reels)) 1)
    ∧ (∀ r ∈ [recsOf [⟨2, 7⟩], recsOf [⟨3, 5⟩], recsOf [⟨0, 9⟩, ⟨1, 0⟩], recsOf [⟨5, 7⟩], recsOf [⟨4, 1⟩], recsOf [⟨4, 0⟩], { shut := true, count := 3 }],
        ∀ i ∈ pops, Ready (reels r) i (fetched (reels r)) 1)
    ∧ Ready (reels {} false) (.recx (lf 1 0 0)) (fetched (reels {} false)) 1 ∧ Ready (reels { susp := some (0, 0) }) (.recx (lf 1 0 0)) (fetched (reels { susp := some (0, 0) })) 1
    ∧ Ready (reels { shut := true }) (.recx (lf 1 0 0)) (fetched (reels { shut := true })) 1
    ∧ (reels.reelCfg 4).enabled = true ∧ ((reels {} false).reelCfg 4).enabled = false ∧ reels.me.reelPolicy = 0 ∧ (reels.me.rp 3 ≠ uniform true ∧ reels.me.rp 3 ≠ uniform false)
    ∧ (match (recsOf [⟨2, 7⟩]).pop [2] with | .ok vs r => vs == [7] && r.live == false | _ => false) = true
    ∧ (match (recsOf [⟨2, 7⟩]).pop [3] with | .trap k => k == cDiverge | _ => false) = true
    ∧ (match (recsOf [⟨0, 9⟩, ⟨1, 0⟩]).pop [1, 0] with | .ok [a, b] _ => a == 0 && b == 9 | _ => false) = true
    ∧ (match (recsOf [⟨4, 1⟩]).pop [4] with | .ok [d] _ => d == 1 | _ => false) = true ∧ (match (recsOf [⟨4, 0⟩]).pop [4] with | .ok [d] _ => d == 0 | _ => false) = true
    ∧ (match (recsOf [⟨5, 7⟩]).popMark with | .ok [d] _ => d == 7 | _ => false) = true ∧ (match (recsOf [⟨2, 7⟩]).topRecs 64 with | .recs _ => true | _ => false) = true
    ∧ (match ({} : Reel).placeAll (reels.reelCfg 4) 0 0 [⟨2, 7⟩] with | .ok _ => true | _ => false) = true
    ∧ (match ({ live := true, coded := true } : Reel).pop [2] with | .decode n => n == 0 | _ => false) = true := by
  refine ⟨readyF_all _ _ (by decide +kernel), ?_, readyF_of _ _ _ (by decide +kernel), readyF_of _ _ _ (by decide +kernel), readyF_of _ _ _ (by decide +kernel), ?_⟩
  · intro r hr
    simp only [List.mem_cons, List.not_mem_nil, or_false] at hr
    rcases hr with rfl | rfl | rfl | rfl | rfl | rfl | rfl <;> exact readyF_all _ _ (by decide +kernel)
  · decide +kernel
/-- R270, R271: the record that each push leaves on top. -/
theorem test_pushes : pushes.map (fun i => (coreAfter i reels).map fun c => c.reel.recs.map fun x => (x.tag, x.val)) =
    [[(2, 7)], [(3, 2 ^ 128 - 1)], [(5, 7)], [(4, 1)], [(4, 0)], [(0, 9), (1, 0)]].map some := by decide +kernel
/-- R272, R275: pops, a check that holds and one that does not, a decision that branches. -/
theorem test_pops :
    flies (.rpopx (lf 6 0 0)) (reels (recsOf [⟨2, 5⟩])) = some (6, 5, 7, 0) ∧ flies (.rmarkPop (lf 6 0 0 0 true)) (reels (recsOf [⟨6, 0⟩])) = some (6, 2 ^ 64 - 1, 7, 0)
    ∧ flies (.rpopv (lf 8 0 0)) (reels (recsOf [⟨0, 9⟩, ⟨1, 3⟩])) = some (8, 9 + 3 * 2 ^ 2048, 7, 0)
    ∧ (coreAfter (.rchk (lf 1 0 0)) (reels (recsOf [⟨2, 7⟩]))).map (fun c => (c.pc.toNat, c.reel.live)) = some (1, false)
    ∧ (coreAfter (.brt (bf 12 0)) (reels (recsOf [⟨4, 1⟩]))).map (fun c => c.pc.toNat) = some 12
    ∧ (coreAfter (.brt (bf 12 0)) (reels (recsOf [⟨4, 0⟩]))).map (fun c => c.pc.toNat) = some 1 := by decide +kernel
theorem test_rseal : awaited (.rseal (lf 6 0 0)) (reels (recsOf [⟨2, 7⟩])) = some ([.seal], [(6, 1)])
    ∧ (coreAfter (.rseal (lf 6 0 0)) (reels (recsOf [⟨2, 7⟩]))).map (fun c => c.reel.shut) = some true := by decide +kernel

/-! ## The matrix slot and its routines -/

/-- A tile's shape of one row of three FP32 elements. -/
def sh3 : BitVec 21 := 0x1000
/-- m0 = 0x100 with a pitch of 16; tiles 0 and 1 of the FP32 example of R115. -/
def mm : AMap Word := [(0, 0x1000000100), (2, 0x41), (3, 5)]
def cMat (c : Core) : Core := { c with m := mm, mrc := 3 }
def mx (f : Spindle → Spindle := id) : State := (shares (mill cMat)).updSpindle 0 f
/-- Library routine 6 is queued: it zeroes accumulator 0. -/
def call0 : Call :=
  { id := 1, sid := 0, rout := 6, imm := 0, flags := 0, fmt := 0, tshape := [(0, sh3), (1, sh3)], m := mm, mpc := 0, pc := 0, win := some (0, 1) }
def queued (n : Nat) : State := mx fun x => { x with queue := List.replicate n call0 }
theorem meets_MatrixSlot :
    (∀ i ∈ [Instr.mNop (mf 0 0), .mcall (mf 6 0), .mcall (mf 9 0), .mcall (mf 6 0x30000), .mcallRpt (mf 6 0), .mwait (mf 0 0), .mwait (mf 0 0x10001 1)], Ready (mx) i (mx) 1)
    ∧ Ready (queued 8) (.mcall (mf 6 0)) (queued 8) 1 ∧ Ready (queued 1) (.mwait (mf 0 0)) (queued 1) 1
    ∧ (mx.routine 0 6).isSome = true ∧ (mx.routine 0 9).isNone = true ∧ (mx.me.mrc.toNat = 3)
    ∧ (match mx.routine 0 6 with
      | some us => (fpTiles us 0).all (fun t => t < 4) && (fpAccs us 0).all (fun a => a < 2) && fpAccs us 0x30000 == [3]
      | none => false) = true
    ∧ (match mx.window 0 0 with | .ok w => w == none && mx.winBusy 0 w == [] | _ => false) = true ∧ (queued 8).repeatOf 0 = none
    ∧ mx.mwaitMet 0 0 0 0 = true ∧ (queued 1).mwaitMet 0 0 0 0 = false ∧ maskBits 16 0x0001 = [0] ∧ maskBits 4 1 = [0] := by
  refine ⟨ready_all _ _ (by decide +kernel), ready_of _ _ _ (by decide +kernel), ready_of _ _ _ (by decide +kernel), ?_⟩
  decide +kernel
/-- R77, R243, R244: the queue, MPC and the repeat sequence after each. -/
theorem test_mcall : [Instr.mNop (mf 0 0), .mcall (mf 6 0), .mcallRpt (mf 6 0), .mwait (mf 0 0)].map (fun i => match exec i mx with
      | .next t => some ((t.core 0).mpc.toNat, (t.spindle 0).queue.map fun c => c.rout, ((t.repeatOf 0).map fun r => (r.k, r.n)).getD (0, 0))
      | _ => none) = [(1, [], (0, 0)), (1, [6], (0, 0)), (3, [6], (1, 3)), (1, [], (0, 0))].map some
    ∧ trapOf (.mcall (mf 9 0)) mx = some (1 + 4 * 256) ∧ trapOf (.mcall (mf 6 0x30000)) mx = some (7 + 4 * 256 + 3 * 65536) := by decide +kernel

/-- The call runs: tiles 0 and 1 hold the operands of R115's first example, and the scratchpad some rows. -/
def runs (c : Call := call0) : State :=
  ((mx fun x => { x with queue := [{ c with started := true }], tiles := [(0, 0x3F800000 + 0x39800000 * 2 ^ 32 + 0x35800000 * 2 ^ 64), (1, 0x3F800000 + 0x39800000 * 2 ^ 32 + 0x33000000 * 2 ^ 64)] }).updCluster
    0 fun k => { k with bytes := words [(0x100, 0x3F800000 + 0x40000000 * 2 ^ 32), (0x108, 3)] })
def rcall : Call := { call0 with started := true }
/-- A block of weights: the mask byte 0x41 at offset 0x41 (R258). -/
def noOfs : UF := { sel := 0, acc := 0, rows := 0, cols := 2 }
theorem meets_MatrixMoves : Running runs rcall
    ∧ (match rcall.shape 0 with | .ok h => h.rows == 1 && h.cols == 3 && h.cols * h.width == 8 * 12 && noCvt h.fmt == false | _ => false) = true
    ∧ rcall.pitchOf 0 0 = 16 ∧ 0x100 % 4 = 0 ∧ noOfs.off.toInt = 0 ∧ (mget 0 rcall.m 0).toNat % 2 ^ 32 = 0x100
    ∧ runs.spadCheck 0 0x100 12 1 = none ∧ (granules 0x100 12).any (fun g => runs.callWaits rcall g) = false ∧ runs.spadPoisoned 0 0x100 12 = false
    ∧ mwf 0 (runs.spindle 0).accs = true ∧ mwf 0 rcall.shAcc = true ∧ rcall.ofmt = 0
    ∧ (match runs.windowRows rcall 0x100 16 [leBytes 12 7] with | .ok _ => true | _ => false) = true
    ∧ (match runs.windowRows rcall 0x400 16 [leBytes 12 7] with | .err k => k == cSpBound | _ => false) = true
    ∧ rcall.win = some (0, 1) ∧ ∀ k, mget false (runs.cluster 0).poison k = false := by
  refine ⟨⟨by decide +kernel, by decide, by decide⟩, by decide +kernel, by decide +kernel, by decide, by decide, by decide +kernel, by decide +kernel, by decide +kernel, by decide +kernel,
    by decide +kernel, by decide, by decide, by decide +kernel, by decide +kernel, by decide, fun k => ?_⟩
  have : (runs.cluster 0).poison = [] := by decide +kernel
  rw [this]
  rfl
/-- What a test looks at after a micro-op: the next micro-op, tile 0's first element, element (0, 0) of accumulator 0, the four bytes at 0x100, and the sticky bits. -/
def look (i : Instr) (s : State) : Option (List Nat) :=
  match exec i s with
  | .next t => some [((t.spindle 0).queue.map fun c => c.idx).headD 99, t.tile 0 0 % 2 ^ 32, (t.accAt 0 0 0 0).toNat, leNat (getBytes (t.cluster 0).bytes 0x100 4),
      ((t.spindle 0).queue.map fun c => c.sticky.toNat).headD 0]
  | _ => none
/-- R248, R254, R255: the row at 0x100 is 1.0 and 2.0; the accumulators are zero at first. -/
theorem test_moves_of_a_call :
    look (.uopNop {}) runs = some [1, 0x3F800000, 0, 0x3F800000, 0] ∧ look (.tload { noOfs with sel := 2 }) (runs { call0 with tshape := [(2, sh3)] }) = some [1, 0x3F800000, 0, 0x3F800000, 0]
    ∧ look (.tstore { noOfs with sel := 3 }) (runs { call0 with tshape := [(3, sh3)] }) = some [1, 0x3F800000, 0, 0, 0]
    ∧ look (.aload noOfs) runs = some [1, 0x3F800000, 0x3F800000, 0x3F800000, 0] ∧ look (.astore noOfs) runs = some [1, 0x3F800000, 0, 0, 0]
    ∧ look (.cvt { noOfs with en := true, ta := 0 }) runs = some [1, 0, 0, 0x3F800000, 0] := by decide +kernel

theorem meets_MatrixSteps : Running runs rcall
    ∧ (match rcall.shape 0, rcall.shape 1 with
      | .ok a, .ok b => a.fmt == rcall.afmt && b.fmt == rcall.bfmt && a.cols == b.cols && (match runs.columns rcall false b.rows a.cols b.cols with
          | .ok cs => cs.length == 1
          | _ => false)
        && (match runs.readParams rcall 0 1 3 none none with | .ok p => p == [] | _ => false)
      | _, _ => false) = true
    ∧ (rcall.afmt = 0 ∧ rcall.bfmt = 0) ∧ rcall.intMode = false ∧ ({ rcall with fmt := 0x88 } : Call).intMode = true ∧ ({ rcall with fmt := 0xE } : Call).afmt = 0xE
    ∧ (match runs.scaleVec rcall false 0 with | .ok v => v.length == 128 | _ => false) = true
    ∧ (match runs.scaleVec rcall true 0 with | .ok v => v.length == 128 | _ => false) = true := by
  refine ⟨⟨by decide +kernel, by decide, by decide⟩, ?_⟩
  decide +kernel
/-- R115's first example: 1 + 2⁻²⁴ rounds to 1.0 with INEXACT, and 2⁻⁴⁵ has been cut off. ZPC's cursors must be aligned. -/
theorem test_opstep : look (.opstep { ta := 0, tb := 1 }) runs = some [1, 0x3F800000, 0x3F800000, 0x3F800000, 1]
    ∧ (match exec (.zpc { en := true, arg := 0, argb := 0 }) runs, exec (.bsc { en := true, arg := 2, argb := 3 }) runs, exec (.zpc { en := true, arg := 2 }) runs with
      | .next t, .next u, .next v => some ((t.spindle 0).queue.map fun c => c.zpc, (u.spindle 0).queue.map fun c => c.bsc, (v.strand 0).engTrap)
      | _, _, _ => none) = some ([some (0x100, 0x100)], [some (0x41, 5)], some cAlign) := by decide +kernel
/-- R258's example: two values 5, −3 in a block with mask 0x41 stand at dense elements 0 and 6. -/
theorem test_spstep_columns :
    (match ({ runs with rom := [(0, 0), (1, 0), (2, 0)] }).columns { rcall with placement := some 0x1000108, maskCur := 0x108 } true 1 8 2 with
      | .ok cs => some cs
      | _ => none) = some [[some 0, some 1, none, none, none, none, none, none]]
    ∧ expandMasks 2 [0x41] = [some 0, none, none, none, none, none, some 1, none] := by decide +kernel

/-- The same sum by SPSTEP: K is 8, and the mask byte 3 gives the two stored values to dense elements 0 and 1. -/
theorem test_spstep : look (.spstep { ta := 0, tb := 1 }) (runs { call0 with tshape := [(0, 0x3800), (1, 0x800)], placement := some 0x1000108, maskCur := 0x108 }) =
    some [1, 0x3F800000, 0x3F800000, 0x3F800000, 1] := by decide +kernel

def ucall (i : Call → Call) : State := runs (i call0)
theorem meets_MatrixFlow : (runs.spindle (gnumOf runs.focus)).runningCall = some rcall ∧ (ucall fun c => { c with killed := true }).stopping 0 = false
    ∧ ((ucall fun c => { c with skipNext := true }).spindle 0).runningCall = some { rcall with skipNext := true }
    ∧ ((ucall fun c => { c with killed := true }).spindle 0).runningCall = some { rcall with killed := true }
    ∧ (({ runs with stops := [(0, some {})] } : State).spindle 0).runningCall = some rcall ∧ rcall.skipNext = false ∧ ({ runs with stops := [(0, some {})] } : State).stopping (runs.mcxOf 0) = true
    ∧ mwf {} (runs.cluster 0).grans = true ∧ rcall.shadowed = none := by decide +kernel
/-- The index, the arguments 0 and 3, and the loops of the call after a micro-op. -/
def flow (i : Instr) (s : State) : Option (List Nat × List (Nat × Nat × Nat)) :=
  match exec i s with
  | .next t => match (t.spindle 0).queue with
    | c :: _ => some ([c.idx, (mget 0 c.m 0).toNat, c.skipNext.toNat, (c.shList.getD []).length, c.halted.toNat], c.loops)
    | [] => some ([], [])
  | _ => none
/-- R255, R257: ADDR in its four forms, LOOP with counts 5 and 0, SKIPF, SHADOW, MSTEP and END. -/
theorem test_flow :
    [Instr.addr { imm := 0xFFFFFFFF }, .addrAdd { imm := 0x7FFFFF }, .addrLo { argb := 2 }, .addrHi { argb := 2 }, .uopLoop { pitch := 5, last := 3 }, .uopLoop { last := 3 },
      .uopLoop { en := true, arg := 3, last := 9 }, .skipf { bit := 0, en := false }, .shadow { amask := 5 }, .mstep {}, .uopEnd {}].map (fun i => flow i runs) =
    [([1, 2 ^ 64 - 1, 0, 0, 0], []), ([1, 0x10000000FF, 0, 0, 0], []), ([1, 0x1000000141, 0, 0, 0], []), ([1, 0x1000000100, 0, 0, 0], []), ([1, 0x1000000100, 0, 0, 0], [(5, 1, 3)]),
      ([4, 0x1000000100, 0, 0, 0], []), ([1, 0x1000000100, 0, 0, 0], [(5, 1, 9)]), ([1, 0x1000000100, 1, 0, 0], []), ([1, 0x1000000100, 0, 2, 0], []), ([1, 0x1000000100, 0, 0, 0], []),
      ([], [])].map some := by decide +kernel

/-! ## Privileged instructions -/

/-- x1 = 0x40000, x2 = 5, x3 = 9 (event bit 2 of die 1), x4 = 2³¹ bits; the strand is in its handler. -/
def cp (c : Core) : Core := { xs [0x40000, 5, 9, 0x20000] c with intrap := true, epc := 0x700000020, evmask := 4 }
def priv (d : Die → Die := id) (c : Core → Core := cp) : State := { mill c with dies := [(0, d {})] }
def ack4 : Option Nat := some 0x40000
def served : State := priv fun x => { x with faults := [{ key := 3, mcx := 5, addr := 0, access := 0, cause := 2, who := 4, posted := ack4, popped := true }] }
def noTrap : State := priv id fun c => { xs [0x40000, 5, 9, 0x20000] c with evmask := 4 }
/-- The strand in slot 1 of context 5's spindle 1 waits for its image (R341), or is to be restored. -/
def snaps (st : SlotState) (c : CtxState) : State :=
  { mill (xs [0x40000, 5, 0x40000 + 0x14000]) with
    strands := [(0, { (mill (xs [0x40000, 5, 0x40000 + 0x14000])).strand 0 with st := .running }), (5, { st := st, mcx := 5 })]
    spindles := [(0, (State.reset).spindle 0), (1, { mcx := some 5 })]
    ctxs := [(5, some { die := 0, host := hostLine ([(3, 0x100), (16, 0x40000)] ++ line5), st := c, root := 1 })]
    groups := [(5, some { spindles := [1], root := 1 })]
    stops := [(5, some { posted := true })], restoring := [(5, [5])] }
theorem meets_MillBranches :
    (∀ i ∈ [Instr.ipi (bf 0 1 true), .ipi (bf 0 0 true), .halt (bf 0 0)], Ready (priv) i (priv) 1) ∧ Ready (priv) (.eret (bf 0 0)) (priv) 1 ∧ Alone (noTrap) (.eret (bf 0 0)) (noTrap) 1
    ∧ (let s := priv fun x => { x with evpend := 4 }
       Ready s (.halt (bf 0 0)) s 1 ∧ s.evPend 0 &&& s.me.evmask ≠ 0)
    ∧ priv.evPend 0 &&& priv.me.evmask = 0 ∧ priv.me.intrap = true ∧ noTrap.me.intrap = false
    ∧ (∀ i ∈ [Instr.ipi (bf 0 0 true), .eret (bf 0 0), .halt (bf 0 0), .mcxld (lf 2 1 0), .mcxst (lf 2 1 0), .mcxstEvict (lf 2 1 0 0 true), .tlbinv (lf 2 1 0), .fqpop (lf 2 0 0), .fqdone (lf 2 1 0),
        .snapsave (lf 2 1 0), .snapload (lf 2 1 0), .wipe (lf 2 1 0), .wipeSram (lf 2 1 0 0 true)], Alone (whorls) i (fetched (whorls)) 1) ∧ isMill whorls.focus = false := by
  refine ⟨ready_all _ _ (by decide +kernel), ready_of _ _ _ (by decide +kernel), alone_of _ _ _ (by decide +kernel), ⟨ready_of _ _ _ (by decide +kernel), by decide +kernel⟩, by decide +kernel,
    by decide +kernel, by decide +kernel, aloneF_all _ _ (by decide +kernel), by decide⟩
theorem meets_MillMemoryInstructions :
    (∀ i ∈ [Instr.mcxld (lf 2 1 0), .mcxst (lf 2 1 0), .mcxstEvict (lf 2 1 0 0 true), .tlbinv (lf 2 1 0), .tlbinv (lf 1 1 0), .fqpop (lf 6 0 0), .fqdone (lf 2 1 0), .wipe (lf 4 1 0), .wipeSram (lf 2 0 3 0 true)],
      Ready (priv) i (priv) 1)
    ∧ Ready served (.fqdone (lf 6 1 0)) served 1 ∧ (served.inService 0x40000).isSome = true ∧ outcomeOk 0 = true ∧ priv.inService 0x40000 = none ∧ outcomeOk 5 = false
    ∧ priv.guardOn (lf 2 1 0) = true ∧ priv.eaOf (lf 2 1 0) = 0x40000
    ∧ whoOk 5 = true ∧ sidOfWho 5 = 5 ∧ isMill 5 = false
    ∧ (let s := snaps .saved .bound
       Ready s (.snapsave (lf 2 3 0)) s 1 ∧ s.awaitsSave 5 = some (5, { spindles := [1], root := 1 }) ∧ (s.base (.snapsave (lf 2 3 0)) s).enginesStopped 5 = true
         ∧ s.eaOf (lf 2 3 0) = s.saveArea 5 + (strandImageAt (s.hw 5 3) 0 1).2 ∧ (0x54000 % 4096 = 0) ∧ s.ev.flag = false ∧ (s.acting (.snapsave (lf 2 3 0)) s 1).opReg (lf 2 3 0) = whoOf 5)
    ∧ (let s := snaps .free .saved
       Ready s (.snapload (lf 2 3 0)) s 1 ∧ s.awaitsRestore 5 = some (5, { spindles := [1], root := 1 }) ∧ leNat (getBytes s.hbm (0x54000 + 8) 8) = ((s.ctx 5).map fun c => c.savectr.toNat).getD 0
         ∧ ({ spindles := [1], root := 1 } : Group).carriesBanks 5 = false) := by
  refine ⟨ready_all _ _ (by decide +kernel), ready_of _ _ _ (by decide +kernel), by decide +kernel, by decide, by decide +kernel, by decide, by decide +kernel, by decide +kernel, by decide, by decide, by decide,
    ⟨ready_of _ _ _ (by decide +kernel), by decide +kernel⟩, ⟨ready_of _ _ _ (by decide +kernel), by decide +kernel⟩⟩
/-- R294 to R296, R287. -/
theorem test_mill_branches :
    (match exec (.ipi (bf 0 1 true)) priv with | .next t => some (t.die 1).ipis | _ => none) = some [2]
    ∧ (coreAfter (.eret (bf 0 0)) priv).map (fun c => (c.pc.toNat, c.mpc.toNat, c.intrap)) = some (0x20, 7, false) ∧ awaited (.halt (bf 0 0)) priv = some ([.halt], []) := by decide +kernel
theorem test_mill_memory :
    (match exec (.fqdone (lf 6 1 0)) served with | .next t => some ((t.die 0).faults.length) | _ => none) = some 0
    ∧ awaited (.wipe (lf 4 1 0)) { priv with hbm := [(0x40010, 7), (0x70000, 1)] } = some ([.resp, .fence], [(4, 0)])
    ∧ (match exec (.wipe (lf 4 1 0)) { priv with hbm := [(0x40010, 7), (0x70000, 1)] } with | .next t => some t.hbm | _ => none) = some [(0x70000, 1)]
    ∧ trapOf (.tlbinv (lf 1 1 0)) priv = some (1 + 5 * 256) := by decide +kernel
/-- R298, R302: SNAPSAVE and SNAPLOAD wait with their targets; the save writes the image that the load then takes, and neither finds its target a second time. -/
theorem test_snapshots :
    awaited (.snapsave (lf 2 3 0)) (snaps .saved .bound) = some ([.snapsave (some 5) 0x54000 2 false, .fence], [(2, 0)])
    ∧ awaited (.snapload (lf 2 3 0)) (snaps .free .saved) = some ([.snapload (some 5) 0x54000 2 false, .fence], [(2, 0)])
    ∧ ((snaps .saved .bound).snapsave (some 5) 0x54000 false).map (fun r => (r.2, ((r.1.snapsave (some 5) 0x54000 false).map fun q => q.2))) = some (0, some 1)
    ∧ ((snaps .saved .bound).snapsave (some 5) 0x55000 false).map (fun r => r.2) = some 2
    ∧ ((snaps .free .saved).snapload (some 5) 0x55000 false).map (fun r => r.2) = some 2 := by decide +kernel

/-! ## Events of strands and engines -/

/-- A state with what accompanies an event. -/
def evAt (s : State) (n : Nat := 0) (m : Nat := 0) (v : Nat := 0) (flag : Bool := false) : State := { s with ev := { n := n, m := m, v := BitVec.ofNat 64 v, flag := flag } }
def nextOf (i : Instr) (s : State) : Option State :=
  match exec i s with
  | .next t => some t
  | _ => none

/-- A mill strand whose code word 0 names a bundle that its spindle's dictionary cache holds. -/
def holds (w : Nat) (c : Core → Core := c1) : State := { mill c with spindles := [(0, { running := some 0, last := some 0, dict := [(0, w)] })] }
def addSub : Nat := encodeBundle { hdr := 0x3000, bp := 0, ops := [(.s0, .add ⟨1, 1, 2, 0⟩), (.s1, .sub ⟨2, 1, 2, 0⟩)] }
def fetches (s : State) (w : Nat) : Bool := match s.fetchBundle s.focus s.me.pc.toNat with | .ok (n, x) t => n == 1 && x == w && decide (t = s) | _ => false
/-- A header with a reserved bit, an empty bundle, and a pending engine trap. -/
def badHdr : Nat := encodeBundle { hdr := 1, bp := 0, ops := [] }
def trapped : State := (holds 0).updStrand 0 fun t => { t with engTrap := some cAlign }
/-- The boot ROM with one literal dictionary entry of a mill strand, not in the cache. -/
def blocked (w : Wait) (after : Bool) (resp : List RW) : State := (mill).updStrand 0 fun t => { t with st := .blocked, waits := [w], after := after, resp := resp }
/-- Spindle 1 with slot 0 last and slots 1 and 3 ready. -/
def picks : State :=
  evAt { State.reset with spindles := [(1, { last := some 1 })], strands := [(5, { st := .ready }), (7, { st := .ready })] } 1
theorem meets_IssueEvents : (holds addSub).canIssue 0 = true ∧ fetches (holds addSub) addSub = true ∧ fetches (holds 0) 0 = true ∧ fetches (holds badHdr) badHdr = true
    ∧ ({ (holds 0) with held := true } : State).canIssue 0 = false ∧ (trapped.strand 0).engTrap = some cAlign ∧ fetches trapped 0 = true
    ∧ malformed (BitVec.ofNat 16 (addSub / 2 ^ 368)) (BitVec.ofNat 16 addSub) ((decodeSlots addSub).map fun p => (p.1.num, p.2)) = none
    ∧ malformed (BitVec.ofNat 16 (badHdr / 2 ^ 368)) (BitVec.ofNat 16 badHdr) ((decodeSlots badHdr).map fun p => (p.1.num, p.2)) = some 8
    ∧ ((decodeSlots addSub).map fun p => (p.1.num, p.2)).all (fun p => p.2 == if p.1 = 0 then .op (.add ⟨1, 1, 2, 0⟩) else if p.1 = 1 then .op (.sub ⟨2, 1, 2, 0⟩) else .empty) = true
    ∧ ((holds 0).core 0).shadows = [] ∧ (picks.spindle 1).running = none ∧ (picks.spindle 1).gate = false ∧ (picks.strand 7).st = .ready
    ∧ ((mill).spindle 0).stalled = false ∧ (evAt mill 2).spindleBusy 2 = false ∧ (mill).landing 0 = true
    ∧ (blocked .fence false []).waitClear 0 .fence = true ∧ ((blocked .resp true [wr .x 3 9 1]).strand 0).resp = [wr .x 3 9 1]
    ∧ (match (blocked (.acq (.spad 0 0x80) 0x80 7 6 { scope := 4 }) true [wr .x 6 0 1]).readLoc (.spad 0 0x80) 8 with | .ok bs => leNat bs == 0 | _ => false) = true := by decide +kernel
/-- Two S slots read the old registers; an empty bundle; the malformed slot 8; the pending trap. -/
theorem test_bundle_issue :
    (coreAfter .bundleIssue (holds addSub)).map (fun c => (c.rx 1, c.rx 2, c.pc.toNat)) = some (4, 10, 1) ∧ (coreAfter .bundleIssue (holds 0)).map (fun c => c.pc.toNat) = some 1
    ∧ trapOf .bundleIssue (holds badHdr) = some (1 + 8 * 256) ∧ trapOf .bundleIssue trapped = some (9 + 9 * 256) := by decide +kernel
/-- R26: after slot 1, slot 3 before slot 1. -/
theorem test_strand_select : (nextOf .strandSelect picks).map (fun t => (t.spindle 1).running) = some (some 3) := by decide +kernel
/-- R75: results land, FMT takes effect, blocks end. -/
theorem test_landing :
    (nextOf .resultLand (evAt { mill (fun c => { c with flight := [{ file := .x, reg := 3, val := 9, d := 1 }] }) with spindles := [(0, {})] })).map (fun t => ((t.core 0).rx 3, (t.core 0).flight.length)) = some (9, 0)
    ∧ (nextOf .fmtTakeEffect (mill fun c => { c with fmtPend := [(7, 1)] })).map (fun t => (t.core 0).fmt.toNat) = some 7
    ∧ (nextOf .blockEnd (blocked .fence false [])).map (fun t => (t.strand 0).st) = some .ready
    ∧ (nextOf .blockEnd (blocked .resp true [wr .x 3 9 1])).map (fun t => ((t.strand 0).st, (t.core 0).rx 3)) = some (.ready, 9)
    ∧ (nextOf .blockEnd (blocked (.acq (.spad 0 0x80) 0x80 7 6 { scope := 4 }) true [wr .x 6 0 1])).map (fun t => (t.strand 0).st) = some .blocked := by decide +kernel

/-- Context 5 has one task ready, and its one slot is FREE; or its range can be stolen; or its strand has halted; or a kill is on its way. -/
def task1 : Task := { node := 0, act := 1, inst := 6, scope := 1, args := [11, 12, 13, 14, 15], entry := 0x40, mpc0 := 0x50 }
def ready1 (acts : AMap (Option Activation) := [(1, some { node := 0, live := 1 })]) (ts : List Task := [task1]) : State :=
  evAt (whorls (fun g => { g with ready := ts, acts := acts }) (fun t => { t with st := .free })) 5 3
def stealable : State := ready1 [(3, some { rangeAct with live := 1, ranges := [(8, some (20, 100))], words := rangeAct.words })] []
def haltedAt : State := whorls (fun g => { g with acts := [(3, some { node := 0, live := 1 })] }) fun t => { t with st := .halted, act := 3 }
def dying : State := evAt (whorls fun g => { g with kills := [(1, [1], [])], scopes := [(1, some { st := .cancelling })] }) 5 1
theorem meets_TaskEvents : ready1.placing 5 = true ∧ (ready1.whorl 5).placing 5 = true ∧ ((ready1.whorl 5).group 5).map (fun g => (g.ready, (ready1.whorl 5).freeSlot 5 g 64)) = some ([task1], some 4)
    ∧ (stealable.group 5).map (fun g => (g.ready, stealable.freeSlot 5 g 64)) = some ([], some 4)
    ∧ ((stealable.group 5).bind fun g => (g.act 3).bind fun x => x.victim none) = some (8, 20, 100)
    ∧ haltedAt.drained 4 = true ∧ (dying.group 5).map (fun g => g.kills) = some [(1, [1], [])] ∧ dying.stop 5 = none ∧ mget [] dying.restoring 5 = [] ∧ (dying.strand 4).st = .running
    ∧ ((mill fun c => c).strand 0).st ≠ .halted := by decide +kernel
/-- R22 to R24: the registers of a placed task; its identity word is of SPN 1, GN 1 and node 0. -/
theorem test_task_place : (nextOf .taskPlace ready1).map (fun t => ((t.strand 4).st, (List.range 8).map fun k => ((t.core 4).rx (k + 1)).toNat, (t.core 4).pc.toNat, (t.core 4).mpc.toNat)) =
    some (.ready, [11, 12, 13, 14, 15, 6, 4 + 2 ^ 18, 0], 0x40, 0x50) := by decide +kernel
/-- R46: a range of 80 with grain 4 is cut at 60; R29: the slot is free; R51: the kill halts the strand. -/
theorem test_steal_retire_kill :
    (match nextOf .rangeSteal stealable with
      | some t => (t.group 5).bind fun g => (g.act 3).map fun x => (x.live, [mget none x.ranges 8, mget none x.ranges 4])
      | none => none) = some (2, [some (20, 60), some (60, 100)])
    ∧ (nextOf .strandRetire haltedAt).map (fun t => (t.strand 4).st) = some .free
    ∧ (nextOf .killArrival dying).map (fun t => ((t.strand 4).st, ((t.group 5).map fun g => g.kills.length).getD 9)) = some (.halted, 0) := by decide +kernel

/-- The copy of `cs` from HBM to the scratchpad, in a phase. -/
def jobAt (p : CopyPhase) (todo : List Nat) : CopyJob :=
  { id := 1, sid := 0, mcx := 0, mill := true, cl := 0, ch := 0, src := desc 0x20000 0 4, dst := desc 0x100 1 4, srec := rec1, drec := rec1, bar := some 0x80, phase := p, todo := todo }
def copying (p : CopyPhase) (todo : List Nat) (j : CopyJob → CopyJob := id) : State := evAt ((armed { cs with copies := [(1, some (j (jobAt p todo)))] }).updCluster 0 fun c => c.setGran 0 { eng := some (.copy 1) }) 1
/-- The fill of R137's example, as a transform of streams at 0x10000 with masks at 0x10100: pinned, with its dense bytes. -/
def filling : State := copying .started [0] fun j => { j with
  dst := desc 3 2 4, slots := [] } 
def bobC : State := filling.updCluster 0 fun c => c.setBobbin 3 (some { slotsm1 := 1, tags := [.empty, .empty] })
def callQ (f : Call → Call := id) (r : AMap (Option Repeat) := []) : State := evAt (mx fun x => { x with queue := [f call0], rpts := r })
/-- A frame to write and one to decode. -/
def frameB : List Byte := frameBytes 0 [⟨2, 7⟩] true 0
def reelW : State := reels { live := true, waiting := [(0, frameB)] }
def reelD : State := ({ reels { live := true, coded := true, held := [(0, 1)] } with hbm := putBytes [] 0x20000 frameB }).updStrand 4 fun t => { t with waits := [.reelFrame 0], st := .blocked }
theorem meets_EngineEvents : (copying .waiting [2]).evCopy = some (jobAt .waiting [2]) ∧ (jobAt .waiting [2]).reachesCtrl = false
    ∧ rXform rec1 = 0 ∧ (jobAt .started [2]).ready = true ∧ (jobAt .started [2]).pick 0 = 2
    ∧ (match (copying .started [2]).copySector (jobAt .started [2]) 2 false with | .ok _ _ => true | _ => false) = true
    ∧ rWidth rec1 = 8 ∧ (sectorElems (desc 0x100 1 4) rec1 2).length = 4 ∧ ((sectorElems (desc 0x100 1 4) rec1 2).map Prod.snd) = [2048, 2056, 2064, 2072]
    ∧ (copying .started [2]).storesPending 0 0x100 128 = false ∧ mget false ((copying .started [2]).cluster 0).poison 2 = false
    ∧ (((copying .started [2]).cluster 0).mark 0x80).armed = true ∧ ((copying .started [2]).cluster 0).barPending 0x80 = 0x100 ∧ ((copying .started [2]).cluster 0).barW 0x80 2 % 2 ^ 16 = 2
    ∧ (let s := evAt ((bobs none).updCluster 0 fun c => { c with trans := [(4, 3, 1)] }) 0 3
       (s.cluster 0).trans = [(4, 3, 1)] ∧ s.bankStores 0 3 = false ∧ s.transOk 0 3 (modeOf 1) = true ∧ ((s.cluster 0).bank 3).mode ≠ .scratch)
    ∧ (callQ.spindle 0).queue = [call0] ∧ callQ.stopping (callQ.mcxOf 0) = false ∧ writesAcc 0 false ((callQ.routine 0 6).getD []) = true ∧ (callQ.core 0).shadown = 0
    ∧ (evAt mx).repeatOf 0 = none ∧ (match (evAt (mx fun x => { x with rpts := [(0, some { k := 1, n := 3, call := call0, strides := [] })] })).window 0 0 with | .ok w => w == none | _ => false) = true
    ∧ (reelW.strand 4).reelMay (0, frameB) = true ∧ (reelD.strand 4).wantsFrame = some 0
    ∧ (match reelD.reelFrame 4 reelD.me.reel (reelD.reelCfg 4) 0 with | (.ok bs, r) => decide (bs = frameB) && !r | _ => false) = true := by decide +kernel
/-- R126, R135: the copy starts, and its four bytes arrive at 0x100. -/
theorem test_copy_events :
    (nextOf .copyStart (copying .waiting [2])).map (fun t => (t.copyJob 1).map fun j => j.phase) = some (some .started)
    ∧ (nextOf .copySectorWrite (copying .started [2])).map (fun t => (leNat (getBytes (t.cluster 0).bytes 0x100 8), t.copyJob 1, (t.cluster 0).barPending 0x80)) = some (0x44332211, none, 0xFC)
    ∧ (nextOf .copyError (copying .started [2])).map (fun t => (t.copyJob 1).isSome) = some true := by decide +kernel
/-- R137's example: the stream 00 07 C0 00 FE C0 decodes to twelve bytes. -/
theorem test_codec : (codecDecode 20 0 ([0x00, 0x07, 0xC0, 0x00, 0xFE, 0xC0] : List Byte)) = some [0x07, 0x07, 0x07, 0x07, 0xFE, 0xFE, 0xFE, 0xFE] := by decide +kernel
theorem test_bobbin_slot : (nextOf .bobbinSlotStart bobC).map (fun t => ((t.cluster 0).bobbin 3).map fun o => o.tags) = some (some [.filling, .empty]) := by decide +kernel
theorem test_bank_transition : (nextOf .bankTransition (evAt ((bobs none).updCluster 0 fun c => { c with trans := [(4, 3, 1)] }) 0 3)).map (fun t => ((t.cluster 0).trans, ((t.cluster 0).bank 3).mode)) =
    some ([], modeOf 1) := by decide +kernel
theorem test_call_events : (nextOf .callStart callQ).map (fun t => (t.spindle 0).queue.map fun c => c.started) = some [true]
    ∧ (nextOf .repeatEnqueue (evAt (mx fun x => { x with rpts := [(0, some { k := 1, n := 3, call := call0, strides := [(2, 5)] })] }))).map (fun t =>
      ((t.spindle 0).queue.map fun c => ((mget 0 c.m 2).toNat, c.mpc.toNat), (t.repeatOf 0).map fun r => r.k)) = some ([(0x46, 1)], some 2)
    ∧ (nextOf .shadowCompare callQ).isSome = true ∧ (nextOf .transformPin (copying .waiting [2])).isSome = true ∧ (nextOf .stallEnd (evAt mill)).isSome = true := by decide +kernel
/-- R265: the frame is written to the channel's slot 0 and is coded; R273: it is decoded again. -/
theorem test_frames : (nextOf .frameWrite reelW).map (fun t => (getBytes t.hbm 0x20000 512 == frameB, (t.core 4).reel.waiting.length)) = some (true, 0)
    ∧ (nextOf .frameDecode reelD).map (fun t => (t.core 4).reel.replay) = some [(0, some [⟨2, 7⟩])] := by decide +kernel
/-- The reel's example: its records, its payload, its first doubleword. -/
def recs4 : List ReelRec := [⟨5, 7⟩, ⟨2, 0x1234⟩, ⟨2, 0x1230⟩, ⟨4, 1⟩]
theorem test_frame_example : encRecs [] recs4 = [0x05, 0x07, 0x00, 0x02, 0x01, 0x34, 0x12, 0x85, 0x02, 0x00, 0x04, 0x86, 0x0C]
    ∧ leNat ((frameBytes 0 recs4 true 0).take 8) = 0x0020_1A04_0000_0000 ∧ decodeFrame 0 (frameBytes 0 recs4 true 0) = some recs4 := by decide +kernel
theorem meets_FrameRoundTrip : (encRecs [] [⟨2, 7⟩, ⟨4, 1⟩, ⟨5, 9⟩, ⟨6, 0⟩]).length ≤ 496 ∧ (frameBytes 3 [⟨2, 7⟩] true 0).length = 512
    ∧ decodeFrame 3 (frameBytes 3 [⟨2, 7⟩] true 0) = some [⟨2, 7⟩] := by decide +kernel

/-! ## Events of the distaff, of partitions and of the module -/

/-- A pre-emption of context 5 under way; its strand already saved and imaged, with the entry of its save in the queue. -/
def stopping5 (st : Stop := {}) : State := evAt { tenant with stops := [(5, some st)] } 5
def dqEntry : Nat := 1 + 5 * 4 + 2 ^ 16 + 2 ^ 25
def acking (imaged : Bool) : State :=
  evAt { tenant id (fun t => { t with st := .saved, imaged := imaged }) with stops := [(5, some { posted := true })], dies := [(0, { dq := [BitVec.ofNat 64 dqEntry] })] } 0 0 dqEntry
def watched1 : State := evAt { tenant with dies := [(0, { wdogLimit := [(0, 1)] })] } 600 0
def timing : State := evAt (tenant id id (fun g => { g with req := { slot := 3 } }) [(4, 2 ^ 32)]) 5 3
def debugging : State := evAt { tenant with keng := { dbg := 2 } } 0 0 (5 + 2 ^ 14)
def stopDone : State :=
  evAt { tenant with stops := [(5, some { debug := some (2, false) })], ctxs := [(5, some { die := 0, host := hostLine line5, st := .saved, root := 1 })] } 5
def walking (ea : Nat) : State := tenant id fun t => { t with stores := [{ loc := .phys 0, bytes := [7], pend := some ea }] }
def fault0 : FaultEnt := { key := 3, mcx := 5, addr := 0x123456, access := 0, cause := 2, who := 4 }
def posting : State := evAt { tenant with dies := [(0, { fqbase := 0x40000, faults := [fault0] })] }
/-- Shared frame 7 waits for its bytes; its record at 0x40000 + 64 × 7 names drive 0. -/
def fetching (d5 : Nat) : State :=
  evAt { State.reset with dies := [(0, { shdir := 0x40000, refetch := [7] })], hbm := words [(0x40000 + 64 * 7 + 32, 2 ^ 62), (0x40000 + 64 * 7 + 40, d5)] } 0 7
theorem meets_DistaffEvents :
    ((evAt { State.reset with dies := [(0, { ipis := [2] })] } 0 2).die 0).ipis.contains 2 = true ∧ ((evAt mill 0 1 0x40).strand 1).st = .free
    ∧ (match tenant.loadCtx 5 with | .loaded t => decide (t = tenant) | _ => false) = true
    ∧ timing.hw 5 4 / 2 ^ 32 % 2 ^ 16 = 1 ∧ (timing.waitingOf 5).length = 0 ∧ (timing.group 5).map (fun g => g.req.slot) = some 3
    ∧ stopping5.stop 5 = some {} ∧ (stopping5.group 5).isSome = true ∧ ((stopping5.group 5).map fun g => ((stopping5.groupSlots 5 g.spindles).foldl State.saveSlot stopping5).allSaved 5 g) = some true
    ∧ ((acking true).die 0).dq = [BitVec.ofNat 64 dqEntry] ∧ ((acking true).groupSlots 5 [1]).all (fun sid => ((acking true).strand sid).imaged) = true
    ∧ ((acking false).groupSlots 5 [1]).all (fun sid => ((acking false).strand sid).imaged) = false
    ∧ watched1.watchLimit 0 = 1024 ∧ watched1.watched 0 = true ∧ watched1.watchCount 0 = 0
    ∧ debugging.debugPermits 5 = true ∧ (debugging.part (debugging.partOf 5)).die = 0 ∧ tenant.debugPermits 5 = false
    ∧ (stopDone.stop 5).bind (fun st => st.debug) = some (2, false) ∧ stopDone.ctxCode 5 = 3
    ∧ (walking 0x20000).ev.flag = false ∧ (evAt State.reset 0 0 0 true).ev.flag = true
    ∧ (match (walking 0x20000).resolveStore 4 [] { loc := .phys 0, bytes := [7], pend := some 0x20000 } with | .ok _ => true | _ => false) = true
    ∧ (match (walking 0x50000).resolveStore 4 [] { loc := .phys 0, bytes := [7], pend := some 0x50000 } with | .error _ => true | _ => false) = true
    ∧ (posting.die 0).faults = [fault0] ∧ fault0.posted = none ∧ ((fetching (2 ^ 62)).die 0).refetch.contains 7 = true
    ∧ (match (fetching (2 ^ 62)).frameRec (0x40000 + 64 * 7) with | some x => x.ok && locOk x.loc && locSrc x.loc == 1 | none => false) = true := by decide +kernel
theorem test_distaff_events :
    (nextOf .ipiDeliver (evAt { State.reset with dies := [(0, { ipis := [2] })] } 0 2)).map (fun t => ((t.die 0).ipis, (t.die 0).evpend.toNat)) = some ([], 4)
    ∧ (nextOf .mspawn (evAt mill 0 1 0x40)).map (fun t => ((t.strand 1).st, (t.core 1).pc.toNat)) = some (.ready, 0x40)
    ∧ (nextOf .savePost stopping5).map (fun t => ((t.die 0).dq.map BitVec.toNat, (t.strand 4).st)) = some ([dqEntry], .saved)
    ∧ (nextOf .dqack (acking false)).map (fun t => (t.die 0).dq.length) = some 1
    ∧ (nextOf .watchdogWarning watched1).map (fun t => ((t.die 0).evpend.toNat, t.watchCount 0)) = some (0x800, 600)
    ∧ (nextOf .partitionReset watched1).map (fun t => t.watchCount 0) = some 600
    ∧ (nextOf .dbgctl debugging).map (fun t => ((t.die 0).dbgMcx.toNat, (t.die 0).dbgHold, (t.die 0).dbgBrk)) = some (5, true, false)
    ∧ (nextOf .debugStop stopDone).map (fun t => ((t.die 0).dbgStopped, (t.die 0).dbgReason.toNat)) = some (true, 2)
    ∧ (nextOf .tlbMissWalk (walking 0x20000)).map (fun t => (t.strand 4).stores.map fun p => p.pend) = some [none] := by decide +kernel
theorem test_timeouts : (nextOf .requestTimeout timing).map (fun t => (t.group 5).bind fun g => g.cancelled) = some (some stTimeout)
    ∧ (nextOf .contextRecordLoad (evAt tenant 5)).isSome = true ∧ (nextOf .sharedFrameRefetch (fetching 0)).isSome = true := by decide +kernel
/-- R366's example of an entry's doublewords D0 to D3 has these fields; the entry is posted at the queue's base, with FQPOSTED counted up. -/
theorem test_fault_post : (nextOf .faultPost posting).map (fun t => ((t.die 0).fqposted.toNat, leNat (getBytes t.hbm 0x40000 8) % 2 ^ 48, t.evPend 0)) =
    some (1, 0x123456, 0x100) := by decide +kernel

/-- Partition 1 has a cap; partition 2 is enabled with a change of frequency. -/
def parts0 : State := { State.reset with parts := [(1, { cap := 100 }), (2, { enable := true, clusters := 2, cap := 100, relock := some 20, pstate := 1 })], chans := [(0, { waiting := [⟨some 1, 1⟩], tok := [(1, 990)], floor := [(1, 50)] })] }
def pctlWord : Nat := 1 + 8 + 20 * 2 ^ 16
theorem meets_PartitionEvents :
    (let s := evAt parts0 0x100 0 pctlWord
     s.partErrors (s.setPart 1 { s.part 1 with enable := true, die := 0, clusters := 1, freq := 20, pstate := 0 }) 1 true = 0 ∧ (s.part 1).enable = false)
    ∧ (let s := evAt parts0 0x100 0 1
       s.partErrors (s.setPart 1 { s.part 1 with enable := true, die := 0, clusters := 0, freq := 0, pstate := 0 }) 1 true = perrRange)
    ∧ parts0.partErrors (parts0.setPart 1 { parts0.part 1 with cap := 60 }) 1 false = 0 ∧ (parts0.part 2).relock = some 20 ∧ (parts0.part 2).enable = true ∧ (parts0.part 2).istate = 0
    ∧ (let s : State := { parts0 with parts := [(2, { enable := true, clusters := 2, cap := 100, pstate := 1 })] }
       s.idleState (s.part 2) = 1 ∧ s.islandBusy 2 = false)
    ∧ ({ parts0 with parts := [(2, { enable := true, istate := 2 })] } : State).keng.lcs ≠ 4
    ∧ (parts0.chan 0).waiting = [⟨some 1, 1⟩] ∧ (parts0.chan 0).second = false ∧ (parts0.chan 0).spare < 9 ∧ 9 ≤ ({ spare := 9 } : Chan).spare
    ∧ (let s : State := { parts0 with keng := { lcs := 4 } }
       bitOf (s.partErrors (s.setPart 2 { s.part 2 with pstate := 0 }) 2 true) 4 = true)
    ∧ (let s : State := { parts0 with modcap := 99 }
       bitOf (s.partErrors (s.setPart 2 { s.part 2 with cap := 3001 }) 2 false) 2 = true)
    ∧ (1000 : Int) ≤ min (mget 0 (parts0.chan 0).tok 1 + ((parts0.chan 0).floorOf 1 : Int)) (1000 * ((parts0.chan 0).burstOf 1 : Int)) := by decide +kernel
theorem test_partition_events :
    (nextOf .pctl (evAt parts0 0x100 0 pctlWord)).map (fun t => ((t.part 1).enable, (t.part 1).freq.toNat, t.perr)) = some (true, 20, 0)
    ∧ (nextOf .pctl (evAt parts0 0x100 0 1)).map (fun t => ((t.part 1).enable, t.perr)) = some (false, 16)
    ∧ (nextOf .pcap (evAt parts0 0x108 0 60)).map (fun t => (t.part 1).cap.toNat) = some 60 ∧ (nextOf .pcap (evAt parts0 0x108 0 3001)).map (fun t => t.perr) = some 16
    ∧ (nextOf .scmask (evAt parts0 0x140 0 5)).map (fun t => mget 0 (t.part 1).scmask 0) = some 5
    ∧ (nextOf .partitionFloor (evAt parts0 0x10008 0 (100 + 2 * 2 ^ 16))).map (fun t => ((t.chan 0).floorOf 1, (t.chan 0).burstOf 1)) = some (100, 2)
    ∧ (nextOf .arbiterSlot (evAt parts0)).map (fun t => ((t.chan 0).waiting.length, mget 0 (t.chan 0).tok 1)) = some (0, 40)
    ∧ (nextOf .freqRelock (evAt parts0 2 5)).map (fun t => ((t.part 2).curfreq.toNat, (t.part 2).relock)) = some (20, none)
    ∧ (nextOf .thermalThrottle (evAt parts0 1 0 0 true)).map (fun t => (t.die 1).hot) = some true := by decide +kernel
/-- R377: 2 W under a cap of 100 keeps the state; above it the frequency falls by one step. -/
theorem test_power_window : (nextOf .capWindowEnd (evAt { State.reset with parts := [(2, { enable := true, cap := 100 })] } 2 0 1601)).map (fun t => (t.part 2).relock.map BitVec.toNat) = some (some 35)
    ∧ (nextOf .islandIdleEntry (evAt { State.reset with parts := [(2, { enable := true, pstate := 1 })] } 2)).map (fun t => (t.part 2).istate) = some 1
    ∧ (nextOf .islandWake (evAt { State.reset with parts := [(2, { enable := true, istate := 2 })] } 2)).map (fun t => (t.part 2).istate) = some 0 := by decide +kernel

def heldDies : State := { State.reset with held := true }
theorem meets_ModuleEvents : heldDies.held = true ∧ heldDies.tripped = false ∧ State.reset.booting = true ∧ State.reset.keng.lcs ≠ 4 ∧ State.reset.fwSlot ≠ some 0
    ∧ ({ State.reset with dies := [(0, { fw := true })] } : State).booting = false ∧ ((evAt { State.reset with dies := [(0, { fw := true })] } 1).die 0).fw = true ∧ 0x1000 + 8 * 511 < 2 ^ 40 := by
  decide +kernel
theorem test_module_events :
    (nextOf .supplyOutOfRange State.reset).map (fun t => t.held) = some true ∧ (nextOf .supplyReturn heldDies).map (fun t => (t.held, t.agenda.length)) = some (false, 1)
    ∧ (nextOf .thermalTrip State.reset).map (fun t => t.tripped) = some true ∧ (nextOf .thermalRecovery { State.reset with tripped := true }).map (fun t => t.tripped) = some false
    ∧ (nextOf .coldReset { State.reset with modcap := 5, flash := [(3, 7)] }).map (fun t => (t.modcap.toNat, t.flash)) = some (3000, [(3, 7)])
    ∧ (nextOf .pldmFirmwareUpdate { State.reset with dies := [(0, { fw := true })], ev := { n := 1, bytes := [7] } }).map (fun t => getBytes t.flash 0x1000000 1) = some [7]
    ∧ (nextOf .pldmResetEffecter (evAt State.reset 0 0 1)).map (fun t => t.agenda.length) = some 1 ∧ (nextOf .pldmSensorRead (evAt State.reset 3 0 77)).map (fun t => t.mgmt) = some [(3, 77)]
    ∧ (nextOf .bar2Access { State.reset with ev := { n := 0x40, flag := true, bytes := [7] } }).map (fun t => getBytes t.hbm 0x40 1) = some [7]
    ∧ (nextOf .registerWrite (evAt State.reset (0x12 * 2 ^ 42 + 0x020) 0 9)).map (fun t => (t.die 0).modnum.toNat) = some 9 := by decide +kernel
theorem test_link_reset : (nextOf .hostLinkReset { State.reset with fns := [(3, { sqtail := 4 })] }).map (fun t => (t.fn 3).sqtail.toNat) = some 0 := by decide +kernel

/-! ## The host, keys and the network -/

/-- Function 3 has a command at the head of its submission queue: all zeros, a NOP. -/
def queue3 : State := { State.reset with fns := [(3, { en := true, sqlog := 4, sqtail := 1 })] }
/-- Command 1 of function 0: its doublewords. -/
def cmdOf (ws : List Nat) : Cmd := { fn := 0, idx := 0, ws := ws.map (BitVec.ofNat 64), order := 1 }
def withCmd (s : State) (c : Cmd) : State := evAt { s with cmds := [(1, some c)] } 1
def ring5 : State := tenant id id id [(19, 0x20000 + 6 * 2 ^ 48)]
def launchCmd : Cmd := cmdOf [3 + 2 ^ 8 + 5 * 2 ^ 18 + 6 * 2 ^ 32, 99, 2 ^ 62 + 0x1000, 8]
def copyCmd : Cmd := cmdOf [5 + 2 * 2 ^ 8, 0, 2 ^ 62 + 0x1000, 2, 3 * 2 ^ 62 + 0x2000, 2]
/-- Command 1 waits for firmware: FLASHWRITE, FLASHREAD and FLASHINFO of drive 1. -/
def flashCmd (opc lba len : Nat) : Cmd := cmdOf [opc + 2 ^ 8, lba + 2 ^ 48, 3 * 2 ^ 62 + 0x1000, len]
def presents (c : Cmd) : State := { withCmd State.reset c with dies := [(0, { fw := true, hqent := some (0, 0) })], hostMem := putBytes [] (0x1000) [7, 8] }
def streams : State := evAt { State.reset with dies := [(0, { rvtail := 1, rvbase := 0x40000 })], hbm := words [(0x40000, 0x50000), (0x40008, 0x60000), (0x50020, 2 ^ 62), (0x50028, 2 ^ 62)] }
def unit0 : RvUnit := { idx := 0, dstat := 0x40018, dest := 0x60000, key := 0, loc := 2 ^ 62, hash := List.replicate 32 0 }
theorem meets_HostEvents :
    queue3.hostServing = true ∧ queue3.nextQueue = some 3 ∧ State.reset.nextQueue = none ∧ (queue3.fn 3).en = true ∧ (presents (flashCmd 0x80 9000 4096)).presented = some (1, flashCmd 0x80 9000 4096)
    ∧ (∀ k < 8, (withCmd State.reset (cmdOf [k])).mayStart (cmdOf [k]) = true ∧ (cmdOf [k]).opc = k ∧ (cmdOf [k]).done = none)
    ∧ (let s := withCmd ring5 launchCmd
       s.mayStart launchCmd = true ∧ launchCmd.mcx = 5 ∧ s.ctxCode 5 = 2 ∧ launchCmd.len 0 = 8 ∧ s.slotSize 5 = 64 ∧ s.ringSize 5 = 1
       ∧ (match s.loadCtx 5 with | .loaded t => decide (t = s) && (match t.ctxWrite 5 t.nextId (cutAt (t.reqAddr 5 0) (List.replicate 8 0)) with | .ok _ => true | _ => false) | _ => false) = true)
    ∧ (copyCmd.inHost 0 = true ∧ copyCmd.inHost 1 = true ∧ copyCmd.opc = 5 ∧ copyCmd.len 0 = 2)
    ∧ (let s := withCmd tenant (cmdOf [5 + 2 * 2 ^ 8 + 5 * 2 ^ 18, 0, 0x20000, 2, 3 * 2 ^ 62 + 0x2000, 2])
       bitOf (s.hw 5 2) 48 = false ∧ s.ctxCode 5 ≠ 0 ∧ (match s.copySource 1 5 (cutAt 0x20000 [0, 0]) with | .ok bs => bs == [0, 0] | _ => false) = true
       ∧ (match s.copySource 1 5 (cutAt 0x50000 [0, 0]) with | .err _ => true | _ => false) = true ∧ (s.copyBar 5 (cutAt 0x50000 [0, 0])).isSome = true
       ∧ s.copyBar 5 (cutAt 0x20000 [0, 0]) = none ∧ (match s.copyPut 1 5 (cutAt 0x20000 [0, 0]) with | .ok t => !t.copyAsks 1 | _ => false) = true)
    ∧ (let c := flashCmd 0x81 9000 4096
       c.rangesFit = true ∧ (presents c).reachesDrive c = true ∧ (presents c).reachesDrive (flashCmd 0x81 9000 4095) = false ∧ (cmdOf [0x81]).rangesFit = false)
    ∧ (let c := { cmdOf [0] with done := some (0, 0) }
       let s := { withCmd State.reset c with fns := [(0, { sqlog := 4 })] }
       s.cmd 1 = some c ∧ (s.fn 0).ferr = false ∧ ((s.fn 0).cqtail.toNat + 1) % 2 ^ (s.fn 0).sqlog.toNat ≠ (s.fn 0).cqhead.toNat % 2 ^ (s.fn 0).sqlog.toNat)
    ∧ (streams.die 0).rvNext = some 0 ∧ (match streams.rvUnit 0x40000 0 with | .inl y => y == unit0 && locSrc y.loc == 1 | _ => false) = true
    ∧ (match streams.fetchUnit 0 0 (2 ^ 62) with | .bytes _ => true | _ => false) = true := by decide +kernel
/-- Firmware runs, and has enabled the queues. -/
def served0 : State := { State.reset with dies := [(0, { fw := true })] }
theorem test_host_registers :
    (nextOf .sqtail (evAt served0 0 3 5)).map (fun t => ((t.fn 3).sqtail.toNat, (t.die 0).evpend.toNat)) = some (5, 0x200)
    ∧ (nextOf .cqhead (evAt served0 0 3 5)).map (fun t => (t.fn 3).cqhead.toNat) = some 5
    ∧ (nextOf .sqcfg (evAt served0 0 3 (2 ^ 15 + 6))).map (fun t => ((t.fn 3).en, (t.fn 3).sqlog.toNat)) = some (true, 6)
    ∧ (nextOf .flr (evAt queue3 0 3)).map (fun t => ((t.fn 3).en, (t.fn 3).sqtail.toNat)) = some (false, 0)
    ∧ (nextOf .rvtail (evAt State.reset 0 0 9)).map (fun t => (t.die 0).rvtail.toNat) = some 9
    ∧ (nextOf .sqtail (evAt State.reset 0 3 5)).map (fun t => (t.fn 3).sqtail.toNat) = some 0 := by decide +kernel
/-- R325: the NOP is admitted as command 1; R324: it completes; R328: bytes are written to and read from a drive. -/
theorem test_commands :
    (nextOf .commandAdmit queue3).map (fun t => ((t.fn 3).sqhead.toNat, (t.cmd 1).map fun c => c.fn)) = some (1, some 3)
    ∧ [0, 6].map (fun k => (nextOf (if k = 0 then .hostNop else .mark) (withCmd State.reset (cmdOf [k]))).map fun t => (t.cmd 1).bind fun c => c.done) = [some (some (0, 0)), some (some (0, 0))]
    ∧ (nextOf .copy (withCmd { State.reset with hostMem := putBytes [] 0x1000 [7, 8] } copyCmd)).isSome = true
    ∧ (nextOf .launch (withCmd ring5 launchCmd)).map (fun t => (t.waitingOf 5).map fun r => (r.id, r.len, r.host)) = some [(6, 8, true)]
    ∧ [Instr.install, .remove, .hostCancel].map (fun i => (nextOf i (withCmd State.reset (cmdOf [match i with | .install => 1 | .remove => 2 | _ => 4]))).map fun t => ((t.cmd 1).bind fun c => c.done).isSome) =
      [some true, some true, some true]
    ∧ (nextOf .commandCompletion { withCmd State.reset { cmdOf [0] with done := some (0, 0) } with fns := [(0, { sqlog := 4 })] }).map (fun t => ((t.cmd 1).isSome, (t.fn 0).cqtail.toNat)) = some (false, 1) := by
  decide +kernel
theorem test_flash :
    (nextOf .flashwrite (presents (flashCmd 0x80 9000 4095))).map (fun t => (t.cmd 1).bind fun c => c.done) = some (some (cIllegal, 0))
    ∧ (nextOf .flashwrite (presents (flashCmd 0x80 9000 4096))).isSome = true ∧ (nextOf .flashread (presents (flashCmd 0x81 9000 4096))).isSome = true
    ∧ (nextOf .flashinfo (presents (flashCmd 0x83 0 64))).isSome = true
    ∧ (nextOf .flashflush (presents (cmdOf [0x82, 0]))).map (fun t => (t.cmd 1).bind fun c => c.done) = some (some (0, 0))
    ∧ (nextOf .driveTimeout (presents (cmdOf [0x82, 0]))).map (fun t => (t.cmd 1).bind fun c => c.done) = some (some (0x82, 0x7FFF))
    ∧ (nextOf .hqdone { presents (cmdOf [0x82, 0]) with ev := { n := 1, v := 0x300 } }).map (fun t => (t.cmd 1).bind fun c => c.done) = some (some (0, 3)) := by decide +kernel
theorem test_stream : (nextOf .unitStream streams).map (fun t => ((t.die 0).rvhead.toNat, (t.die 0).rvfly)) = some (1, [unit0])
    ∧ (nextOf .unitDone (evAt { State.reset with dies := [(0, { rvfly := [unit0] })] } 0 0 0 true)).map (fun t => ((t.die 0).rvfly.length, getBytes t.hbm 0x40018 1)) = some (0, [3]) := by decide +kernel

def dep (k : KeyEng → KeyEng := id) : State := { State.reset with keng := k { lcs := 2 } }
theorem meets_KeyEvents : (dep).keng.cmd = none ∧ (dep).kcmdRefusal 1 12 0x1000 0 = none ∧ (dep).kcmdRefusal 2 12 0 0 = none ∧ (dep).slotNamed 12 = false ∧ (State.reset).kcmdRefusal 1 12 0x1000 0 = some 3
    ∧ (dep).operand 0x1000 512 = some (List.replicate 512 0) ∧ ({ dep with sects := [(0x20, { poison := true })] } : State).operand 0x1000 512 = none
    ∧ (tenant.ctx 5).isSome = true ∧ tenant.ctxCode 5 ≠ 0 ∧ (dep fun k => { k with lcs := 5 }).keng.lcs.toNat = 5
    ∧ ((dep fun k => { k with cmd := some (2, 12) }).keng.cmd = some (2, 12)) ∧ (State.reset.fn 3).cnt = [] := by decide +kernel
/-- R384's example: KCMD 0xC2 clears slot 12; it completes with result 0. -/
theorem test_clear :
    (nextOf .clear (evAt (dep fun k => { k with slots := [(12, some { model := false, tenant := 1, kxts := [], kmac := [], kgcm := [] })] }) 0 0 0xC2)).map (fun t => (t.keng.cmd, t.agenda.length)) = some (some (2, 12), 1)
    ∧ (nextOf .clear (evAt (dep fun k => { k with cmd := some (2, 12), slots := [(12, some { model := false, tenant := 1, kxts := [], kmac := [], kgcm := [] })] }) 0 0 0 true)).map (fun t =>
      (t.keySlot 12, t.keng.result, t.keng.cmd)) = some (none, 0, none)
    ∧ (nextOf .load (evAt State.reset 0 0 0xC1)).map (fun t => t.keng.cmd) = some (some (17, 3)) := by decide +kernel
theorem test_key_levels :
    [Instr.report, .extend, .setdbg, .lcreq].map (fun i => (nextOf i (evAt (dep) 0 0 (match i with | .report => 3 | .extend => 4 | .setdbg => 5 | _ => 6))).map fun t => t.keng.cmd.isSome) =
      [some true, some true, some true, some true]
    ∧ (nextOf .dbgten (evAt State.reset 0 0 (32 * 9))).map (fun t => t.keng.dbgten.toNat) = some 9 := by decide +kernel
/-- R428: the increments of 9 on counter 1 are flushed into the line; R430, R434, R401, R438. -/
theorem test_counters : (nextOf .leaFlush (evAt { tenant with leaAcc := [(41, 9)] } 5)).map (fun t => (t.ctx 5).map fun c => (mget 0 c.lea 1).toNat) = some (some 9)
    ∧ (nextOf .leaReport (evAt (dep) 0 0 5)).map (fun t => t.keng.lrcmd) = some (some 5) ∧ (nextOf .counterFlush (evAt State.reset 32)).isSome = true
    ∧ (nextOf .linkError (evAt { State.reset with dies := [(0, { elbase := 0x40000 })] })).map (fun t => (t.die 0).elidx.toNat) = some 1
    ∧ (nextOf .perrateWindow (evAt { State.reset with ports := [(0, { used := 9 })] })).map (fun t => (t.port 0).used) = some 0 := by decide +kernel
theorem meets_DebugLevels : (1 < 4 ∧ (dep).keng.lcs.toNat ≤ 4) ∧ (nextOf .setdbg (evAt (dep fun k => { k with cmd := some (5, 0), karg := 1 }) 0 0 1 true)).isSome = true := by decide +kernel

/-- Port 0 is on with its address; a frame with its check sequence. -/
def port0 : Port := { mac := 0x0A0B0C0D0E0F, ip4 := 0xC0A80001, cfg := 0x190000004E534E52 }
def netAt (bs : List Byte) (k : KeyEng := {}) : State := { State.reset with ports := [(0, port0)], keng := k, ev := { bytes := bs } }
def frame (bs : List Byte) : List Byte := bs ++ fcs bs
def be (n v : Nat) : List Byte := (leBytes n v).reverse
def arpFrame : List Byte :=
  frame (be 6 (2 ^ 48 - 1) ++ be 6 0x112233445566 ++ be 2 0x0806 ++ be 8 0x0001080006040001 ++ be 6 0x112233445566 ++ be 4 0xC0A80002 ++ be 6 0 ++ be 4 0xC0A80001 ++ List.replicate 18 0)
/-- A header of NRP: version, magic number, opcode, function key 7. -/
def nrpHead (opc plen : Nat) : List Byte := leBytes 32 (1 + 0x4E5 * 2 ^ 4 + opc * 2 ^ 16 + 7 * 2 ^ 32 + plen * 2 ^ 128)
def reqAt (s : ReachReq) : State := { netAt [] with reachReqs := [(0, some s)] }
/-- A header of a reach message: its type, sector 0x1000. -/
def reachHead (type : Nat) (more : Nat := 0) : List Byte := leBytes 32 (type + 0x1000 * 2 ^ 64 + more)
theorem meets_NetworkEvents : (State.reset.port 0).on = false ∧ (netAt arpFrame).port 0 = port0 ∧ port0.on = true
    ∧ (match Eth.parse arpFrame with | some e => e.etype == 0x0806 && (e.arp port0).isSome && e.dst == 2 ^ 48 - 1 | none => false) = true ∧ Eth.parse (arpFrame.drop 1) = none
    ∧ (nrpHead 1 0).length = 32 ∧ (nrpHead 1 16 ++ List.replicate 32 0).length = 64
    ∧ (let h := leNat (nrpHead 1 16)
       hdrField h 4 12 = 0x4E5 ∧ hdrField h 16 8 = 1 ∧ hdrField h 32 64 = 7 ∧ hdrField h 128 24 = 16 ∧ hdrField h 0 4 = 1 ∧ hdrField h 24 8 = 0 ∧ hdrField h 152 8 = 0 ∧ hdrField h 240 16 = 0)
    ∧ (netAt [] { lcs := 2 }).serving = true ∧ (netAt []).serving = false ∧ (netAt [] { lcs := 2 }).keyFind 7 = none
    ∧ (let h := leNat (reachHead 1)
       hdrField h 0 8 = 1 ∧ hdrField h 16 6 = ((netAt (reachHead 1)).die 0).modnum.toNat ∧ hdrField h 64 48 = 0x1000 ∧ hdrField h 48 14 = 0)
    ∧ ((netAt (reachHead 1)).sect 0x20).poison = false
    ∧ (∃ x, (netAt [] { slots := [(12, some { model := false, tenant := 1, kxts := [], kmac := [], kgcm := [] })] }).keySlot 12 = some x ∧ x.model = false)
    ∧ hdrField (leNat (reachHead 2 (12 * 2 ^ 48))) 48 14 = 12 ∧ ({ netAt [] with outbox := [(none, { port := 0, dst := 0, bytes := [7] })] } : State).outbox.length = 1
    ∧ ((reqAt { kind := 2, home := 0, key := 0, pa := 0x1000, cid := 1 }).asked (leNat (reachHead 0x82)) 2).isSome = true
    ∧ mget none (reqAt { kind := 1, home := 0, key := 0, pa := 0x1000 }).reachReqs 0 = some { kind := 1, home := 0, key := 0, pa := 0x1000 } := by decide +kernel
/-- R402: the check sequence of "123456789" is 0xCBF43926, sent low byte first; an ARP request is answered; a frame cut short is dropped. -/
theorem test_frames_in : fcs [0x31, 0x32, 0x33, 0x34, 0x35, 0x36, 0x37, 0x38, 0x39] = leBytes 4 0xCBF43926
    ∧ (nextOf .ethernetFrame (netAt arpFrame)).map (fun t => t.sent.length) = some 1
    ∧ (nextOf .ethernetFrame (netAt (arpFrame.drop 1))).map (fun t => (mget 0 (t.port 0).drops 0).toNat) = some 1
    ∧ (nextOf .linkStateChange (evAt (netAt []))).map (fun t => (t.port 0).up) = some false := by decide +kernel
/-- R405 to R408: a request that is too short is dropped; one with an unknown key is refused with code 3; R411: a reply waits for its port. -/
theorem test_nrp : (nextOf .nrpRequest (netAt [0] { lcs := 2 })).map (fun t => (mget 0 (t.port 0).drops 0).toNat) = some 1
    ∧ (nextOf .nrpRequest (netAt (nrpHead 1 16 ++ List.replicate 32 0) { lcs := 2 })).map (fun t => (mget 0 (t.port 0).drops 3).toNat) = some 1
    ∧ (nextOf .nrpCancel (netAt (nrpHead 2 0 ++ List.replicate 16 0) { lcs := 2 })).map (fun t => (mget 0 (t.port 0).drops 3).toNat) = some 1
    ∧ (nextOf .replySend State.reset).isSome = true := by decide +kernel
/-- R413 to R416: requests at the home are answered; an acknowledgement and a time-out at the requester. -/
theorem test_reach :
    [Instr.read, .write, .atomic].map (fun i => (nextOf i (netAt (reachHead (match i with | .read => 1 | .write => 2 | _ => 3) 1))).isSome) = [true, true, true]
    ∧ (nextOf .writeack { reqAt { kind := 2, home := 0, key := 0, pa := 0x1000, cid := 1 } with ev := { bytes := reachHead 0x82 } }).map (fun t => mget none t.reachReqs 0) = some none
    ∧ (nextOf .reachTimeout (reqAt { kind := 1, home := 0, key := 0, pa := 0x1000 })).map (fun t => (mget none t.reachReqs 0).map fun q => q.sent) = some (some 2)
    ∧ [Instr.readrsp, .atomicrsp].map (fun i => (nextOf i (netAt (reachHead (match i with | .readrsp => 0x81 | _ => 0x83)))).isSome) = [true, true] := by decide +kernel

/-! ## Ill-formed instructions: for each check of `Instr.wf`, the instructions that it stands in, with a field that it refuses -/

/-- None of these instructions is well formed with these fields. -/
def refusedAll {F : Type} (cs : List (F → Instr)) (f : F) : Bool := cs.all fun c => !(c f).wf
theorem test_ill_formed_scalar :
    refusedAll [Instr.sNop, .crw, .setfmt, .mpcset] (sf 1 0 0 0) = true
    ∧ refusedAll [Instr.sNop, .crr] (sf 0 1 0 0) = true
    ∧ refusedAll [Instr.sNop, .addi, .andi, .ori, .xori, .shli, .shrli, .shrai, .rotri, .sltis, .sltin, .bfxs, .bfxn, .bfi, .popc, .clz, .ctz, .crr,
      .crw, .mgetp, .dset, .dget] (sf 0 0 1 0) = true
    ∧ refusedAll [Instr.sNop, .add, .sub, .mul, .mulhs, .mulhn, .divs, .divn, .rems, .remn, .mins, .minn, .maxs, .maxn, .and, .or, .xor, .andn, .shl,
      .shrl, .shra, .rotr, .seq, .sne, .slts, .sltn, .popc, .clz, .ctz, .psetx, .pany, .pall, .pcnt, .mgetp] (sf 0 0 0 1) = true
    ∧ refusedAll [Instr.addshl] (sf 0 0 0 8) = true
    ∧ refusedAll [Instr.shli, .shrli, .shrai, .rotri] (sf 0 0 0 64) = true
    ∧ refusedAll [Instr.seq, .sne, .slts, .sltn, .sltis, .sltin, .psetx, .tshape] (sf 16 0 0 0) = true
    ∧ refusedAll [Instr.bfxs, .bfxn, .bfi, .crr, .crw] (sf 0 0 0 4096) = true
    ∧ refusedAll [Instr.pany, .pall, .pcnt] (sf 0 16 0 0) = true
    ∧ refusedAll [Instr.pany, .pall, .pcnt] (sf 0 0 16 0) = true
    ∧ refusedAll [Instr.setfmt] (sf 0 0 8 0) = true
    ∧ refusedAll [Instr.msetp, .dset] (sf 8 0 0 0) = true := by decide +kernel
theorem test_ill_formed_scalar_2 :
    refusedAll [Instr.mgetp, .dget] (sf 0 8 0 0) = true
    ∧ refusedAll [Instr.dset, .dget] (sf 0 0 0 4) = true := by decide +kernel
theorem test_ill_formed_vector :
    refusedAll [Instr.vmov, .vcmpeq, .vcmpne] (vf 12 0 0 0 0) = true
    ∧ refusedAll [Instr.vmov, .vabs, .vneg, .vpopc, .vclz, .vrcp, .vrsqrt, .vexp2, .vlog2, .vtanh, .vsigm, .vbcast, .vrev, .vcvt, .vquantScales,
      .vpack, .vunpack, .pnot, .pfirst] (vf 9 0 0 1 0) = true
    ∧ refusedAll [Instr.vmov, .vadd, .vsub, .vmul, .vmulh, .vmin, .vmax, .vabs, .vneg, .vaddsat, .vsubsat, .vavg, .vand, .vor, .vxor, .vandn, .vshl,
      .vshr, .vpopc, .vclz, .vrcp, .vrsqrt, .vexp2, .vlog2, .vtanh, .vsigm, .vrev, .vredadd, .vredmin, .vredmax, .pand, .por, .pxor, .pandn, .pnot,
      .pfirst] (vf 9 0 0 0 1) = true
    ∧ refusedAll [Instr.vmov, .vabs, .vneg, .vpopc, .vclz, .vrcp, .vrsqrt, .vexp2, .vlog2, .vtanh, .vsigm, .vclass] (vf 0 0 0 0 0 2) = true
    ∧ refusedAll [Instr.vmov, .vmulh, .vmin, .vmax, .vabs, .vneg, .vaddsat, .vsubsat, .vavg, .vand, .vor, .vxor, .vandn, .vshl, .vshr, .vpopc, .vclz,
      .vcmpeq, .vcmpne, .vcmplt, .vcmple, .vclass, .vsel, .vperm, .vslideup, .vslidedn, .vbcast, .vzip, .vunzip, .vrev, .vredmin, .vredmax,
      .vdequant] (vf 9 0 0 0 0 0 1) = true
    ∧ refusedAll [Instr.vadd, .vsub, .vmul, .vfma, .vfms, .vfnma, .vmin, .vmax, .vcmplt, .vcmple, .vredadd, .vredmin, .vredmax, .vscan,
      .vcvt] (vf 9 0 0 0 0) = true
    ∧ refusedAll [Instr.vadd, .vsub, .vmul, .vmulh, .vmin, .vmax, .vaddsat, .vsubsat, .vavg, .vand, .vor, .vxor, .vandn, .vshl, .vshr, .vcmpeq,
      .vcmpne, .vcmplt, .vcmple, .vsel] (vf 9 0 0 0 0 3) = true
    ∧ refusedAll [Instr.vadd, .vsub, .vmul, .vfma, .vfms, .vfnma, .vrcp, .vrsqrt, .vexp2, .vlog2, .vtanh, .vsigm, .vredadd, .vscan, .vquant,
      .vquantScales] (vf 0 0 0 0 0 0 0 0 false true) = true
    ∧ refusedAll [Instr.vadd, .vsub, .vmul, .vfma, .vfms, .vfnma, .vredadd] (vf 3 0 0 0 0 0 1) = true
    ∧ refusedAll [Instr.vfma, .vfms, .vfnma] (vf 0 0 1 0 0 1) = true
    ∧ refusedAll [Instr.vmulh, .vaddsat, .vsubsat, .vavg] (vf 9 0 0 0 0) = true
    ∧ refusedAll [Instr.vabs, .vneg] (vf 4 0 0 0 0) = true := by decide +kernel
theorem test_ill_formed_vector_2 :
    refusedAll [Instr.vand, .vor, .vxor, .vandn, .vshl, .vpopc, .vclz, .vslideup, .vslidedn, .vbcast, .vzip, .vunzip, .vrev] (vf 0 0 0 0 0) = true
    ∧ refusedAll [Instr.vshr] (vf 0 0 0 0 0) = true
    ∧ refusedAll [Instr.vrcp, .vrsqrt, .vexp2, .vlog2, .vtanh, .vsigm, .vclass] (vf 3 0 0 0 0) = true
    ∧ refusedAll [Instr.vcmpeq, .vcmpne, .vcmplt, .vcmple, .vclass, .pand, .por, .pxor, .pandn, .pnot, .pfirst] (vf 9 16 0 0 0) = true
    ∧ refusedAll [Instr.vcmpeq, .vcmpne, .vcmplt, .vcmple] (vf 3 0 0 0 1) = true
    ∧ refusedAll [Instr.vclass] (vf 0 0 0 1 0) = true
    ∧ refusedAll [Instr.vsel, .pand, .por, .pxor, .pandn, .pnot, .pfirst] (vf 0 0 0 0 0) = true
    ∧ refusedAll [Instr.vsel] (vf 9 0 0 0 16) = true
    ∧ refusedAll [Instr.vperm] (vf 11 0 0 0 0) = true
    ∧ refusedAll [Instr.vperm, .vredadd, .vredmin, .vredmax, .vscan, .vquant, .vdequant] (vf 0 0 0 0 0 1) = true
    ∧ refusedAll [Instr.vslideup, .vslidedn, .vbcast] (vf 9 0 0 0 0 1) = true
    ∧ refusedAll [Instr.vzip, .vunzip] (vf 9 0 0 0 2) = true := by decide +kernel
theorem test_ill_formed_vector_3 :
    refusedAll [Instr.vzip, .vunzip, .vrev, .vquantScales] (vf 9 0 0 0 0 1) = true
    ∧ refusedAll [Instr.vredadd, .vredmin, .vredmax, .vquantScales] (vf 0 0 0 0 0 0 0 0 true) = true
    ∧ refusedAll [Instr.vscan] (vf 3 0 0 0 3) = true
    ∧ refusedAll [Instr.vscan] (vf 3 0 0 0 0 0 1) = true
    ∧ refusedAll [Instr.vcvt] (vf 0 0 0 0 31) = true
    ∧ refusedAll [Instr.vquant, .vquantScales, .vdequant] (vf 3 0 0 0 9) = true
    ∧ refusedAll [Instr.vquant, .vdequant] (vf 0 0 0 0 0) = true
    ∧ refusedAll [Instr.vquant, .vdequant, .vpack, .vunpack] (vf 0 0 0 0 25) = true
    ∧ refusedAll [Instr.vquant, .vdequant] (vf 0 0 0 0 137) = true
    ∧ refusedAll [Instr.vquantScales] (vf 0 0 0 0 25) = true
    ∧ refusedAll [Instr.vquantScales] (vf 0 0 0 0 12) = true
    ∧ refusedAll [Instr.vpack, .vunpack] (vf 9 0 0 0 5) = true := by decide +kernel
theorem test_ill_formed_vector_4 :
    refusedAll [Instr.vpack, .vunpack] (vf 11 0 0 0 7) = true
    ∧ refusedAll [Instr.vpack, .vunpack, .pand, .por, .pxor, .pandn, .pnot, .pfirst] (vf 9 0 0 0 0 0 0 1) = true
    ∧ refusedAll [Instr.pand, .por, .pxor, .pandn, .pnot, .pfirst] (vf 9 0 16 0 0) = true
    ∧ refusedAll [Instr.pand, .por, .pxor, .pandn] (vf 9 0 0 16 0) = true := by decide +kernel
theorem test_ill_formed_memory :
    refusedAll [Instr.lNop, .fence, .bararv, .bobrel, .skjoin, .skleave, .skbar, .rmark] (lf 1 0 0) = true
    ∧ refusedAll [Instr.lNop, .fence, .copygoNobar, .drain, .rangenext, .scopenew, .recv, .recx, .recp, .rmarkPop, .rpopv, .rpopx, .rpopp, .rchk,
      .rchkV, .rseal, .recb, .fqpop] (lf 0 0 1) = true
    ∧ refusedAll [Instr.lNop] (lf 0 0 0 0 false false 1) = true
    ∧ refusedAll [Instr.lNop, .ldsS8, .ldsN8, .ldsS16, .ldsN16, .ldsS32, .ldsN32, .ldsB64, .ldsv, .ldsvs, .stsvs, .gather, .scatter, .ldgS8, .ldgN8,
      .ldgS16, .ldgN16, .ldgS32, .ldgN32, .ldgB64, .ldgv, .acas, .acq, .fence, .barinit, .bararv, .barwait, .copyld, .copygo, .copygoNobar, .drain,
      .bobpop, .bobrel, .bobinit, .bobstat, .spawn, .spawnSc, .rangenext, .skjoin, .skleave, .skbar, .scopenew, .cancel, .cwait, .bankmode, .recv,
      .recx, .recp, .rmark, .rmarkPop, .rpopv, .rpopx, .rpopp, .rchk, .rchkV, .rseal, .recb, .mcxld, .mcxst, .mcxstEvict, .tlbinv, .fqpop, .fqdone,
      .snapsave, .snapload, .wipe, .wipeSram] (lf 0 0 0 0 false true) = true
    ∧ refusedAll [Instr.lNop, .ldsS8, .ldsN8, .ldsS16, .ldsN16, .ldsS32, .ldsN32, .ldsB64, .stsB8, .stsB16, .stsB32, .stsB64, .stsv, .stsvs,
      .scatter, .ldgS8, .ldgN8, .ldgS16, .ldgN16, .ldgS32, .ldgN32, .ldgB64, .stgB8, .stgB16, .stgB32, .stgB64, .stgv, .acq, .rel, .fence, .barinit,
      .bararv, .copygo, .drain, .bobpop, .bobrel, .bobinit, .bobstat, .spawn, .rangenext, .skjoin, .skleave, .skbar, .scopenew, .bankmode, .recv,
      .recx, .recp, .rmark, .rpopv, .rpopx, .rpopp, .rchk, .rseal, .recb, .mcxld, .mcxst, .tlbinv, .fqpop, .fqdone, .snapsave, .snapload,
      .wipe] (lf 0 0 0 0 true) = true
    ∧ refusedAll [Instr.lNop, .ldsS8, .ldsN8, .ldsS16, .ldsN16, .ldsS32, .ldsN32, .ldsB64, .stsB8, .stsB16, .stsB32, .stsB64, .ldsv, .stsv, .ldsvs,
      .stsvs, .gather, .scatter, .ldgS8, .ldgN8, .ldgS16, .ldgN16, .ldgS32, .ldgN32, .ldgB64, .ldgv, .stgB8, .stgB16, .stgB32, .stgB64, .stgv,
      .barinit, .bararv, .barwait, .copyld, .copygo, .copygoNobar, .drain, .bobpop, .bobrel, .bobinit, .bobstat, .spawn, .spawnSc, .rangenext,
      .skjoin, .skleave, .skbar, .scopenew, .cancel, .cwait, .bankmode, .recv, .recx, .recp, .rmark, .rmarkPop, .rpopv, .rpopx, .rpopp, .rchk,
      .rchkV, .rseal, .recb, .mcxld, .mcxst, .mcxstEvict, .tlbinv, .fqpop, .fqdone, .snapsave, .snapload, .wipe, .wipeSram] (lf 0 0 0 1) = true
    ∧ refusedAll [Instr.ldsS8, .ldsN8, .ldsS16, .ldsN16, .ldsS32, .ldsN32, .ldsB64, .stsB8, .stsB16, .stsB32, .stsB64, .ldgS8, .ldgN8, .ldgS16,
      .ldgN16, .ldgS32, .ldgN32, .ldgB64, .stgB8, .stgB16, .stgB32, .stgB64, .aadd, .asmin, .anmin, .asmax, .anmax, .aand, .aor, .axor, .aswap,
      .acas, .acq, .rel, .barinit, .barwait, .bobpop, .bobinit, .bobstat, .spawn, .spawnSc, .rangenext, .scopenew, .cancel, .cwait, .recx, .rmarkPop,
      .rpopx, .rchk, .rseal, .mcxld, .mcxst, .mcxstEvict, .tlbinv, .fqpop, .fqdone, .snapsave, .snapload, .wipe, .wipeSram] (lf 64 0 0) = true
    ∧ refusedAll [Instr.stsB8, .stsB16, .stsB32, .stsB64, .stsv, .stgB8, .stgB16, .stgB32, .stgB64, .stgv, .aadd, .asmin, .anmin, .asmax, .anmax,
      .aand, .aor, .axor, .aswap, .rel] (lf 1 0 0 0 false true) = true
    ∧ refusedAll [Instr.aadd, .asmin, .anmin, .asmax, .anmax, .aand, .aor, .axor, .aswap, .acas, .acq, .rel, .fence] (lf 0 0 0 6) = true
    ∧ refusedAll [Instr.copyld] (lf 8 0 0) = true
    ∧ refusedAll [Instr.copygo, .copygoNobar] (lf 256 0 0) = true
    ∧ refusedAll [Instr.copygoNobar, .spawnSc, .rmarkPop, .rchkV, .mcxstEvict, .wipeSram] (lf 0 0 0) = true := by decide +kernel
theorem test_ill_formed_memory_2 :
    refusedAll [Instr.drain] (lf 4 0 0) = true
    ∧ refusedAll [Instr.spawn, .spawnSc] (lf 0 0 4096) = true
    ∧ refusedAll [Instr.spawn] (lf 0 63 0) = true
    ∧ refusedAll [Instr.spawnSc] (lf 0 62 0 0 true) = true
    ∧ refusedAll [Instr.rangenext] (lf 1 0 0) = true
    ∧ refusedAll [Instr.bankmode] (lf 3 0 0) = true
    ∧ refusedAll [Instr.recp, .rpopp, .recb] (lf 16 0 0) = true
    ∧ refusedAll [Instr.rmark] (lf 0 1 0) = true := by decide +kernel
theorem test_ill_formed_branch :
    refusedAll [Instr.bNop, .jt, .ret, .leavet, .leavef, .ipi, .eret, .halt] (bf 1 0) = true
    ∧ refusedAll [Instr.bNop, .call, .ret, .brt, .brk, .eret, .halt] (bf 0 1) = true
    ∧ refusedAll [Instr.bNop, .call, .ret, .brk, .eret, .halt] (bf 0 0 true) = true := by decide +kernel
theorem test_ill_formed_matrix :
    refusedAll [Instr.mNop, .mwait] (mf 1 0) = true
    ∧ refusedAll [Instr.mNop, .mwait] (mf 0 0 0 true) = true
    ∧ refusedAll [Instr.mNop] (mf 0 0 1) = true
    ∧ refusedAll [Instr.mNop] (mf 0 1) = true
    ∧ refusedAll [Instr.mcall, .mcallRpt] (mf 0 1 0 true) = true
    ∧ refusedAll [Instr.mwait] (mf 0 0 8) = true := by decide +kernel
theorem test_ill_formed_micro_op :
    refusedAll [Instr.uopNop, .uopEnd] { sel := 1 } = true
    ∧ refusedAll [Instr.tload, .tstore] { last := 1 } = true
    ∧ refusedAll [Instr.tload, .tstore, .cvt] { sel := 21 } = true
    ∧ refusedAll [Instr.azero] { last := 1 } = true
    ∧ refusedAll [Instr.azero, .aload, .astore, .opstep, .spstep, .scale] { acc := 6 } = true
    ∧ refusedAll [Instr.aload, .astore] { last := 1 } = true
    ∧ refusedAll [Instr.cvt] { last := 1 } = true
    ∧ refusedAll [Instr.cvt] { ta := 21 } = true
    ∧ refusedAll [Instr.opstep, .spstep] { last := 1 } = true
    ∧ refusedAll [Instr.opstep, .spstep] { ta := 21 } = true
    ∧ refusedAll [Instr.opstep, .spstep] { tb := 21 } = true
    ∧ refusedAll [Instr.zpc, .bsc] { last := 1 } = true := by decide +kernel
theorem test_ill_formed_micro_op_2 :
    refusedAll [Instr.scale] { last := 1 } = true
    ∧ refusedAll [Instr.addr, .addrAdd, .addrLo, .addrHi] { last := 1 } = true
    ∧ refusedAll [Instr.addr] { mode := 1 } = true
    ∧ refusedAll [Instr.addrAdd] { mode := 0 } = true
    ∧ refusedAll [Instr.addrLo] { mode := 0 } = true
    ∧ refusedAll [Instr.addrHi] { mode := 0 } = true
    ∧ refusedAll [Instr.uopLoop] { sel := 1 } = true
    ∧ refusedAll [Instr.mstep] { last := 1 } = true
    ∧ refusedAll [Instr.shadow] { last := 1 } = true
    ∧ refusedAll [Instr.skipf] { last := 1 } = true
    ∧ refusedAll [Instr.skipf] { bit := 5 } = true := by decide +kernel

/-! ## Words that the spec writes out, and the machine as a whole -/

/-- R67, R70, R175, R184, R275, R294 to R296. -/
theorem test_decode_scalar_and_branch : decodeS 0x24_0420_C000 = .ok (.slts ⟨1, 2, 3, 0⟩) ∧ decodeS 0x01_2CB2_8000 = .ok (.add ⟨11, 11, 10, 0⟩) ∧ decodeS 0x20_2400_0003 = .ok (.movi ⟨9, 0, 0, 3⟩)
    ∧ decodeB 0x24_0021 = .ok (.brt ⟨2, 0, true⟩) ∧ decodeB 0xC0_0005 = .ok (.ipi ⟨0, 2, true⟩) ∧ decodeB 0x18_0029 = .ok (.loop ⟨2, 4, true⟩) := by decide +kernel
/-- R203. -/
theorem test_decode_vector : decodeV 0xCC_C100_8048_0000 = .ok (.vscan (vf 3 8 8 9 0)) ∧ decodeV 0x04_0100_4000_00A0 = .ok (.vadd (vf 0 8 4 0 0 2 0 2)) := by decide +kernel
/-- R69, R222, R224 to R228, R230, R234, R237, R270, R298 to R303. -/
theorem test_decode_memory :
    decodeL 0x4144_1200_0000 = .ok (.copygo (lf 136 9 0)) ∧ decodeL 0x3D06_1200_0000 = .ok (.barwait (lf 12 9 0)) ∧ decodeL 0x6300_0000_0E00 = .ok (.rmark (lf 0 0 7))
    ∧ decodeL 0x6102_8000_0000 = .ok (.recx (lf 5 0 0)) ∧ decodeL 0x6305_0000_0008 = .ok (.rmarkPop (lf 10 0 0 0 true)) ∧ decodeL 0xC305_0000_0000 = .ok (.fqpop (lf 10 0 0))
    ∧ decodeL 0xC405_9400_0000 = .ok (.fqdone (lf 11 10 0)) ∧ decodeL 0x390D_8C00_0004 = .ok (.rel (lf 27 6 0 4)) ∧ decodeL 0x560B_0400_0000 = .ok (.cancel (lf 22 2 0))
    ∧ decodeL 0x500E_3C00_0608 = .ok (.spawnSc (lf 28 30 3 0 true)) ∧ decodeL 0x2800_1800_0014 = .ok (.aadd (lf 0 12 0 4 false true)) ∧ decodeL 0xC70C_2000_0000 = .ok (.wipe (lf 24 16 0)) := by
  decide +kernel
/-- R243 to R245, R254. -/
theorem test_decode_matrix : decodeM false 0x11_0020_0010 = .ok (.mcall (mf 0x40 0x10 2)) ∧ decodeM true 0x11_0020_0010 = .ok (.mcallRpt (mf 0x40 0x10 2)) ∧ decodeM false 0x20_0070_0002 = .ok (.mwait (mf 0 2 7))
    ∧ decodeU 0x0600_0200_0000_0000 = some (.tload { sel := 16, arg := 0, pitch := 128 }) := by decide +kernel
/-- R58, R59: the bundle of `addi x3,x1,40` with `(p2) vadd.f32 v8,v4,bp`, in the code words that the spec writes. -/
theorem test_decode_bundle :
    (literalWords (encodeBundle { hdr := 0x2800, bp := 0x4500, ops := [(.s0, .addi ⟨3, 1, 0, 40⟩), (.v0, .vadd (vf 0 8 4 0 0 2 0 2))] })).take 11 =
      [0xFFFE, 0x2800, 0x030C, 0x1000, 0x2800, 0, 0, 0x0401, 0x0040, 0, 0xA000] := by decide +kernel

/-- A bundle of one instruction, as its strand presents it. -/
def solo : Nat := encodeBundle { hdr := 0x2000, bp := 0, ops := [(.s0, .addi ⟨3, 1, 0, 40⟩)] }
def soloState : State := { holds solo with frame := { hdr := 0x2000, bp := 0 } }
/-- The rows that the machine's own parts may run: one bundle of a mill strand, and one micro-op of a running call. -/
theorem meets_StepRunsTheDecodedInstruction :
    (holds solo).canIssue 0 = true ∧ fetches (holds solo) solo = true ∧ ((decodeSlots solo).filter fun p => p.2 != .empty) = [(.s0, .op (.addi ⟨3, 1, 0, 40⟩))]
    ∧ ((decodeSlots addSub).filter fun p => p.2 != .empty).length = 2 ∧ fetches (holds addSub) addSub = true
    ∧ (holds solo).agenda = [] ∧ (holds solo).ownActs.length ≠ 0 ∧ ({ State.reset with spindles := [], strands := [], ctxs := [], groups := [], dies := [], rom := [(0, 0)] } : State).ownActs = []
    ∧ (holds solo).soloOp 0 = some (.addi ⟨3, 1, 0, 40⟩, { hdr := 0x2000, bp := 0 }) ∧ (holds addSub).soloOp 0 = none
    ∧ (runs.spindle 0).runningCall = some rcall ∧ runs.nextUop rcall = some (.skipf { bit := 0, en := false })
    ∧ heldDies.held = true ∧ powerRow .supplyReturn = true ∧ powerRow .bundleIssue = false ∧ rowKind .bundleIssue = .slotOp ∧ rowKind .strandSelect = .event ∧ rowKind (.uopNop {}) = .microOp := by decide +kernel
/-- The scheduled bundle of the strand runs its ADDI: x3 := 7 + 40. -/
theorem test_step : (match step { holds solo with agenda := [{ i := .addi ⟨0, 0, 0, 0⟩, who := 0 }] } with | .next t => some ((t.core 0).rx 3, (t.core 0).pc) | _ => none) = some (47, 1) := by decide +kernel
/-- A word placed as the first instruction after reset is what step runs: BRK 7, and an IPI of register x5. -/
theorem test_first_instruction :
    (match step (State.reset.withFetchWord 24 0x280070) with | .next t => some (t.core 0).cause | _ => none) = some (0x51 + 7 * 2 ^ 16 + 7 * 2 ^ 8)
    ∧ (match step (State.reset.withFetchWord 24 0xC00005) with | .next t => some (t.die 0).ipis | _ => none) = some [0]
    ∧ decodeTableWord 24 0xC80000 = some (.halt ⟨0, 0, false⟩) := by decide +kernel
theorem meets_SoloBundlesAgree : soloState.soloOp soloState.focus = some (.addi ⟨3, 1, 0, 40⟩, soloState.frame) ∧ fetches soloState solo = true
    ∧ (match soloState.codeWord 0 0 with | .ok w t => w == 0 && decide (t = soloState) | _ => false) = true := by decide +kernel
theorem meets_MemoryReadsBack :
    (match State.reset.writeLoc (.hbm 0x1FE 7) [1, 2, 3, 4] with
      | .ok t => (match t.readLoc (.hbm 0x1FE 7) 4 with | .ok bs => bs == [1, 2, 3, 4] | _ => false) && (match t.readLoc (.hbm 0x200 8) 1 with | .error .mac => true | _ => false)
      | _ => false) = true
    ∧ (match State.reset.writeLoc (.spad 0 0x40) [1, 2] with | .ok t => getBytes (t.cluster 0).bytes 0x3F 4 == [0, 1, 2, 0] | _ => false) = true
    ∧ (({ State.reset with sects := [(4, { poison := true })] } : State).sect (0x200 / 128)).poison = true ∧ 0x200 % 128 + 4 ≤ 128 ∧ 0x80 % 128 = 0 := by decide +kernel
/-- A trap outside and inside a handler, a trap of a tenant, and a fault of each: R293, R333, R338. Whether an image names a handler is open (notes/assumptions/6.md). -/
theorem meets_TrapsAndFaults :
    isMill 0 = true ∧ ((mill c1).core 0).intrap = false ∧ (priv.core 0).intrap = true ∧ (match (priv).commitRegion 0 with | .ok _ => true | _ => false) = true
    ∧ isMill 4 = false ∧ tenant.handlerOf (tenant.mcxOf 4) = Config.trapEntry 0 ∧ (tenant.core 4).rets.length ≠ 16 ∧ cIllegal ∉ [cNonUniform, cReelFull, cDiverge, cRecompute, cBreak]
    ∧ cDiverge ∈ [cNonUniform, cReelFull, cDiverge, cRecompute] ∧ ({ cause := 2, addr := 0x50000 } : MemFault).ue = none ∧ (2 : Nat) ≠ cMemUe := by
  refine ⟨by decide, by decide +kernel, by decide +kernel, by decide +kernel, by decide, ?_, by decide +kernel, by decide, by decide, rfl, by decide⟩
  unfold State.handlerOf
  exact congrArg Config.trapEntry (by decide +kernel)
theorem test_fault : (match (tenant).takeFault 4 { cause := 2, addr := 0x50000 } 0 5 false with
    | t => ((t.core 4).cause.toNat, (t.strand 4).st, (t.die 0).faults.length)) = (2 + 5 * 256, .blocked, 1) := by decide +kernel
theorem meets_HeldDiesStandStill : heldDies.held = true ∧ ({ State.reset with tripped := true } : State).tripped = true := by decide +kernel
/-- The M slot of an MRPT bundle holds nothing, a MWAIT, or a code that names no instruction. -/
def mrptBundle (m : Nat) : Nat := 0x2220 * 2 ^ 368 + m * 2 ^ slotLow .m
theorem meets_MrptNeedsMcall :
    (∀ m ∈ [0x20_0000_0000, 0, 0x70_0000_0000], mrptBundle m / 2 ^ 373 % 2 = 1 ∧ (∀ p ∈ decodeSlots (mrptBundle m), (match p with | (.m, .op (.mcallRpt _)) => false | _ => true) = true)
      ∧ fetches (holds (mrptBundle m)) (mrptBundle m) = true ∧ (holds (mrptBundle m)).canIssue 0 = true) := by decide +kernel

/-! ## Further clauses of the statements -/

/-- A remote write of a strand is still to be answered. -/
def unanswered (s : State) : State := { s with reachReqs := [(0, some { kind := 2, home := 1, key := 0, pa := 0, mcx := s.mcxOf s.focus, who := s.focus })] }
theorem meets_ControlRegisters_by_mode :
    (∀ i ∈ [0x006, 0x021, 0x801].map crr ++ [0x800, 0x801, 0x802, 0x804, 0x806, 0x808].map (crw · 1), Ready (shares (mill c4)) i (shares (mill c4)) 1)
    ∧ (shares (mill c4)).me.mldepth < 8 ∧ (shares (mill c4)).me.mrdepth < 32
    ∧ Ready tenant (crr 0x021) (fetched tenant) 1 ∧ (∀ i ∈ [crr 0x800, crw 0x800 1], Alone tenant i (fetched tenant) 1) ∧ isMill tenant.focus = false :=
  ⟨ready_all _ _ (by decide +kernel), by decide +kernel, by decide +kernel, readyF_of _ _ _ (by decide +kernel), aloneF_all _ _ (by decide +kernel), by decide⟩

/-- A mill strand has no tile group and no reel. -/
theorem meets_MillHasNoGroup :
    isMill ms.focus = true ∧ (∀ i ∈ [Instr.spawn (lf 6 1 0), .spawnSc (lf 6 1 0 0 true), .rangenext (lf 6 0 0), .scopenew (lf 6 0 0), .skjoin (lf 0 2 0), .skleave (lf 0 2 0), .skbar (lf 0 2 0),
        .cancel (lf 3 1 0), .cwait (lf 6 1 0), .recx (lf 1 0 0), .recp (lf 1 0 0), .rmark (lf 0 0 7), .recb (lf 1 0 0), .recv (lf 4 0 0), .rpopx (lf 6 0 0), .rpopp (lf 5 0 0), .rpopv (lf 8 0 0),
        .rmarkPop (lf 6 0 0 0 true), .rchk (lf 1 0 0), .rchkV (lf 4 0 0 0 true), .rseal (lf 6 0 0)], Alone ms i ms 1)
    ∧ Ready ms (.bankmode (lf 1 0 0)) ms 1 ∧ ms.ownsBank 0 0 = true ∧ Alone ms (.mwait (mf 0 0x8000)) ms 1 ∧ maskBits 16 0x8000 = [15] :=
  ⟨by decide, alone_all _ _ (by decide +kernel), ready_of _ _ _ (by decide +kernel), by decide +kernel, alone_of _ _ _ (by decide +kernel), by decide⟩
theorem meets_BankModeOfATenant :
    (let i := Instr.bankmode (lf 0 4 0)
     let s := bobs none 3
     Ready s i (fetched s) 1 ∧ s.eaOf (lf 0 4 0) = 2 ∧ (s.base i (fetched s)).transOk 0 2 .cache = true ∧ ((s.cluster 0).bank 2).mode ≠ modeOf 0 ∧ (s.cluster 0).trans = []) :=
  ⟨readyF_of _ _ _ (by decide +kernel), by decide +kernel⟩

/-- A register of the control space at x5, and a page whose home is module 1. -/
def atCtrl : State := mill fun c => { xs [0, 0, 0, 0, 0x17 * 2 ^ 42 + 0x120] c with p := [(2, 3)] }
def leafFar : Word := BitVec.ofNat 64 0x27
theorem meets_LoadOfARegister :
    Ready atCtrl (.ldgB64 (lf 6 5 0)) atCtrl 1
    ∧ (match atCtrl.place 0 (0x17 * 2 ^ 42 + 0x120) .read with | .ok (pl, _) => pl.loc == .ctrl (0x17 * 2 ^ 42 + 0x120) | _ => false) = true :=
  ⟨ready_of _ _ _ (by decide +kernel), by decide +kernel⟩

theorem meets_WaitsForRemoteWrites :
    Ready (unanswered member) (.skbar (lf 0 2 0)) (fetched (unanswered member)) 1 ∧ (unanswered member).remotePending 4 = true
    ∧ (unanswered priv).remotePending 0 = true ∧ Ready (unanswered priv) (.tlbinv (lf 2 1 0)) (unanswered priv) 1
    ∧ Ready (unanswered served) (.fqdone (lf 6 1 0)) (unanswered served) 1 ∧ ((unanswered served).inService ((unanswered served).eaOf (lf 6 1 0))).isSome = true :=
  ⟨readyF_of _ _ _ (by decide +kernel), by decide +kernel, by decide +kernel, ready_of _ _ _ (by decide +kernel), ready_of _ _ _ (by decide +kernel), by decide +kernel⟩

/-- CANCEL and CWAIT on a word of HBM, which says DONE. -/
def ackFar : State := { skeins with hbm := words [(0x20000, 2 ^ 12)] }.updCore 4 fun c => { c with x := [(1, 0x20000), (3, 1)] }
theorem meets_CancelInHbm :
    (∀ i ∈ [Instr.cancel (lf 3 1 0), .cwait (lf 6 1 0)], Ready ackFar i (fetched ackFar) 1)
    ∧ (match ackFar.place 4 0x20000 .write with | .ok (pl, _) => pl.loc == .hbm 0x20000 0 && (match ackFar.readPlace pl 8 with | .ok bs => leNat bs == 2 ^ 12 | _ => false) | _ => false) = true :=
  ⟨readyF_all _ _ (by decide +kernel), by decide +kernel⟩

/-- A call's first SPSTEP, in a mill strand and in a tenant's. -/
theorem meets_FirstSpstep :
    (let s := runs { call0 with tshape := [(0, 0x3800), (1, 0x800)] }
     Running s { rcall with tshape := [(0, 0x3800), (1, 0x800)] } ∧ isMill s.focus = true)
    ∧ (match ({ rcall with tshape := [(0, 0x3800), (1, 0x800)] } : Call).stepShapes { ta := 0, tb := 1 } with | .ok _ => true | _ => false) = true :=
  ⟨⟨⟨by decide +kernel, by decide, by decide⟩, by decide⟩, by decide +kernel⟩

/-- A break that the debugger has asked for. -/
theorem meets_BreakForTheDebugger :
    (let s : State := { debugging with dies := [(0, { dbgBrk := true, dbgMcx := 5 })] }
     (s.die (dieOf 4)).dbgBrk = true ∧ (s.die (dieOf 4)).dbgMcx.toNat = s.mcxOf 4 ∧ s.debugPermits (s.mcxOf 4) = true) := by decide +kernel

/-- A bundle whose dictionary entry is not in the cache, in a tenant strand; then its spindle stalled on it. -/
def misses : State := { tenant id id id [(6, 1000 + 2 ^ 32), (7, 0x12000)] with hbm := words [(0x12000, 7)] }
def stalled1 : State := evAt (misses.updSpindle 1 fun x => { x with stalled := true }) 1 3
/-- An ACQ whose word lies in a granule of an engine. -/
def acqOwned : State := (blocked (.acq (.spad 0 0x80) 0x80 7 6 { scope := 4 }) true [wr .x 6 0 1]).updCluster 0 fun c => { c with grans := [(0, { eng := some (.copy 9) })] }
theorem meets_IssueEvents_more :
    misses.canIssue 4 = true ∧ (match misses.fetchBundle 4 0 with | .miss n => n == 0 | _ => false) = true
    ∧ Settled { (holds addSub) with frame := { hdr := BitVec.ofNat 16 (addSub / 2 ^ 368), bp := 0 } } .bundleIssue
    ∧ Settled { (holds 0) with frame := { hdr := 0, bp := 0 } } .bundleIssue
    ∧ acqOwned.engineOwned 0 0x80 8 = true ∧ (acqOwned.strand 0).waits = [.acq (.spad 0 0x80) 0x80 7 6 { scope := 4 }] ∧ (acqOwned.strand 0).st = .blocked
    ∧ (stalled1.spindle 1).stalled = true ∧ (stalled1.spindle 1).running = some 0
    ∧ (let u := (stalled1.stallCycles 1 3).updSpindle 1 fun x => { x with stalled := false }
       match u.codeWord 4 (u.core 4).pc.toNat with
       | .ok w s1 => w == 0 && (match s1.dictWord 4 w with | .ok v _ => v == 7 | _ => false)
       | _ => false) = true :=
  ⟨by decide +kernel, by decide +kernel, settled_of _ _ (by decide +kernel), settled_of _ _ (by decide +kernel), by decide +kernel⟩
/-- R26, R60: the stall takes its cycles and leaves the entry in the cache. -/
theorem test_stall_end : (nextOf .stallEnd stalled1).map (fun t => ((t.spindle 1).stalled, (t.spindle 1).dict.map Prod.snd)) = some (false, [7]) := by decide +kernel

/-- A halted strand of an activation with a second one live. -/
def haltedOf2 : State := whorls (fun g => { g with acts := [(3, some { node := 0, live := 2 })] }) fun t => { t with st := .halted, act := 3 }
theorem meets_TaskEvents_more :
    (ready1.stop 5).isNone = true ∧ (ready1.ctx 5).map (fun c => c.st) = some .bound
    ∧ (match ready1.group 5 with | some g => g.waiting.isEmpty && g.ready == [task1] && ready1.taskSlots 5 g == [4] && g.scopes == [(1, some {})] && g.root == 1 | none => false) = true
    ∧ (ready1.strand 4).st = .free ∧ task1.bank ≤ (ready1.strand 4).bank
    ∧ (stealable.stop 5).isNone = true ∧ (stealable.ctx 5).map (fun c => c.st) = some .bound
    ∧ (match stealable.group 5 with
      | some g => g.cancelled.isNone && g.ready.isEmpty && stealable.taskSlots 5 g == [4]
        && (match g.act 3 with | some x => x.live == 1 && x.width == 2 && x.grain == 4 && x.ranges == [(8, some (20, 100))] | none => false)
      | none => false) = true
    ∧ (stealable.strand 4).st = .free := by decide +kernel
theorem meets_TaskEvents_ends :
    haltedOf2.drained 4 = true ∧ haltedOf2.asking 4 (fun _ => true) = false
    ∧ (match haltedOf2.group 5 with
      | some g => g.waiting.isEmpty && g.ended.isNone && g.cancelled.isNone && g.skeins.isEmpty && g.scopes == [(1, some {})] && (match g.act 3 with | some x => x.live == 2 | none => false)
      | none => false) = true
    ∧ (match dying.group 5 with | some g => g.inTree 1 (dying.strand 4).scope | none => false) = true ∧ dying.copyList.isEmpty = true := by decide +kernel

/-- The record of context 5 in the context table, with its translation table, its key and its partition; a LAUNCH of function 0 names it. -/
def recorded : State := evAt { withCmd State.reset launchCmd with
  parts := [(1, { enable := true, clusters := 2, cap := 100 })]
  keng := { lcs := 2, slots := [(12, some { model := false, tenant := 1, kxts := [], kmac := [], kgcm := [] })] }
  hbm := words [(0x1400, 0xABC), (0x1408, 0x100000), (0x1410, 12 + 2 ^ 16 + 2 ^ 43), (0x1490, 0x20000), (0x1498, 0x30000 + 6 * 2 ^ 48), (0x14A0, 0x40000), (0x1600, 1),
    (0x100000, 0x101001), (0x101000, 0xC27)] } 5
/-- The watchdog's next count reaches its limit. -/
def expires : State := evAt { tenant with dies := [(0, { wdogLimit := [(0, 1)], wdogCount := [(0, 1000)] })] } 600 0
theorem meets_DistaffEvents_more :
    recorded.loadWanted 5 = true ∧ (match recorded.loadCtx 5 with | .loaded _ => true | _ => false) = true
    ∧ expires.watchLimit 0 = 1024 ∧ expires.watched 0 = true ∧ expires.watchLimit 0 ≤ expires.watchCount 0 + 600
    ∧ ((acking true).group 5).isSome = true ∧ dqEntry % 4 = 1 ∧ mget [] (acking true).restoring 5 = [] := by decide +kernel
/-- R306: the record is loaded, and its private pages are pinned. R329: the counter stays at the limit and the partition is reset. -/
theorem test_record_load : (nextOf .contextRecordLoad recorded).map (fun t => (t.ctxCode 5, (t.ctx 5).map fun c => c.pins.length)) = some (1, some 3) := by decide +kernel

/-- The transforming copy of R137's example: codec, N:8 and delta, from a shared weight page and a private list. -/
def recX : List Word := [8 + 2 ^ 4 + 7 * 2 ^ 8 + 4 * 2 ^ 11 + 6 * 2 ^ 16 + 8 * 2 ^ 40, 0, 0, 0, 0, 0, 8, 0x30000].map (BitVec.ofNat 64)
def jobX : CopyJob :=
  { id := 1, sid := 4, mcx := 5, mill := false, cl := 0, ch := 0, src := desc 0x20000 0 1, dst := desc 0x80000 1 16, srec := recX, drec := recX, bar := none, phase := .started, todo := [4096] }
def transforms (j : CopyJob := jobX) : State := evAt { tenant with
  copies := [(1, some j)]
  hbm := words [(0x20000, 0xC0FE00C00700), (0x20008, 0x0F96), (0x30000, 2), (0x30008, 1 + 0x7F * 2 ^ 32), (0x30010, 9 + 0x7F * 2 ^ 32)]
  tlb := [{ mcx := 5, base := 0x20000, size := 65536, leaf := BitVec.ofNat 64 (0x33 + 2 * 2 ^ 28) }, { mcx := 5, base := 0x30000, size := 65536, leaf := leafData 3 }] } 1
theorem meets_TransformingCopy :
    transforms.evCopy = some jobX ∧ jobX.phase = .started ∧ rXform jobX.srec ≠ 0 ∧ jobX.pinned = false ∧ jobX.susp = none
    ∧ (match transforms.pinStreams jobX with | .ok _ _ => true | _ => false) = true
    ∧ (match (transforms { jobX with src := desc 0x30000 0 1 }).pinStreams { jobX with src := desc 0x30000 0 1 } with | .err c _ => c == cProt | _ => false) = true
    ∧ (match (transforms { jobX with src := desc 0x50000 0 1 }).pinStreams { jobX with src := desc 0x50000 0 1 } with | .wait _ => true | _ => false) = true
    ∧ (jobAt .waiting [2]).reachesCtrl = false ∧ ({ jobAt .waiting [2] with src := desc hbmEnd 0 4 }).reachesCtrl = true := by decide +kernel
/-- R137: the example's sixteen dense elements. -/
theorem test_transform : (nextOf .transformPin transforms).map (fun t => (t.copyJob 1).map fun j => (j.pinned, j.dense)) =
    some (some (true, some 0xFEFE7DFE0700000700077F00)) := by decide +kernel

/-! ## Errors found (R439) -/

/-- A tenant's copy that meets an uncorrectable error in its source. -/
def findsUe : State := { copying .started [2] (fun j => { j with mill := false }) with ev := { n := 1, v := BitVec.ofNat 64 (8 * 0x20000 + 2) } }
theorem meets_EngineEvents_found : (findsUe.evCopy.map fun j => (j.ready, j.mill)) = some (true, false) ∧ findsUe.ev.v.toNat = 8 * 0x20000 + 2 := by decide +kernel
/-- The copy ends, and the sector is poisoned. -/
theorem test_copy_found : (nextOf .copyError findsUe).map (fun t => (t.copyJob 1, (t.sect 0x400).poison)) = some (none, true) := by decide +kernel
/-- A running call that meets one in a tile leaves the queue. -/
theorem test_call_found : ((State.perform exec { runs with held := false } { i := .uopNop {}, who := 0, ev := { n := 4 } } |> fun r => match r with
    | .next t => some (t.spindle 0).queue.isEmpty | _ => none)) = some true := by decide +kernel

/-! ## More clauses of the control registers, the branches, the loops and the stores -/

theorem meets_ControlRegisters_mill :
    (∀ i ∈ [0x007, 0x020, 0x803, 0x805, 0x806, 0x808, 0x820, 0x821, 0x828, 0x840, 0x870].map crr ++ [0x803, 0x805, 0x808, 0x820, 0x837, 0x840, 0x87F].map (crw · 1),
      Ready (shares (mill c4)) i (shares (mill c4)) 1)
    ∧ (∀ i ∈ [0x807, 0x80C, 0x80D, 0x838, 0x864, 0x880].map crr ++ [0x807, 0x80D].map (crw · 1), Alone (shares (mill c4)) i (shares (mill c4)) 1)
    ∧ ((mill c4).strand 1).st = .free ∧ ((mill c4).strand 0).st ≠ .free :=
  ⟨ready_all _ _ (by decide +kernel), alone_all _ _ (by decide +kernel), by decide +kernel⟩
/-- A live shadow of level 1 in entry 2, poisoned in entry 17. -/
def boosting : Core := { shadows := [(2, { live := true, level := 1, reg := 5 }), (17, { live := true, level := 1, poison := some (3, 0) })] }
theorem meets_ControlRegisters_boost : mwf {} boosting.shadows = true ∧ (∀ p ∈ boosting.shadows, p.1 < 36) ∧ boosting.boostState = 1 + 2 ^ 19 := by decide +kernel

/-- At the last bundle of the body. -/
def lastHere (c : Core) : Core := { c5 c with loops := [{ start := 90, last := 100, count := 3 }] }
theorem meets_Branches_at_last :
    (∀ i ∈ [.brut (bf 5 1), .loop (bf 5 0 true), .loop (bf 5 1), .leavet (bf 0 1), .leavef (bf 0 3)], Alone (at100 lastHere) i (at100 lastHere) 1)
    ∧ (∀ l ∈ (at100 lastHere).me.loops.head?, l.last = 100) ∧ (at100 lastHere).me.pc.toNat = 100 :=
  ⟨alone_all _ _ (by decide +kernel), by decide +kernel, by decide +kernel⟩
/-- R179, R182. -/
theorem test_at_last : [Instr.brut (bf 5 1), .loop (bf 5 0 true), .leavet (bf 0 1)].map (fun i => trapOf i (at100 lastHere)) = [0x05 + 7 * 256, 0x05 + 7 * 256, 0x05 + 7 * 256].map some := by
  decide +kernel

theorem mget_cases {α : Type} (d : α) (m : AMap α) (k : Nat) : mget d m k = d ∨ ∃ p ∈ m, p.2 = mget d m k := by
  induction m with
  | nil => exact .inl rfl
  | cons q m ih =>
    simp only [mget]
    split
    · exact .inr ⟨q, by simp⟩
    · split
      · exact .inl rfl
      · exact ih.imp_right fun ⟨p, hp, e⟩ => ⟨p, List.mem_cons_of_mem q hp, e⟩
/-- Each entry listed has iterations left, so every strand's have. -/
theorem loopsLive_of (s : State) (h : (s.strands.all fun p => (p.2.core.loops ++ p.2.ckpt.loops).all fun l => decide (1 ≤ l.count)) = true) (hi : s.images = []) :
    s.loopsLive := by
  refine ⟨fun sid l hl => ?_, by simp [hi]⟩
  rcases mget_cases {} s.strands sid with e | ⟨p, hp, e⟩
  · simp only [State.strand, e] at hl
    cases hl
  · have := List.all_eq_true.mp (List.all_eq_true.mp h p hp) l (by rw [e]; exact hl)
    simpa using this
def looping : State := at100.withFetchWord 24 0x280070
theorem meets_HardwareLoops_step :
    looping.loopsLive ∧ looping.me.loops ≠ [] ∧ (match step looping with | .next t => t.me.loops.length == 1 | _ => false) = true :=
  ⟨loopsLive_of _ (by decide +kernel) (by decide +kernel), by decide +kernel, by decide +kernel⟩

/-- Stores of a mill strand to the scratchpad and to physical memory; a store of a tenant whose translation is still to be made. -/
def held2 : State := ms.updStrand 0 fun t => { t with stores := [{ loc := .spad 0 0x40, bytes := [1, 2], slot := 5 }, { loc := .phys 0x20000, bytes := [3], slot := 5 }] }
def pending1 : PStore := { loc := .phys 0, pend := some 0x20004, bytes := [9, 8], slot := 6, ea := 0x20004 }
def held3 : State := ts.updStrand 4 fun t => { t with stores := [pending1] }
theorem meets_Commit_of_a_region :
    (match held2.resolveStores 0 (held2.strand 0).stores with | .ok (qs, _) => qs == (held2.strand 0).stores | _ => false) = true
    ∧ (match held3.resolveStores 4 (held3.strand 4).stores with
      | .ok (qs, u) => qs.map (·.loc) == [.hbm 0x20004 0] && sectorsOf 0x20004 2 == [0x400] && !u.otherTag 0x400 0 && !(u.sect 0x400).live
      | _ => false) = true
    ∧ (match ts.place 4 0x20004 .write with | .ok (pl, _) => pl.loc == .hbm 0x20004 0 && (ts.storeFault 5 [] pending1 pl.loc).isNone | _ => false) = true
    ∧ (({ ts with sects := [(0x400, { poison := true })] } : State).storeFault 5 [] pending1 (.hbm 0x20004 0)).isSome = true
    ∧ (match ts.place 4 0x50000 .write with | .error _ => true | _ => false) = true := by decide +kernel
/-- R337: each store of the region in its place. -/
theorem test_commit_region :
    (match held2.commitRegion 0 with | .ok t => some (getBytes (t.cluster 0).bytes 0x40 2, t.physByte 0x20000) | _ => none) = some ([1, 2], 3)
    ∧ (match held3.commitRegion 4 with | .ok t => some (getBytes t.hbm 0x20004 2, (t.sect 0x400).live) | _ => none) = some ([9, 8], true) := by decide +kernel
/-- Loads that read through the withheld stores. -/
theorem meets_Loads_see_stores :
    (let e := held1.acting (.ldsB64 (lf 6 0 0x40)) held1 1
     e.ea (lf 6 0 0x40) % 8 = 0 ∧ e.guardBit 0 0 = true ∧ e.s.spadCheck e.sid (e.ea (lf 6 0 0x40)) 8 8 = none ∧ e.engWaits (e.ea (lf 6 0 0x40)) 8 = []
       ∧ e.s.spadPoisoned e.cl (e.ea (lf 6 0 0x40)) 8 = false)
    ∧ (let e := held3.acting (.ldgB64 (lf 6 5 0)) held3 1
       (match e.s.place e.sid (e.ea (lf 6 5 0)) .read with | .ok (pl, _) => pl.loc == .hbm 0x20000 0 && (match e.s.readPlace pl 8 with | .ok _ => true | _ => false) | _ => false) = true) := by
  decide +kernel

end Sys2Proof.Tests
end

section
/-! PROOFS. What a write of memory leaves: the bytes written, the sectors that they touch, and everything else (R2, R286, R388, R389, R399). -/

namespace Sys2Proof.Proofs

open Sys2Proof Sys2Proof.Machine Sys2Proof.Laws

/-! ## Bytes of a number (R2) -/

theorem leNat_leBytes (n x : Nat) : leNat (leBytes n x) = x % 256 ^ n := by
  induction n generalizing x with
  | zero => simp [leBytes, leNat, Nat.mod_one]
  | succ n ih =>
    have low : (BitVec.ofNat 8 x).toNat = x % 256 := BitVec.toNat_ofNat x 8
    rw [leBytes, leNat, ih, low, Nat.pow_succ' (m := 256), Nat.mod_mul]

theorem leBytes_getElem? (n x i : Nat) (hi : i < n) : (leBytes n x)[i]? = some (BitVec.ofNat 8 (x / 256 ^ i)) := by
  induction n generalizing x i with
  | zero => omega
  | succ n ih =>
    cases i with
    | zero => simp [leBytes]
    | succ i =>
      rw [leBytes, List.getElem?_cons_succ, ih (x / 256) i (by omega), Nat.div_div_eq_div_mul, Nat.pow_succ']

/-! ## Bytes of a map -/

theorem length_getBytes (m : AMap Byte) (a n : Nat) : (getBytes m a n).length = n := by simp [getBytes]

/-- Bytes read from a map are a list when each is. -/
theorem getBytes_eq_of_mget (m : AMap Byte) (a : Nat) (bs : List Byte) (h : ∀ i, i < bs.length → mget 0 m (a + i) = bs.getD i 0) :
    getBytes m a bs.length = bs := by
  apply List.ext_getElem
  · exact length_getBytes m a bs.length
  · intro i _ hi
    have hget : bs.getD i 0 = bs[i] := by simp [hi]
    rw [← hget, ← h i hi]
    simp [getBytes]

theorem getBytes_congr {m k : AMap Byte} {a n : Nat} (h : ∀ i, i < n → mget 0 m (a + i) = mget 0 k (a + i)) : getBytes m a n = getBytes k a n := by
  apply List.map_congr_left
  intro i hi
  exact h i (List.mem_range.mp hi)

/-- A range taken out of a map reads as the default. -/
theorem mget_dropRange {α : Type} (d : α) (m : AMap α) (lo n k : Nat) (h : lo ≤ k ∧ k < lo + n) : mget d (dropRange m lo n) k = d := by
  induction m with
  | nil => rfl
  | cons p m ih =>
    unfold dropRange at ih ⊢
    rw [List.filter_cons]
    split
    next keep =>
      have hne : k ≠ p.1 := by
        rintro rfl
        simp only [Bool.or_eq_true, decide_eq_true_eq] at keep
        omega
      simp [mget, hne, ih]
    next => exact ih

/-! ## Sectors -/

theorem mem_sectorsOf (k a n : Nat) : k ∈ sectorsOf a n ↔ 0 < n ∧ a / 128 ≤ k ∧ k ≤ (a + n - 1) / 128 := by
  unfold sectorsOf
  by_cases hn : n = 0
  · simp [hn]
  · rw [if_neg hn]
    simp only [List.mem_map, List.mem_range]
    constructor
    · rintro ⟨i, hi, rfl⟩
      omega
    · intro h
      exact ⟨k - a / 128, by omega, by omega⟩

/-- A sector filled with the values of a function of the address. -/
theorem mget_putBytes_sector (m : AMap Byte) (f : Nat → Byte) (n a : Nat) :
    mget 0 (putBytes m (n * 128) ((List.range 128).map fun i => f (n * 128 + i))) a = if a / 128 = n then f a else mget 0 m a := by
  rw [mget_putBytes, List.length_map, List.length_range]
  by_cases hn : a / 128 = n
  · have hi : a - n * 128 < 128 := by omega
    rw [if_pos hn, if_pos (by omega)]
    simp only [List.getD_eq_getElem?_getD, List.getElem?_map, List.getElem?_range hi, Option.map_some, Option.getD_some]
    rw [show n * 128 + (a - n * 128) = a by omega]
  · rw [if_neg hn, if_neg (by omega)]

theorem sectorsOf_sector (n : Nat) : sectorsOf (128 * n) 128 = [n] := by
  have first : 128 * n / 128 = n := by omega
  have count : (128 * n + 128 - 1) / 128 - n + 1 = 1 := by omega
  rw [sectorsOf, if_neg (by omega), first, count]
  rfl

theorem cutSectors_nil (fuel a : Nat) : cutSectors fuel a [] = [] := by cases fuel <;> rfl

/-- Bytes within one sector are not cut. -/
theorem cutAt_within (a : Nat) (bs : List Byte) (h0 : 0 < bs.length) (h : a % 128 + bs.length ≤ 128) : cutAt a bs = [(a, bs)] := by
  cases bs with
  | nil => simp at h0
  | cons b bs =>
    have full : (b :: bs).length ≤ 128 - a % 128 := by omega
    simp only [cutAt, cutSectors, List.take_of_length_le full, List.drop_eq_nil_of_le full]

/-- What holds of no piece, and is passed on by each piece put before the others, holds of the pieces of any bytes. -/
theorem cutSectors_induction {P : Nat → List Byte → List (Nat × List Byte) → Prop} (nil : ∀ a, P a [] [])
    (cons : ∀ a b c ps, 0 < b.length → a % 128 + b.length ≤ 128 → (c ≠ [] → (a + b.length) % 128 = 0) → P (a + b.length) c ps → P a (b ++ c) ((a, b) :: ps))
    (fuel a : Nat) (bs : List Byte) (h : a % 128 + bs.length ≤ 128 * fuel) : P a bs (cutSectors fuel a bs) := by
  induction fuel generalizing a bs with
  | zero =>
    obtain rfl : bs = [] := List.eq_nil_of_length_eq_zero (by omega)
    exact nil a
  | succ fuel ih =>
    by_cases h0 : bs = []
    · subst h0
      exact nil a
    · have hlen : 0 < bs.length := List.length_pos_iff.mpr h0
      have cut : cutSectors (fuel + 1) a bs = (a, bs.take (128 - a % 128)) :: cutSectors fuel (a + (128 - a % 128)) (bs.drop (128 - a % 128)) := by
        cases bs with
        | nil => exact absurd rfl h0
        | cons b bs => rfl
      rw [cut]
      have first := cons a (bs.take (128 - a % 128)) (bs.drop (128 - a % 128)) (cutSectors fuel (a + (128 - a % 128)) (bs.drop (128 - a % 128)))
      rw [List.take_append_drop] at first
      apply first
      · rw [List.length_take]; omega
      · rw [List.length_take]; omega
      · intro hrest
        have : 0 < (bs.drop (128 - a % 128)).length := List.length_pos_iff.mpr hrest
        rw [List.length_drop] at this
        rw [List.length_take]
        omega
      · by_cases hrest : bs.length ≤ 128 - a % 128
        · rw [List.drop_eq_nil_of_le hrest, cutSectors_nil]
          exact nil _
        · have hn : (bs.take (128 - a % 128)).length = 128 - a % 128 := by rw [List.length_take]; omega
          rw [hn]
          apply ih
          rw [List.length_drop]
          omega

theorem cutAt_induction {P : Nat → List Byte → List (Nat × List Byte) → Prop} (nil : ∀ a, P a [] [])
    (cons : ∀ a b c ps, 0 < b.length → a % 128 + b.length ≤ 128 → (c ≠ [] → (a + b.length) % 128 = 0) → P (a + b.length) c ps → P a (b ++ c) ((a, b) :: ps))
    (a : Nat) (bs : List Byte) : P a bs (cutAt a bs) :=
  cutSectors_induction nil cons _ a bs (by omega)

/-- Bytes put, read at an address: of two lists put one after the other, each where it lies. -/
theorem getD_append_at (b c : List Byte) (a j : Nat) (x : Byte) :
    (if a ≤ j ∧ j < a + (b ++ c).length then (b ++ c).getD (j - a) 0 else x)
      = if a + b.length ≤ j ∧ j < a + b.length + c.length then c.getD (j - (a + b.length)) 0
        else if a ≤ j ∧ j < a + b.length then b.getD (j - a) 0 else x := by
  rw [List.length_append]
  by_cases hc : a + b.length ≤ j ∧ j < a + b.length + c.length
  · rw [if_pos hc, if_pos (by omega), List.getD_append_right _ _ _ _ (by omega), Nat.sub_add_eq]
  · rw [if_neg hc]
    by_cases hb : a ≤ j ∧ j < a + b.length
    · rw [if_pos hb, if_pos (by omega), List.getD_append _ _ _ _ (by omega)]
    · rw [if_neg hb, if_neg (by omega)]

/-! ## What a sector's bytes depend on -/

/-- A physical byte depends on its own sector only (R286). -/
theorem physByte_congr {s t : State} {a : Nat} (hs : t.sect (a / 128) = s.sect (a / 128))
    (hb : ∀ b, b / 128 = a / 128 → mget 0 t.hbm b = mget 0 s.hbm b) : t.physByte a = s.physByte a := by
  have stored : getBytes t.hbm (a / 128 * 128) 128 = getBytes s.hbm (a / 128 * 128) 128 := getBytes_congr fun i hi => hb _ (by omega)
  simp only [State.physByte, hs, stored, hb a rfl]

/-- A sector's bytes as they open depend on the sector and on the keys only (R388). -/
theorem plainByte_congr {s t : State} {key a : Nat} (hk : t.keng = s.keng) (hs : t.sect (a / 128) = s.sect (a / 128))
    (hb : ∀ b, b / 128 = a / 128 → mget 0 t.hbm b = mget 0 s.hbm b) : t.plainByte key a = s.plainByte key a := by
  have hkey : t.kxts key = s.kxts key := by simp only [State.kxts, State.keySlot, hk]
  have stored : t.physRead (a / 128 * 128) 128 = s.physRead (a / 128 * 128) 128 := by
    apply List.map_congr_left
    intro i hi
    have hsame : (a / 128 * 128 + i) / 128 = a / 128 := by have := List.mem_range.mp hi; omega
    exact physByte_congr (by rw [hsame, hs]) fun b hb' => hb b (hb'.trans hsame)
  unfold State.plainByte State.rekeyed
  rw [hs, hkey, stored, hb a rfl]

/-! ## A write through a key index (R388, R389) -/

/-- The mark of a sector written under a key index. -/
def sealedUnder (s : State) (key : Nat) : Sector := { live := true, key := key, kxts := s.kxts key, kmac := s.kmac key }

/-- The memory in which a sector's bytes stand as they open under a key index. -/
def openedHbm (s : State) (key n : Nat) : AMap Byte :=
  if s.rekeyed key n then putBytes s.hbm (n * 128) ((List.range 128).map fun i => s.plainByte key (n * 128 + i)) else s.hbm

theorem mget_openedHbm (s : State) (key n a : Nat) :
    mget 0 (openedHbm s key n) a = if a / 128 = n then s.plainByte key a else mget 0 s.hbm a := by
  unfold openedHbm
  split
  next => exact mget_putBytes_sector s.hbm (s.plainByte key) n a
  next hr =>
    split
    next hn => rw [State.plainByte, hn, if_neg hr]
    next => rfl

/-- What a write through a key index leaves: the bytes written, the other bytes of the sectors that it touches as they opened, those sectors sealed under the
key index, and everything else as it was. -/
structure HbmWritten (s t : State) (key pa : Nat) (bs : List Byte) : Prop where
  rest : ∃ h x, t = { s with hbm := h, sects := x }
  bytes : ∀ a, mget 0 t.hbm a = if pa ≤ a ∧ a < pa + bs.length then bs.getD (a - pa) 0
    else if a / 128 ∈ sectorsOf pa bs.length then s.plainByte key a else mget 0 s.hbm a
  sects : ∀ n, t.sect n = if n ∈ sectorsOf pa bs.length then sealedUnder s key else s.sect n
  tags : ∀ n ∈ sectorsOf pa bs.length, s.otherTag n key = false

theorem otherTag_of_sectCheck {s : State} {n key : Nat} (h : s.sectCheck n key = none) : s.otherTag n key = false := by
  by_contra ht
  rw [Bool.not_eq_false] at ht
  simp only [State.sectCheck, ht, if_true] at h
  split at h <;> simp at h

/-- A write within one sector that passes its check. -/
theorem hbmPut_ok {s t : State} {pa key : Nat} {bs : List Byte} (h : s.hbmPut pa key bs = .ok t) :
    t = ({ s with hbm := putBytes (openedHbm s key (pa / 128)) pa bs } : State).setSect (pa / 128) (sealedUnder s key)
      ∧ s.otherTag (pa / 128) key = false := by
  simp only [State.hbmPut] at h
  split at h
  next =>
    split at h
    next => cases h
    next ht => exact ⟨(Except.ok.inj h).symm, by simpa using ht⟩
  next =>
    split at h
    next => cases h
    next hc => exact ⟨(Except.ok.inj h).symm, otherTag_of_sectCheck hc⟩

theorem HbmWritten.refl (s : State) (key pa : Nat) : HbmWritten s s key pa [] where
  rest := ⟨s.hbm, s.sects, rfl⟩
  bytes a := by simp [sectorsOf, show ¬ (pa ≤ a ∧ a < pa) by omega]
  sects n := by simp [sectorsOf]
  tags n h := by simp [sectorsOf] at h

theorem hbmWritten_of_put {s t : State} {pa key : Nat} {bs : List Byte} (h0 : 0 < bs.length) (hin : pa % 128 + bs.length ≤ 128)
    (h : s.hbmPut pa key bs = .ok t) : HbmWritten s t key pa bs := by
  obtain ⟨rfl, htag⟩ := hbmPut_ok h
  have mem : ∀ n, n ∈ sectorsOf pa bs.length ↔ n = pa / 128 := fun n => by rw [mem_sectorsOf]; omega
  refine ⟨⟨_, _, rfl⟩, fun a => ?_, fun n => ?_, fun n hn => ?_⟩
  · simp only [setSect_hbm, mget_putBytes, mget_openedHbm, mem]
  · simp only [setSect_sect, mem]
    rfl
  · rw [(mem n).mp hn, htag]

/-- Two writes under one key index, the second from the sector after the first on, are one. -/
theorem HbmWritten.append {s u t : State} {key pa : Nat} {b c : List Byte} (h0 : 0 < b.length) (hcut : c ≠ [] → (pa + b.length) % 128 = 0)
    (hb : HbmWritten s u key pa b) (hc : HbmWritten u t key (pa + b.length) c) : HbmWritten s t key pa (b ++ c) := by
  obtain ⟨m, x, rfl⟩ := hb.rest
  obtain ⟨m', x', rfl⟩ := hc.rest
  have hcut' : 0 < c.length → (pa + b.length) % 128 = 0 := fun h => hcut (List.length_pos_iff.mp h)
  have mem : ∀ n, n ∈ sectorsOf pa (b ++ c).length ↔ n ∈ sectorsOf (pa + b.length) c.length ∨ n ∈ sectorsOf pa b.length := fun n => by
    simp only [mem_sectorsOf, List.length_append]; omega
  have apart : ∀ n ∈ sectorsOf (pa + b.length) c.length, n ∉ sectorsOf pa b.length := fun n h => by
    simp only [mem_sectorsOf] at h ⊢; omega
  have plain : ∀ a, a / 128 ∈ sectorsOf (pa + b.length) c.length → ({ s with hbm := m, sects := x } : State).plainByte key a = s.plainByte key a := fun a h => by
    refine plainByte_congr rfl (by rw [hb.sects, if_neg (apart _ h)]) fun j hj => ?_
    have hout : j / 128 ∉ sectorsOf pa b.length := by rw [hj]; exact apart _ h
    rw [hb.bytes, if_neg hout, if_neg fun hr => hout (by simp only [mem_sectorsOf]; omega)]
  refine ⟨⟨m', x', rfl⟩, fun a => ?_, fun n => ?_, fun n hn => ?_⟩
  · rw [getD_append_at, hc.bytes]
    congr 1
    by_cases hs : a / 128 ∈ sectorsOf (pa + b.length) c.length
    · have hout := apart _ hs
      rw [if_pos hs, plain a hs, if_neg fun hr => hout (by simp only [mem_sectorsOf]; omega), if_pos ((mem _).mpr (.inl hs))]
    · rw [if_neg hs, hb.bytes]
      simp only [mem, hs, false_or]
  · rw [hc.sects, hb.sects]
    simp only [mem]
    by_cases hs : n ∈ sectorsOf (pa + b.length) c.length
    · rw [if_pos hs, if_pos (.inl hs)]; rfl
    · simp only [hs, if_false, false_or]
  · exact ((mem n).mp hn).elim (hc.tags n) (hb.tags n)

theorem hbmWrite_ok {s t : State} {pa key : Nat} {bs : List Byte} (h : s.hbmWrite pa key bs = .ok t) : HbmWritten s t key pa bs := by
  suffices all : ∀ s t, s.hbmWriteAll key (cutAt pa bs) = .ok t → HbmWritten s t key pa bs from all s t h
  refine cutAt_induction (P := fun a bs ps => ∀ s t, State.hbmWriteAll s key ps = .ok t → HbmWritten s t key a bs) ?_ ?_ pa bs
  · intro a s t h
    cases h
    exact .refl s key a
  · intro a b c ps h0 hin hcut ih s t h
    simp only [State.hbmWriteAll] at h
    split at h
    next => cases h
    next u hu => exact (hbmWritten_of_put h0 hin hu).append h0 hcut (ih u t h)

/-! ## Reads -/

/-- A read of sectors that pass their checks and open to the bytes stored (R389). -/
theorem hbmRead_ok {s : State} {pa key n : Nat} (hc : ∀ k ∈ sectorsOf pa n, s.sectCheck k key = none) (hr : ∀ k ∈ sectorsOf pa n, s.rekeyed key k = false) :
    s.hbmRead pa key n = .ok (getBytes s.hbm pa n) := by
  have none_bad : ((sectorsOf pa n).findSome? fun k => s.sectCheck k key) = none := List.findSome?_eq_none_iff.mpr hc
  have none_rekeyed : (sectorsOf pa n).any (s.rekeyed key) = false := by simpa using hr
  simp [State.hbmRead, none_bad, none_rekeyed]

section
variable {s t : State} {key pa : Nat} {bs : List Byte} (w : HbmWritten s t key pa bs) {n : Nat} (hn : n ∈ sectorsOf pa bs.length)
include w

theorem HbmWritten.outside {a : Nat} (ha : a < pa ∨ pa + bs.length ≤ a) :
    mget 0 t.hbm a = if a / 128 ∈ sectorsOf pa bs.length then s.plainByte key a else mget 0 s.hbm a := by
  rw [w.bytes, if_neg (by omega)]

theorem HbmWritten.getBytes_eq : getBytes t.hbm pa bs.length = bs :=
  getBytes_eq_of_mget _ _ _ fun i hi => by rw [w.bytes, if_pos (by omega), Nat.add_sub_cancel_left]

theorem HbmWritten.outside_opened {a : Nat} (ha : a < pa ∨ pa + bs.length ≤ a) (h : a / 128 ∉ sectorsOf pa bs.length ∨ s.rekeyed key (a / 128) = false) :
    mget 0 t.hbm a = mget 0 s.hbm a := by
  rw [w.outside ha]
  split
  next hm => simp [State.plainByte, h.resolve_left (not_not_intro hm)]
  next => rfl

include hn

theorem HbmWritten.sealed : t.sect n = sealedUnder s key := by rw [w.sects, if_pos hn]

theorem HbmWritten.rekeyed_eq : t.rekeyed key n = false := by
  obtain ⟨m, x, rfl⟩ := w.rest
  simp only [State.rekeyed, w.sealed hn, sealedUnder, Bool.and_eq_false_iff, bne_eq_false_iff_eq]
  exact .inr rfl

theorem HbmWritten.sectCheck_eq : t.sectCheck n key = none := by
  have hs := w.sealed hn
  have ht := w.tags n hn
  obtain ⟨m, x, rfl⟩ := w.rest
  have ht' : ({ s with hbm := m, sects := x } : State).otherTag n key = false := ht
  have hk : (sealedUnder s key).kmac = ({ s with hbm := m, sects := x } : State).kmac key := rfl
  simp [State.sectCheck, hs, ht', ← hk]
  simp [sealedUnder]

/-- A sector read under another key index than it was written under fails its MAC (R389). -/
theorem HbmWritten.sectCheck_other {other : Nat} (ho : other ≠ key) : t.sectCheck n other = some .mac := by
  simp [State.sectCheck, w.sealed hn, sealedUnder, ho.symm]

theorem HbmWritten.plainByte_eq {a : Nat} (ha : a < pa ∨ pa + bs.length ≤ a) (e : a / 128 = n) : t.plainByte key a = s.plainByte key a := by
  subst e
  have direct : t.plainByte key a = mget 0 t.hbm a := by simp [State.plainByte, w.rekeyed_eq hn]
  rw [direct, w.outside ha, if_pos hn]

end

/-! ## Physical writes (R286, R388) -/

/-- A physical write within one sector: the bytes put, and the others of the sector as they were stored. -/
theorem physByte_physPut (s : State) (pa : Nat) (bs : List Byte) (hin : pa % 128 + bs.length ≤ 128) (a : Nat) :
    (s.physPut pa bs).physByte a = if pa ≤ a ∧ a < pa + bs.length then bs.getD (a - pa) 0 else s.physByte a := by
  have hbm : ∀ b, mget 0 (s.physPut pa bs).hbm b = if pa ≤ b ∧ b < pa + bs.length then bs.getD (b - pa) 0
      else if b / 128 = pa / 128 then s.physByte b else mget 0 s.hbm b := fun b => by
    rw [← mget_putBytes_sector s.hbm s.physByte, ← mget_putBytes]
    rfl
  by_cases hs : a / 128 = pa / 128
  · have plain : ((s.physPut pa bs).sect (a / 128)).key = 0 := by
      rw [hs]
      simp [State.physPut]
    have direct : (s.physPut pa bs).physByte a = mget 0 (s.physPut pa bs).hbm a := by simp [State.physByte, plain]
    rw [direct, hbm, if_pos hs]
  · have same : (s.physPut pa bs).sect (a / 128) = s.sect (a / 128) := by
      simp [State.physPut, hs]
      rfl
    rw [if_neg (by omega)]
    refine physByte_congr same fun b hb => ?_
    rw [hbm, if_neg (by omega), if_neg (by omega)]

theorem physByte_physWrite (s : State) (pa : Nat) (bs : List Byte) (a : Nat) :
    (s.physWrite pa bs).physByte a = if pa ≤ a ∧ a < pa + bs.length then bs.getD (a - pa) 0 else s.physByte a := by
  refine cutAt_induction (P := fun pa bs ps => ∀ s : State, (ps.foldl (fun s p => s.physPut p.1 p.2) s).physByte a
    = if pa ≤ a ∧ a < pa + bs.length then bs.getD (a - pa) 0 else s.physByte a) ?_ ?_ pa bs s
  · intro pa s
    rw [List.length_nil, if_neg (by omega)]
    rfl
  · intro pa b c ps _ hin _ ih s
    rw [getD_append_at, List.foldl_cons, ih, physByte_physPut s pa b hin]

theorem physRead_physWrite (s : State) (pa : Nat) (bs : List Byte) : (s.physWrite pa bs).physRead pa bs.length = bs := by
  apply List.ext_getElem
  · simp [State.physRead]
  · intro i _ hi
    have hget : bs.getD i 0 = bs[i] := by simp [hi]
    simp only [State.physRead, List.getElem_map, List.getElem_range, physByte_physWrite]
    rw [if_pos (by omega), Nat.add_sub_cancel_left, hget]

/-! ## The scratchpad (R126, R131) -/

theorem writeLoc_spad_ok {s t : State} {cl off : Nat} {bs : List Byte} (h : s.writeLoc (.spad cl off) bs = .ok t) :
    t = (s.clearTags (.spad cl off) bs.length).setCluster cl ((s.cluster cl).store off bs) := by
  simp only [State.writeLoc] at h
  split at h
  next => cases h
  next => exact (Except.ok.inj h).symm

/-! ## Poison (R440) -/

theorem writeLoc_hbm_poison {s : State} {pa key : Nat} {bs : List Byte} (h0 : 0 < bs.length) (hin : pa % 128 + bs.length ≤ 128) (hpart : bs.length ≠ 128)
    (hp : (s.sect (pa / 128)).poison = true) : s.writeLoc (.hbm pa key) bs = .error .poison := by
  have hp' : ((s.clearTags (.hbm pa key) bs.length).sect (pa / 128)).poison = true := hp
  simp [State.writeLoc, State.hbmWrite, cutAt_within pa bs h0 hin, State.hbmWriteAll, State.hbmPut, hpart, State.sectCheck, hp']

theorem writeLoc_spad_poison {s : State} {cl off : Nat} {bs : List Byte} (h0 : 0 < bs.length) (hin : off % 128 + bs.length ≤ 128) (hpart : bs.length ≠ 128)
    (hp : mget false (s.cluster cl).poison (off / 128) = true) : s.writeLoc (.spad cl off) bs = .error .spoison := by
  have hp' : mget false ((s.clearTags (.spad cl off) bs.length).cluster cl).poison (off / 128) = true := hp
  simp [State.writeLoc, State.spadPartPoison, cutAt_within off bs h0 hin, hpart, hp']

/-! ## A cleared range (R303, R399) -/

section
variable {s : State} {pa n k : Nat} (hpa : pa % 128 = 0) (hn : n % 128 = 0) (hk : pa / 128 ≤ k ∧ k < (pa + n) / 128)
include hpa hn hk

theorem sect_hbmClear : (s.hbmClear pa n).sect k = {} := mget_dropRange _ _ _ _ _ (by omega)

theorem sclines_hbmClear : mget none (s.hbmClear pa n).sclines (k / 4) = none := mget_dropRange _ _ _ _ _ (by omega)

theorem waysOf_hbmClear : (s.hbmClear pa n).waysOf (k / 4) = [] := by
  refine List.filterMap_eq_nil_iff.mpr fun p hp => ?_
  have far := (List.mem_filter.mp hp).2
  simp only [Bool.or_eq_true, decide_eq_true_eq] at far
  rw [if_neg (by omega)]

/-- A cleared sector passes its check under every key index. -/
theorem sectCheck_hbmClear (key : Nat) : (s.hbmClear pa n).sectCheck k key = none := by
  simp [State.sectCheck, State.otherTag, sect_hbmClear hpa hn hk, sclines_hbmClear hpa hn hk, waysOf_hbmClear hpa hn hk]

theorem rekeyed_hbmClear (key : Nat) : (s.hbmClear pa n).rekeyed key k = false := by
  simp [State.rekeyed, sect_hbmClear hpa hn hk]

end

/-- A cleared sector reads zero under every key index. -/
theorem hbmRead_hbmClear (s : State) {pa n a k : Nat} (key : Nat) (hpa : pa % 128 = 0) (hn : n % 128 = 0) (hlo : pa ≤ a) (hhi : a + k ≤ pa + n) :
    (s.hbmClear pa n).hbmRead a key k = .ok (List.replicate k 0) := by
  have inside : ∀ j ∈ sectorsOf a k, pa / 128 ≤ j ∧ j < (pa + n) / 128 := fun j hj => by
    rw [mem_sectorsOf] at hj
    omega
  rw [hbmRead_ok (fun j hj => sectCheck_hbmClear hpa hn (inside j hj) key) fun j hj => rekeyed_hbmClear hpa hn (inside j hj) key]
  have zero : ∀ i, i < k → mget 0 (s.hbmClear pa n).hbm (a + i) = (List.replicate k (0 : Byte)).getD i 0 := fun i hi => by
    rw [List.getD_replicate _ hi]
    exact mget_dropRange _ _ _ _ _ (by omega)
  have read := getBytes_eq_of_mget (s.hbmClear pa n).hbm a (List.replicate k 0) fun i hi => zero i (by simpa using hi)
  rw [List.length_replicate] at read
  rw [read]

/-! ## The statement -/

/-- Settles O57: a write through a key index is described whole by `HbmWritten`, a physical one byte by byte by `physByte_physWrite`; the clauses follow. -/
theorem memoryReadsBack : Obligations.MemoryReadsBack := by
  refine ⟨fun n x => ⟨leNat_leBytes n x, leBytes_getElem? n x⟩, fun s t pa key bs h => ?_, fun s pa key bs h0 hin hpart hp => writeLoc_hbm_poison h0 hin hpart hp,
    fun s pa bs => ⟨physRead_physWrite s pa bs, fun a ha => ?_⟩, fun s t cl off bs h => ?_,
    fun s cl off bs h0 hin hpart hp => writeLoc_spad_poison h0 hin hpart hp, fun s pa n key a k hpa hn hlo hhi => hbmRead_hbmClear s key hpa hn hlo hhi⟩
  · have w : HbmWritten (s.clearTags (.hbm pa key) bs.length) t key pa bs := hbmWrite_ok h
    refine ⟨?_, fun a ha => ⟨fun hm => w.plainByte_eq hm ha rfl, w.outside_opened ha⟩, fun n hn => ?_, fun other ho n hn => ?_⟩
    · rw [State.readLoc, hbmRead_ok (fun k hk => w.sectCheck_eq hk) fun k hk => w.rekeyed_eq hk, w.getBytes_eq]
    · rw [w.sects, if_neg hn]
      rfl
    · simp [State.readLoc, State.hbmRead, sectorsOf_sector, w.sectCheck_other hn ho]
  · rw [physByte_physWrite, if_neg (by omega)]
  · obtain rfl := writeLoc_spad_ok h
    refine ⟨?_, fun a ha => ?_, fun k hk => ?_, rfl⟩
    · rw [setCluster_cluster, if_pos rfl]
      exact getBytes_putBytes _ off bs
    · rw [setCluster_cluster, if_pos rfl]
      exact mget_putBytes_other _ off bs a ha
    · rw [setCluster_cluster, if_neg hk]
      rfl

end Sys2Proof.Proofs
end

section
/-! PROOFS. Supply, resets, management and the host's windows (R4, R418 to R420, R441 to R448), and the registers without a row of their own (R331, R361, R370,
R371, R437). -/

namespace Sys2Proof.Proofs

open Sys2Proof Sys2Proof.Machine Sys2Proof.Laws

/-! ## Supply and cooling (R447, R448) -/

theorem restart_free {s : State} (hh : s.held = false) (ht : s.tripped = false) : s.restart = s.push { i := .coldReset } := by
  simp [State.restart, hh, ht]

theorem supplyReturn_unheld {s : State} (h : s.held = false) : exec .supplyReturn s = .next s := by
  simp [exec, execSupplyReturn, h]

theorem supplyReturn_held {s : State} (h : s.held = true) (ht : s.tripped = false) :
    exec .supplyReturn s = .next ({ s with held := false }.push { i := .coldReset }) := by
  simp [exec, execSupplyReturn, h, restart_free (s := { s with held := false }) rfl ht]

theorem thermalRecovery_untripped {s : State} (h : s.tripped = false) : exec .thermalRecovery s = .next s := by
  simp [exec, execThermalRecovery, h]

theorem thermalRecovery_tripped {s : State} (h : s.tripped = true) (hh : s.held = false) :
    exec .thermalRecovery s = .next ({ s with tripped := false }.push { i := .coldReset }) := by
  simp [exec, execThermalRecovery, h, restart_free (s := { s with tripped := false }) hh rfl]

/-! ## The cold reset and the boot ROM (R442, R443) -/

theorem coldReset_down {s : State} (h : s.held = true ∨ s.tripped = true) : exec .coldReset s = .next s := by
  simp [exec, execColdReset, h]

theorem coldReset_first {s : State} (hh : s.held = false) (ht : s.tripped = false) (hf : s.ev.flag = false) :
    exec .coldReset s = .next (s.coldReset.push { i := .coldReset, ev := { flag := true, n := s.ev.n } }) := by
  simp [exec, execColdReset, hh, ht, hf]

theorem coldReset_rom {s : State} (hh : s.held = false) (ht : s.tripped = false) (hf : s.ev.flag = true) :
    exec .coldReset s = .next (if s.booting then s.boot s.ev.n else s) := by
  simp [exec, execColdReset, hh, ht, hf]

/-! ## Management (R446) -/

/-- An update is refused in SCRAPPED, for the slot that runs, and when the image is too large. -/
theorem firmwareUpdate_refused {s : State} (h : s.keng.lcs = 4 ∨ s.fwSlot = some (s.ev.n % 2) ∨ 2 ^ 24 < s.ev.bytes.length) :
    exec .pldmFirmwareUpdate s = .next s := by
  have refuses : (s.keng.lcs = 4 || s.fwSlot = some (s.ev.n % 2) || imageMax < s.ev.bytes.length) = true := by
    simp only [Bool.or_eq_true, decide_eq_true_eq, or_assoc]
    exact h
  exact if_pos refuses

/-- Once firmware runs, an image is written to its slot and no more. -/
theorem firmwareUpdate_running {s : State} (hl : s.keng.lcs ≠ 4) (hs : s.fwSlot ≠ some (s.ev.n % 2)) (hb : s.ev.bytes.length ≤ 2 ^ 24) (hf : (s.die 0).fw = true) :
    exec .pldmFirmwareUpdate s = .next (s.flashWrite 0 (4096 * (s.ev.n % 2)) s.ev.bytes) := by
  have accepts : ¬ (s.keng.lcs = 4 || s.fwSlot = some (s.ev.n % 2) || imageMax < s.ev.bytes.length) = true := by
    simp only [Bool.or_eq_true, decide_eq_true_eq, not_or]
    exact ⟨⟨hl, hs⟩, Nat.not_lt.mpr hb⟩
  have running : ((s.flashWrite 0 (4096 * (s.ev.n % 2)) s.ev.bytes).die 0).fw = true := hf
  simp only [exec, execPldmFirmwareUpdate]
  rw [if_neg accepts, running]
  rfl

theorem sensorRead_none {s : State} (h : s.ev.n = 0 ∨ 9 < s.ev.n) : exec .pldmSensorRead s = .next s := by
  simp [exec, execPldmSensorRead, h]

theorem sensorRead_answers {s : State} (h0 : 0 < s.ev.n) (h9 : s.ev.n ≤ 9) :
    exec .pldmSensorRead s = .next { s with mgmt := s.mgmt ++ [(s.ev.n, if s.ev.n = 9 then s.keng.lcs.toNat else s.ev.v.toNat)] } := by
  have named : ¬ (s.ev.n = 0 ∨ 9 < s.ev.n) := by omega
  simp [exec, execPldmSensorRead, named]

/-! ## The host link and BAR2 (R420, R441) -/

/-- A drain writes the function's registers or nothing. -/
theorem drainFn_cases (s : State) (f : Nat) : s.drainFn f = s ∨ ∃ y, s.drainFn f = s.setFn f y := by
  unfold State.drainFn
  split
  next => exact .inl rfl
  next =>
    split
    next => exact .inl rfl
    next => exact .inr ⟨_, rfl⟩

theorem drainFn_frame (s : State) (f : Nat) :
    (s.drainFn f).cmds = s.cmds ∧ (s.drainFn f).groups = s.groups ∧ (s.drainFn f).waiting = s.waiting ∧ (s.drainFn f).parts = s.parts := by
  obtain h | ⟨y, h⟩ := drainFn_cases s f <;> rw [h] <;> exact ⟨rfl, rfl, rfl, rfl⟩

theorem bar2Access_write {s : State} (hf : s.ev.flag = true) :
    exec .bar2Access s = .next ((s.storeLater (s.barWindow s.ev.n) (s.ev.bytes.take (hbmEnd - s.barWindow s.ev.n))).chargeSectors 32 none (s.barWindow s.ev.n)
      (s.ev.bytes.take (hbmEnd - s.barWindow s.ev.n)).length .write) := by
  simp [exec, execBar2Access, hf]

/-- A read of BAR2: the bytes that lie in HBM, and all ones beyond. -/
theorem bar2Access_read {s : State} (hf : s.ev.flag = false) {k : Nat} (hk : min s.ev.m (hbmEnd - s.barWindow s.ev.n) = k) :
    exec .bar2Access s = .next ({ s with mgmt := s.mgmt ++
      [(65536 + s.ev.n % 2 ^ 32, leNat (s.physRead (s.barWindow s.ev.n) k ++ List.replicate (s.ev.m - k) 0xFF))] }.chargeSectors 32 none (s.barWindow s.ev.n) k .read) := by
  have length : (s.physRead (s.barWindow s.ev.n) k).length = k := by simp [State.physRead]
  simp only [exec, execBar2Access, hf, Bool.false_eq_true, if_false, hk, length]

/-! ## Registers without a row of their own -/

theorem registerWrite_store {s : State} {b : Byte} {r : List Byte} (h : s.ev.bytes = b :: r) :
    exec .registerWrite s = .next ((s.storeLater s.ev.n (b :: r)).chargeSectors 32 none s.ev.n (r.length + 1) .write) := by
  simp [exec, execRegisterWrite, h]

theorem registerWrite_control {s : State} (hf : s.ev.flag = false) (hb : s.ev.bytes = []) :
    exec .registerWrite s = .next (s.regWrite s.ev.n s.ev.v.toNat) := by
  simp [exec, execRegisterWrite, hf, hb]

theorem registerWrite_bar {s : State} (hf : s.ev.flag = true) (hb : s.ev.bytes = []) :
    exec .registerWrite s = .next (s.barWrite (s.ev.m % 64) s.ev.n s.ev.v.toNat) := by
  simp [exec, execRegisterWrite, hf, hb]

/-- The unit, the die and the offset of a control-space address (R4). -/
theorem control_address {a unit d o : Nat} (hd : d < 4) (ho : o < 2 ^ 40) (h : a = unit * 2 ^ 42 + d * 2 ^ 40 + o) :
    a / 2 ^ 42 = unit ∧ a / 2 ^ 40 % 4 = d ∧ a % 2 ^ 40 = o := by
  omega

/-- A write of control space goes to the registers of the unit that its address names. -/
theorem regWrite_distaff {s : State} {a v d o : Nat} (hd : d < 4) (ho : o < 2 ^ 40) (h : a = 0x10 * 2 ^ 42 + d * 2 ^ 40 + o) :
    s.regWrite a v = s.distaffWrite d o (v % 2 ^ 64) := by
  obtain ⟨hu, hd, ho⟩ := control_address hd ho h
  simp only [State.regWrite, hu, hd, ho]

theorem regWrite_translation {s : State} {a v d o : Nat} (hd : d < 4) (ho : o < 2 ^ 40) (h : a = 0x12 * 2 ^ 42 + d * 2 ^ 40 + o) :
    s.regWrite a v = s.translationWrite d o v := by
  obtain ⟨hu, hd, ho⟩ := control_address hd ho h
  simp only [State.regWrite, hu, hd, ho]

theorem regWrite_partition {s : State} {a v d o : Nat} (h0 : d = 0) (ho : o < 2 ^ 40) (h : a = 0x13 * 2 ^ 42 + d * 2 ^ 40 + o) :
    s.regWrite a v = s.partitionWrite o v := by
  obtain ⟨hu, hd, ho⟩ := control_address (by omega) ho h
  simp only [State.regWrite, hu, hd, ho, h0, if_true]

theorem regWrite_counter {s : State} {a v d o : Nat} (hd : d < 4) (ho : o < 2 ^ 40) (h : a = 0x17 * 2 ^ 42 + d * 2 ^ 40 + o) :
    s.regWrite a v = s.counterWrite d o v := by
  obtain ⟨hu, hd, ho⟩ := control_address hd ho h
  simp only [State.regWrite, hu, hd, ho]

/-- A value of 64 bits as a register of fewer holds it. -/
theorem ofNat_word (n : Nat) (v : Word) : BitVec.ofNat n v.toNat = v.setWidth n := by
  apply BitVec.eq_of_toNat_eq
  simp

theorem window_of_mem {lo hi o : Nat} (hlo : lo ≤ o) (hhi : o < hi) : (decide (lo ≤ o) && decide (o < hi)) = true := by simp [hlo, hhi]

theorem distaffWrite_quant (s : State) (d : Nat) (v : Word) :
    s.distaffWrite d 8 (v.toNat % 2 ^ 64) = s.updDie d fun x => { x with quant := v.setWidth 32 } := by
  rw [Nat.mod_eq_of_lt v.isLt, ← ofNat_word]
  rfl

theorem distaffWrite_weight (s : State) (d : Nat) (v : Word) {c : Nat} (hc : c < 512) :
    s.distaffWrite d (0x1000 + 8 * c) (v.toNat % 2 ^ 64) = ((List.range 32).filter fun q => (s.part q).die.toNat == d).foldl State.dispatch
      (s.updDie d fun x => { x with weight := mset 1 x.weight c (v.setWidth 16) }) := by
  have index : (0x1000 + 8 * c - 0x1000) / 8 = c := by omega
  rw [Nat.mod_eq_of_lt v.isLt, ← ofNat_word, State.distaffWrite, if_neg (by omega), if_neg (by omega), if_pos (window_of_mem (by omega) (by omega)), index]

theorem distaffWrite_wdogLimit (s : State) (d : Nat) (v : Word) {q : Nat} (hq : q < 32) :
    s.distaffWrite d (0x2000 + 8 * q) (v.toNat % 2 ^ 64) = s.updDie d fun x => { x with wdogLimit := mset 0 x.wdogLimit q (v.setWidth 32) } := by
  have index : (0x2000 + 8 * q - 0x2000) / 8 = q := by omega
  have above : ¬ (decide (0x1000 ≤ 0x2000 + 8 * q) && decide (0x2000 + 8 * q < 0x2000)) = true := by simp
  rw [Nat.mod_eq_of_lt v.isLt, ← ofNat_word, State.distaffWrite, if_neg (by omega), if_neg (by omega), if_neg above,
    if_pos (window_of_mem (by omega) (by omega)), index]

theorem translationWrite_shdir (s : State) (d : Nat) (v : Word) (hv : v.toNat % 2 ^ 16 = 0) :
    s.translationWrite d 0x018 v.toNat = s.updDie d fun x => { x with shdir := v.setWidth 48 } := by
  rw [← ofNat_word, State.translationWrite, aligned, hv]
  rfl

theorem translationWrite_modnum (s : State) (d : Nat) (v : Word) :
    s.translationWrite d 0x020 v.toNat = s.updDie d fun x => { x with modnum := v.setWidth 6 } := by
  rw [← ofNat_word]
  rfl

theorem partitionWrite_perr (s : State) (v : Word) : s.partitionWrite 0xF008 v.toNat = { s with perr := s.perr &&& ~~~(v.setWidth 5) } := by
  rw [← ofNat_word]
  rfl

theorem counterWrite_cethr (s : State) (d : Nat) (v : Word) : s.counterWrite d 0x120 v.toNat = s.updDie d fun x => { x with cethr := v.setWidth 16 } := by
  rw [← ofNat_word]
  rfl

theorem counterWrite_cecnt (s : State) (d : Nat) (v : Word) :
    s.counterWrite d 0x118 v.toNat = s.updDie d fun x => { x with cecnt := x.cecnt &&& ~~~(v.setWidth 48) } := by
  rw [← ofNat_word]
  rfl

/-! ## BAR0 (R418, R442) -/

theorem barWrite_closed (s : State) (f o v : Nat) (hfw : (s.die 0).fw = false) (ho : o < 0x1000) : s.barWrite f o v = s := by
  simp [State.barWrite, State.barOpen, hfw, ho]

theorem barWrite_vec (s : State) (f : Nat) (v : Word) (hfw : (s.die 0).fw = true) :
    s.barWrite f 0x18 v.toNat = if (s.fn f).en then s else s.setFn f { s.fn f with vec := v.setWidth 6 } := by
  rw [← ofNat_word]
  simp [State.barWrite, State.barOpen, hfw]

theorem barWrite_sqtail (s : State) (f : Nat) (v : Word) (hfw : (s.die 0).fw = true) :
    s.barWrite f 0x28 v.toNat = s.push { ev := { m := f, v := v }, i := .sqtail } := by
  simp [State.barWrite, State.barOpen, hfw]

/-- A function that is enabled takes no write of its interrupt vector, before firmware runs or after. -/
theorem barWrite_vec_enabled (s : State) (f : Nat) (v : Word) (he : (s.fn f).en = true) : s.barWrite f 0x18 v.toNat = s := by
  by_cases hfw : (s.die 0).fw = true
  · rw [barWrite_vec s f v hfw, if_pos he]
  · exact barWrite_closed s f 0x18 v.toNat (by simpa using hfw) (by omega)

/-- Settles O47: each clause is the lemma of its row, or of its register. -/
theorem moduleEvents : Obligations.ModuleEvents := by
  intro s
  have hd : s.ev.n / 2 ^ 40 % 4 < 4 := Nat.mod_lt _ (by omega)
  refine ⟨rfl, supplyReturn_unheld, supplyReturn_held, rfl, thermalRecovery_untripped, thermalRecovery_tripped, coldReset_down, fun hh ht => ⟨fun hf => ?_, fun hf hb => ?_, fun hf hb => ?_⟩,
    firmwareUpdate_refused, firmwareUpdate_running, rfl, sensorRead_none, sensorRead_answers, rfl, fun f x => ?_,
    ⟨bar2Access_write, fun hf hin => ?_, fun hf hout => ?_⟩, fun b r h => registerWrite_store h, fun hf hb => ?_, fun hf hb => ?_⟩
  · exact ⟨_, coldReset_first hh ht hf, rfl, rfl, rfl, rfl, rfl, rfl, rfl, rfl, rfl, rfl, rfl, rfl, rfl, rfl, rfl, rfl, rfl, rfl⟩
  · rw [coldReset_rom hh ht hf, hb]; rfl
  · rw [coldReset_rom hh ht hf, hb]; rfl
  · exact ⟨rfl, rfl, rfl, rfl, drainFn_frame s f⟩
  · have all : min s.ev.m (hbmEnd - s.barWindow s.ev.n) = s.ev.m := Nat.min_eq_left (Nat.le_sub_of_add_le' hin)
    rw [bar2Access_read hf all, Nat.sub_self, List.replicate_zero, List.append_nil]
    rfl
  · have none_in : min s.ev.m (hbmEnd - s.barWindow s.ev.n) = 0 := by
      rw [State.barWindow, Nat.sub_eq_zero_of_le hout, Nat.min_zero]
    rw [bar2Access_read hf none_in]
    rfl
  · rw [registerWrite_control hf hb]
    refine ⟨fun h => ?_, fun c hc h => ?_, fun q hq h => ?_, fun h hv => ?_, fun h => ?_, fun h h0 => ?_, fun h => ?_, fun h => ?_⟩
    · rw [regWrite_distaff hd (by omega) h, distaffWrite_quant]
    · rw [regWrite_distaff hd (by omega) h, distaffWrite_weight s _ _ hc]
    · rw [regWrite_distaff hd (by omega) h, distaffWrite_wdogLimit s _ _ hq]
    · rw [regWrite_translation hd (by omega) h, translationWrite_shdir s _ _ hv]
    · rw [regWrite_translation hd (by omega) h, translationWrite_modnum]
    · rw [regWrite_partition h0 (by omega) h, partitionWrite_perr]
    · rw [regWrite_counter hd (by omega) h, counterWrite_cethr]
    · rw [regWrite_counter hd (by omega) h, counterWrite_cecnt]
  · rw [registerWrite_bar hf hb]
    refine ⟨fun hfw ho => ?_, fun hfw ho he => ?_, fun ho he => ?_, fun hfw ho => ?_⟩
    · rw [barWrite_closed s _ _ _ hfw ho]
    · rw [ho, barWrite_vec s _ _ hfw, he]
      rfl
    · rw [ho, barWrite_vec_enabled s _ _ he]
    · rw [ho, barWrite_sqtail s _ _ hfw]

end Sys2Proof.Proofs
end

section
/-! PROOFS. What a step runs (R25, R58 to R62, R214, R439, R447, R448), and the state after reset (R21, R22, R285, R286, R399, R442). -/

namespace Sys2Proof.Proofs

open Sys2Proof Sys2Proof.Machine Sys2Proof.Laws

/-! ## What a scheduled row runs -/

/-- The state in which an act runs: its strand or unit in focus, and what accompanies it beside it. -/
def underAct (s : State) (a : Act) : State := { s with focus := a.who, frame := a.frame, ev := a.ev }

section
variable {ex : Instr → State → Result} {s : State} {a : Act}

/-- Without power only the rows of the supply and of the sensors run (R447, R448). -/
theorem perform_down (hd : s.held = true ∨ s.tripped = true) (hp : powerRow a.i = false) : s.perform ex a = .next (underAct s a) := by
  have down : ((s.held || s.tripped) && !powerRow a.i) = true := by simpa [hp] using hd
  exact if_pos down

/-- The rows that do run. -/
def RowRuns (s : State) (a : Act) : Prop := (s.held = false ∧ s.tripped = false) ∨ powerRow a.i = true

theorem not_down (hr : RowRuns s a) : ¬ ((s.held || s.tripped) && !powerRow a.i) = true := by
  obtain ⟨hh, ht⟩ | hp := hr
  · simp [hh, ht]
  · simp [hp]

theorem perform_event (hr : RowRuns s a) (hk : rowKind a.i = .event) : s.perform ex a = ex a.i (underAct s a) := by
  simp only [State.perform]
  rw [if_neg (not_down hr), hk]
  rfl

theorem perform_slotOp (hr : RowRuns s a) (hk : rowKind a.i = .slotOp) : s.perform ex a =
    if a.ev.n = 4 && (underAct s a).canIssue a.who then .next ((underAct s a).foundError a.who)
    else match (underAct s a).soloOp a.who with
      | some (i, fr) => ex i { underAct s a with frame := fr }
      | none => ex .bundleIssue (underAct s a) := by
  simp only [State.perform]
  rw [if_neg (not_down hr), hk]
  rfl

theorem perform_presents (hr : RowRuns s a) (hk : rowKind a.i = .slotOp) (hn : a.ev.n ≠ 4 ∨ (underAct s a).canIssue a.who = false) : s.perform ex a =
    match (underAct s a).soloOp a.who with
    | some (i, fr) => ex i { underAct s a with frame := fr }
    | none => ex .bundleIssue (underAct s a) := by
  rw [perform_slotOp hr hk, if_neg (by rw [Bool.and_eq_true, decide_eq_true_eq]; rintro ⟨h4, hc⟩; simp [h4, hc] at hn)]

theorem perform_foundError (hr : RowRuns s a) (hk : rowKind a.i = .slotOp) (h4 : a.ev.n = 4) (hc : (underAct s a).canIssue a.who = true) :
    s.perform ex a = .next ((underAct s a).foundError a.who) := by
  rw [perform_slotOp hr hk, if_pos (by simp [h4, hc])]

theorem perform_solo (hr : RowRuns s a) (hk : rowKind a.i = .slotOp) (hn : a.ev.n ≠ 4 ∨ (underAct s a).canIssue a.who = false) {i : Instr} {fr : Frame}
    (h : (underAct s a).soloOp a.who = some (i, fr)) : s.perform ex a = ex i { underAct s a with frame := fr } := by
  rw [perform_presents hr hk hn, h]

theorem perform_bundle (hr : RowRuns s a) (hk : rowKind a.i = .slotOp) (hn : a.ev.n ≠ 4 ∨ (underAct s a).canIssue a.who = false)
    (h : (underAct s a).soloOp a.who = none) : s.perform ex a = ex .bundleIssue (underAct s a) := by
  rw [perform_presents hr hk hn, h]

theorem perform_idleUnit (hr : RowRuns s a) (hk : rowKind a.i = .microOp) (h : ((underAct s a).spindle (gnumOf a.who)).runningCall = none) :
    s.perform ex a = .next (underAct s a) := by
  simp only [State.perform]
  rw [if_neg (not_down hr), hk]
  simp only [underAct] at h ⊢
  rw [h]

theorem perform_microOp (hr : RowRuns s a) (hk : rowKind a.i = .microOp) {c : Call} (h : ((underAct s a).spindle (gnumOf a.who)).runningCall = some c) :
    s.perform ex a = if a.ev.n = 3 || a.ev.n = 4 then .next ((underAct s a).callFinds (gnumOf a.who) c)
      else match (underAct s a).nextUop c with
        | some i => ex i (underAct s a)
        | none => .next ((underAct s a).callError (gnumOf a.who) c cIllegal) := by
  simp only [State.perform]
  rw [if_neg (not_down hr), hk]
  simp only [underAct] at h ⊢
  rw [h] <;> rfl

theorem perform_callFinds (hr : RowRuns s a) (hk : rowKind a.i = .microOp) {c : Call} (h : ((underAct s a).spindle (gnumOf a.who)).runningCall = some c)
    (hn : a.ev.n = 3 ∨ a.ev.n = 4) : s.perform ex a = .next ((underAct s a).callFinds (gnumOf a.who) c) := by
  rw [perform_microOp hr hk h, if_pos (by simpa using hn)]

theorem perform_nextUop (hr : RowRuns s a) (hk : rowKind a.i = .microOp) {c : Call} (h : ((underAct s a).spindle (gnumOf a.who)).runningCall = some c)
    (h3 : a.ev.n ≠ 3) (h4 : a.ev.n ≠ 4) {i : Instr} (hi : (underAct s a).nextUop c = some i) : s.perform ex a = ex i (underAct s a) := by
  rw [perform_microOp hr hk h, if_neg (by simp [h3, h4]), hi]

theorem perform_callEnd (hr : RowRuns s a) (hk : rowKind a.i = .microOp) {c : Call} (h : ((underAct s a).spindle (gnumOf a.who)).runningCall = some c)
    (h3 : a.ev.n ≠ 3) (h4 : a.ev.n ≠ 4) (hi : (underAct s a).nextUop c = none) :
    s.perform ex a = .next ((underAct s a).callError (gnumOf a.who) c cIllegal) := by
  rw [perform_microOp hr hk h, if_neg (by simp [h3, h4]), hi]

end

/-! ## The operation that a bundle holds alone (R62) -/

theorem soloView_of_one {w : Nat} {sl : Slot} {i : Instr} (h : ((decodeSlots w).filter fun p => p.2 != .empty) = [(sl, .op i)]) :
    soloView w = some (i, { hdr := BitVec.ofNat 16 (w / 2 ^ 368), bp := BitVec.ofNat 16 w, second := sl == .s1 || sl == .v1 || sl == .l1 }) := by
  rw [soloView, h]

theorem soloView_none {w : Nat} (h : ∀ sl i, ((decodeSlots w).filter fun p => p.2 != .empty) ≠ [(sl, .op i)]) : soloView w = none := by
  unfold soloView
  split
  next sl i e => exact absurd e (h sl i)
  next => rfl

theorem soloOp_fetched {s s' : State} {sid len w : Nat} (hc : s.canIssue sid = true) (hf : s.fetchBundle sid (s.core sid).pc.toNat = .ok (len, w) s') :
    s.soloOp sid = soloView w := by
  simp [State.soloOp, hc, hf]

/-! ## One step (notes/assumptions/1.md) -/

theorem step_agenda {s : State} {a : Act} {r : List Act} (h : s.agenda = a :: r) : step s = ({ s with agenda := r } : State).perform exec a := by
  simp [step, State.advance, h]

theorem step_idle {s : State} (h : s.agenda = []) (ho : s.ownActs = []) : step s = .next s := by
  simp [step, State.advance, h, ho]

theorem step_own {s : State} {a : Act} (h : s.agenda = []) (ha : s.ownActs[s.turn % s.ownActs.length]? = some a) :
    step s = ({ s with turn := s.turn + 1 } : State).perform exec a := by
  have some_act : s.ownActs ≠ [] := by
    intro e
    simp [e] at ha
  have turn : max 1 s.ownActs.length = s.ownActs.length := Nat.max_eq_right (List.length_pos_iff.mpr some_act)
  simp only [step, State.advance, h, turn, ha]

/-- Settles O55: a step performs the head of the agenda or the row whose turn it is, and what an act runs goes by its kind. -/
theorem stepRunsTheDecodedInstruction : Obligations.StepRunsTheDecodedInstruction := by
  intro s runs
  have performs (s0 : State) (a : Act) : runs s0 a (s0.perform exec a) := by
    exact ⟨perform_down, fun hr => ⟨perform_event hr, fun hk => ⟨perform_foundError hr hk, fun hn => ⟨fun _ _ => perform_solo hr hk hn, perform_bundle hr hk hn⟩⟩,
      fun hk => ⟨perform_idleUnit hr hk, fun _ h => ⟨perform_callFinds hr hk h, fun h3 h4 => ⟨fun _ => perform_nextUop hr hk h h3 h4, perform_callEnd hr hk h h3 h4⟩⟩⟩⟩⟩
  refine ⟨fun a r h => ?_, fun h => ⟨fun ho => ?_, fun a ha => ?_⟩, fun sid len w s' hc hf => ⟨fun sl i h => ?_, fun h => ?_⟩⟩
  · rw [step_agenda h]
    exact performs _ a
  · exact step_idle h ho
  · rw [step_own h ha]
    exact performs _ a
  · rw [soloOp_fetched hc hf, soloView_of_one h]
  · rw [soloOp_fetched hc hf, soloView_none h]

/-! ## The state after reset -/

/-- A key that no pair has reads as the default. -/
theorem mget_of_forall_ne {α : Type} (d : α) (m : AMap α) (k : Nat) (h : ∀ p ∈ m, p.1 ≠ k) : mget d m k = d := by
  induction m with
  | nil => rfl
  | cons p m ih =>
    have hp : k ≠ p.1 := (h p (by simp)).symm
    have rest : mget d m k = d := ih fun q hq => h q (by simp [hq])
    simp only [mget, if_neg hp, rest, ite_self]

/-- The mill strands that have started, each with the registers of a fresh core (R285). -/
theorem reset_strand {d : Nat} (h : d < 4) : State.reset.strand (384 * d) = { Strand.mill 0 with st := .running } := by
  interval_cases d <;> rfl

theorem reset_core {d : Nat} (h : d < 4) : State.reset.core (384 * d) = {} := by
  rw [State.core, reset_strand h]
  rfl

theorem reset_selected {d : Nat} (h : d < 4) : (State.reset.spindle (96 * d)).running = some 0 := by
  interval_cases d <;> rfl

theorem reset_millCluster {d : Nat} (h : d < 4) : State.reset.cluster (12 * d) = Cluster.mill := by
  interval_cases d <;> rfl

theorem mill_bank {b : Nat} (h : b < 2) : (Cluster.mill.bank b).owner = .mill ∧ (Cluster.mill.bank b).mode = .scratch := by
  interval_cases b <;> exact ⟨rfl, rfl⟩

/-- The slots that the reset state lists are those of the mill spindles (R9). -/
theorem reset_strand_free {sid : Nat} (h : sid / 4 % 96 ≠ 0) : (State.reset.strand sid).st = .free := by
  have listed : ∀ p ∈ State.reset.strands, p.1 / 4 % 96 = 0 := by decide
  have unlisted : State.reset.strand sid = {} := mget_of_forall_ne _ _ _ fun p hp e => h (e ▸ listed p hp)
  rw [unlisted]

/-- Every cluster's scratchpad is empty. -/
theorem reset_bytes (cl : Nat) : (State.reset.cluster cl).bytes = [] := by
  simp only [State.cluster, State.reset, mget]
  repeat' split
  all_goals rfl

/-- No sector is live after reset, and no cache holds a line: each passes its check and reads zero (R399). -/
theorem reset_hbmRead (a key n : Nat) : State.reset.hbmRead a key n = .ok (List.replicate n 0) := by
  have read : State.reset.hbmRead a key n = .ok (getBytes State.reset.hbm a n) :=
    hbmRead_ok (fun k _ => rfl) fun k _ => rfl
  have zero : getBytes State.reset.hbm a n = List.replicate n 0 := by
    simp [getBytes, State.reset, mget]
  rw [read, zero]

/-- Settles O54. -/
theorem resetState : Obligations.ResetState := by
  refine ⟨fun d hd => ?_, fun sid => reset_strand_free, fun q => rfl, fun m => ⟨rfl, rfl⟩, reset_hbmRead, fun cl a => ?_, fun k => rfl, rfl, rfl, rfl, rfl, rfl, rfl,
    fun k => ?_⟩
  · rw [reset_strand hd, reset_core hd, reset_millCluster hd]
    refine ⟨rfl, reset_selected hd, rfl, rfl, rfl, rfl, rfl, rfl, rfl, rfl, rfl, fun r h0 _ => ?_, fun r _ => ?_, fun b hb => mill_bank hb⟩
    · simp [Core.rp, mget, Nat.pos_iff_ne_zero.mp h0]
    · simp [Core.rx, mget]
  · rw [reset_bytes]
    rfl
  · rw [reset_bytes]
    rfl

end Sys2Proof.Proofs
end

section
/-! PROOFS. An instruction alone in its bundle that acts on the units it asks, or that blocks before issue, in a strand with nothing pending (R25, R73, R215, R337,
R339). -/

namespace Sys2Proof.Proofs

open Sys2Proof Sys2Proof.Machine Sys2Proof.Laws

/-! ## The region of a strand (R337, R339) -/

/-- What a strand's region holds is the same in `t'` as in `t`. -/
structure SameRegion (t t' : Strand) : Prop where
  undo : t'.undo = t.undo
  stores : t'.stores = t.stores
  nBund : t'.nBund = t.nBund
  reelAt : t'.reelAt = t.reelAt
  core : t'.core = t.core
  ckpt : t'.ckpt = t.ckpt

theorem SameRegion.of_eq {t t' : Strand} (h : t' = t) : SameRegion t t' := by
  subst h
  exact ⟨rfl, rfl, rfl, rfl, rfl, rfl⟩

theorem SameRegion.forced_eq {t t' : Strand} (h : SameRegion t t') (c : Core) (fxs : List Fx) : t'.forced c fxs = t.forced c fxs := by
  simp only [Strand.forced, Strand.newFrames, h.undo, h.stores, h.nBund, h.reelAt, h.core, h.ckpt]
  rfl

/-- A settled region is not forced to commit by an operation that writes no v register and withholds no store. -/
theorem not_forced_of_settled {s : State} {i : Instr} (q : Settled s i) {c : Core} {fx : Fx} (hc : c.reel = (s.core s.focus).reel) (hv : vWrites [fx] = [])
    (hst : fx.stores = []) : (s.strand s.focus).forced c [fx] = false := by
  have frames : (s.strand s.focus).newFrames c = 0 := (newFrames_reel _ hc).trans q.frames
  have undo : (s.strand s.focus).undo.dedup.length < 64 := Nat.lt_of_le_of_lt (dedup_length_le _) q.undo
  have bundles := q.bundles
  simp only [Strand.forced, hv, hst, q.stores, frames, List.append_nil, List.flatMap_cons, List.flatMap_nil, List.dedup_nil, List.length_nil, Bool.or_eq_false_iff,
    decide_eq_false_iff_not]
  omega

section
variable {s s' : State} {i : Instr} {len : Nat}

theorem base_plain (hck : ckptOp i = false) : s.base i s' = s' := by simp [State.base, hck]

/-- The strand in focus as the fetch leaves it. -/
theorem ready_core (q : Ready s i s' len) : s'.core s.focus = s.core s.focus := by
  unfold State.core
  rw [ready_strand q]

theorem ready_spindle (q : Ready s i s' len) (g : Nat) : s'.spindle g = s.spindle g := by
  obtain ⟨_, _, _, _, _, _, _, rfl⟩ := alone_frame q.alone
  rfl

/-- An instruction alone that is no checkpoint takes the effect that it presents (R25). -/
theorem acts_of_ok (q : Ready s i s' len) (hx : exec i s = s.issueAlone i (fxOf i)) (hck : ckptOp i = false) {fx : Fx}
    (h : fxOf i (s.aloneEnv s' s' i len) = .ok fx) (hv : vWrites [fx] = []) (hn : fx.writes.length ≤ 64) (hst : fx.stores = []) (hw : fx.waits = [])
    (hk : ∀ u : State, SameRegion (u.strand s.focus) ((fx.early u).strand s.focus)) : Acts s i s' len fx := by
  unfold Acts
  rw [hx, base_plain hck, hck]
  refine issueAlone_ok q.alone ⟨?_, hw, ?_, ?_⟩ h
  · simp [Pres.ckpt, State.alonePres, q.settled.noCkpt, q.settled.noEnd, hck]
  · rw [(hk _).forced_eq]
    have same : ((s'.updCore s.focus fun _ => s'.core s.focus).strand s.focus) = s.strand s.focus := by
      rw [updCore_eq, setStrand_strand, if_pos rfl, ← ready_strand q]
      rfl
    rw [same]
    exact not_forced_of_settled q.settled (by rw [ready_core q]; rfl) hv hst
  · have flights : (flightsOf fx.writes).length ≤ fx.writes.length := List.length_filterMap_le _ _
    rw [ready_core q, q.settled.flight, List.length_nil]
    omega

/-! ## Blocks before issue (R25) -/

/-- The state in which a region without stores has committed. -/
def committedAt (s : State) (sid : Nat) : State :=
  s.updStrand sid fun t => { t with nBund := 0, undo := [], stores := [], heldCopies := [], reelAt := none }

theorem commitRegion_empty {s : State} {sid : Nat} (hs : (s.strand sid).stores = []) (hh : (s.strand sid).heldCopies = []) :
    s.commitRegion sid = .ok (committedAt s sid) := by
  simp only [State.commitRegion, hs, State.resolveStores, State.resolveFrom, State.commitStores, List.dropWhile_nil, List.takeWhile_nil, List.filter_nil, List.append_nil,
    List.map_nil, List.foldl_nil, List.nil_append, hh]
  rfl

/-- A spindle whose slot stops running sleeps and steps as before. -/
theorem blockOn_spindle (s : State) (sid : Nat) (ws : List Wait) (after firm : Bool) :
    ((s.blockOn sid ws after firm).spindle (gnumOf sid)).asleep = (s.spindle (gnumOf sid)).asleep
      ∧ ((s.blockOn sid ws after firm).spindle (gnumOf sid)).stepSlot = (s.spindle (gnumOf sid)).stepSlot := by
  simp [State.blockOn, State.stopRunning]

/-- An operation that blocks, however often it is presented, blocks its strand (R25). -/
theorem blocks_of_block (q : Ready s i s' len) (hx : exec i s = s.issueAlone i (fxOf i)) {ws : List Wait} {act0 act : State → State}
    (h0 : fxOf i (s.aloneEnv s' s' i len) = .block ws act0) (h1 : fxOf i (s.aloneEnv s' (committedAt s' s.focus) i len) = .block ws act)
    (hact : ∀ u : State, (act u).spindles = u.spindles) : Blocks s i s' ws act := by
  unfold Blocks
  have hev0 := evalSlots_block s' (s'.core s.focus).fmtStep s.focus (s.alonePres i len) { slot := (aloneSlot i s.frame.second).1, i := i, fx := fxOf i } ws act0
    q.alone.level h0
  have hev := evalSlots_block (committedAt s' s.focus) (s'.core s.focus).fmtStep s.focus (s.alonePres i len)
    { slot := (aloneSlot i s.frame.second).1, i := i, fx := fxOf i } ws act q.alone.level h1
  have stores : (s'.strand s.focus).stores = [] := by rw [ready_strand q, q.settled.stores]
  have commit : s'.commitRegion s.focus = .ok (committedAt s' s.focus) :=
    commitRegion_empty stores (by rw [ready_strand q, q.settled.copies])
  have hport := alone_port q.alone
  rw [hx, issueAlone_present q.alone]
  unfold State.presentOk
  rw [hport]
  simp only [State.alonePres] at hev0 hev ⊢
  simp only [hev0, firstTrap, lowestTrap, List.foldl_cons, List.foldl_nil, anyBlock, List.any_cons, List.any_nil, Bool.or_false, Bool.true_or, if_true, commit, stores,
    Bool.false_eq_true, if_false, hev, State.blockAll, List.flatMap_cons, List.flatMap_nil, List.append_nil]
  have spindle : (act (committedAt s' s.focus)).spindle (gnumOf s.focus) = s.spindle (gnumOf s.focus) := by
    rw [State.spindle, hact]
    exact ready_spindle q _
  obtain ⟨asleep, stepSlot⟩ := blockOn_spindle (act (committedAt s' s.focus)) s.focus ws false false
  have awake : (((act (committedAt s' s.focus)).blockOn s.focus ws false false).spindle (gnumOf s.focus)).asleep = false := by
    rw [asleep, spindle]
    exact canIssue_awake q.alone.may
  rw [stepStop_none]
  · rfl
  · rw [rest_spindle (cycle_rest _ _ awake).1, stepSlot, spindle]
    exact q.settled.step

end

end Sys2Proof.Proofs
end

section
/-! PROOFS. The whorl requests of the L slots (R45 to R50, R213, R234, R235, R237). -/

namespace Sys2Proof.Proofs

open Sys2Proof Sys2Proof.Machine Sys2Proof.Laws

/-! ## What a request reads (R212, R213) -/

theorem bitOf_toNat {n : Nat} (x : BitVec n) (i : Nat) : bitOf x.toNat i = x.getLsbD i := by
  rw [bitOf, BitVec.getLsbD, Nat.testBit_eq_decide_div_mod_eq]
  rfl

theorem setWidth_toNat {n : Nat} (k : Nat) (x : BitVec n) : (x.setWidth k).toNat = x.toNat % 2 ^ k := BitVec.toNat_setWidth k x

section
variable {s s' s1 : State} {i : Instr} {len : Nat} {f : LF}

theorem ready_rx (q : Ready s i s' len) (r : Nat) : (s.aloneEnv s' s1 i len).rx r = (s.me.rx r).toNat := aloneEnv_rd q.alone q.settled .x r

theorem ready_guardBit (q : Ready s i s' len) : (s.aloneEnv s' s1 i len).guardBit f.g 0 = s.guardOn f := by
  rw [Env.guardBit, Env.rp, aloneEnv_rd q.alone q.settled .p]
  exact bitOf_toNat _ _

theorem sext_toNat (o : BitVec 16) : sext 16 o.toNat = o.toInt := by
  have lt := o.isLt
  rw [sext, BitVec.toInt_eq_toNat_cond, Nat.mod_eq_of_lt lt]
  split <;> split <;> omega

/-- The effective address of R212, as integers and as 64-bit words. -/
theorem toBits_sext (x : Word) (o : BitVec 16) : toBits 64 ((x.toNat : Int) + sext 16 o.toNat) = (x + o.signExtend 64).toNat := by
  rw [sext_toNat, BitVec.signExtend, BitVec.toNat_add, BitVec.toNat_ofInt, toBits]
  omega

theorem ready_ea (q : Ready s i s' len) : (s.aloneEnv s' s1 i len).ea f = s.eaOf f := by
  rw [Env.ea, ready_rx q]
  exact toBits_sext _ _

/-- A request of a mill strand, whatever its guard (R213, R286). -/
theorem whorlReq_mill (hm : isMill s.focus = true) (k : Group → Verdict) :
    (s.aloneEnv s' s1 i len).whorlReq f k = (s.aloneEnv s' s1 i len).trap cIllegal := if_pos hm

/-- A request of a tenant strand whose guard is on goes to its group. -/
theorem whorlReq_live (q : Ready s i s' len) (hm : isMill s.focus = false) (hg : s.guardOn f = true) {g : Group}
    (h : s1.group (s1.mcxOf s.focus) = some g) (k : Group → Verdict) : (s.aloneEnv s' s1 i len).whorlReq f k = k g := by
  have tenant : ¬ (s.aloneEnv s' s1 i len).mill = true := by
    show ¬ isMill s.focus = true
    simp [hm]
  have guard : (s.aloneEnv s' s1 i len).guardBit f.g 0 = true := by rw [ready_guardBit q, hg]
  have group : (s.aloneEnv s' s1 i len).now.group (s.aloneEnv s' s1 i len).mcx = some g := h
  unfold Env.whorlReq Env.tenantOnly Env.guarded
  rw [if_neg tenant, if_pos guard, group]

theorem ready_group (q : Ready s i s' len) (m : Nat) : s'.group m = s.group m := by
  obtain ⟨_, _, _, _, _, _, _, rfl⟩ := alone_frame q.alone
  rfl

theorem ready_hw (q : Ready s i s' len) (m k : Nat) : s'.hw m k = s.hw m k := by
  obtain ⟨_, _, _, _, _, _, _, rfl⟩ := alone_frame q.alone
  rfl

theorem ready_mcx (q : Ready s i s' len) : s'.mcxOf s.focus = s.mcxOf s.focus := by
  unfold State.mcxOf
  rw [ready_strand q]

theorem whorlReq_now (q : Ready s i s' len) (hm : isMill s.focus = false) (hg : s.guardOn f = true) {g : Group}
    (h : s.group (s.mcxOf s.focus) = some g) (k : Group → Verdict) : (s.aloneEnv s' s' i len).whorlReq f k = k g :=
  whorlReq_live q hm hg (by rw [ready_mcx q, ready_group q, h]) k

end

/-! ## The rows -/

/-- An instruction that asks the whorl under the guard of `f`: it is executed alone in its bundle, and is no checkpoint. -/
structure WhorlRow (i : Instr) (f : LF) : Prop where
  alone : ∀ s, exec i s = s.issueAlone i (fxOf i)
  plain : ckptOp i = false
  asks : ∃ k : Env → Group → Verdict, fxOf i = fun e => e.whorlReq f (k e)

theorem whorlRow_of_mem {f : LF} {i : Instr}
    (h : i ∈ [Instr.spawn f, .spawnSc f, .rangenext f, .scopenew f, .skjoin f, .skleave f, .skbar f, .cancel f, .cwait f]) : WhorlRow i f := by
  simp only [List.mem_cons, List.not_mem_nil, or_false] at h
  obtain rfl | rfl | rfl | rfl | rfl | rfl | rfl | rfl | rfl := h <;> exact ⟨fun _ => rfl, rfl, _, rfl⟩

/-- Without a tile group every request traps ILLEGAL (R213, R286). -/
theorem WhorlRow.traps_mill {s s' : State} {i : Instr} {len : Nat} {f : LF} (r : WhorlRow i f) (hm : isMill s.focus = true) (a : Alone s i s' len) :
    Traps s i s' cIllegal := by
  obtain ⟨k, hk⟩ := r.asks
  refine traps (r.alone s) a ?_
  rw [hk]
  exact whorlReq_mill hm _

section
variable {s s' : State} {i : Instr} {len : Nat} {f : LF} {g : Group}

/-- A request that presents an effect on its group alone takes it. -/
theorem WhorlRow.acts (r : WhorlRow i f) (q : Ready s i s' len) {fx : Fx} (h : fxOf i (s.aloneEnv s' s' i len) = .ok fx) (hv : vWrites [fx] = [])
    (hn : fx.writes.length ≤ 64) (hst : fx.stores = []) (hw : fx.waits = []) (hk : ∀ u : State, (fx.early u).strands = u.strands) : Acts s i s' len fx :=
  acts_of_ok q (r.alone s) r.plain h hv hn hst hw fun u => .of_eq (by rw [State.strand, hk]; rfl)

/-! ## SPAWN (R45, R50, R234) -/

/-- The task that a SPAWN of a node makes. -/
def spawned (s s' : State) (f : LF) (scope : Nat) : Task :=
  let ws := s'.nodeWords (s.mcxOf s.focus) (f.off.setWidth 12).toNat
  { nodeTask (f.off.setWidth 12).toNat (s.strand s.focus).act 0 scope ws ([s.me.rx f.xbase.toNat, s.me.rx (f.xbase.toNat + 1)] ++ ws.drop 5) with dyn := true }

/-- What a SPAWN that is not refused by its node presents. -/
def spawnFx (s s' : State) (f : LF) (g : Group) (scope : Nat) : Fx :=
  let st := g.spawnStatus (s.strand s.focus).scope scope g.dynRoom
  { writes := [wr .x (f.reg.setWidth 6).toNat st 32]
    early := fun u => u.updGroup (s.mcxOf s.focus) fun g =>
      if st ≠ 0 then g.countUp scope fun x => { x with refused := x.refused + 1 } else g.addTask (spawned s s' f scope) }

theorem ready_t (q : Ready s i s' len) : (s.aloneEnv s' s' i len).t = s.strand s.focus := ready_strand q s.focus

theorem ready_emcx (q : Ready s i s' len) : (s.aloneEnv s' s' i len).mcx = s.mcxOf s.focus := ready_mcx q

/-- The node that SPAWN names is no dynamic node. -/
def SpawnBad (s s' : State) (f : LF) : Prop :=
  s.hw (s.mcxOf s.focus) 10 / 2 ^ 48 % 2 ^ 12 < (f.off.setWidth 12).toNat
    ∨ nodeKind ((s'.nodeWords (s.mcxOf s.focus) (f.off.setWidth 12).toNat).headD 0).toNat ≠ 1

theorem spawn_bad_iff (q : Ready s i s' len) :
    (decide (bitsOf ((s.aloneEnv s' s' i len).s.hw (s.aloneEnv s' s' i len).mcx 10) 59 48 < f.off.toNat % 2 ^ 12)
      || decide (nodeKind (((s.aloneEnv s' s' i len).s.nodeWords (s.aloneEnv s' s' i len).mcx (f.off.toNat % 2 ^ 12)).headD 0).toNat ≠ 1)) = true
      ↔ SpawnBad s s' f := by
  have hw : (s.aloneEnv s' s' i len).s.hw (s.mcxOf s.focus) 10 = s.hw (s.mcxOf s.focus) 10 := ready_hw q _ _
  rw [ready_emcx q, hw, Bool.or_eq_true, decide_eq_true_eq, decide_eq_true_eq, SpawnBad, setWidth_toNat]
  rfl

theorem spawn_traps (q : Ready s i s' len) (scope : Nat) (hb : SpawnBad s s' f) :
    (s.aloneEnv s' s' i len).spawn f g scope = (s.aloneEnv s' s' i len).trap cIllegal :=
  if_pos ((spawn_bad_iff q).mpr hb)

theorem spawn_ok (q : Ready s i s' len) (hg : s.group (s.mcxOf s.focus) = some g) (scope : Nat) (hb : ¬ SpawnBad s s' f) :
    (s.aloneEnv s' s' i len).spawn f g scope = .ok (spawnFx s s' f g scope) := by
  have group : (s.aloneEnv s' s' i len).s.group (s.mcxOf s.focus) = some g := (ready_group q _).trans hg
  have fx : (s.aloneEnv s' s' i len).spawn f g scope = .ok _ := if_neg fun h => hb ((spawn_bad_iff q).mp h)
  rw [fx]
  simp only [ready_emcx q, ready_t q, ready_rx q, BitVec.ofNat_toNat, BitVec.setWidth_eq, group, Option.getD_some, spawnFx, spawned, setWidth_toNat]
  rfl

/-! ## SCOPENEW (R47, R237) and RANGENEXT (R46, R235) -/

/-- What SCOPENEW presents. -/
def scopenewFx (s : State) (f : LF) (g : Group) : Fx :=
  let own := (s.strand s.focus).scope
  let k := g.newScope own
  let d := match g.scope own with | some x => x.depth | none => 0
  { writes := [wr .x (f.reg.setWidth 6).toNat k 32]
    early := fun u => if k = 0 then u
      else u.updGroup (s.mcxOf s.focus) fun g => g.setScope k (some { parent := own, depth := d + 1, creator := some s.focus }) }

theorem scopenew_ok (q : Ready s (.scopenew f) s' len) (hm : isMill s.focus = false) (hgu : s.guardOn f = true) (hg : s.group (s.mcxOf s.focus) = some g) :
    fxOf (.scopenew f) (s.aloneEnv s' s' (.scopenew f) len) = .ok (scopenewFx s f g) := by
  have live : fxOf (.scopenew f) (s.aloneEnv s' s' (.scopenew f) len) = _ := whorlReq_now q hm hgu hg _
  rw [live]
  simp only [ready_emcx q, ready_t q] <;> rfl

/-- What RANGENEXT presents to a task of a RANGE activation. -/
def rangenextFx (s : State) (f : LF) (x : Activation) : Fx :=
  let r := (f.reg.setWidth 6).toNat
  let chunk := (x.next s.focus).2.getD (x.fin, x.fin)
  { writes := [wr .x r chunk.1 32, wr .x (r + 1) chunk.2 32]
    early := fun u => u.updGroup (s.mcxOf s.focus) fun g => g.setAct (s.strand s.focus).act (some (x.next s.focus).1) }

theorem rangenext_traps (q : Ready s (.rangenext f) s' len) (hm : isMill s.focus = false) (hgu : s.guardOn f = true) (hg : s.group (s.mcxOf s.focus) = some g)
    {x : Activation} (hx : g.act (s.strand s.focus).act = some x) (hb : (s.strand s.focus).dyn = true ∨ nodeKind (x.words.headD 0).toNat ≠ 6) :
    fxOf (.rangenext f) (s.aloneEnv s' s' (.rangenext f) len) = (s.aloneEnv s' s' (.rangenext f) len).trap cIllegal := by
  have live : fxOf (.rangenext f) (s.aloneEnv s' s' (.rangenext f) len) = _ := whorlReq_now q hm hgu hg _
  rw [live]
  simp only [ready_t q, hx]
  exact if_pos (by simpa using hb)

theorem rangenext_ok (q : Ready s (.rangenext f) s' len) (hm : isMill s.focus = false) (hgu : s.guardOn f = true) (hg : s.group (s.mcxOf s.focus) = some g)
    {x : Activation} (hx : g.act (s.strand s.focus).act = some x) (hd : (s.strand s.focus).dyn = false) (hk : nodeKind (x.words.headD 0).toNat = 6) :
    fxOf (.rangenext f) (s.aloneEnv s' s' (.rangenext f) len) = .ok (rangenextFx s f x) := by
  have live : fxOf (.rangenext f) (s.aloneEnv s' s' (.rangenext f) len) = _ := whorlReq_now q hm hgu hg _
  rw [live]
  simp only [ready_emcx q, ready_t q, hx, hd, hk, rangenextFx, setWidth_toNat]
  rfl

end

/-! ## The queue of dynamic tasks and the ranges (R45, R46, R50) -/

theorem addTask_open {h : Group} {t : Task} {y : Scope} (hs : h.scope t.scope = some y) (ho : y.st ≠ .cancelling) :
    (h.addTask t).ready = h.ready ++ [t] ∧ ∀ x, h.act t.act = some x → (h.addTask t).act t.act = some { x with live := x.live + 1 } := by
  simp only [Group.addTask, hs, if_neg ho]
  refine ⟨?_, fun x hx => ?_⟩
  · cases h.act t.act <;> rfl
  · simp only [hx]
    exact mget_mset_self _ _ _ _

theorem spawnStatus_ended {h : Group} (he : h.ended.isSome = true) (own scope room : Nat) : h.spawnStatus own scope room = 3 := if_pos he

section
variable {h : Group} {own scope room : Nat} (he : h.ended = none)
include he

theorem spawnStatus_noScope (hs : h.scope scope = none) : h.spawnStatus own scope room = 2 := by
  simp [Group.spawnStatus, he, hs]

theorem spawnStatus_refused {y : Scope} (hs : h.scope scope = some y) (hr : y.st = .cancelling ∨ h.inTree own scope = false) :
    h.spawnStatus own scope room = 2 := by
  have refused : (decide (y.st = .cancelling) || !h.inTree own scope) = true := by simpa using hr
  simp only [Group.spawnStatus, he, hs, refused]
  rfl

theorem spawnStatus_room {y : Scope} (hs : h.scope scope = some y) (ho : y.st ≠ .cancelling) (ht : h.inTree own scope = true) :
    h.spawnStatus own scope room = if room = 0 then 1 else 0 := by
  simp [Group.spawnStatus, he, hs, ho, ht]

end

/-- A task that has a range takes its next chunk from it (R46). -/
theorem next_chunk {x : Activation} {sid lo hi : Nat} (hr : mget none x.ranges sid = some (lo, hi)) (hlt : lo < hi) :
    (x.next sid).2 = some (lo, min (lo + max 1 x.grain) hi) := by
  have grain : max 1 x.grain = x.grain := Nat.max_eq_right (Nat.le_max_left _ _)
  have chunk : lo + min x.grain (hi - lo) = min (lo + max 1 x.grain) hi := by omega
  simp only [Activation.next, hr, Option.getD_some, if_pos hlt, chunk]

/-- Settles O32: each request presents its effect on the group, or its trap. -/
theorem whorlRequests : Obligations.WhorlRequests := by
  refine ⟨fun s s' len f i hm hi a => (whorlRow_of_mem hi).traps_mill hm a, fun s s' len f g hm hgu hg => ⟨fun i scope hi q => ?_, fun h t y hs ho => addTask_open hs ho,
    fun h own scope room => ⟨fun he => spawnStatus_ended he own scope room, fun he hs => spawnStatus_noScope he hs, fun y he hs =>
      ⟨fun hr => spawnStatus_refused he hs hr, fun ho ht => spawnStatus_room he hs ho ht⟩⟩, fun q => ?_, fun x hx q => ?_, fun x lo hi hr hlt => next_chunk hr hlt⟩⟩
  · have row : WhorlRow i f ∧ fxOf i (s.aloneEnv s' s' i len) = (s.aloneEnv s' s' i len).spawn f g scope := by
      simp only [List.mem_cons, List.not_mem_nil, or_false, Prod.mk.injEq] at hi
      obtain ⟨rfl, rfl⟩ | ⟨rfl, rfl⟩ := hi
      · exact ⟨whorlRow_of_mem (by simp), (whorlReq_now q hm hgu hg _).trans (by rw [ready_t q])⟩
      · exact ⟨whorlRow_of_mem (by simp), (whorlReq_now q hm hgu hg _).trans (by rw [ready_rx q])⟩
    obtain ⟨row, fx⟩ := row
    refine ⟨fun hb => traps (row.alone s) q.alone (fx.trans (spawn_traps q scope hb)), fun hn hk => ?_⟩
    exact row.acts q (fx.trans (spawn_ok q hg scope (by rintro (hb | hb) <;> omega))) rfl (by simp) rfl rfl fun u => rfl
  · have row : WhorlRow (.scopenew f) f := whorlRow_of_mem (by simp)
    refine row.acts q (scopenew_ok q hm hgu hg) rfl (by simp) rfl rfl fun u => ?_
    dsimp only [scopenewFx]
    split <;> rfl
  · have row : WhorlRow (.rangenext f) f := whorlRow_of_mem (by simp)
    refine ⟨fun hb => traps (row.alone s) q.alone (rangenext_traps q hm hgu hg hx hb), fun hd hk => ?_⟩
    exact row.acts q (rangenext_ok q hm hgu hg hx hd hk) rfl (by simp) rfl rfl fun u => rfl

end Sys2Proof.Proofs
end

section
/-! PROOFS. What the whorl, the fault entries, the messages and the error log leave as it was: every strand. -/

namespace Sys2Proof.Proofs

open Sys2Proof Sys2Proof.Machine Sys2Proof.Laws

/-! ## Counts, fills and writes of memory -/

theorem foldl_strands {α : Type} {f : State → α → State} (h : ∀ s x, (f s x).strands = s.strands) (l : List α) (s : State) : (l.foldl f s).strands = s.strands := by
  induction l generalizing s with
  | nil => rfl
  | cons x l ih => rw [List.foldl_cons, ih, h]

theorem fill_strands {s t : State} (h : FillSame s t) : t.strands = s.strands := by
  obtain ⟨_, _, _, _, _, _, _, rfl⟩ := h
  rfl

section
variable (s : State)

@[simp] theorem lea_strands (m k n : Nat) : (s.lea m k n).strands = s.strands := (lea_calm s m k n).strands
@[simp] theorem countEv_strands (p e n : Nat) : (s.countEv p e n).strands = s.strands := (countEv_calm s p e n).strands
@[simp] theorem chargeSectors_strands (p : Nat) (m : Option Nat) (a n : Nat) (c : AccKind) : (s.chargeSectors p m a n c).strands = s.strands :=
  fill_strands (chargeSectors_fill s p m a n c)
@[simp] theorem chargeCtx_strands (cl : Option Nat) (m : Nat) (pl : Place) (n : Nat) (c : AccKind) : (s.chargeCtx cl m pl n c).strands = s.strands :=
  fill_strands (chargeCtx_fill s cl m pl n c)
@[simp] theorem chargeWalk_strands (m ea : Nat) : (s.chargeWalk m ea).strands = s.strands := fill_strands (chargeWalk_fill s m ea)
@[simp] theorem chargeAt_strands (cl : Option Nat) (m ea n : Nat) (c : AccClass) : (s.chargeAt cl m ea n c).strands = s.strands :=
  fill_strands (chargeAt_fill s cl m ea n c)

@[simp] theorem charge_strands (sid : Nat) (pl : Place) (n : Nat) (c : AccKind) : (s.charge sid pl n c).strands = s.strands := by
  unfold State.charge
  split
  · split <;> simp
  · simp

@[simp] theorem forgetLines_strands (l n : Nat) : (s.forgetLines l n).strands = s.strands := rfl
@[simp] theorem physPut_strands (pa : Nat) (bs : List Byte) : (s.physPut pa bs).strands = s.strands := by
  simp only [State.physPut, setSect_strands, forgetLines_strands]
@[simp] theorem physWrite_strands (pa : Nat) (bs : List Byte) : (s.physWrite pa bs).strands = s.strands := by
  unfold State.physWrite
  generalize cutAt pa bs = l
  refine foldl_strands ?_ l s
  intro s p
  exact physPut_strands s p.1 p.2

variable {s} in
theorem writeLoc_strands {t : State} {l : Loc} {bs : List Byte} (h : s.writeLoc l bs = .ok t) : t.strands = s.strands := by
  unfold State.writeLoc at h
  dsimp only at h
  split at h
  · split at h
    · cases h
    · cases h; rfl
  · obtain ⟨_, _, rfl⟩ := (hbmWrite_ok h).rest
    rfl
  · cases h
    exact physWrite_strands _ _ _
  · cases h; rfl
  · cases h; rfl

variable {s} in
theorem place_fill {sid ea : Nat} {c : AccClass} {pl : Place} {t : State} (h : s.place sid ea c = .ok (pl, t)) : FillSame s t := by
  unfold State.place at h
  split at h
  · cases hp : millPlace ea with
    | error e => simp [hp, Except.map] at h
    | ok p =>
      simp only [hp, Except.map, Except.ok.injEq, Prod.mk.injEq] at h
      rw [← h.2]
      exact .refl s
  · exact ctxPlace_frame h

@[simp] theorem touch_strands (sid ea : Nat) (c : AccClass) : (s.touch sid ea c).strands = s.strands := by
  unfold State.touch
  split
  next h => exact fill_strands (place_fill h)
  next => rfl

/-! ## The error log, messages and telemetry -/

@[simp] theorem setEv_strands (d : Nat) (b : BitVec 13) : (s.setEv d b).strands = s.strands := rfl

@[simp] theorem logError_strands (d kind unit : Nat) (m : Option Nat) (part addr who cause : Nat) :
    (s.logError d kind unit m part addr who cause).strands = s.strands := by
  simp only [State.logError, setEv_strands]
  split <;> simp

@[simp] theorem reachOut_strands (port dst : Nat) (m : Option Nat) (msg : List Byte) : (s.reachOut port dst m msg).strands = s.strands := by
  unfold State.reachOut
  dsimp only
  split
  · rfl
  · split <;> simp

@[simp] theorem reachRequest_strands (d : Nat) (q : ReachReq) (aop mask : Nat) (plain : Option (List Byte)) : (s.reachRequest d q aop mask plain).1.strands = s.strands := by
  simp only [State.reachRequest, State.reachSend, reachOut_strands]
  rfl

@[simp] theorem telemetryPut_strands (m sid i : Nat) (ws : List Nat) : (s.telemetryPut m sid i ws).strands = s.strands := by
  unfold State.telemetryPut
  dsimp only
  split
  · rfl
  · split
    · simp
    · split
      · rfl
      next h => rw [chargeCtx_strands, writeLoc_strands h]

@[simp] theorem telemetry_strands (m sid : Nat) (ws : List Nat) : (s.telemetry m sid ws).strands = s.strands := by
  unfold State.telemetry
  dsimp only
  split
  · rfl
  · split
    · rfl
    · split
      · simp
      · split
        · rfl
        · split
          · rfl
          next h => rw [telemetryPut_strands, chargeCtx_strands, writeLoc_strands h]

@[simp] theorem errorNotice_strands (m : Option Nat) (who cause ea : Nat) : (s.errorNotice m who cause ea).strands = s.strands := by
  unfold State.errorNotice
  split <;> simp

@[simp] theorem uncorrectable_strands (d : Nat) (m : Option Nat) (who cause : Nat) (err : MemErr) (l : Loc) (ea : Nat) :
    (s.uncorrectable d m who cause err l ea).strands = s.strands := by
  unfold State.uncorrectable
  dsimp only
  split
  · rfl
  · split <;> simp [State.poisonSect]

/-! ## Fault entries -/

@[simp] theorem withdraw_strands (d k : Nat) : (s.withdraw d k).strands = s.strands := rfl

@[simp] theorem addFault_strands (d m : Nat) (f : MemFault) (access who : Nat) (engine : Bool) : (s.addFault d m f access who engine).1.strands = s.strands := by
  unfold State.addFault
  dsimp only
  split
  · rw [countEv_strands]
    split <;> rfl
  · split <;> simp [State.fresh]

@[simp] theorem refetchFrame_strands (d line : Nat) : (s.refetchFrame d line).strands = s.strands := by
  unfold State.refetchFrame
  dsimp only
  split <;> rfl

/-! ## The whorl (R30 to R57) -/

@[simp] theorem taskGone_strands (m a : Nat) (sid : Option Nat) : (s.taskGone m a sid).strands = s.strands := by
  unfold State.taskGone
  split
  · rfl
  · split
    · rfl
    · dsimp only
      split <;> rfl

@[simp] theorem cancelScope_strands (m c : Nat) : (s.cancelScope m c).strands = s.strands := by
  unfold State.cancelScope
  split
  · rfl
  · exact foldl_strands (fun s a => taskGone_strands s m a none) _ _

@[simp] theorem endRequest_strands (m status : Nat) : (s.endRequest m status).strands = s.strands := by
  unfold State.endRequest
  split
  · rfl
  · dsimp only
    split
    · split <;> simp
    · rfl

@[simp] theorem whorlUe_strands (m : Nat) (f : MemFault) : (s.whorlUe m f).strands = s.strands := by
  unfold State.whorlUe
  rw [endRequest_strands]
  split <;> simp

@[simp] theorem ackFault_strands (m : Nat) (a : Ack) (v : Nat) (f : MemFault) : (s.ackFault m a v f).strands = s.strands :=
  addFault_strands s (s.whorlDie m) m f 7 (s.whorlWho m) true

@[simp] theorem ackWrite_strands (m : Nat) (a : Ack) (v : Nat) : (s.ackWrite m a v).strands = s.strands := by
  unfold State.ackWrite
  split
  · simp
  · split
    next h => rw [chargeCtx_strands, writeLoc_strands h]
    · simp
    · simp

@[simp] theorem scopeSweep_strands (m : Nat) : (s.scopeSweep m).strands = s.strands := by
  unfold State.scopeSweep
  split
  · rfl
  · refine foldl_strands (fun s c => ?_) _ _
    split
    · rfl
    · split
      · rfl
      · split
        · rfl
        · split
          next x _ _ _ =>
            have acks := foldl_strands (fun s a => ackWrite_strands s m a (ackWord a.named x)) x.acks s
            dsimp only
            split <;> exact acks
          · split <;> rfl

@[simp] theorem nodeFault_strands (m node : Nat) (f : MemFault) : (s.nodeFault m node f).strands = s.strands := by
  unfold State.nodeFault
  dsimp only
  split
  · simp
  · split <;> simp

@[simp] theorem askCond_strands (m node home pa key ea : Nat) : (s.askCond m node home pa key ea).strands = s.strands := by
  simp [State.askCond]

@[simp] theorem condGoes_strands (m node : Nat) (b : Bool) : (s.condGoes m node b).strands = s.strands := rfl

@[simp] theorem updGroup_strands (m : Nat) (f : Group → Group) : (s.updGroup m f).strands = s.strands := rfl

@[simp] theorem fireNode_strands (m node : Nat) : (s.fireNode m node).strands = s.strands := by
  unfold State.fireNode
  split
  · rfl
  next g _ =>
    dsimp only
    split
    · simp
    · have charged := chargeAt_strands s (some g.primary) m (s.hw m 10 % 2 ^ 48 + 64 * node) 64 .fetch
      generalize s.chargeAt (some g.primary) m (s.hw m 10 % 2 ^ 48 + 64 * node) 64 .fetch = s1 at charged ⊢
      rw [← charged]
      split
      case h_1 => exact updGroup_strands s1 m _
      case h_4 => exact foldl_strands (fun s i => updGroup_strands s m _) _ s1
      case h_5 => split <;> rfl
      case h_6 => split <;> rfl
      case h_7 => exact updGroup_strands s1 m _
      case h_8 => exact endRequest_strands s1 m _
      all_goals
        split
        · rw [condGoes_strands]
          split <;> simp
        all_goals simp

@[simp] theorem runReady_strands (m fuel : Nat) : (s.runReady m fuel).strands = s.strands := by
  induction fuel generalizing s with
  | zero => rfl
  | succ fuel ih =>
    unfold State.runReady
    split
    · rfl
    · split
      · rfl
      · split
        · rfl
        · split
          · rfl
          · rw [ih, fireNode_strands]
            rfl

@[simp] theorem whorl_strands (m : Nat) : (s.whorl m).strands = s.strands := by
  simp [State.whorl]

@[simp] theorem acceptCancel_strands (m : Nat) (a : Ack) : (s.acceptCancel m a).strands = s.strands := by
  unfold State.acceptCancel
  split
  · rfl
  · dsimp only
    split
    · rfl
    · rw [whorl_strands]
      split <;> split <;> simp

end

end Sys2Proof.Proofs
end

section
/-! PROOFS. Skeins and the words of cancellation (R32, R33, R51, R55, R236, R237). -/

namespace Sys2Proof.Proofs

open Sys2Proof Sys2Proof.Machine Sys2Proof.Laws

/-! ## What the skeins and the late faults leave of a strand (R33, R369) -/

/-- A strand with other marks of skeins, and another pending trap. -/
def Marked (t t' : Strand) : Prop := ∃ go pend e, t' = { t with skGo := go, skPend := pend, engTrap := e }

/-- Every strand is the same but for its marks. -/
def AllMarked (s u : State) : Prop := ∀ k, Marked (s.strand k) (u.strand k)

theorem Marked.refl (t : Strand) : Marked t t := ⟨_, _, _, rfl⟩

theorem Marked.trans {t t' t'' : Strand} (h : Marked t t') (h' : Marked t' t'') : Marked t t'' := by
  obtain ⟨_, _, _, rfl⟩ := h
  obtain ⟨_, _, _, rfl⟩ := h'
  exact ⟨_, _, _, rfl⟩

theorem Marked.region {t t' : Strand} (h : Marked t t') : SameRegion t t' := by
  obtain ⟨_, _, _, rfl⟩ := h
  exact ⟨rfl, rfl, rfl, rfl, rfl, rfl⟩

theorem AllMarked.refl (s : State) : AllMarked s s := fun _ => .refl _

theorem AllMarked.trans {s t u : State} (h : AllMarked s t) (h' : AllMarked t u) : AllMarked s u := fun k => (h k).trans (h' k)

theorem AllMarked.of_strands {s u : State} (h : u.strands = s.strands) : AllMarked s u := fun k => by
  rw [State.strand, State.strand, h]
  exact .refl _

theorem AllMarked.foldl {α : Type} {f : State → α → State} (h : ∀ s x, AllMarked s (f s x)) (l : List α) (s : State) : AllMarked s (l.foldl f s) := by
  induction l generalizing s with
  | nil => exact .refl s
  | cons x l ih => exact (h s x).trans (ih _)

theorem updStrand_marked (s : State) (sid : Nat) {f : Strand → Strand} (h : ∀ t, Marked t (f t)) : AllMarked s (s.updStrand sid f) := fun k => by
  rw [updStrand_eq, setStrand_strand]
  split
  next hk =>
    subst hk
    exact h _
  next => exact .refl _

section
variable (s : State) (m k sid : Nat)

theorem updSaved_strands (g : Group) (f : Strand → Strand) : (s.updSaved m g sid f).strands = s.strands := rfl

theorem woken_marked (t : Strand) : Marked t (t.woken k) := ⟨_, _, _, rfl⟩

theorem skeinWake_marked (g : Group) (sids : List Nat) : AllMarked s (s.skeinWake m g k sids) := by
  refine .foldl (fun s sid => ?_) sids s
  have saved : AllMarked s (if s.isSaved m then s.updSaved m g sid fun t => t.woken k else s) := by
    split
    · exact .of_strands (updSaved_strands s m sid g _)
    · exact .refl s
  dsimp only
  generalize (if s.isSaved m then s.updSaved m g sid fun t => t.woken k else s) = s1 at saved ⊢
  split
  · exact saved.trans (updStrand_marked s1 sid (woken_marked k))
  · exact saved

theorem skeinCheck_marked (fuel : Nat) : AllMarked s (s.skeinCheck m k fuel) := by
  induction fuel generalizing s with
  | zero => exact .refl s
  | succ fuel ih =>
    unfold State.skeinCheck
    split
    · exact .refl s
    · dsimp only
      split
      · exact .refl s
      · exact (AllMarked.of_strands (updGroup_strands s m _)).trans ((skeinWake_marked _ m k _ _).trans (ih _))

theorem skeinLeave_marked : AllMarked s (s.skeinLeave m k sid) :=
  (AllMarked.of_strands (updGroup_strands s m _)).trans (skeinCheck_marked _ m k 3)

theorem skeinJoin_marked : AllMarked s (s.skeinJoin m k sid) := .of_strands (updGroup_strands s m _)

theorem skeinLeaveAll_marked : AllMarked s (s.skeinLeaveAll m sid) := by
  unfold State.skeinLeaveAll
  split
  · exact .refl s
  · exact .foldl (fun s k => skeinLeave_marked s m k sid) _ s

/-! ## What the skeins leave of the spindles -/

theorem skeinWake_spindles (g : Group) (sids : List Nat) : (s.skeinWake m g k sids).spindles = s.spindles := by
  unfold State.skeinWake
  induction sids generalizing s with
  | nil => rfl
  | cons sid sids ih =>
    rw [List.foldl_cons, ih]
    split <;> split <;> rfl

theorem skeinCheck_spindles (fuel : Nat) : (s.skeinCheck m k fuel).spindles = s.spindles := by
  induction fuel generalizing s with
  | zero => rfl
  | succ fuel ih =>
    unfold State.skeinCheck
    split
    · rfl
    · dsimp only
      split
      · rfl
      · rw [ih, skeinWake_spindles]
        rfl

theorem skbarArrive_spindles : (s.skbarArrive m k sid).spindles = s.spindles := by
  unfold State.skbarArrive State.skeinArrive
  split
  · rfl
  · rw [skeinCheck_spindles]
    rfl

end

/-! ## The skein instructions (R32, R33, R236) -/

/-- The strand in focus asks in `s1` what it asks in `s`: of the same group, with the same skeins, and with the same remote requests pending. -/
structure AsksSame (s s1 : State) : Prop where
  mcx : s1.mcxOf s.focus = s.mcxOf s.focus
  group : ∀ m, s1.group m = s.group m
  gone : (s1.strand s.focus).skGo = (s.strand s.focus).skGo
  skeins : s1.skeinsOf s.focus = s.skeinsOf s.focus
  pending : s1.remotePending s.focus = s.remotePending s.focus

/-- What a region that has committed leaves of its strand. -/
theorem committedAt_strand (u : State) (sid : Nat) : (committedAt u sid).strand sid =
    { u.strand sid with nBund := 0, undo := [], stores := [], heldCopies := [], reelAt := none } := by
  rw [committedAt, updStrand_eq, setStrand_strand, if_pos rfl]

theorem committedAt_mcx (u : State) (sid : Nat) : (committedAt u sid).mcxOf sid = u.mcxOf sid := by
  rw [State.mcxOf, committedAt_strand]
  rfl

section
variable {s s' s1 : State} {i : Instr} {len : Nat} {f : LF} {g : Group}

theorem asksSame_ready (q : Ready s i s' len) : AsksSame s s' where
  mcx := ready_mcx q
  group := ready_group q
  gone := by rw [ready_strand q]
  skeins := by
    unfold State.skeinsOf
    rw [ready_mcx q, ready_group q]
  pending := by
    obtain ⟨_, _, _, _, _, _, _, rfl⟩ := alone_frame q.alone
    rfl

theorem AsksSame.committed (a : AsksSame s s1) : AsksSame s (committedAt s1 s.focus) where
  mcx := (committedAt_mcx s1 _).trans a.mcx
  group := a.group
  gone := by
    rw [committedAt_strand]
    exact a.gone
  skeins := by
    rw [← a.skeins]
    unfold State.skeinsOf
    rw [committedAt_mcx]
    rfl
  pending := by
    rw [← a.pending]
    unfold State.remotePending State.asking
    rw [committedAt_mcx]
    rfl

theorem AsksSame.whorlReq (a : AsksSame s s1) (q : Ready s i s' len) (hm : isMill s.focus = false) (hgu : s.guardOn f = true)
    (hg : s.group (s.mcxOf s.focus) = some g) (k : Group → Verdict) : (s.aloneEnv s' s1 i len).whorlReq f k = k g :=
  whorlReq_live q hm hgu (by rw [a.mcx, a.group, hg]) k

theorem fxOf_skjoin (e : Env) : fxOf (.skjoin f) e = e.skeinArg f fun k => .ok { early := fun u => u.skeinJoin e.mcx k e.sid } := rfl
theorem fxOf_skleave (e : Env) : fxOf (.skleave f) e = e.skeinArg f fun k => .ok { early := fun u => u.skeinLeave e.mcx k e.sid } := rfl
theorem fxOf_skbar (e : Env) : fxOf (.skbar f) e = e.skeinArg f fun k =>
    if e.t.skGo.contains k then .ok { early := fun u => u.updStrand e.sid fun t => { t with skPend := t.skPend.erase k, skGo := t.skGo.erase k } }
    else if (e.s.skeinsOf e.sid).contains k then
      (if e.s.remotePending e.sid then .block [.fence] id else .block [.skein k] fun u => u.skbarArrive e.mcx k e.sid)
    else nothing := rfl

theorem skeinArg_out (q : Ready s i s' len) (hm : isMill s.focus = false) (hgu : s.guardOn f = true) (hg : s.group (s.mcxOf s.focus) = some g)
    (h : 256 ≤ s.eaOf f) (k : Nat → Verdict) : (s.aloneEnv s' s' i len).skeinArg f k = (s.aloneEnv s' s' i len).trap cIllegal := by
  rw [Env.skeinArg, whorlReq_now q hm hgu hg, ready_ea q, if_pos h]

theorem skeinArg_in (a : AsksSame s s1) (q : Ready s i s' len) (hm : isMill s.focus = false) (hgu : s.guardOn f = true)
    (hg : s.group (s.mcxOf s.focus) = some g) (h : s.eaOf f < 256) (k : Nat → Verdict) : (s.aloneEnv s' s1 i len).skeinArg f k = k (s.eaOf f) := by
  rw [Env.skeinArg, a.whorlReq q hm hgu hg, ready_ea q, if_neg (by omega)]

/-- A request that presents an effect which leaves its strand but for its marks takes it. -/
theorem WhorlRow.acts_marked (r : WhorlRow i f) (q : Ready s i s' len) {fx : Fx} (h : fxOf i (s.aloneEnv s' s' i len) = .ok fx) (hv : vWrites [fx] = [])
    (hn : fx.writes.length ≤ 64) (hst : fx.stores = []) (hw : fx.waits = []) (hk : ∀ u : State, AllMarked u (fx.early u)) : Acts s i s' len fx :=
  acts_of_ok q (r.alone s) r.plain h hv hn hst hw fun u => (hk u s.focus).region

/-- Join, leave and the wait of the skeins take their ids from EA: one of 256 or more traps ILLEGAL (R236). -/
theorem skein_traps {i : Instr} (q : Ready s i s' len) (hi : i ∈ [Instr.skjoin f, .skleave f, .skbar f]) (hm : isMill s.focus = false) (hgu : s.guardOn f = true)
    (hg : s.group (s.mcxOf s.focus) = some g) (h : 256 ≤ s.eaOf f) : Traps s i s' cIllegal := by
  simp only [List.mem_cons, List.not_mem_nil, or_false] at hi
  obtain rfl | rfl | rfl := hi
  · exact traps rfl q.alone ((fxOf_skjoin _).trans (skeinArg_out q hm hgu hg h _))
  · exact traps rfl q.alone ((fxOf_skleave _).trans (skeinArg_out q hm hgu hg h _))
  · exact traps rfl q.alone ((fxOf_skbar _).trans (skeinArg_out q hm hgu hg h _))

section
variable (hm : isMill s.focus = false) (hgu : s.guardOn f = true) (hg : s.group (s.mcxOf s.focus) = some g) (h : s.eaOf f < 256)
include hm hgu hg h

theorem skjoin_acts (q : Ready s (.skjoin f) s' len) :
    Acts s (.skjoin f) s' len { early := fun u => u.skeinJoin (s.mcxOf s.focus) (s.eaOf f) s.focus } := by
  have row : WhorlRow (.skjoin f) f := whorlRow_of_mem (by simp)
  have fx := (fxOf_skjoin _).trans (skeinArg_in (asksSame_ready q) q hm hgu hg h _)
  rw [ready_emcx q] at fx
  exact row.acts_marked q fx rfl (by simp) rfl rfl fun u => skeinJoin_marked u _ _ _

theorem skleave_acts (q : Ready s (.skleave f) s' len) :
    Acts s (.skleave f) s' len { early := fun u => u.skeinLeave (s.mcxOf s.focus) (s.eaOf f) s.focus } := by
  have row : WhorlRow (.skleave f) f := whorlRow_of_mem (by simp)
  have fx := (fxOf_skleave _).trans (skeinArg_in (asksSame_ready q) q hm hgu hg h _)
  rw [ready_emcx q] at fx
  exact row.acts_marked q fx rfl (by simp) rfl rfl fun u => skeinLeave_marked u _ _ _

/-- What SKBAR presents, in any state that its strand asks the same. -/
theorem skbar_fx (q : Ready s (.skbar f) s' len) (a : AsksSame s s1) : fxOf (.skbar f) (s.aloneEnv s' s1 (.skbar f) len) =
    if (s.strand s.focus).skGo.contains (s.eaOf f) then
      .ok { early := fun u => u.updStrand s.focus fun t => { t with skPend := t.skPend.erase (s.eaOf f), skGo := t.skGo.erase (s.eaOf f) } }
    else if (s.skeinsOf s.focus).contains (s.eaOf f) then
      (if s.remotePending s.focus then .block [.fence] id else .block [.skein (s.eaOf f)] fun u => u.skbarArrive (s.mcxOf s.focus) (s.eaOf f) s.focus)
    else nothing := by
  have fx := (fxOf_skbar _).trans (skeinArg_in a q hm hgu hg h _)
  have gone : (s.aloneEnv s' s1 (.skbar f) len).t.skGo = (s.strand s.focus).skGo := a.gone
  have skeins : (s.aloneEnv s' s1 (.skbar f) len).s.skeinsOf (s.aloneEnv s' s1 (.skbar f) len).sid = s.skeinsOf s.focus := a.skeins
  have pending : (s.aloneEnv s' s1 (.skbar f) len).s.remotePending (s.aloneEnv s' s1 (.skbar f) len).sid = s.remotePending s.focus := a.pending
  have mcx : (s.aloneEnv s' s1 (.skbar f) len).mcx = s.mcxOf s.focus := a.mcx
  rw [fx, gone, skeins, pending, mcx]
  rfl

/-- A member whose phase has completed goes on (R33). -/
theorem skbar_goes (q : Ready s (.skbar f) s' len) (hgo : (s.strand s.focus).skGo.contains (s.eaOf f) = true) : Acts s (.skbar f) s' len
    { early := fun u => u.updStrand s.focus fun t => { t with skPend := t.skPend.erase (s.eaOf f), skGo := t.skGo.erase (s.eaOf f) } } := by
  have row : WhorlRow (.skbar f) f := whorlRow_of_mem (by simp)
  have fx := skbar_fx hm hgu hg h q (asksSame_ready q)
  rw [if_pos hgo] at fx
  exact row.acts_marked q fx rfl (by simp) rfl rfl fun u => updStrand_marked u _ fun _ => ⟨_, _, _, rfl⟩

section
variable (hgo : (s.strand s.focus).skGo.contains (s.eaOf f) = false)
include hgo

/-- SKBAR of a strand that is no member has no effect (R236). -/
theorem skbar_stranger (q : Ready s (.skbar f) s' len) (hk : (s.skeinsOf s.focus).contains (s.eaOf f) = false) : Acts s (.skbar f) s' len {} := by
  have row : WhorlRow (.skbar f) f := whorlRow_of_mem (by simp)
  have fx := skbar_fx hm hgu hg h q (asksSame_ready q)
  rw [hgo, hk] at fx
  exact row.acts_marked q fx rfl (by simp) rfl rfl fun u => .refl u

/-- A member waits for its remote writes before it arrives (R152). -/
theorem skbar_fences (q : Ready s (.skbar f) s' len) (hk : (s.skeinsOf s.focus).contains (s.eaOf f) = true) (hp : s.remotePending s.focus = true) :
    Blocks s (.skbar f) s' [.fence] := by
  have fx (s1 : State) (a : AsksSame s s1) : fxOf (.skbar f) (s.aloneEnv s' s1 (.skbar f) len) = .block [.fence] id := by
    rw [skbar_fx hm hgu hg h q a, hgo, hk, hp]
    rfl
  exact blocks_of_block q rfl (fx _ (asksSame_ready q)) (fx _ (asksSame_ready q).committed) fun u => rfl

/-- A member arrives, and waits until the phase completes (R33, R236). -/
theorem skbar_arrives (q : Ready s (.skbar f) s' len) (hk : (s.skeinsOf s.focus).contains (s.eaOf f) = true) (hp : s.remotePending s.focus = false) :
    Blocks s (.skbar f) s' [.skein (s.eaOf f)] fun u => u.skbarArrive (s.mcxOf s.focus) (s.eaOf f) s.focus := by
  have fx (s1 : State) (a : AsksSame s s1) : fxOf (.skbar f) (s.aloneEnv s' s1 (.skbar f) len) =
      .block [.skein (s.eaOf f)] fun u => u.skbarArrive (s.mcxOf s.focus) (s.eaOf f) s.focus := by
    rw [skbar_fx hm hgu hg h q a, hgo, hk, hp]
    rfl
  exact blocks_of_block q rfl (fx _ (asksSame_ready q)) (fx _ (asksSame_ready q).committed) fun u => skbarArrive_spindles u _ _ _

end

end

/-! ## The acknowledgement word (R51, R237) -/

theorem committedAt_place {u v : State} {sid ea : Nat} {c : AccClass} {pl : Place} (h : u.place sid ea c = .ok (pl, v)) :
    ∃ v', (committedAt u sid).place sid ea c = .ok (pl, v') := by
  unfold State.place at h ⊢
  split at h
  next hm =>
    rw [if_pos hm]
    cases hp : millPlace ea with
    | error e => simp [hp, Except.map] at h
    | ok p =>
      simp only [hp, Except.map, Except.ok.injEq, Prod.mk.injEq] at h
      exact ⟨_, by rw [← h.1]; rfl⟩
  next hm =>
    rw [if_neg hm, committedAt_mcx]
    unfold State.ctxPlace at h ⊢
    have same : (committedAt u sid).translate (u.mcxOf sid) ea c = u.translate (u.mcxOf sid) ea c := rfl
    rw [same]
    split at h
    · cases h
    · simp only [Except.ok.injEq, Prod.mk.injEq] at h
      exact ⟨_, by rw [← h.1]; rfl⟩

theorem committedAt_storeCheck (u : State) (sid off n align : Nat) : (committedAt u sid).spadStoreCheck sid off n align = u.spadStoreCheck sid off n align := by
  unfold State.spadStoreCheck State.spadCheck State.ownsBank
  rw [committedAt_mcx]
  rfl

theorem ready_storeCheck (q : Ready s i s' len) (off n align : Nat) : s'.spadStoreCheck s.focus off n align = s.spadStoreCheck s.focus off n align := by
  obtain ⟨_, _, _, _, _, _, _, rfl⟩ := alone_frame q.alone
  rfl

theorem ready_spad (q : Ready s i s' len) (cl : Nat) : s'.cluster cl = s.cluster cl := by
  obtain ⟨_, _, _, _, _, _, _, rfl⟩ := alone_frame q.alone
  rfl

theorem readPlace_read {u : State} {pl : Place} {n : Nat} {bs : List Byte} (h : u.readPlace pl n = .ok bs) : u.readLoc pl.loc n = .ok bs := by
  unfold State.readPlace at h
  dsimp only at h
  split at h
  · cases h
  · split at h
    next hr =>
      cases h
      exact hr
    · cases h
    · split at h <;> cases h

/-- The word that EA names is the word at `l` in the state `s1`, and it reads `v` there. -/
structure AckAt (s s1 : State) (f : LF) (l : Loc) (v : Nat) : Prop where
  aligned : s.eaOf f % 8 = 0
  reads : ∃ bs, s1.readLoc l 8 = .ok bs ∧ leNat bs = v
  here : ∀ home pa key, l ≠ .remote home pa key
  spad : f.opx = true → l = .spad (clusterOf s.focus) (s.eaOf f) ∧ s1.spadStoreCheck s.focus (s.eaOf f) 8 8 = none
    ∧ s1.spadPoisoned (clusterOf s.focus) (s.eaOf f) 8 = false
  global : f.opx = false → ∃ pl u bs, (∃ pa key, pl.loc = .hbm pa key) ∧ l = pl.loc ∧ s1.place s.focus (s.eaOf f) .write = .ok (pl, u) ∧ s1.readPlace pl 8 = .ok bs

theorem ackPlace_misaligned (q : Ready s i s' len) (h : s.eaOf f % 8 ≠ 0) (k : Loc → Verdict) :
    (s.aloneEnv s' s' i len).ackPlace f k = (s.aloneEnv s' s' i len).trap cAlign 0 (s.eaOf f) := by
  unfold Env.ackPlace
  rw [ready_ea q, if_pos h]

theorem AckAt.place {l : Loc} {v : Nat} (a : AckAt s s1 f l v) (q : Ready s i s' len) (k : Loc → Verdict) : (s.aloneEnv s' s1 i len).ackPlace f k = k l := by
  have aligned := a.aligned
  unfold Env.ackPlace
  rw [ready_ea q]
  dsimp only
  rw [if_neg (by omega)]
  cases hx : f.opx with
  | true =>
    obtain ⟨hl, check, clean⟩ := a.spad hx
    have check' : (s.aloneEnv s' s1 i len).s.spadStoreCheck (s.aloneEnv s' s1 i len).sid (s.eaOf f) 8 8 = none := check
    have clean' : (s.aloneEnv s' s1 i len).s.spadPoisoned (s.aloneEnv s' s1 i len).cl (s.eaOf f) 8 = false := clean
    rw [if_pos rfl, check', clean', hl]
    rfl
  | false =>
    obtain ⟨pl, u, bs, ⟨pa, key, hloc⟩, hl, hp, hr⟩ := a.global hx
    have place : (s.aloneEnv s' s1 i len).s.place (s.aloneEnv s' s1 i len).sid (s.eaOf f) .write = .ok (pl, u) := hp
    have read : (s.aloneEnv s' s1 i len).s.readPlace pl 8 = .ok bs := hr
    rw [if_neg Bool.false_ne_true, Env.gplace, place, hl]
    dsimp only
    rw [hloc]
    dsimp only
    rw [read]

theorem ackAt_spad (q : Ready s i s' len) (hx : f.opx = true) (ha : s.eaOf f % 8 = 0) (hc : s.spadStoreCheck s.focus (s.eaOf f) 8 8 = none)
    (hp : s.spadPoisoned (clusterOf s.focus) (s.eaOf f) 8 = false) :
    AckAt s s' f (.spad (clusterOf s.focus) (s.eaOf f)) (leNat (getBytes (s.cluster (clusterOf s.focus)).bytes (s.eaOf f) 8)) := by
  have clean : s'.spadPoisoned (clusterOf s.focus) (s.eaOf f) 8 = false := by
    rw [← hp, State.spadPoisoned, ready_spad q]
    rfl
  refine ⟨ha, ⟨_, ?_, rfl⟩, fun _ _ _ => by simp, fun _ => ⟨rfl, (ready_storeCheck q _ _ _).trans hc, clean⟩, fun h => by simp [hx] at h⟩
  rw [State.readLoc, clean, ready_spad q]
  rfl

theorem ackAt_global {pl : Place} {u : State} {bs : List Byte} (hx : f.opx = false) (ha : s.eaOf f % 8 = 0) (hl : ∃ pa key, pl.loc = .hbm pa key)
    (hp : s1.place s.focus (s.eaOf f) .write = .ok (pl, u)) (hr : s1.readPlace pl 8 = .ok bs) : AckAt s s1 f pl.loc (leNat bs) := by
  obtain ⟨pa, key, hloc⟩ := hl
  exact ⟨ha, ⟨bs, readPlace_read hr, rfl⟩, fun _ _ _ => by simp [hloc], fun h => by simp [hx] at h, fun _ => ⟨pl, u, bs, ⟨pa, key, hloc⟩, rfl, hp, hr⟩⟩

theorem AckAt.committed {l : Loc} {v : Nat} (a : AckAt s s1 f l v) : AckAt s (committedAt s1 s.focus) f l v := by
  refine ⟨a.aligned, a.reads, a.here, fun hx => ?_, fun hx => ?_⟩
  · obtain ⟨hl, check, clean⟩ := a.spad hx
    exact ⟨hl, (committedAt_storeCheck s1 _ _ _ _).trans check, clean⟩
  · obtain ⟨pl, u, bs, hloc, hl, hp, hr⟩ := a.global hx
    obtain ⟨u', hp'⟩ := committedAt_place hp
    exact ⟨pl, u', bs, hloc, hl, hp', hr⟩

/-! ## CANCEL and CWAIT (R51, R55, R237) -/

/-- What CANCEL presents for a word at `l` (R51). -/
def cancelFx (s : State) (f : LF) (g : Group) (l : Loc) : Fx :=
  let c := (s.me.rx (f.reg.setWidth 6).toNat).toNat % 2 ^ 12
  let st := g.cancelStatus (s.strand s.focus).scope c
  { writes := [wr .x (f.reg.setWidth 6).toNat st 32]
    early := fun u =>
      let u := if f.opx then u else u.touch s.focus (s.eaOf f) .write
      if st = 0 then u.acceptCancel (s.mcxOf s.focus) { loc := l, ea := s.eaOf f, named := c }
      else if st = 2 then u.ackWrite (s.mcxOf s.focus) { loc := l, ea := s.eaOf f, named := c } (c + 2 ^ 12) else u }

theorem cancelFx_strands (l : Loc) (u : State) : ((cancelFx s f g l).early u).strands = u.strands := by
  have touched : (if f.opx then u else u.touch s.focus (s.eaOf f) .write).strands = u.strands := by split <;> simp
  dsimp only [cancelFx]
  generalize (if f.opx then u else u.touch s.focus (s.eaOf f) .write) = v at touched ⊢
  rw [← touched]
  split
  · exact acceptCancel_strands _ _ _
  · split
    · exact ackWrite_strands _ _ _ _
    · rfl

/-- What a CWAIT presents whose word reads `v` (R55): a strand with no withheld stores sees the word itself. -/
def cwaitFx (s s1 : State) (f : LF) (l : Loc) (v : Nat) : Fx :=
  { writes := [wr .x (f.reg.setWidth 6).toNat v 1]
    early := fun u => (u.updStrand s.focus fun t => { t with resp := [] }).charge s.focus
      { loc := l, ea := s.eaOf f, cache := s1.cacheOf s.focus (s.eaOf f) } 8 .read }

section
variable (hm : isMill s.focus = false) (hgu : s.guardOn f = true) (hg : s.group (s.mcxOf s.focus) = some g)
include hm hgu hg

theorem cancel_fx (q : Ready s (.cancel f) s' len) {l : Loc} {v : Nat} (a : AckAt s s' f l v) :
    fxOf (.cancel f) (s.aloneEnv s' s' (.cancel f) len) = .ok (cancelFx s f g l) := by
  have live : fxOf (.cancel f) (s.aloneEnv s' s' (.cancel f) len) = _ := whorlReq_now q hm hgu hg _
  rw [live, a.place q]
  simp only [ready_rx q, ready_ea q, ready_t q, ready_emcx q, cancelFx, setWidth_toNat]
  generalize g.cancelStatus _ _ = st
  obtain _ | _ | _ | st := st <;> rfl

theorem cancel_acts (q : Ready s (.cancel f) s' len) {l : Loc} {v : Nat} (a : AckAt s s' f l v) : Acts s (.cancel f) s' len (cancelFx s f g l) := by
  have row : WhorlRow (.cancel f) f := whorlRow_of_mem (by simp)
  exact row.acts q (cancel_fx hm hgu hg q a) rfl (by simp [cancelFx]) rfl rfl (cancelFx_strands l)

/-- CANCEL and CWAIT of a word off its alignment (R237). -/
theorem ack_misaligned {i : Instr} (q : Ready s i s' len) (hi : i ∈ [Instr.cancel f, .cwait f]) (h : s.eaOf f % 8 ≠ 0) : Traps s i s' cAlign 0 (s.eaOf f) := by
  simp only [List.mem_cons, List.not_mem_nil, or_false] at hi
  obtain rfl | rfl := hi <;> exact traps rfl q.alone ((whorlReq_now q hm hgu hg _).trans (ackPlace_misaligned q h _))

theorem cwait_fx (q : Ready s (.cwait f) s' len) (as : AsksSame s s1) (hs : (s1.strand s.focus).stores = []) {l : Loc} {v : Nat} (a : AckAt s s1 f l v) :
    fxOf (.cwait f) (s.aloneEnv s' s1 (.cwait f) len) =
      if bitOf v 12 then .ok (cwaitFx s s1 f l v) else .block [.cwait l (f.reg.setWidth 6).toNat] id := by
  have live : fxOf (.cwait f) (s.aloneEnv s' s1 (.cwait f) len) = _ := as.whorlReq q hm hgu hg _
  obtain ⟨bs, hr, hv⟩ := a.reads
  have read : (s.aloneEnv s' s1 (.cwait f) len).s.readLoc l 8 = .ok bs := hr
  have stores : (s.aloneEnv s' s1 (.cwait f) len).t.stores = [] := hs
  have seen : leNat (overlay (s.aloneEnv s' s1 (.cwait f) len).t.stores l (s.eaOf f) bs) = v := by
    rw [stores, ← hv]
    rfl
  rw [live, a.place q]
  dsimp only
  split
  next home pa key => exact absurd rfl (a.here home pa key)
  next =>
    rw [ready_ea q, read]
    simp only [seen]
    cases bitOf v 12 with
    | true =>
      simp only [if_true, Verdict.also, cwaitFx, setWidth_toNat]
      rfl
    | false =>
      rw [setWidth_toNat]
      rfl

/-- CWAIT blocks until the word's DONE bit is set, and then gives the word (R55, R237). -/
theorem cwait_waits (q : Ready s (.cwait f) s' len) {l : Loc} {v : Nat} (a : AckAt s s' f l v) :
    (bitOf v 12 = false → Blocks s (.cwait f) s' [.cwait l (f.reg.setWidth 6).toNat])
    ∧ (bitOf v 12 = true → Acts s (.cwait f) s' len (cwaitFx s s' f l v)) := by
  have row : WhorlRow (.cwait f) f := whorlRow_of_mem (by simp)
  have stores : (s'.strand s.focus).stores = [] := by rw [ready_strand q, q.settled.stores]
  have stores' : ((committedAt s' s.focus).strand s.focus).stores = [] := by rw [committedAt_strand]
  have fx := cwait_fx hm hgu hg q (asksSame_ready q) stores a
  have fx' := cwait_fx hm hgu hg q (asksSame_ready q).committed stores' a.committed
  refine ⟨fun hd => ?_, fun hd => ?_⟩
  · rw [hd] at fx fx'
    exact blocks_of_block q rfl fx fx' fun u => rfl
  · rw [hd] at fx
    refine acts_of_ok q (row.alone s) row.plain fx rfl (by simp [cwaitFx]) rfl rfl fun u => ?_
    have same : ((cwaitFx s s' f l v).early u).strand s.focus = { u.strand s.focus with resp := [] } := by
      dsimp only [cwaitFx]
      rw [State.strand, charge_strands, ← State.strand, updStrand_eq, setStrand_strand, if_pos rfl]
    rw [same]
    exact ⟨rfl, rfl, rfl, rfl, rfl, rfl⟩

end

end

/-- Settles O33: each request of a tenant strand whose guard is on, by where EA points. -/
theorem skeinsAndCancellation : Obligations.SkeinsAndCancellation := by
  intro s s' len f g hm hgu hg
  have cancelBase : s.base (.cancel f) s' = s' := base_plain rfl
  have cwaitBase : s.base (.cwait f) s' = s' := base_plain rfl
  simp only [cancelBase, cwaitBase]
  refine ⟨fun h => ⟨fun q => skein_traps q (by simp) hm hgu hg h, fun q => skein_traps q (by simp) hm hgu hg h, fun q => skein_traps q (by simp) hm hgu hg h⟩,
    fun h => ⟨skjoin_acts hm hgu hg h, skleave_acts hm hgu hg h, fun q hgo => ⟨skbar_stranger hm hgu hg h hgo q, fun hk => ⟨?_, ?_⟩⟩, skbar_goes hm hgu hg h⟩,
    fun h => ⟨fun q => ack_misaligned hm hgu hg q (by simp) h, fun q => ack_misaligned hm hgu hg q (by simp) h⟩, fun hx ha hc hp => ⟨fun q => ?_, fun q => ?_⟩,
    fun hx ha pl u bs hl => ⟨fun hp hr q => ?_, fun hp hr q => ?_⟩⟩
  · exact skbar_fences hm hgu hg h hgo q hk
  · exact skbar_arrives hm hgu hg h hgo q hk
  · exact cancel_acts hm hgu hg q (ackAt_spad q hx ha hc hp)
  · exact cwait_waits hm hgu hg q (ackAt_spad q hx ha hc hp)
  · exact cancel_acts hm hgu hg q (ackAt_global hx ha hl hp hr)
  · exact cwait_waits hm hgu hg q (ackAt_global hx ha hl hp hr)

end Sys2Proof.Proofs
end

section
/-! PROOFS. Selection, landing, stalls, FMT and the ends of blocks (R25, R26, R60, R75, R76, R118, R149, R224). -/

namespace Sys2Proof.Proofs

open Sys2Proof Sys2Proof.Machine Sys2Proof.Laws

/-! ## Selection (R26) -/

theorem order_getElem {x : Spindle} {c k : Nat} (h : x.last = some c) (hc : c < 4) (hk : k < 4) : x.order[(k + 3 - c) % 4]? = some k := by
  rw [Spindle.order, h]
  interval_cases c <;> interval_cases k <;> rfl

theorem order_lt {x : Spindle} (h : ∀ c, x.last = some c → c < 4) {j : Nat} (hj : j ∈ x.order) : j < 4 := by
  unfold Spindle.order at hj
  split at hj
  · simp only [List.mem_cons, List.not_mem_nil, or_false] at hj
    omega
  next c hc =>
    have := h c hc
    simp only [List.mem_cons, List.not_mem_nil, or_false] at hj
    omega

section
variable {s : State} {g : Nat}

/-- With no gate the first READY slot in the order of selection is picked. -/
theorem pickSlot_eq_find (hg : (s.spindle g).gate = false) :
    s.pickSlot g = (s.spindle g).order.find? fun k => decide ((s.strand (4 * g + k)).st = .ready) := by
  simp [State.pickSlot, Spindle.open?, hg]

theorem pickSlot_none (hg : (s.spindle g).gate = false) (hl : ∀ c, (s.spindle g).last = some c → c < 4)
    (h : ∀ j, j < 4 → (s.strand (4 * g + j)).st ≠ .ready) : s.pickSlot g = none := by
  rw [pickSlot_eq_find hg, List.find?_eq_none]
  intro j hj
  simpa using h j (order_lt hl hj)

theorem pickSlot_first (hg : (s.spindle g).gate = false) (hl : (s.spindle g).last = none) {k : Nat} (hk : k < 4) (hr : (s.strand (4 * g + k)).st = .ready)
    (h : ∀ j, j < k → (s.strand (4 * g + j)).st ≠ .ready) : s.pickSlot g = some k := by
  have order : (s.spindle g).order = List.range 4 := by
    rw [Spindle.order, hl]
    rfl
  rw [pickSlot_eq_find hg, order, List.find?_range_eq_some]
  refine ⟨by simpa using hr, by simpa using hk, fun j hj => by simpa using h j hj⟩

/-- After a slot the search begins with the one that follows it. -/
theorem pickSlot_next (hg : (s.spindle g).gate = false) {c k : Nat} (hl : (s.spindle g).last = some c) (hc : c < 4) (hk : k < 4)
    (hr : (s.strand (4 * g + k)).st = .ready)
    (h : ∀ j, j < 4 → (j + 3 - c) % 4 < (k + 3 - c) % 4 → (s.strand (4 * g + j)).st ≠ .ready) : s.pickSlot g = some k := by
  rw [pickSlot_eq_find hg, List.find?_eq_some_iff_getElem]
  obtain ⟨hi, hkth⟩ := List.getElem?_eq_some_iff.mp (order_getElem hl hc hk)
  refine ⟨by simpa using hr, _, hi, hkth, fun i hlt => ?_⟩
  have lt : i < 4 := by omega
  have place : ((c + 1 + i) % 4 + 3 - c) % 4 = i := by omega
  have ith := order_getElem hl hc (Nat.mod_lt (c + 1 + i) (by decide : 4 > 0))
  rw [place] at ith
  obtain ⟨_, hith⟩ := List.getElem?_eq_some_iff.mp ith
  rw [hith]
  simpa using h _ (Nat.mod_lt _ (by decide)) (by rw [place]; exact hlt)

end

section
variable {s : State} (hn : (s.spindle s.ev.n).running = none) (hh : s.held = false)
include hn hh

theorem strandSelect_none (hp : s.pickSlot s.ev.n = none) : exec .strandSelect s = .next s := by
  show execStrandSelect s = _
  simp [execStrandSelect, hn, hh, hp]

theorem strandSelect_some {k : Nat} (hp : s.pickSlot s.ev.n = some k) :
    let u := if (s.spindle s.ev.n).last.isSome && (s.spindle s.ev.n).last != some k
      then ((s.cycle s.ev.n).cycle s.ev.n).countEv (match (s.spindle s.ev.n).mcx with | some m => s.partOf m | none => 32) 5 1 else s
    exec .strandSelect s =
      .next ((u.updSpindle s.ev.n fun x => { x with running := some k, last := some k }).updStrand (4 * s.ev.n + k) fun t => { t with st := .running }) := by
  show execStrandSelect s = _
  simp only [execStrandSelect, hn, hh, hp]
  rfl

end

/-! ## Landing and stalls (R75, R76) -/

theorem asleepCycles_core (s : State) (g n sid : Nat) : (s.asleepCycles g n).core sid = s.core sid := by
  unfold State.asleepCycles
  split
  · rfl
  · split
    · exact (chargeClass_calm s _ n).core sid
    · rfl

theorem stallCycles_core (s : State) (g n sid : Nat) : (s.stallCycles g n).core sid = s.core sid := by
  unfold State.stallCycles
  split
  · exact asleepCycles_core s g n sid
  · split
    · exact (countEv_calm s _ _ _).core sid
    · exact (((lea_calm s _ _ _).trans (chargeClass_calm _ _ _)).trans (countEv_calm _ _ _ _)).core sid

theorem strandsOf_contains (g sid : Nat) : (strandsOf g).contains sid = decide (gnumOf sid = g) := by
  rw [List.contains_eq_mem, decide_eq_decide]
  simp only [strandsOf, gnumOf, List.mem_cons, List.not_mem_nil, or_false]
  omega

theorem cycle_ticks {s : State} {g sid : Nat} (hg : gnumOf sid = g) (hl : s.landing g = true) (ha : (s.spindle g).asleep = false)
    (hf : (s.strand sid).frozen = false) : (s.cycle g).core sid = (s.core sid).tick := by
  rw [cycle_core s g sid ha, if_pos (by simp only [ticks, strandsOf_contains, hl, hg, hf]; rfl)]

theorem cycle_keeps {s : State} {g sid : Nat} (h : gnumOf sid ≠ g ∨ s.landing g = false ∨ (s.strand sid).frozen = true) : (s.cycle g).core sid = s.core sid := by
  cases ha : (s.spindle g).asleep with
  | true =>
    have asleep : s.cycle g = s.asleepCycles g 1 := by rw [State.cycle, ha]; rfl
    rw [asleep, asleepCycles_core]
  | false =>
    rw [cycle_core s g sid ha, if_neg]
    simp only [ticks, strandsOf_contains, Bool.and_eq_true, Bool.not_eq_true', decide_eq_true_eq]
    rintro ⟨⟨hl, hg⟩, hf⟩
    simp [hl, hg, hf] at h

theorem resultLand_lands {s : State} (hs : (s.spindle s.ev.n).stalled = false) (hb : s.spindleBusy s.ev.n = false) (hp : s.selects s.ev.n = false) :
    exec .resultLand s = .next (s.cycle s.ev.n) := by
  show execResultLand s = _
  simp [execResultLand, hs, hb, hp]

section
variable {s : State}

theorem stallEnd_none (hs : (s.spindle s.ev.n).stalled = false) (hf : s.ev.flag = false) : exec .stallEnd s = .next (s.stallCycles s.ev.n s.ev.m) := by
  show execStallEnd s = _
  simp [execStallEnd, hs, hf]

/-- The spindle with its stall over. -/
def unstalled (s : State) : State := (s.stallCycles s.ev.n s.ev.m).updSpindle s.ev.n fun x => { x with stalled := false }

theorem stallEnd_idle (hs : (s.spindle s.ev.n).stalled = true) (hr : (s.spindle s.ev.n).running = none) : exec .stallEnd s = .next (unstalled s) := by
  show execStallEnd s = _
  simp only [execStallEnd, hs, hr]
  rfl

theorem stallEnd_entry {k w v : Nat} {s1 s2 : State} (hs : (s.spindle s.ev.n).stalled = true) (hr : (s.spindle s.ev.n).running = some k)
    (hc : (unstalled s).codeWord (4 * s.ev.n + k) ((unstalled s).core (4 * s.ev.n + k)).pc.toNat = .ok w s1) (hw : w < 0xFFFE)
    (hd : s1.dictWord (4 * s.ev.n + k) w = .ok v s2) :
    exec .stallEnd s = .next (s2.updSpindle s.ev.n fun x => x.cacheEntry (dictKey (s2.imageOf (4 * s.ev.n + k)) w) v) := by
  show execStallEnd s = _
  unfold unstalled at hc
  have short : ¬ 0xFFFE ≤ w := by omega
  simp only [execStallEnd, hs, hr, hc, if_neg short, hd]
  rfl

/-! ## FMT (R118) -/

theorem fmtDue_due {c : Core} {v : BitVec 17} (h : c.fmtPend = [(v, 1)]) : c.fmtDue = { c with fmt := v, fmtPend := [] } := by
  simp [Core.fmtDue, h]

theorem fmtDue_waits {c : Core} {v : BitVec 17} {n : Nat} (h : c.fmtPend = [(v, n)]) (hn : n ≠ 1) : c.fmtDue = c := by
  obtain ⟨⟩ := c
  simp only at h
  subst h
  simp [Core.fmtDue, hn]

theorem updCore_congr {sid : Nat} {f g : Core → Core} (h : f (s.core sid) = g (s.core sid)) : s.updCore sid f = s.updCore sid g := by
  rw [State.core] at h
  simp only [updCore_eq, h]

theorem fmtTakeEffect_due {v : BitVec 17} (h : s.me.fmtPend = [(v, 1)]) :
    exec .fmtTakeEffect s = .next (s.updCore s.focus fun c => { c with fmt := v, fmtPend := [] }) :=
  congrArg Host.Outcome.next (updCore_congr (fmtDue_due h))

theorem fmtTakeEffect_waits {v : BitVec 17} {n : Nat} (h : s.me.fmtPend = [(v, n)]) (hn : n ≠ 1) :
    ∃ t, exec .fmtTakeEffect s = .next t ∧ t.core s.focus = s.me := by
  refine ⟨_, rfl, ?_⟩
  rw [updCore_eq, setStrand_core, if_pos rfl]
  exact fmtDue_waits h hn

end

/-! ## The end of a block (R25, R149, R224) -/

section
variable {s : State} {sid : Nat}

theorem waitEnd_clear {w : Wait} (h : s.waitClear sid w = true) : s.waitEnd sid w = .over s := by
  cases w
  case acq | rel | snapsave | snapload => simp [State.waitClear] at h
  all_goals simp [State.waitEnd, h]

theorem deliver_one (c : Core) (r v : Nat) : c.deliver [wr .x r v 1] = c.wx r (BitVec.ofNat 64 v) :=
  stick_zero _

/-- What an after-issue block leaves of its strand, with no store withheld and no BRK beside it. -/
structure Delivered (s u : State) (sid : Nat) : Prop where
  core : u.core sid = (s.core sid).deliver (s.strand sid).resp
  st : (u.strand sid).st = if (s.strand sid).st = .blocked then .ready else (s.strand sid).st
  waits : (u.strand sid).waits = []
  resp : (u.strand sid).resp = []

theorem unblock_delivers (ha : (s.strand sid).after = true) (hb : (s.strand sid).brk = none) (hs : (s.strand sid).stores = [])
    (hh : (s.strand sid).heldCopies = []) : Delivered s (s.unblock sid) sid := by
  simp only [State.unblock, ha, hb, if_true]
  generalize hv : s.updStrand sid _ = v
  have strand : v.strand sid = { s.strand sid with
      st := if (s.strand sid).st = .blocked then .ready else (s.strand sid).st, waits := [], after := false, firm := false, ckptDue := false, brk := none, resp := [],
      core := (s.core sid).deliver (s.strand sid).resp } := by
    rw [← hv, updStrand_eq, setStrand_strand, if_pos rfl]
    rfl
  have commit : v.commitRegion sid = .ok (committedAt v sid) := commitRegion_empty (by rw [strand, hs]) (by rw [strand, hh])
  rw [commit]
  have committed := committedAt_strand v sid
  rw [strand] at committed
  cases (s.strand sid).ckptDue with
  | true =>
    show Delivered s (committedAt v sid) sid
    exact ⟨by rw [State.core, committed], by rw [committed], by rw [committed], by rw [committed]⟩
  | false =>
    show Delivered s v sid
    exact ⟨by rw [State.core, strand], by rw [strand], by rw [strand], by rw [strand]⟩

theorem unblock_before (ha : (s.strand sid).after = false) (hst : (s.strand sid).st = .blocked) :
    s.unblock sid = s.updStrand sid fun t => { t with st := .ready, waits := [] } := by
  simp [State.unblock, ha, hst]

end

section
variable {s u : State} {w : Wait} (hw : (s.strand s.focus).waits = [w]) (hst : (s.strand s.focus).st = .blocked) (hn : s.ev.n = 0)
include hw hst hn

theorem blockEnd_over (h : s.waitEnd s.focus w = .over u) : exec .blockEnd s = .next (u.unblock s.focus) := by
  show execBlockEnd s = _
  simp [execBlockEnd, hw, hst, hn, State.endWaits, h]

theorem blockEnd_keep {w' : Wait} (h : s.waitEnd s.focus w = .keep u w') :
    exec .blockEnd s = .next (u.updStrand s.focus fun t => { t with waits := [w'] }) := by
  show execBlockEnd s = _
  simp [execBlockEnd, hw, hst, hn, State.endWaits, h]

/-- A wait that goes on leaves its strand blocked on it. -/
theorem blockEnd_stays (h : s.waitEnd s.focus w = .keep s w) :
    ∃ u, exec .blockEnd s = .next u ∧ (u.strand s.focus).st = .blocked ∧ (u.strand s.focus).waits = [w] := by
  refine ⟨_, blockEnd_keep hw hst hn h, ?_, ?_⟩ <;> rw [updStrand_eq, setStrand_strand, if_pos rfl]
  exact hst

theorem blockEnd_ready (hc : s.waitClear s.focus w = true) (ha : (s.strand s.focus).after = false) :
    exec .blockEnd s = .next (s.updStrand s.focus fun t => { t with st := .ready, waits := [] }) := by
  rw [blockEnd_over hw hst hn (waitEnd_clear hc), unblock_before ha hst]

theorem blockEnd_delivers (hc : s.waitClear s.focus w = true) (ha : (s.strand s.focus).after = true) (hb : (s.strand s.focus).brk = none)
    (hs : (s.strand s.focus).stores = []) (hh : (s.strand s.focus).heldCopies = []) {r v : Nat} (hr : (s.strand s.focus).resp = [wr .x r v 1]) :
    ∃ u, exec .blockEnd s = .next u ∧ u.core s.focus = s.me.wx r (BitVec.ofNat 64 v) ∧ (u.strand s.focus).st = .ready ∧ (u.strand s.focus).waits = []
      ∧ (u.strand s.focus).resp = [] := by
  have d := unblock_delivers ha hb hs hh
  refine ⟨_, blockEnd_over hw hst hn (waitEnd_clear hc), ?_, ?_, d.waits, d.resp⟩
  · rw [d.core, hr, deliver_one]
    rfl
  · rw [d.st, if_pos hst]

end

/-! ## The end of an ACQ on a word of the scratchpad (R149, R154, R224) -/

section
variable {s : State} {sid cl a ea thr r : Nat} {sc : ScopeAt}

theorem acqEnd_held (h : s.engineOwned cl a 8 = true) : s.waitEnd sid (.acq (.spad cl a) ea thr r sc) = .keep s (.acq (.spad cl a) ea thr r sc) := if_pos h

theorem readPlace_spad {bs : List Byte} (h : s.readLoc (.spad cl a) 8 = .ok bs) : s.readPlace { loc := .spad cl a, ea := ea } 8 = .ok bs := by
  unfold State.readPlace
  dsimp only
  rw [h]
  rfl

/-- An access to a scratchpad is charged to no memory (R373). -/
theorem charge_spad (u : State) (n : Nat) (k : AccKind) : u.charge sid { loc := .spad cl a, ea := ea } n k = u := by
  unfold State.charge
  split <;> rfl

theorem acqEnd_free (hf : s.engineOwned cl a 8 = false) {bs : List Byte} (hr : s.readLoc (.spad cl a) 8 = .ok bs) :
    s.waitEnd sid (.acq (.spad cl a) ea thr r sc) = if leNat bs < thr then .keep s (.acq (.spad cl a) ea thr r sc)
      else .over (s.acquired sid (.spad cl a) r sc (leNat bs)) := by
  have free : s.wordHeld (.spad cl a) = false := hf
  show s.acqEnd sid (.spad cl a) ea thr r sc = _
  unfold State.acqEnd State.acqPlace
  simp only [free, readPlace_spad hr, charge_spad]
  rfl

theorem acquired_strand (l : Loc) (v : Nat) : (s.acquired sid l r sc v).strand sid =
    { s.strand sid with core := (s.core sid).stick (missBit (scopeMiss sid sc (s.relTag l v))), resp := ((s.strand sid).fillResp .x r v).resp } := by
  rw [State.acquired, updCore_eq, setStrand_strand, if_pos rfl, updStrand_eq, setStrand_strand, if_pos rfl]
  rfl

theorem fillResp_one {t : Strand} {v : Nat} (h : t.resp = [wr .x r 0 1]) : (t.fillResp .x r v).resp = [wr .x r v 1] := by
  simp [Strand.fillResp, h, wr]

end

/-- An ACQ whose word has reached its threshold gives the word, and notes a release whose scopes do not match (R149, R224). -/
theorem blockEnd_acquires {s : State} {cl a ea thr r : Nat} {sc : ScopeAt} {bs : List Byte} (hw : (s.strand s.focus).waits = [.acq (.spad cl a) ea thr r sc])
    (hst : (s.strand s.focus).st = .blocked) (hn : s.ev.n = 0) (hf : s.engineOwned cl a 8 = false) (hr : s.readLoc (.spad cl a) 8 = .ok bs) (ht : thr ≤ leNat bs)
    (ha : (s.strand s.focus).after = true) (hb : (s.strand s.focus).brk = none) (hs : (s.strand s.focus).stores = []) (hh : (s.strand s.focus).heldCopies = [])
    (hresp : (s.strand s.focus).resp = [wr .x r 0 1]) :
    ∃ u, exec .blockEnd s = .next u
      ∧ u.core s.focus = (s.me.stick (if scopeMiss s.focus sc (s.relTag (.spad cl a) (leNat bs)) then stScopeMiss else 0)).wx r (BitVec.ofNat 64 (leNat bs)) := by
  have done := acqEnd_free (sid := s.focus) (ea := ea) (thr := thr) (r := r) (sc := sc) hf hr
  rw [if_neg (by omega)] at done
  have strand := acquired_strand (s := s) (sid := s.focus) (r := r) (sc := sc) (.spad cl a) (leNat bs)
  have d := unblock_delivers (s := s.acquired s.focus (.spad cl a) r sc (leNat bs)) (sid := s.focus) (by rw [strand, ha]) (by rw [strand, hb])
    (by rw [strand, hs]) (by rw [strand, hh])
  refine ⟨_, blockEnd_over hw hst hn done, ?_⟩
  rw [d.core, State.core, strand, fillResp_one hresp, deliver_one]
  rfl

end Sys2Proof.Proofs
end

section
/-! PROOFS. A bundle from its fetch to its effect (R25, R58 to R64, R73, R247). -/

namespace Sys2Proof.Proofs

open Sys2Proof Sys2Proof.Machine Sys2Proof.Laws

/-! ## The fetch of a bundle (R58 to R61) -/

theorem codeWords_frame {s : State} {sid n pc acc w : Nat} {s' : State} (h : s.codeWords sid n pc acc = .ok w s') : FillSame s s' := by
  induction n generalizing s pc acc with
  | zero =>
    cases h
    exact .refl _
  | succ n ih =>
    unfold State.codeWords at h
    split at h
    next hr => exact (readCode_frame hr).trans (ih h)
    all_goals cases h

/-- The fetch of a bundle fills the TLBs and the caches and leaves all else. -/
theorem fetchBundle_frame {s : State} {sid pc : Nat} {p : Nat × Nat} {s' : State} (h : s.fetchBundle sid pc = .ok p s') : FillSame s s' := by
  unfold State.fetchBundle at h
  split at h
  case h_5 w s1 hw =>
    refine (codeWord_frame hw).trans ?_
    split at h
    · cases h
    · split at h
      · split at h
        next hb =>
          cases h
          exact codeWords_frame hb
        all_goals cases h
      · split at h
        · cases h
          exact .refl _
        · split at h <;> cases h
  all_goals cases h

/-! ## Bundles whose operations write results alone -/

/-- The states differ at most in how their strands are stored. -/
structure SameStrands (s u : State) : Prop where
  rest : u = { s with strands := u.strands }
  strand : ∀ k, u.strand k = s.strand k

theorem SameStrands.refl (s : State) : SameStrands s s := ⟨rfl, fun _ => rfl⟩

theorem SameStrands.trans {s t u : State} (h : SameStrands s t) (k : SameStrands t u) : SameStrands s u := by
  refine ⟨?_, fun j => (k.strand j).trans (h.strand j)⟩
  rw [k.rest, h.rest]

theorem SameStrands.core {s u : State} (h : SameStrands s u) (k : Nat) : u.core k = s.core k := by
  rw [State.core, h.strand]
  rfl

theorem updCore_same (s : State) (sid : Nat) : SameStrands s (s.updCore sid fun _ => s.core sid) := by
  refine ⟨rfl, fun k => ?_⟩
  rw [updCore_eq, setStrand_strand]
  split
  next h =>
    subst h
    rfl
  next => rfl

/-- In a bundle without boost, checked in `s0` with the registers `c0`, the operation presents results alone. -/
structure Presenting (s0 : State) (c0 : Core) (sid : Nat) (b : Pres) (o : SlotOp) (ws : List RW) : Prop where
  level : hdrBl b.hdr = 0
  gives : ∀ e : Env, e.s = s0 → e.c = c0 → e.sid = sid → e.hdr = b.hdr → o.fx e = .ok { writes := ws }

/-- Operations with their results, as the verdicts on them. -/
def verdicts (l : List (SlotOp × List RW)) : List (SlotOp × Verdict) := l.map fun p => (p.1, .ok { writes := p.2 })

/-- The effects of results alone. -/
def writing (l : List (SlotOp × List RW)) : List Fx := l.map fun p => { writes := p.2 }

section
variable {s0 : State} {c0 : Core} {sid : Nat} {b : Pres} {l : List (SlotOp × List RW)}

theorem evalFrom_writes (h : ∀ p ∈ l, Presenting s0 c0 sid b p.1 p.2) (s : State) (held : Bool) (hs : (s.core sid).shadows = []) :
    ∃ u, s0.evalFrom c0 sid b s held (l.map (·.1)) = (u, verdicts l) ∧ SameStrands s u := by
  induction l generalizing s held with
  | nil => exact ⟨s, rfl, .refl s⟩
  | cons p l ih =>
    obtain ⟨hl, hfx⟩ := h p (by simp)
    have slot : s0.evalSlot s held c0 sid b p.1 = (s.updCore sid fun _ => s.core sid, .ok { writes := p.2 }) := by
      unfold State.evalSlot
      dsimp only
      rw [if_pos hl, hfx _ rfl rfl rfl rfl]
      simp only [hl, allocAll_plain _ hs]
      rfl
    have same := updCore_same s sid
    obtain ⟨u, hu, hsu⟩ := ih (fun q hq => h q (by simp [hq])) (s.updCore sid fun _ => s.core sid) (held || false) (by rw [same.core, hs])
    refine ⟨u, ?_, same.trans hsu⟩
    rw [List.map_cons, State.evalFrom, slot]
    dsimp only [Verdict.reelWait]
    rw [hu]
    rfl

theorem effects_verdicts : effects (verdicts l) = writing l := by
  induction l with
  | nil => rfl
  | cons p l ih => exact congrArg (_ :: ·) ih

theorem lowestTrap_verdicts : lowestTrap (verdicts l) = none := by
  unfold lowestTrap verdicts
  rw [List.foldl_map]
  exact foldl_id _ _ _ fun _ _ => rfl

theorem firstTrap_verdicts (port : Option Trap) : firstTrap port (verdicts l) = port := by
  unfold firstTrap
  rw [lowestTrap_verdicts]

theorem anyBlock_verdicts : anyBlock (verdicts l) = false := by simp [anyBlock, verdicts]

theorem anyWait_verdicts : anyWait (verdicts l) = false := by simp [anyWait, verdicts]

theorem collide_verdicts : collide (verdicts l) = false := by
  simp [collide, verdicts, List.flatMap_map]

theorem writing_stores : (writing l).flatMap Fx.stores = [] := by simp [writing, List.flatMap_map]

theorem writing_waits : (writing l).flatMap Fx.waits = [] := by simp [writing, List.flatMap_map]

theorem writing_branch : (writing l).findSome? Fx.b = none := by
  rw [List.findSome?_eq_none_iff]
  intro fx h
  obtain ⟨p, -, rfl⟩ := List.mem_map.mp h
  rfl

theorem writing_writes : (writing l).flatMap Fx.writes = l.flatMap (·.2) := by simp [writing, List.flatMap_map]

theorem findSome_verdicts {γ : Type} {f : SlotOp × Verdict → Option γ} (h : ∀ o fx, f (o, .ok fx) = none) : (verdicts l).findSome? f = none := by
  rw [List.findSome?_eq_none_iff]
  intro q hq
  obtain ⟨p, -, rfl⟩ := List.mem_map.mp hq
  exact h _ _

/-- A bundle of results alone, in a region with room, takes its effect (R25, R73). -/
theorem presentOk_writes {s : State} (hp : s.portTrap sid b = none) (hs : (s.core sid).shadows = []) (hck : b.ckpt = false)
    (hops : b.ops = l.map (·.1)) (h : ∀ p ∈ l, Presenting s (s.core sid).fmtStep sid b p.1 p.2)
    (hf : (s.strand sid).forced (s.core sid).fmtStep (writing l) = false) (hn : (s.core sid).flight.length + (flightsOf (l.flatMap (·.2))).length ≤ 64) :
    ∃ u, s.presentOk sid b = u.takeEffect sid (s.core sid) b (verdicts l) false ∧ SameStrands s u := by
  obtain ⟨u, hu, same⟩ := evalFrom_writes h s false hs
  refine ⟨u, ?_, same⟩
  unfold State.presentOk State.evalSlots
  rw [hops]
  dsimp only
  rw [hu]
  dsimp only
  rw [firstTrap_verdicts, hp]
  dsimp only
  rw [anyBlock_verdicts, anyWait_verdicts, hck, effects_verdicts, same.strand, hf]
  simp only [Bool.or_self, Bool.false_eq_true, if_false]
  unfold State.finish
  dsimp only
  rw [effects_verdicts, writing_writes, findSome_verdicts fun _ _ => rfl]
  exact if_neg (by omega)

/-! ## The effect of results alone -/

/-- The strand issued. -/
def issuedAt (u : State) (sid : Nat) (c0 : Core) (b : Pres) (fxs : List Fx) : State := u.updStrand sid fun t => t.issue c0 b fxs false

theorem takeEffect_writes {u : State} (he : hdrEnd b.hdr = false) :
    u.takeEffect sid c0 b (verdicts l) false = ((counted sid (issuedAt u sid c0 b (writing l))).cycle (gnumOf sid)).stepStop sid 0 false := by
  have post : ∀ v : State, (writing l).foldl (fun s fx => fx.post s) v = v := fun v => foldl_id _ _ _ fun fx hfx => by
    obtain ⟨p, -, rfl⟩ := List.mem_map.mp hfx
    rfl
  have brk : brkCode b (writing l) = none := by
    rw [brkCode, he, writing_branch]
    rfl
  unfold State.takeEffect
  rw [collide_verdicts, effects_verdicts]
  dsimp only
  simp only [post, writing_waits, brk, he, List.isEmpty_nil, Bool.false_and, Bool.false_eq_true, if_false, if_true]
  rfl

/-- A core after the issue of results alone, with no loop that ends there (R75, R77, R118, R175). -/
theorem issue_writing (c : Core) (hm : c.fmtPend = []) (he : hdrEnd b.hdr = false) (hloop : ∀ l ∈ c.loops.head?, l.last ≠ c.pc.toNat) :
    c.issue b (writing l) false =
      { c with flight := c.flight ++ flightsOf (l.flatMap (·.2)), pc := BitVec.ofNat 32 ((c.pc.toNat + b.len) % 2 ^ 32) } := by
  have mpc : ((writing l).map Fx.mpc).sum = 0 := by simp [writing, Function.comp_def]
  have core : ∀ d : Core, (writing l).foldl (fun c fx => fx.core c) d = d := fun d => foldl_id _ _ _ fun fx hfx => by
    obtain ⟨p, -, rfl⟩ := List.mem_map.mp hfx
    rfl
  unfold Core.issue
  rw [fmtStep_none c hm]
  simp only [mpc, core, Bool.false_eq_true, if_false, he, writing_writes, writing_branch, BitVec.add_zero]
  unfold Core.nextBundle
  cases hl : c.loops with
  | nil => simp [Option.getD]
  | cons l r =>
    have h1 := hloop l (by simp [hl])
    simp [Option.getD, h1]

end

/-! ## A settled strand's bundle of results alone -/

theorem fill_rest {s s' : State} (h : FillSame s s') : RestSame s s' := by
  obtain ⟨_, _, _, _, _, _, _, rfl⟩ := h
  exact ⟨_, _, _, _, _, _, _, _, _, rfl⟩

theorem fill_dies {s s' : State} (h : FillSame s s') : s'.dies = s.dies := by
  obtain ⟨_, _, _, _, _, _, _, rfl⟩ := h
  rfl

theorem fill_strand {s s' : State} (h : FillSame s s') (k : Nat) : s'.strand k = s.strand k := by
  rw [State.strand, fill_strands h]
  rfl

theorem fill_core {s s' : State} (h : FillSame s s') (k : Nat) : s'.core k = s.core k := by
  rw [State.core, fill_strand h]
  rfl

theorem SameStrands.restSame {s u : State} (h : SameStrands s u) : RestSame s u := by
  rw [h.rest]
  exact ⟨_, _, _, _, _, _, _, _, _, rfl⟩

theorem SameStrands.dies {s u : State} (h : SameStrands s u) : u.dies = s.dies := by rw [h.rest]

/-- The bundle takes its effect and its cycle ends: the core of its strand issues and the due results land; all else is untouched. -/
theorem takeEffect_untouched {s u : State} {b : Pres} {l : List (SlotOp × List RW)} (hr : RestSame s u) (hd : u.dies = s.dies) (hk : ∀ k, u.strand k = s.strand k)
    (may : s.canIssue s.focus = true) (hstep : (s.spindle (gnumOf s.focus)).stepSlot = none) (he : hdrEnd b.hdr = false) :
    (u.takeEffect s.focus (s.core s.focus) b (verdicts l) false).core s.focus = ((s.core s.focus).issue b (writing l) false).tick
      ∧ Untouched s (u.takeEffect s.focus (s.core s.focus) b (verdicts l) false) := by
  rw [takeEffect_writes he]
  generalize hv : counted s.focus (issuedAt u s.focus (s.core s.focus) b (writing l)) = v
  have calm : Calm (issuedAt u s.focus (s.core s.focus) b (writing l)) v := hv ▸ counted_calm _ _
  have rest : RestSame s v := rest_trans hr (rest_trans ⟨_, _, _, _, _, _, _, _, _, rfl⟩ calm.rest)
  have dies : DiesSame s v := dies_trans (dies_of_eq hd) (dies_trans (dies_of_eq rfl) calm.dies)
  have awake : (v.spindle (gnumOf s.focus)).asleep = false := by
    rw [rest_spindle rest]
    exact canIssue_awake may
  have own : v.strand s.focus = (s.strand s.focus).issue (s.core s.focus) b (writing l) false := by
    rw [calm.strand, issuedAt, updStrand_eq, setStrand_strand, if_pos rfl, hk]
  have other : ∀ j, j ≠ s.focus → v.strand j = s.strand j := fun j hj => by
    rw [calm.strand, issuedAt, updStrand_eq, setStrand_strand, if_neg hj, hk]
  have quiet : ((v.cycle (gnumOf s.focus)).spindle (gnumOf s.focus)).stepSlot = none := by
    rw [rest_spindle (cycle_rest v _ awake).1, rest_spindle rest]
    exact hstep
  have rest' := rest_trans rest (cycle_rest v _ awake).1
  rw [stepStop_none _ _ _ _ quiet]
  refine ⟨?_, ⟨?_, ?_, ?_, ?_⟩, fun j hj hf => ?_, rest', dies_trans dies (cycle_rest v _ awake).2⟩
  · have landing : v.landing (gnumOf s.focus) = true := by
      rw [rest_landing rest]
      exact canIssue_landing may hstep
    rw [cycle_ticks rfl landing awake (by rw [own]; rfl), State.core, own]
    rfl
  · obtain ⟨_, _, _, _, _, _, _, _, _, e⟩ := rest'
    intro x
    rw [e]
  · obtain ⟨_, _, _, _, _, _, _, _, _, e⟩ := rest'
    rw [e]
  · obtain ⟨_, _, _, _, _, _, _, _, _, e⟩ := rest'
    intro k x
    rw [e]
    rfl
  · rw [cycle_strand v _ _ awake, own]
    simp [Strand.issue, writing_stores]
  · have core : v.core j = s.core j := by
      rw [State.core, other j hj]
      rfl
    rw [cycle_core v _ j awake, core, tick_none _ hf, ite_self]

/-- The strand in focus presents the bundle of `len` code words at its PC, whose header is `hdr`, with nothing pending. -/
structure Presented (s s' : State) (b : Pres) : Prop where
  may : s.canIssue s.focus = true
  fill : FillSame s s'
  quiet : (s'.strand s.focus).engTrap = none
  shadows : (s'.core s.focus).shadows = []
  port : bpMode b.bp = 3 → bpSrc b.bp % 16 < (s.strand s.focus).ntile
  settled : Settled { s with frame := { s.frame with hdr := b.hdr } } .bundleIssue

section
variable {s s' : State} {b : Pres} (p : Presented s s' b)
include p

theorem Presented.noEnd : hdrEnd b.hdr = false := by
  have h := p.settled.noEnd
  simpa [hdrEnd, aloneHdr, aloneSlot, Instr.code] using h

theorem Presented.noCkpt : hdrCkpt b.hdr = false := by
  have h := p.settled.noCkpt
  simpa [hdrCkpt, aloneHdr, aloneSlot, Instr.code] using h

theorem Presented.noPort : s'.portTrap s.focus b = none := by
  unfold State.portTrap
  by_cases h : bpMode b.bp = 3
  · simp [fill_strand p.fill, p.port h]
  · simp [h]

theorem Presented.core : s'.core s.focus = s.core s.focus := fill_core p.fill _

theorem Presented.fmtStep : (s'.core s.focus).fmtStep = s.core s.focus := by
  rw [p.core]
  exact fmtStep_none _ p.settled.fmt

/-- Its region has room for results that go to no v register (R339). -/
theorem Presented.unforced {l : List (SlotOp × List RW)} (hv : vWrites (writing l) = []) :
    (s'.strand s.focus).forced (s'.core s.focus).fmtStep (writing l) = false := by
  have frames : (s.strand s.focus).newFrames (s.core s.focus) = 0 := p.settled.frames
  have few : (s.strand s.focus).undo.length < 64 := p.settled.undo
  have undo : (s.strand s.focus).undo.dedup.length < 64 := Nat.lt_of_le_of_lt (dedup_length_le _) few
  have bundles : (s.strand s.focus).nBund < 2048 := p.settled.bundles
  have stores : (s.strand s.focus).stores = [] := p.settled.stores
  rw [p.fmtStep, fill_strand p.fill]
  simp only [Strand.forced, hv, stores, frames, writing_stores, List.append_nil, List.flatMap_nil, List.dedup_nil, List.length_nil, Bool.or_eq_false_iff,
    decide_eq_false_iff_not]
  omega

/-- A settled strand's bundle whose operations present results alone, none of them of a v register. -/
theorem Presented.gives {l : List (SlotOp × List RW)} (hops : b.ops = l.map (·.1)) (hck : ∀ q ∈ l, ckptOp q.1.i = false)
    (h : ∀ q ∈ l, Presenting s' (s.core s.focus) s.focus b q.1 q.2) (hv : vWrites (writing l) = []) (hn : (flightsOf (l.flatMap (·.2))).length ≤ 64) :
    ∃ t, s'.present s.focus b none = t ∧ t.core s.focus = ((s.core s.focus).issue b (writing l) false).tick ∧ Untouched s t := by
  have live : b.live = b := by rw [Pres.live, p.noEnd]; rfl
  have plain : b.ckpt = false := by
    have points : (b.ops.any fun o => ckptOp o.i) = false := by
      rw [hops, List.any_map, List.any_eq_false]
      intro q hq
      simp [hck q hq]
    rw [Pres.ckpt, p.noCkpt, p.noEnd, points, Bool.and_false]
    rfl
  have flight : (s.core s.focus).flight = [] := p.settled.flight
  obtain ⟨u, hu, same⟩ := presentOk_writes (s := s') (sid := s.focus) (b := b) (l := l) p.noPort p.shadows plain hops (by rw [p.fmtStep]; exact h)
    (p.unforced hv) (by rw [p.core, flight]; simpa using hn)
  have effect := takeEffect_untouched (l := l) (b := b) (rest_trans (fill_rest p.fill) same.restSame) (same.dies.trans (fill_dies p.fill))
    (fun k => (same.strand k).trans (fill_strand p.fill k)) p.may p.settled.step p.noEnd
  refine ⟨_, ?_, effect⟩
  unfold State.present
  rw [p.quiet]
  dsimp only
  rw [live, hu, p.core]

end

end Sys2Proof.Proofs
end

section
/-! PROOFS. What a strand does with the bundle at its PC (R25, R58 to R64, R73, R247), and the events of issue and of blocks together. -/

namespace Sys2Proof.Proofs

open Sys2Proof Sys2Proof.Machine Sys2Proof.Laws

/-! ## The operations of a bundle (R62) -/

/-- The slots of a bundle word as BUNDLE_ISSUE sees them. -/
def viewsOf (w : Nat) : List (Nat × SlotView) := (decodeSlots w).map fun p => (p.1.num, p.2)

theorem viewsOf_nums (w : Nat) : (viewsOf w).map (·.1) = [0, 1, 2, 3, 4, 5, 6, 7] := rfl

/-- The operations depend on the numbers and the contents of the slots alone. -/
theorem slotOps_of_views {w : Nat} {view : Nat → SlotView} (h : ∀ p ∈ viewsOf w, p.2 = view p.1) :
    slotOps fxOf (viewsOf w) = slotOps fxOf ([0, 1, 2, 3, 4, 5, 6, 7].map fun n => (n, view n)) := by
  have views : viewsOf w = (viewsOf w).map fun p => (p.1, view p.1) := by
    conv_lhs => rw [← List.map_id (viewsOf w)]
    exact List.map_congr_left fun p hp => by rw [← h p hp]; rfl
  rw [views, ← viewsOf_nums w, List.map_map]
  rfl

theorem slotOps_empty {w : Nat} (h : ∀ p ∈ viewsOf w, p.2 = .empty) : slotOps fxOf (viewsOf w) = [] := slotOps_of_views (view := fun _ => .empty) h

/-- The operations of a bundle with an ADD in S0 and a SUB in S1. -/
def addSub (f g : SF) : List SlotOp := [{ slot := 0, i := .add f, fx := fxAdd f }, { slot := 1, i := .sub g, fx := fxSub g }]

theorem slotOps_addSub {w : Nat} {f g : SF}
    (h : ∀ p ∈ viewsOf w, p.2 = if p.1 = 0 then .op (.add f) else if p.1 = 1 then .op (.sub g) else .empty) : slotOps fxOf (viewsOf w) = addSub f g :=
  slotOps_of_views (view := fun n => if n = 0 then .op (.add f) else if n = 1 then .op (.sub g) else .empty) h

/-- The results of the two operations, from the registers `c` before the bundle. -/
def addSubWrites (c : Core) (f g : SF) : List (SlotOp × List RW) :=
  [({ slot := 0, i := .add f, fx := fxAdd f }, [wr .x f.xd.toNat (((c.rx f.xa.toNat).toNat + (c.rx f.xb.toNat).toNat) % two64) 1]),
   ({ slot := 1, i := .sub g, fx := fxSub g }, [wr .x g.xd.toNat (((c.rx g.xa.toNat).toNat + (two64 - (c.rx g.xb.toNat).toNat)) % two64) 1])]

/-- An operation that is not boosted reads the register itself (R187). -/
theorem rd_plain {e : Env} (h : hdrBl e.hdr = 0) (f : RFile) (r : Nat) : e.rd f r = e.c.read f r := by
  unfold Env.rd Core.seeShadow Env.lvl
  rw [if_pos h]

theorem addSub_presenting {s : State} {c : Core} {sid : Nat} {b : Pres} (hl : hdrBl b.hdr = 0) (f g : SF) :
    ∀ q ∈ addSubWrites c f g, Presenting s c sid b q.1 q.2 := by
  have rx : ∀ e : Env, e.c = c → e.hdr = b.hdr → ∀ r, e.rx r = (c.rx r).toNat := fun e hc hh r => by
    rw [Env.rx, rd_plain (by rw [hh, hl]), hc]
    rfl
  intro q hq
  refine ⟨hl, fun e _ hc _ hh => ?_⟩
  simp only [addSubWrites, List.mem_cons, List.not_mem_nil, or_false] at hq
  obtain rfl | rfl := hq
  · simp only [fxAdd, Env.xa, Env.xb, rx e hc hh]
    rfl
  · simp only [fxSub, Env.xa, Env.xb, rx e hc hh]
    rfl

/-! ## Two results that land in order (R73, R75) -/

/-- Results of latency 1 land at the end of their cycle, the earlier slot's first. -/
theorem tick_lands {c : Core} (h : ∀ f ∈ c.flight, f.d ≤ 1) : c.tick = c.flight.foldl Core.land { c with flight := [] } := by
  have due : c.flight.filter (fun f => decide (f.d ≤ 1)) = c.flight := List.filter_eq_self.mpr fun f hf => by simpa using h f hf
  have rest : c.flight.filter (fun f => !decide (f.d ≤ 1)) = [] := List.filter_eq_nil_iff.mpr fun f hf => by simpa using h f hf
  unfold Core.tick
  rw [due, rest]
  rfl

/-- A core at another PC. -/
def atPc (c : Core) (pc : BitVec 32) : Core := { c with pc := pc }

theorem wx_atPc (c : Core) (r : Nat) (v : Word) (pc : BitVec 32) : (atPc c pc).wx r v = atPc (c.wx r v) pc := by
  unfold Core.wx
  split <;> rfl

theorem ofNat_add (a b : Word) : BitVec.ofNat 64 ((a.toNat + b.toNat) % two64) = a + b :=
  BitVec.eq_of_toNat_eq (by simp [two64, BitVec.toNat_add])

theorem ofNat_sub (a b : Word) : BitVec.ofNat 64 ((a.toNat + (two64 - b.toNat)) % two64) = a - b :=
  BitVec.eq_of_toNat_eq (by simp [two64, BitVec.toNat_sub, Nat.add_comm])

/-- Both operations read the registers before the bundle, and both results land at its end. -/
theorem addSub_core {c : Core} {b : Pres} {f g : SF} (hf : c.flight = []) (hm : c.fmtPend = []) (he : hdrEnd b.hdr = false)
    (hloop : ∀ l ∈ c.loops.head?, l.last ≠ c.pc.toNat) : (c.issue b (writing (addSubWrites c f g)) false).tick =
      { (c.wx f.xd.toNat (c.rx f.xa.toNat + c.rx f.xb.toNat)).wx g.xd.toNat (c.rx g.xa.toNat - c.rx g.xb.toNat) with
        pc := BitVec.ofNat 32 ((c.pc.toNat + b.len) % 2 ^ 32) } := by
  rw [issue_writing c hm he hloop, hf, tick_lands (by simp [addSubWrites, flightsOf, wr])]
  have flight : ({ c with flight := [] } : Core) = c := by
    obtain ⟨⟩ := c
    simp only at hf
    subst hf
    rfl
  simp only [addSubWrites, flightsOf, wr, List.flatMap_cons, List.flatMap_nil, List.append_nil, List.singleton_append, List.nil_append, List.filterMap_cons,
    List.filterMap_nil, Option.isSome_none, Bool.false_eq_true, if_false, List.foldl_cons, List.foldl_nil, Core.land, Core.write, stick_zero, ofNat_add, ofNat_sub]
  show ((atPc { c with flight := [] } _).wx _ _).wx _ _ = atPc _ _
  rw [flight, wx_atPc, wx_atPc]

/-! ## BUNDLE_ISSUE (R25, R58 to R64, R247) -/

section
variable {s : State}

theorem bundleIssue_idle (h : s.canIssue s.focus = false) : exec .bundleIssue s = .next s := by
  show s.issueBundle fxOf = _
  simp [State.issueBundle, h]

theorem bundleIssue_miss {n : Nat} (h : s.canIssue s.focus = true) (hm : s.fetchBundle s.focus s.me.pc.toNat = .miss n) :
    exec .bundleIssue s = .next (s.updSpindle (gnumOf s.focus) fun x => { x with stalled := true }) := by
  have miss : s.fetchBundle s.focus (s.core s.focus).pc.toNat = .miss n := hm
  show s.issueBundle fxOf = _
  simp only [State.issueBundle, h, miss]
  rfl

/-- A bundle word as it is presented. -/
def presOf (len w : Nat) : Pres := { hdr := BitVec.ofNat 16 (w / 2 ^ 368), bp := BitVec.ofNat 16 w, len := len, ops := slotOps fxOf (viewsOf w) }

variable {s' : State} {len w : Nat} (h : s.canIssue s.focus = true) (hf : s.fetchBundle s.focus s.me.pc.toNat = .ok (len, w) s')
include h hf

theorem bundleIssue_presents : exec .bundleIssue s =
    .next (s'.present s.focus (presOf len w) (malformed (BitVec.ofNat 16 (w / 2 ^ 368)) (BitVec.ofNat 16 w) (viewsOf w))) := by
  have fetched : s.fetchBundle s.focus (s.core s.focus).pc.toNat = .ok (len, w) s' := hf
  show s.issueBundle fxOf = _
  simp only [State.issueBundle, h, fetched]
  rfl

theorem bundleIssue_malformed {k : Nat} (hb : malformed (BitVec.ofNat 16 (w / 2 ^ 368)) (BitVec.ofNat 16 w) (viewsOf w) = some k) :
    exec .bundleIssue s = .next (s'.trapCycle s.focus { cause := cIllegal, slot := k }) := by
  rw [bundleIssue_presents h hf, hb]
  rfl

variable (hb : malformed (BitVec.ofNat 16 (w / 2 ^ 368)) (BitVec.ofNat 16 w) (viewsOf w) = none)
include hb

theorem bundleIssue_engTrap {c : Nat} (he : (s'.strand s.focus).engTrap = some c) :
    exec .bundleIssue s = .next ((s'.updStrand s.focus fun t => { t with engTrap := none }).trapCycle s.focus { cause := c, slot := 9 }) := by
  rw [bundleIssue_presents h hf, hb, State.present, he]

omit hb in
theorem presented (he : (s'.strand s.focus).engTrap = none) (hs : (s'.core s.focus).shadows = [])
    (hp : bpMode (BitVec.ofNat 16 w) = 3 → bpSrc (BitVec.ofNat 16 w) % 16 < (s.strand s.focus).ntile)
    (q : Settled { s with frame := { s.frame with hdr := BitVec.ofNat 16 (w / 2 ^ 368) } } .bundleIssue) : Presented s s' (presOf len w) :=
  ⟨h, fetchBundle_frame hf, he, hs, hp, q⟩

variable (he : (s'.strand s.focus).engTrap = none) (hs : (s'.core s.focus).shadows = [])
  (hp : bpMode (BitVec.ofNat 16 w) = 3 → bpSrc (BitVec.ofNat 16 w) % 16 < (s.strand s.focus).ntile)
  (q : Settled { s with frame := { s.frame with hdr := BitVec.ofNat 16 (w / 2 ^ 368) } } .bundleIssue)
include he hs hp q

/-- A bundle without operations goes on to the next. -/
theorem bundleIssue_empty (hv : ∀ p ∈ viewsOf w, p.2 = .empty) :
    ∃ t, exec .bundleIssue s = .next t ∧ t.core s.focus = { s.me with pc := s.fall len } ∧ Untouched s t := by
  have p := presented h hf he hs hp q
  obtain ⟨t, ht, core, untouched⟩ := p.gives (l := []) (slotOps_empty hv) (by simp) (by simp) rfl (by simp [flightsOf])
  refine ⟨t, by rw [bundleIssue_presents h hf, hb, ht], ?_, untouched⟩
  have flight : (s.core s.focus).flight = [] := p.settled.flight
  have issued := issue_writing (l := []) (b := presOf len w) (s.core s.focus) p.settled.fmt p.noEnd p.settled.loops
  rw [core, issued, tick_none]
  · simp only [flightsOf, List.flatMap_nil, List.filterMap_nil, List.append_nil]
    rfl
  · simp [flightsOf, flight]

/-- An ADD and a SUB in the two S slots both read the registers before their bundle (R73). -/
theorem bundleIssue_addSub {f g : SF} (hl : hdrBl (BitVec.ofNat 16 (w / 2 ^ 368)) = 0)
    (hv : ∀ p ∈ viewsOf w, p.2 = if p.1 = 0 then .op (.add f) else if p.1 = 1 then .op (.sub g) else .empty) :
    ∃ t, exec .bundleIssue s = .next t
      ∧ t.core s.focus = { (s.me.wx f.xd.toNat (s.me.rx f.xa.toNat + s.me.rx f.xb.toNat)).wx g.xd.toNat (s.me.rx g.xa.toNat - s.me.rx g.xb.toNat) with pc := s.fall len }
      ∧ Untouched s t := by
  have p := presented h hf he hs hp q
  obtain ⟨t, ht, core, untouched⟩ := p.gives (l := addSubWrites (s.core s.focus) f g) (slotOps_addSub hv) (by simp [addSubWrites, ckptOp, Instr.code])
    (addSub_presenting hl f g) rfl (by simp [addSubWrites, flightsOf, wr])
  refine ⟨t, by rw [bundleIssue_presents h hf, hb, ht], ?_, untouched⟩
  rw [core]
  exact addSub_core p.settled.flight p.settled.fmt p.noEnd p.settled.loops

end

/-- Settles O41: each event by what it finds at its strand or its spindle. -/
theorem issueEvents : Obligations.IssueEvents := by
  refine ⟨fun s h => bundleIssue_idle h, fun s n h hm => bundleIssue_miss h hm, fun s s' len w h hf => ⟨fun k hb => bundleIssue_malformed h hf hb,
      fun c hb he => bundleIssue_engTrap h hf hb he, fun hb he hs hp q => ⟨fun hv => bundleIssue_empty h hf hb he hs hp q hv,
        fun f g hl hv => bundleIssue_addSub h hf hb he hs hp q hl hv⟩⟩,
    fun s k hn hh hg => ⟨fun hr hl => strandSelect_none hn hh (pickSlot_none hg hl hr), fun hl hk hr hj => ?_, fun c hl hc hk hr hj => ⟨fun hkc => ?_, fun hkc => ?_⟩⟩,
    fun s hs hb hp => resultLand_lands hs hb hp, fun s g sid => ⟨fun hg hl ha hf => cycle_ticks hg hl ha hf, fun h => cycle_keeps h, stallCycles_core s g 1 sid⟩,
    fun c f hf => ⟨fun hd => tick_later c f hf hd, fun hd hs => tick_one c f hf hd hs⟩,
    fun s v n hp => ⟨fun hn => fmtTakeEffect_due (hn ▸ hp), fun hn => fmtTakeEffect_waits hp hn⟩,
    fun s w hw hst hn => ⟨fun hc ha => blockEnd_ready hw hst hn hc ha, fun hc ha hb hs hh r v hr => blockEnd_delivers hw hst hn hc ha hb hs hh hr,
      fun cl a ea thr r sc hacq ho => ?_, fun cl a ea thr r sc bs hacq ho hr => ⟨fun ht => ?_, fun ht ha hb hs hh hresp => ?_⟩⟩,
    fun s => ⟨fun hs hf => stallEnd_none hs hf, fun hs hr => stallEnd_idle hs hr, fun k w v s1 s2 hs hr hc hw hd => stallEnd_entry hs hr hc hw hd⟩⟩
  · have select := strandSelect_some hn hh (pickSlot_first hg hl hk hr hj)
    rw [hl] at select
    exact select
  · have select := strandSelect_some hn hh (pickSlot_next hg hl hc hk hr hj)
    rw [hl, hkc] at select
    simpa [hkc] using select
  · have select := strandSelect_some hn hh (pickSlot_next hg hl hc hk hr hj)
    have changed : ((s.spindle s.ev.n).last.isSome && (s.spindle s.ev.n).last != some k) = true := by simp [hl, Ne.symm hkc]
    rw [changed] at select
    exact select
  · subst hacq
    exact blockEnd_stays hw hst hn (acqEnd_held ho)
  · subst hacq
    exact blockEnd_stays hw hst hn ((acqEnd_free ho hr).trans (if_pos ht))
  · subst hacq
    exact blockEnd_acquires hw hst hn ho hr ht ha hb hs hh hresp

end Sys2Proof.Proofs
end

section
/-! PROOFS. The whorl with nothing to do, the placement of tasks, and the steals of ranges (R22 to R24, R30, R42, R46). -/

namespace Sys2Proof.Proofs

open Sys2Proof Sys2Proof.Machine Sys2Proof.Laws

/-! ## A whorl with nothing to do (R42, R48) -/

/-- No node waits, every scope is open, and every scope but the root has its creator. -/
def Quiet (g : Group) : Prop := g.waiting = [] ∧ ∀ p ∈ g.scopes, ∀ x, p.2 = some x → x.st = .opened ∧ (p.1 = g.root ∨ x.creator.isSome = true)

theorem mem_of_mget {α : Type} {d v : α} {m : AMap α} {k : Nat} (h : mget d m k = v) (hv : v ≠ d) : (k, v) ∈ m := by
  induction m with
  | nil => exact absurd h.symm hv
  | cons p m ih =>
    obtain ⟨k', v'⟩ := p
    unfold mget at h
    split at h
    next hk =>
      subst hk h
      exact List.mem_cons_self
    next =>
      split at h
      · exact absurd h.symm hv
      · exact List.mem_cons_of_mem _ (ih h)

section
variable {s : State} {m : Nat} {g : Group}

theorem runReady_quiet (hg : s.group m = some g) (hw : g.waiting = []) (fuel : Nat) : s.runReady m fuel = s := by
  cases fuel with
  | zero => rfl
  | succ fuel =>
    unfold State.runReady
    rw [hg]
    dsimp only
    rw [hw]

theorem Quiet.scope (q : Quiet g) {c : Nat} {x : Scope} (h : g.scope c = some x) : x.st = .opened ∧ (c = g.root ∨ x.creator.isSome = true) :=
  q.2 _ (mem_of_mget h (by simp)) x rfl

theorem scopeSweep_quiet (hg : s.group m = some g) (q : Quiet g) : s.scopeSweep m = s := by
  unfold State.scopeSweep
  rw [hg]
  refine foldl_id _ _ _ fun c _ => ?_
  rw [hg]
  dsimp only
  split
  · rfl
  next x hx =>
    obtain ⟨opened, root⟩ := q.scope hx
    have kept : (decide (c ≠ g.root) && x.creator.isNone) = false := by
      rcases root with h | h
      · simp [h]
      · simp [Option.isNone_eq_false_iff.mpr h]
    simp only [opened, kept]
    simp

theorem whorl_quiet (hg : s.group m = some g) (q : Quiet g) : s.whorl m = s := by
  rw [State.whorl, runReady_quiet hg q.1, scopeSweep_quiet hg q]

end

/-! ## The registers at a task's first bundle (R22 to R24) -/

section
variable (old : Core) (t : Task) (ident policy : Nat)

theorem startCore_args {k : Nat} (h : k < 5) : (startCore old t ident policy).rx (k + 1) = t.args.getD k 0 := by
  have five : List.range 5 = [0, 1, 2, 3, 4] := rfl
  interval_cases k <;> simp [startCore, Core.rx, five, mget_mset]

theorem startCore_six : (startCore old t ident policy).rx 6 = BitVec.ofNat 64 t.inst := by simp [startCore, Core.rx, mget_mset]

theorem startCore_seven : (startCore old t ident policy).rx 7 = BitVec.ofNat 64 ident := by simp [startCore, Core.rx]

theorem startCore_rest {k : Nat} (h : 8 ≤ k) : (startCore old t ident policy).rx k = 0 := by
  have five : List.range 5 = [0, 1, 2, 3, 4] := rfl
  have zero : k ≠ 0 := by omega
  have six : k ≠ 6 := by omega
  have seven : k ≠ 7 := by omega
  have few : ∀ j, j < 5 → k ≠ j + 1 := by omega
  simp [startCore, Core.rx, five, mget_mset, zero, six, seven, few 0, few 1, few 2, few 3, few 4, mget]

theorem startCore_rp {k : Nat} (h : k ≠ 0) : (startCore old t ident policy).rp k = 0 := if_neg h

end

/-! ## A task starts in a slot (R22) -/

theorem updGroup_group (s : State) (m j : Nat) (f : Group → Group) : (s.updGroup m f).group j = if j = m then (s.group m).map f else s.group j := by
  rw [State.updGroup, State.group, State.setGroup, mget_mset]
  rfl

/-- The strand that a task starts in. -/
def startedStrand (s : State) (m : Nat) (g : Group) (sid : Nat) (t : Task) : Strand :=
  let c := startCore (s.core sid) t (identityWord sid (g.gsp (gnumOf sid)) g.spindles.length t.node t.dyn) (bitsOf (s.hw m 14) 62 61)
  let o := s.strand sid
  { st := .ready, core := c, ckpt := c, mcx := m, node := t.node, act := t.act, dyn := t.dyn, scope := t.scope
    depth := match g.scope t.scope with | some x => x.depth | none => 1
    bank := o.bank, tile0 := o.tile0, ntile := o.ntile, acc0 := o.acc0, nacc := o.nacc }

theorem startTask_eq (s : State) (m : Nat) (g : Group) (sid : Nat) (t : Task) : s.startTask m g sid t = s.setStrand sid (startedStrand s m g sid t) := rfl

/-- A task starts in a state whose group `m` has changed. -/
theorem startTask_strand (s : State) (m : Nat) (f : Group → Group) (g : Group) (sid : Nat) (t : Task) :
    ((s.updGroup m f).startTask m g sid t).strand sid = startedStrand s m g sid t := by
  rw [startTask_eq, setStrand_strand, if_pos rfl]
  rfl

theorem startTask_others (s : State) (m : Nat) (f : Group → Group) (g : Group) (sid : Nat) (t : Task) {j : Nat} (hj : j ≠ sid) :
    ((s.updGroup m f).startTask m g sid t).strand j = s.strand j := by
  rw [startTask_eq, setStrand_strand, if_neg hj]
  rfl

theorem startTask_group (s : State) (m : Nat) (f : Group → Group) (g : Group) (sid : Nat) (t : Task) (j : Nat) :
    ((s.updGroup m f).startTask m g sid t).group j = if j = m then (s.group m).map f else s.group j := by
  rw [startTask_eq, setStrand_group, updGroup_group]

/-- What the start of a task leaves: its slot READY with the registers of R22 and its bank kept, and every other strand and group as it was. -/
def Starts (s u : State) (m : Nat) (g : Group) (sid : Nat) (t : Task) : Prop :=
  let c := u.core sid
  (u.strand sid).st = .ready ∧ (u.strand sid).mcx = m ∧ (u.strand sid).act = t.act ∧ (u.strand sid).scope = t.scope
    ∧ (u.strand sid).bank = (s.strand sid).bank ∧ (u.strand sid).stores = [] ∧ (u.strand sid).waits = []
    ∧ (∀ k, k < 5 → c.rx (k + 1) = t.args.getD k 0) ∧ c.rx 6 = BitVec.ofNat 64 t.inst
    ∧ c.rx 7 = BitVec.ofNat 64 (whoOf sid + g.gsp (gnumOf sid) * 2 ^ 11 + g.spindles.length * 2 ^ 18 + t.node * 2 ^ 25 + t.dyn.toNat * 2 ^ 37)
    ∧ (∀ k, 8 ≤ k → c.rx k = 0) ∧ c.rp 0 = BitVec.allOnes 128 ∧ (∀ k, k ≠ 0 → c.rp k = 0) ∧ c.v = (s.core sid).v
    ∧ c.flight = (s.core sid).flight.filter (fun f => f.file == .v && f.shadow.isNone)
    ∧ c.pc = t.entry ∧ c.mpc = t.mpc0 ∧ c.status = 0 ∧ c.fmt = 0 ∧ c.loops = [] ∧ c.rets = [] ∧ c.shadows = []
    ∧ (∀ j, j ≠ sid → u.strand j = s.strand j) ∧ (∀ j, j ≠ m → u.group j = s.group j) ∧ u = { s with strands := u.strands, groups := u.groups }

theorem startTask_starts (s : State) (m : Nat) (f : Group → Group) (g : Group) (sid : Nat) (t : Task) :
    Starts s ((s.updGroup m f).startTask m g sid t) m g sid t := by
  have strand := startTask_strand s m f g sid t
  have core : ((s.updGroup m f).startTask m g sid t).core sid =
      startCore (s.core sid) t (identityWord sid (g.gsp (gnumOf sid)) g.spindles.length t.node t.dyn) (bitsOf (s.hw m 14) 62 61) := by
    rw [State.core, strand]
    rfl
  unfold Starts
  rw [strand, core]
  exact ⟨rfl, rfl, rfl, rfl, rfl, rfl, rfl, fun k hk => startCore_args _ _ _ _ hk, startCore_six _ _ _ _, startCore_seven _ _ _ _,
    fun k hk => startCore_rest _ _ _ _ hk, rfl, fun k hk => startCore_rp _ _ _ _ hk, rfl, rfl, rfl, rfl, rfl, rfl, rfl, rfl, rfl,
    fun j hj => startTask_others s m f g sid t hj, fun j hj => by rw [startTask_group, if_neg hj], rfl⟩

/-! ## Slots (R30) -/

/-- The slots before `sid` are not FREE or have smaller banks; `sid` is FREE with a bank of at least `need`. -/
def FirstFree (s : State) (l : List Nat) (need sid : Nat) : Prop := ∃ pre post, l = pre ++ sid :: post
  ∧ (∀ j ∈ pre, (s.strand j).st ≠ .free ∨ (s.strand j).bank < need) ∧ (s.strand sid).st = .free ∧ need ≤ (s.strand sid).bank

theorem freeSlot_first {s : State} {m need sid : Nat} {g : Group} (h : FirstFree s (s.taskSlots m g) need sid) : s.freeSlot m g need = some sid := by
  obtain ⟨pre, post, hl, before, free, fits⟩ := h
  rw [State.freeSlot, List.find?_eq_some_iff_append]
  refine ⟨by simp [free, fits], pre, post, hl, fun j hj => ?_⟩
  rcases before j hj with h | h
  · simp [h]
  · simp [Nat.not_le.mpr h]

theorem freeSlot_some {s : State} {m need sid : Nat} {g : Group} (h : s.freeSlot m g need = some sid) :
    sid ∈ g.sids ∧ slotOf sid ≤ s.hw m 3 / 2 ^ 8 % 4 ∧ (s.strand sid).st = .free ∧ need ≤ (s.strand sid).bank := by
  have mem := List.mem_of_find?_eq_some h
  have fits := List.find?_some h
  rw [State.taskSlots, List.mem_filter, decide_eq_true_eq] at mem
  rw [Bool.and_eq_true, decide_eq_true_eq, decide_eq_true_eq] at fits
  exact ⟨mem.1, mem.2, fits.1, fits.2⟩

/-! ## Steals (R46) -/

/-- The victim of a steal among ranges, before its size is looked at. -/
def bestRange (thief : Option Nat) (b : Option (Nat × Nat × Nat)) (p : Nat × Option (Nat × Nat)) : Option (Nat × Nat × Nat) :=
  match p.2 with
  | none => b
  | some (lo, hi) => if some p.1 = thief then b
    else match b with
      | some (_, l, h) => if h - l < hi - lo then some (p.1, lo, hi) else b
      | none => some (p.1, lo, hi)

theorem victim_eq (x : Activation) (thief : Option Nat) :
    x.victim thief = (x.ranges.foldl (bestRange thief) none).filter fun b => 2 * x.grain ≤ b.2.2 - b.2.1 := rfl

/-- A bound on the size of a chosen range. -/
def Within (n : Nat) (b : Option (Nat × Nat × Nat)) : Prop := ∀ v lo hi, b = some (v, lo, hi) → hi - lo < n

theorem bestRange_within {n : Nat} {l : List (Nat × Option (Nat × Nat))} (h : ∀ p ∈ l, ∀ lo hi, p.2 = some (lo, hi) → hi - lo < n)
    {b : Option (Nat × Nat × Nat)} (hb : Within n b) : Within n (l.foldl (bestRange none) b) := by
  induction l generalizing b with
  | nil => exact hb
  | cons p l ih =>
    refine ih (fun q hq => h q (by simp [hq])) ?_
    unfold bestRange
    split
    · exact hb
    next lo hi hp =>
      have small := h p (by simp) lo hi hp
      rw [if_neg (by simp)]
      split
      · split
        · rintro _ _ _ ⟨⟩
          exact small
        · exact hb
      · rintro _ _ _ ⟨⟩
        exact small

/-- A range that is larger than the one chosen so far is chosen. -/
theorem bestRange_larger {v lo hi : Nat} {b : Option (Nat × Nat × Nat)} (hb : Within (hi - lo) b) : bestRange none b (v, some (lo, hi)) = some (v, lo, hi) := by
  unfold bestRange
  dsimp only
  rw [if_neg (by simp)]
  split
  next l h => rw [if_pos (hb _ _ _ rfl)]
  · rfl

/-- A chosen range stays while no larger one comes. -/
theorem bestRange_stays {v lo hi : Nat} {l : List (Nat × Option (Nat × Nat))} (h : ∀ p ∈ l, ∀ a b, p.2 = some (a, b) → b - a ≤ hi - lo) :
    l.foldl (bestRange none) (some (v, lo, hi)) = some (v, lo, hi) := by
  refine foldl_id _ _ _ fun p hp => ?_
  unfold bestRange
  split
  · rfl
  next a b hab =>
    have small := h p hp a b hab
    rw [if_neg (by simp)]
    exact if_neg (by omega)

theorem victim_largest {x : Activation} {v lo hi : Nat} {pre post : AMap (Option (Nat × Nat))} (hr : x.ranges = pre ++ (v, some (lo, hi)) :: post)
    (hpre : ∀ p ∈ pre, ∀ l h, p.2 = some (l, h) → h - l < hi - lo) (hpost : ∀ p ∈ post, ∀ l h, p.2 = some (l, h) → h - l ≤ hi - lo)
    (hg : 2 * x.grain ≤ hi - lo) : x.victim none = some (v, lo, hi) := by
  rw [victim_eq, hr, List.foldl_append, List.foldl_cons, bestRange_larger (bestRange_within hpre fun _ _ _ h => by cases h), bestRange_stays hpost]
  simp [hg]

/-- Where a range is cut. -/
def cutOf (x : Activation) (lo hi : Nat) : Nat := lo + x.grain * ((hi - lo) / (2 * x.grain))

theorem grain_pos (x : Activation) : 0 < x.grain := Nat.lt_of_lt_of_le Nat.zero_lt_one (Nat.le_max_left _ _)

theorem cutOf_inside {x : Activation} {lo hi : Nat} (h : 2 * x.grain ≤ hi - lo) : lo < cutOf x lo hi ∧ cutOf x lo hi < hi := by
  have pos := grain_pos x
  have halves : 0 < (hi - lo) / (2 * x.grain) := Nat.div_pos h (by omega)
  have taken : 0 < x.grain * ((hi - lo) / (2 * x.grain)) := Nat.mul_pos pos halves
  have half : 2 * (x.grain * ((hi - lo) / (2 * x.grain))) ≤ hi - lo := by
    rw [← Nat.mul_assoc]
    exact Nat.mul_div_le _ _
  unfold cutOf
  omega

theorem steal_victim {x : Activation} {thief : Option Nat} {v lo hi : Nat} (h : x.victim thief = some (v, lo, hi)) :
    x.steal thief = some ({ x with ranges := mset none x.ranges v (some (lo, cutOf x lo hi)) }, cutOf x lo hi, hi) ∧ 2 * x.grain ≤ hi - lo := by
  refine ⟨by rw [Activation.steal, h]; rfl, ?_⟩
  rw [victim_eq] at h
  simpa using (Option.filter_eq_some_iff.mp h).2

/-! ## TASK_PLACE and RANGE_STEAL (R30, R42, R46) -/

/-- The context is bound, and its group is not stopped. -/
def Bound (s : State) (m : Nat) : Prop := s.stop m = none ∧ ∃ c, s.ctx m = some c ∧ c.st = .bound

section
variable {s : State} {m : Nat} {g : Group}

theorem Bound.placing (b : Bound s m) : s.placing m = true := by
  obtain ⟨hs, c, hc, hb⟩ := b
  simp [State.placing, hs, hc, hb]

theorem Bound.notSaved (b : Bound s m) : s.isSaved m = false := by
  obtain ⟨_, c, hc, hb⟩ := b
  simp [State.isSaved, hc, hb]

/-- The group once its first queued task `t` has been placed in the slot `sid`, with the tasks `r` left in its queue. -/
def placedGroup (t : Task) (r : List Task) (sid : Nat) (g : Group) : Group :=
  let g := { g with ready := r }
  match g.act t.act with
  | some x => g.setAct t.act (some (x.placed sid t.dyn))
  | none => g

theorem placedGroup_fields (t : Task) (r : List Task) (sid : Nat) (g : Group) :
    (placedGroup t r sid g).ready = r ∧ (placedGroup t r sid g).scopes = g.scopes := by
  unfold placedGroup
  dsimp only
  split <;> exact ⟨rfl, rfl⟩

section
variable (b : Bound s s.ev.n) (hg : s.group s.ev.n = some g) (q : Quiet g)
include b hg q

theorem taskPlace_idle (hr : g.ready = []) : exec .taskPlace s = .next s := by
  show execTaskPlace s = _
  simp only [execTaskPlace, b.placing, if_true, whorl_quiet hg q, hg, hr]

theorem taskPlace_first {t : Task} {r : List Task} {sid : Nat} (hr : g.ready = t :: r) (hf : FirstFree s (s.taskSlots s.ev.n g) t.bank sid) :
    exec .taskPlace s = .next ((s.updGroup s.ev.n (placedGroup t r sid)).startTask s.ev.n g sid t) := by
  show execTaskPlace s = _
  simp only [execTaskPlace, b.placing, if_true, whorl_quiet hg q, hg, hr, freeSlot_first hf, Bool.not_true, Bool.false_eq_true, if_false]
  rfl

end

/-- An activation whose range `lo` to `hi` of the task in slot `v` has been split for a new task in slot `sid`. -/
def splitAct (x : Activation) (sid v lo hi : Nat) : Activation :=
  { x with live := x.live + 1, ranges := mset none (mset none x.ranges v (some (lo, cutOf x lo hi))) sid (some (cutOf x lo hi, hi)) }

theorem rangeSteal_places (b : Bound s s.ev.n) (hg : s.group s.ev.n = some g) {x : Activation} (hx : g.act s.ev.m = some x)
    (hk : nodeKind (x.words.headD 0).toNat = 6) (hl : x.live < x.width) (hr : g.ready = []) (hc : g.cancelled = none) {sid v lo hi : Nat}
    (hf : FirstFree s (s.taskSlots s.ev.n g) (nodeTask x.node s.ev.m 0 g.root x.words (rangeArgs x.words)).bank sid) (hv : x.victim none = some (v, lo, hi)) :
    exec .rangeSteal s = .next ((s.updGroup s.ev.n fun g => g.setAct s.ev.m (some (splitAct x sid v lo hi))).startTask s.ev.n g sid
      (nodeTask x.node s.ev.m 0 g.root x.words (rangeArgs x.words))) := by
  have room : ¬ x.width ≤ x.live := by omega
  show execRangeSteal s = _
  simp only [execRangeSteal, hg, hx, b.placing, hk, room, hr, hc, freeSlot_first hf, (steal_victim hv).1]
  rfl

end

end Sys2Proof.Proofs
end

section
/-! PROOFS. What kills, commits and rollbacks leave of strands and of memory (R51 to R53, R337 to R339). -/

namespace Sys2Proof.Proofs

open Sys2Proof Sys2Proof.Machine Sys2Proof.Laws

/-! ## Engines at a kill leave every strand (R53) -/

theorem foldl_fst_strands {α β : Type} {f : State × β → α → State × β} (h : ∀ p x, (f p x).1.strands = p.1.strands) (l : List α) (p : State × β) :
    (l.foldl f p).1.strands = p.1.strands := by
  induction l generalizing p with
  | nil => rfl
  | cons x l ih => rw [List.foldl_cons, ih, h]

section
variable (s : State)

@[simp] theorem updCluster_strands (cl : Nat) (f : Cluster → Cluster) : (s.updCluster cl f).strands = s.strands := rfl
@[simp] theorem updCopy_strands (c : Nat) (f : CopyJob → CopyJob) : (s.updCopy c f).strands = s.strands := rfl

@[simp] theorem withdrawWaits_strands (sid : Nat) : (s.withdrawWaits sid).strands = s.strands := by
  refine foldl_strands (fun s w => ?_) _ _
  split
  · exact withdraw_strands s _ _
  · rfl

@[simp] theorem withdrawCopy_strands (j : CopyJob) : (s.withdrawCopy j).strands = s.strands := by
  unfold State.withdrawCopy
  split
  · exact withdraw_strands s _ _
  · rfl

@[simp] theorem dropCalls_strands (sid : Nat) (e : EndKind) : (s.dropCalls sid e).strands = s.strands :=
  foldl_strands (fun s _ => updCluster_strands s _ _) _ _

@[simp] theorem appendRedirect_strands (m cl : Nat) (r : Redirect) : (s.appendRedirect m cl r).strands = s.strands := by
  unfold State.appendRedirect
  dsimp only
  split
  · rfl
  · split
    next h =>
      rw [chargeSectors_strands]
      obtain ⟨_, _, rfl⟩ := (hbmWrite_ok h).rest
      rfl
    · rfl

@[simp] theorem endCopy_strands (j : CopyJob) (e : EndKind) : (s.endCopy j e).strands = s.strands := by
  have gone : (((s.withdrawCopy j).leaveWrites j.id).setCopy j.id none).strands = s.strands := withdrawCopy_strands s j
  unfold State.endCopy
  dsimp only
  split
  · rw [appendRedirect_strands]
    exact gone
  · exact gone

@[simp] theorem forceFlip_strands (cl off : Nat) (seen : List Nat) : (s.forceFlip cl off seen).1.strands = s.strands := by
  unfold State.forceFlip
  split <;> rfl

@[simp] theorem killCopies_strands (sid : Nat) (seen : List Nat) : (s.killCopies sid seen).1.strands = s.strands := by
  refine foldl_fst_strands (fun p j => ?_) _ _
  dsimp only
  split
  · split <;> simp
  · simp

@[simp] theorem killBarriers_strands (cl m : Nat) (g : Group) (c : Nat) (seen : List Nat) : (s.killBarriers cl m g c seen).1.strands = s.strands := by
  refine foldl_fst_strands (fun p off => ?_) _ _
  dsimp only
  split
  · exact forceFlip_strands p.1 _ _ _
  · rfl

@[simp] theorem unholdCopy_strands (j : CopyJob) : (s.unholdCopy j).strands = s.strands := withdrawCopy_strands s j

@[simp] theorem remoteStore_strands (sid home pa key ea : Nat) (bs : List Byte) : (s.remoteStore sid home pa key ea bs).strands = s.strands := by
  unfold State.remoteStore State.remoteWrite
  generalize cutAt pa bs = l
  refine foldl_strands ?_ l s
  intro s p
  exact reachRequest_strands s _ _ _ _ _

/-! ## Commits and rollbacks (R337 to R339) -/

theorem lateFault_marked (sid c : Nat) : AllMarked s (s.lateFault sid c) := by
  unfold State.lateFault
  dsimp only
  split
  · exact .refl s
  · split
    · split
      · exact .refl s
      · exact .of_strands (by rw [whorl_strands, endRequest_strands])
    · exact updStrand_marked s sid fun _ => ⟨_, _, _, rfl⟩

theorem performPart_marked (sid : Nat) (p : PStore) (l : Loc) (bs : List Byte) : AllMarked s (s.performPart sid p l bs) := by
  unfold State.performPart
  split
  next h => exact .of_strands (by rw [charge_strands, writeLoc_strands h])
  · exact (AllMarked.of_strands (uncorrectable_strands s _ _ _ _ _ _ _)).trans (lateFault_marked _ sid _)

theorem performStore_marked (sid : Nat) (p : PStore) : AllMarked s (s.performStore sid p) := by
  unfold State.performStore
  split
  · exact .of_strands rfl
  · exact .of_strands (remoteStore_strands s _ _ _ _ _ _)
  · exact .foldl (fun s (q : Loc × List Byte) => performPart_marked s sid p q.1 q.2) _ s

/-- The strands as an operation on the strand `sid` leaves them: every other one but for its marks, and its own as `own` says. -/
structure Upon (s u : State) (sid : Nat) (own : Strand → Strand → Prop) : Prop where
  others : ∀ j, j ≠ sid → Marked (s.strand j) (u.strand j)
  own : own (s.strand sid) (u.strand sid)

/-- The strand after its region has committed or has been rolled back: of its state at most its waits are gone. -/
def Cleared (t t' : Strand) : Prop := t'.st = t.st ∧ (t'.waits = t.waits ∨ t'.waits = [])

theorem Marked.cleared {t t' t'' : Strand} (h : Marked t t') (h' : Cleared t' t'') : Cleared t t'' := by
  obtain ⟨_, _, _, rfl⟩ := h
  exact h'

theorem upon_updStrand {u : State} {sid : Nat} (hu : AllMarked s u) {f : Strand → Strand} (hf : ∀ t, Cleared t (f t)) : Upon s (u.updStrand sid f) sid Cleared where
  others j hj := by
    rw [updStrand_eq, setStrand_strand, if_neg hj]
    exact hu j
  own := by
    rw [updStrand_eq, setStrand_strand, if_pos rfl]
    exact (hu sid).cleared (hf _)

theorem commitStores_upon (sid : Nat) (ps : List PStore) : Upon s (s.commitStores sid ps) sid Cleared := by
  unfold State.commitStores
  dsimp only
  generalize (List.takeWhile _ ps ++ List.filter _ (List.dropWhile _ ps)) = now
  refine upon_updStrand s (AllMarked.trans (AllMarked.foldl (fun s p => performStore_marked s sid p) now s) ?_) fun t => ⟨rfl, .inl rfl⟩
  exact .of_strands (foldl_strands (fun s c => updCopy_strands s c _) _ _)

theorem resolveFrom_strands {sid : Nat} {done l ps : List PStore} {t : State} (h : s.resolveFrom sid done l = .ok (ps, t)) : t.strands = s.strands := by
  induction l generalizing s done ps with
  | nil =>
    cases h
    rfl
  | cons p l ih =>
    have one : ∀ p' u, s.resolveStore sid done p = .ok (p', u) → u.strands = s.strands := fun p' u hu => by
      unfold State.resolveStore at hu
      split at hu
      · split at hu <;> cases hu
        rfl
      · split at hu
        · cases hu
        next hp =>
          have placed := fill_strands (place_fill hp)
          split at hu
          · split at hu <;> cases hu
            exact placed
          · split at hu <;> cases hu
            exact placed
    unfold State.resolveFrom at h
    split at h
    · cases h
    next p' u hu =>
      split at h
      · cases h
      next hr =>
        cases h
        rw [ih _ hr, one _ _ hu]

variable {s} in
theorem commitRegion_upon {sid : Nat} {u : State} (h : s.commitRegion sid = .ok u) : Upon s u sid Cleared := by
  unfold State.commitRegion at h
  split at h
  · cases h
  next ps t hr =>
    cases h
    have same : ∀ j, t.strand j = s.strand j := fun j => by rw [State.strand, resolveFrom_strands s hr]; rfl
    have upon := commitStores_upon t sid ps
    exact ⟨fun j hj => same j ▸ upon.others j hj, same sid ▸ upon.own⟩

theorem rollback_upon (sid : Nat) : Upon s (s.rollback sid) sid Cleared := by
  unfold State.rollback
  dsimp only
  refine upon_updStrand s (.of_strands (foldl_strands (fun s c => ?_) _ _)) fun t => ⟨rfl, .inr rfl⟩
  split
  · exact unholdCopy_strands s _
  · rfl

end

/-! ## The kill of a strand (R52, R53) -/

/-- The strand as its kill leaves it: HALTED, with nothing withheld, and with the waits of its issued RELs alone. -/
structure Killed (t t' : Strand) : Prop where
  st : t'.st = .halted
  killed : t'.killed = true
  stores : t'.stores = []
  loops : t'.core.loops = []
  rets : t'.core.rets = []
  shadows : t'.core.shadows = []
  waits : ∀ w ∈ t'.waits, w ∈ t.waits ∧ w.isRel = true

theorem Killed.marked {t t' t'' : Strand} (k : Killed t t') (h : Marked t' t'') : Killed t t'' := by
  obtain ⟨_, _, _, rfl⟩ := h
  exact ⟨k.st, k.killed, k.stores, k.loops, k.rets, k.shadows, k.waits⟩

theorem Killed.of_waits {t t' t'' : Strand} (k : Killed t' t'') (h : t'.waits = t.waits ∨ t'.waits = []) : Killed t t'' := by
  refine { k with waits := fun w hw => ?_ }
  obtain ⟨mem, rel⟩ := k.waits w hw
  rcases h with h | h
  · exact ⟨h ▸ mem, rel⟩
  · simp [h] at mem

theorem killedAs_killed (t : Strand) (cfg : ReelCfg) : Killed t (t.killedAs cfg) :=
  ⟨rfl, rfl, rfl, rfl, rfl, rfl, fun _ hw => List.mem_filter.mp hw⟩

section
variable (s : State) (sid : Nat)

theorem killMember_marked (t : Strand) : AllMarked s (s.killMember sid t) := by
  unfold State.killMember
  split
  · exact .refl s
  · exact (skeinLeaveAll_marked s _ _).trans (.of_strands (updGroup_strands _ _ _))

/-- The state in which a killed strand stops: it waits for no fault service. -/
def withdrawn (s : State) (sid : Nat) : State :=
  match (s.strand sid).core.reel.susp with
  | some (d, k) => (s.withdrawWaits sid).withdraw d k
  | none => s.withdrawWaits sid

theorem withdrawn_strands : (withdrawn s sid).strands = s.strands := by
  unfold withdrawn
  split <;> simp

/-- The state in which the engine work of a killed strand meets its fate. -/
def stopped (s : State) (sid : Nat) : State :=
  ((withdrawn s sid).updStrand sid fun t => t.killedAs ((withdrawn s sid).reelCfg sid)).updSpindle (gnumOf sid) fun x =>
    { x with running := if x.running = some (slotOf sid) then none else x.running
             queue := x.queue.map fun c => if c.sid = sid then { c with killed := true } else c }

theorem stopped_strand (j : Nat) : (stopped s sid).strand j =
    if j = sid then (s.strand sid).killedAs ((withdrawn s sid).reelCfg sid) else s.strand j := by
  have same : ∀ k, (withdrawn s sid).strand k = s.strand k := fun k => by rw [State.strand, withdrawn_strands]; rfl
  rw [stopped, updSpindle_eq, setSpindle_strand, updStrand_eq, setStrand_strand, same, same]

theorem killStrand_free (seen : List Nat) (h : (s.strand sid).st = .free) : s.killStrand sid seen = (s, seen) := if_pos h

theorem killStrand_eq (seen : List Nat) (h : (s.strand sid).st ≠ .free) : (s.killStrand sid seen).1 =
    ((((stopped s sid).dropCalls sid .abandon).killCopies sid seen).1.updCluster (clusterOf sid) fun c => c.undrain sid).killMember sid (s.strand sid) := by
  unfold State.killStrand
  dsimp only
  rw [if_neg h]
  rfl

theorem stopped_marked (seen : List Nat) (h : (s.strand sid).st ≠ .free) : AllMarked (stopped s sid) (s.killStrand sid seen).1 := by
  rw [killStrand_eq s sid seen h]
  exact (AllMarked.of_strands (by simp)).trans (killMember_marked _ sid _)

theorem killStrand_others (seen : List Nat) {j : Nat} (hj : j ≠ sid) : Marked (s.strand j) ((s.killStrand sid seen).1.strand j) := by
  by_cases h : (s.strand sid).st = .free
  · rw [killStrand_free s sid seen h]
    exact .refl _
  · have marked := stopped_marked s sid seen h j
    rwa [stopped_strand, if_neg hj] at marked

theorem killStrand_own (seen : List Nat) (h : (s.strand sid).st ≠ .free) :
    ∃ cfg, Marked ((s.strand sid).killedAs cfg) ((s.killStrand sid seen).1.strand sid) := by
  have marked := stopped_marked s sid seen h sid
  rw [stopped_strand, if_pos rfl] at marked
  exact ⟨_, marked⟩

theorem killStrand_killed (seen : List Nat) (h : (s.strand sid).st ≠ .free) : Killed (s.strand sid) ((s.killStrand sid seen).1.strand sid) := by
  obtain ⟨cfg, marked⟩ := killStrand_own s sid seen h
  exact (killedAs_killed _ cfg).marked marked

variable {s sid} in
theorem Upon.kill {u : State} (h : Upon s u sid Cleared) (seen : List Nat) (hf : (s.strand sid).st ≠ .free) :
    (∀ j, j ≠ sid → Marked (s.strand j) ((u.killStrand sid seen).1.strand j)) ∧ Killed (s.strand sid) ((u.killStrand sid seen).1.strand sid) := by
  obtain ⟨st, waits⟩ := h.own
  exact ⟨fun j hj => (h.others j hj).trans (killStrand_others u sid seen hj), (killStrand_killed u sid seen (st ▸ hf)).of_waits waits⟩

/-- A kill at its kill point (R52): whatever became of the region, the strand is killed, and every other is left but for its marks. -/
theorem killAt_kills (seen : List Nat) (hf : (s.strand sid).st ≠ .free) :
    (∀ j, j ≠ sid → Marked (s.strand j) ((s.killAt sid seen).1.strand j)) ∧ Killed (s.strand sid) ((s.killAt sid seen).1.strand sid) := by
  unfold State.killAt
  dsimp only
  split
  · exact ⟨fun j hj => killStrand_others s sid seen hj, killStrand_killed s sid seen hf⟩
  · split
    next h => exact (commitRegion_upon h).kill seen hf
    · exact (rollback_upon s sid).kill seen hf

end

/-- The kills of a list of strands. -/
def killAll (l : List Nat) (r : State × List Nat) : State × List Nat := l.foldl (fun r sid => r.1.killAt sid r.2) r

theorem killAll_kills {l : List Nat} (hl : l.Nodup) (r : State × List Nat) (hf : ∀ k ∈ l, (r.1.strand k).st ≠ .free) :
    (∀ j, j ∉ l → Marked (r.1.strand j) ((killAll l r).1.strand j)) ∧ ∀ j ∈ l, Killed (r.1.strand j) ((killAll l r).1.strand j) := by
  induction l generalizing r with
  | nil => exact ⟨fun j _ => .refl _, fun j hj => absurd hj (by simp)⟩
  | cons sid l ih =>
    obtain ⟨fresh, hl⟩ := List.nodup_cons.mp hl
    obtain ⟨others, own⟩ := killAt_kills r.1 sid r.2 (hf sid (by simp))
    have apart : ∀ k ∈ l, k ≠ sid := fun k hk h => fresh (h ▸ hk)
    obtain ⟨kept, killed⟩ := ih hl (r.1.killAt sid r.2) fun k hk => by
      obtain ⟨_, _, _, e⟩ := others k (apart k hk)
      rw [e]
      exact hf k (by simp [hk])
    refine ⟨fun j hj => ?_, fun j hj => ?_⟩
    · obtain ⟨hne, hnot⟩ : j ≠ sid ∧ j ∉ l := by simpa using hj
      exact (others j hne).trans (kept j hnot)
    · rcases List.mem_cons.mp hj with rfl | hj
      · exact own.marked (kept j fresh)
      · refine (killed j hj).of_waits (.inl ?_)
        obtain ⟨_, _, _, e⟩ := others j (apart j hj)
        rw [e]

end Sys2Proof.Proofs
end

section
/-! PROOFS. The arrival of a kill at a spindle, the memory that a kill leaves, and the retirement of a strand (R29, R32, R42, R48, R51 to R53). -/

namespace Sys2Proof.Proofs

open Sys2Proof Sys2Proof.Machine Sys2Proof.Laws

/-! ## The kill of a scope at a spindle (R51, R52) -/

section
variable {s : State} {m c sp : Nat} {g : Group}

theorem strandsOf_nodup (sp : Nat) : (strandsOf sp).Nodup := by
  simp [strandsOf]

theorem mem_subtreeStrands {sid : Nat} : sid ∈ s.subtreeStrands m g c sp ↔
    sid / 4 = sp ∧ (s.strand sid).st ≠ .free ∧ (s.strand sid).mcx = m ∧ g.inTree c (s.strand sid).scope = true := by
  have here : sid ∈ strandsOf sp ↔ sid / 4 = sp := by
    simp only [strandsOf, List.mem_cons, List.not_mem_nil, or_false]
    omega
  simp [State.subtreeStrands, List.mem_filter, here, and_assoc]

theorem killSpindle_strand (hs : s.isSaved m = false) (seen : List Nat) (j : Nat) :
    (s.killSpindle m g c sp seen).1.strand j = (killAll (s.subtreeStrands m g c sp) (s, seen)).1.strand j := by
  unfold State.killSpindle
  rw [if_neg (by simp [hs]), State.strand, killBarriers_strands]
  rfl

/-- A kill that reaches a spindle kills the strands of the subtree there, and leaves every other but for its marks. -/
theorem killSpindle_kills (hs : s.isSaved m = false) (seen : List Nat) :
    (∀ j, j ∉ s.subtreeStrands m g c sp → Marked (s.strand j) ((s.killSpindle m g c sp seen).1.strand j))
      ∧ ∀ j ∈ s.subtreeStrands m g c sp, Killed (s.strand j) ((s.killSpindle m g c sp seen).1.strand j) := by
  have all := killAll_kills ((strandsOf_nodup sp).filter _) (s, seen) (l := s.subtreeStrands m g c sp) fun k hk => (mem_subtreeStrands.mp hk).2.1
  simp only [killSpindle_strand hs]
  exact all

theorem killArrival_arrives {left seen : List Nat} {rest : List (Nat × List Nat × List Nat)} (hstop : s.stop s.ev.n = none) (hg : s.group s.ev.n = some g)
    (hk : g.kills = (c, left, seen) :: rest) (hl : left.contains s.ev.m = true) :
    let r := s.killSpindle s.ev.n g c s.ev.m seen
    exec .killArrival s = .next ((r.1.updGroup s.ev.n fun g =>
      { g with kills := (g.kills.map fun k => if k.1 = c && k.2.1 = left then (c, left.filter (· != s.ev.m), r.2) else k).filter fun k => !k.2.1.isEmpty }).settle s.ev.n) := by
  have first : g.kills.find? (fun k => k.2.1.contains s.ev.m) = some (c, left, seen) := by
    rw [hk]
    exact List.find?_cons_of_pos hl
  show execKillArrival s = _
  simp only [execKillArrival, hg, hstop, first]
  rfl

end

/-! ## The memory at a kill (R52, R53) -/

theorem foldl_keeps {α β : Type} {v : State → β} {f : State → α → State} (h : ∀ s x, v (f s x) = v s) (l : List α) (s : State) : v (l.foldl f s) = v s := by
  induction l generalizing s with
  | nil => rfl
  | cons x l ih => rw [List.foldl_cons, ih, h]

/-- What the fates of a killed strand's copies depend on, with the memory they may write. -/
def copyView (s : State) : AMap Byte × List Image × AMap (Option CopyJob) := (s.hbm, s.images, s.copies)

/-- HBM and the save images are the same. -/
structure StoreSame (s u : State) : Prop where
  hbm : u.hbm = s.hbm
  images : u.images = s.images

section
variable (s : State) (sid : Nat)

theorem withdrawWaits_view : copyView (s.withdrawWaits sid) = copyView s := by
  refine foldl_keeps (fun s w => ?_) _ _
  split <;> rfl

theorem stopped_view : copyView (stopped s sid) = copyView s := by
  have same : copyView (withdrawn s sid) = copyView s := by
    unfold withdrawn
    split
    · exact withdrawWaits_view s sid
    · exact withdrawWaits_view s sid
  exact same

theorem dropCalls_view (e : EndKind) : copyView (s.dropCalls sid e) = copyView s := by
  refine foldl_keeps (v := copyView) (fun s c => ?_) _ _
  rfl

theorem endsInImage_of_images {s u : State} (h : u.images = s.images) (j : CopyJob) : u.endsInImage j = s.endsInImage j := by
  unfold State.endsInImage State.imageCluster
  rw [h]

/-- A copy whose end does not go to a bank image ends in its cluster. -/
theorem endCopy_store {j : CopyJob} (h : s.endsInImage j = false) (e : EndKind) : StoreSame s (s.endCopy j e) := by
  have gone : StoreSame s (((s.withdrawCopy j).leaveWrites j.id).setCopy j.id none) := by
    unfold State.withdrawCopy
    split <;> exact ⟨rfl, rfl⟩
  unfold State.endCopy
  dsimp only
  rw [if_neg (by rw [endsInImage_of_images gone.images, h]; exact Bool.false_ne_true)]
  exact ⟨gone.hbm, gone.images⟩

theorem forceFlip_store (cl off : Nat) (seen : List Nat) : StoreSame s (s.forceFlip cl off seen).1 := by
  unfold State.forceFlip
  split <;> exact ⟨rfl, rfl⟩

theorem killCopies_store (seen : List Nat) (h : ∀ j ∈ s.copyList, j.sid = sid → s.endsInImage j = false) : StoreSame s (s.killCopies sid seen).1 := by
  unfold State.killCopies
  refine List.foldlRecOn (motive := fun p : State × List Nat => StoreSame s p.1) _ _ ⟨rfl, rfl⟩ fun p hp j hj => ?_
  obtain ⟨mem, own⟩ := List.mem_filter.mp hj
  have plain : p.1.endsInImage j = false := (endsInImage_of_images hp.images j).trans (h j mem (by simpa using own))
  have ended := endCopy_store p.1 plain .abandon
  have same : StoreSame s (p.1.endCopy j .abandon) := ⟨ended.hbm.trans hp.hbm, ended.images.trans hp.images⟩
  dsimp only
  split
  next off _ =>
    rw [if_neg (by simp [plain])]
    have flipped := forceFlip_store (p.1.endCopy j .abandon) j.cl off p.2
    exact ⟨flipped.hbm.trans same.hbm, flipped.images.trans same.images⟩
  · exact same

end

/-! ## What the skeins leave of memory (R32, R33) -/

section
variable (s : State) (m k sid : Nat)

theorem skeinWake_hbm (g : Group) (sids : List Nat) : (s.skeinWake m g k sids).hbm = s.hbm := by
  refine foldl_keeps (v := State.hbm) (fun s sid => ?_) sids s
  dsimp only
  split <;> split <;> rfl

theorem skeinCheck_hbm (fuel : Nat) : (s.skeinCheck m k fuel).hbm = s.hbm := by
  induction fuel generalizing s with
  | zero => rfl
  | succ fuel ih =>
    unfold State.skeinCheck
    split
    · rfl
    · dsimp only
      split
      · rfl
      · rw [ih, skeinWake_hbm]
        rfl

theorem skeinLeave_hbm : (s.skeinLeave m k sid).hbm = s.hbm := skeinCheck_hbm _ m k 3

theorem skeinLeaveAll_hbm : (s.skeinLeaveAll m sid).hbm = s.hbm := by
  unfold State.skeinLeaveAll
  split
  · rfl
  · exact foldl_keeps (v := State.hbm) (fun s k => skeinLeave_hbm s m k sid) _ s

theorem killMember_hbm (t : Strand) : (s.killMember sid t).hbm = s.hbm := by
  unfold State.killMember
  split
  · rfl
  · exact skeinLeaveAll_hbm s t.mcx sid

theorem killStrand_hbm (seen : List Nat) (hf : (s.strand sid).st ≠ .free) (h : ∀ j ∈ s.copyList, j.sid = sid → s.endsInImage j = false) :
    (s.killStrand sid seen).1.hbm = s.hbm := by
  have view : copyView ((stopped s sid).dropCalls sid .abandon) = copyView s := (dropCalls_view _ sid .abandon).trans (stopped_view s sid)
  generalize hu : (stopped s sid).dropCalls sid .abandon = u at view
  simp only [copyView, Prod.mk.injEq] at view
  obtain ⟨hbm, images, copies⟩ := view
  have store : StoreSame u (u.killCopies sid seen).1 := killCopies_store u sid seen fun j hj hs => by
    rw [endsInImage_of_images images]
    exact h j (by rwa [State.copyList, copies] at hj) hs
  rw [killStrand_eq s sid seen hf, killMember_hbm, hu]
  exact store.hbm.trans hbm

end

/-! ## Retirement (R29, R32, R42, R48) -/

/-- The HALTED strand has drained (R29). -/
def Drained (s : State) (k : Nat) : Prop :=
  let t := s.strand k
  t.st = .halted ∧ t.waits = [] ∧ t.core.flight = [] ∧ t.stores = [] ∧ t.arvPend = [] ∧ (t.core.reel.waiting = [] ∨ t.core.reel.err.isSome = true)
    ∧ t.core.reel.susp = none ∧ (∀ c ∈ (s.spindle (gnumOf k)).queue, c.sid ≠ k) ∧ s.repeatOf k = none ∧ (∀ j ∈ s.copyList, j.sid ≠ k)
    ∧ s.asking k (fun _ => true) = false

theorem Drained.drained {s : State} {k : Nat} (d : Drained s k) : s.drained k = true := by
  obtain ⟨st, waits, flight, stores, arrivals, frames, susp, calls, rpt, copies, asking⟩ := d
  have rpt' : mget none (s.spindle (gnumOf k)).rpts (slotOf k) = none := rpt
  have frames' : ((s.strand k).core.reel.waiting.isEmpty || (s.strand k).core.reel.err.isSome) = true := by simpa using frames
  have calls' : ((s.spindle (gnumOf k)).queue.any fun c => c.sid == k) = false := by simpa using calls
  have copies' : (s.copyList.any fun j => j.sid == k) = false := by simpa using copies
  unfold State.drained
  simp only [st, waits, flight, stores, arrivals, susp, rpt', frames', calls', copies', asking]
  rfl

theorem not_drained {s : State} {k : Nat} (h : (s.strand k).st ≠ .halted ∨ (s.strand k).waits ≠ [] ∨ (s.strand k).stores ≠ []
    ∨ (s.spindle (gnumOf k)).queue.any (fun c => c.sid == k) = true ∨ s.copyList.any (fun j => j.sid == k) = true) : s.drained k = false := by
  rw [Bool.eq_false_iff]
  intro d
  simp only [State.drained, Bool.and_eq_true, Bool.not_eq_true', beq_iff_eq, List.isEmpty_iff] at d
  obtain ⟨⟨⟨⟨⟨⟨⟨⟨⟨⟨st, waits⟩, -⟩, copies⟩, calls⟩, -⟩, -⟩, -⟩, stores⟩, -⟩, -⟩ := d
  simp [st, waits, stores, copies, calls] at h

section
variable {s : State}

theorem strandRetire_stays (h : s.drained s.focus = false) : exec .strandRetire s = .next s := by
  show execStrandRetire s = _
  simp [execStrandRetire, h]

theorem strandRetire_mill (d : Drained s s.focus) (hm : isMill s.focus = true) :
    exec .strandRetire s = .next (s.setStrand s.focus (s.strand s.focus).retired) := by
  show execStrandRetire s = _
  simp [execStrandRetire, d.drained, hm]

/-- The group without the marks of a creator that has retired. -/
def orphaned (k : Nat) (g : Group) : Group :=
  { g with scopes := g.scopes.map fun p => (p.1, p.2.map fun x => if x.creator = some k then { x with creator := none } else x) }

theorem strandRetire_tenant (d : Drained s s.focus) (hm : isMill s.focus = false) : exec .strandRetire s =
    .next (((((s.setStrand s.focus (s.strand s.focus).retired).skeinLeaveAll (s.strand s.focus).mcx s.focus).updGroup (s.strand s.focus).mcx
      (orphaned s.focus)).taskGone (s.strand s.focus).mcx (s.strand s.focus).act (some s.focus)).settle (s.strand s.focus).mcx) := by
  show execStrandRetire s = _
  simp only [execStrandRetire, d.drained, hm, Bool.not_true, Bool.false_eq_true, if_false]
  rfl

variable {m k : Nat} {g : Group}

/-- A strand that is in no skein leaves none. -/
theorem skeinLeaveAll_none (hg : s.group m = some g) (h : ∀ p ∈ g.skeins, k ∉ p.2.members) : s.skeinLeaveAll m k = s := by
  have none' : (g.skeins.filterMap fun p => if p.2.members.contains k then some p.1 else none) = [] := by
    rw [List.filterMap_eq_nil_iff]
    intro p hp
    simp [h p hp]
  unfold State.skeinLeaveAll
  rw [hg]
  dsimp only
  rw [none', List.foldl_nil]

/-- A strand that has created no scope orphans none. -/
theorem orphaned_none (h : ∀ p ∈ g.scopes, ∀ y, p.2 = some y → y.creator ≠ some k) : orphaned k g = g := by
  have scopes : (g.scopes.map fun p => (p.1, p.2.map fun x => if x.creator = some k then { x with creator := none } else x)) = g.scopes := by
    conv_rhs => rw [← List.map_id g.scopes]
    refine List.map_congr_left fun p hp => ?_
    obtain ⟨i, _ | x⟩ := p
    · rfl
    · simp [h _ hp x rfl]
  rw [orphaned, scopes]

/-- The activation that a task has left, with others of its tasks alive. -/
def leftAct (x : Activation) (k : Nat) : Activation := { x with live := x.live - 1, ranges := mset none x.ranges k none }

theorem taskGone_live (hg : s.group m = some g) {a : Nat} {x : Activation} (hx : g.act a = some x) (hl : 2 ≤ x.live) :
    s.taskGone m a (some k) = s.updGroup m fun g => g.setAct a (some (leftAct x k)) := by
  have live : x.live - 1 ≠ 0 := by omega
  unfold State.taskGone
  simp only [hg, hx, if_pos live]
  rfl

/-- A quiet group whose request neither ends nor is cancelled goes on. -/
theorem settle_quiet (hg : s.group m = some g) (q : Quiet g) (he : g.ended = none) (hc : g.cancelled = none) : s.settle m = s := by
  have goes : s.finishGroup m = s := by
    unfold State.finishGroup
    rw [hg]
    dsimp only
    rw [if_pos (by simp [State.finishes, he, hc])]
  unfold State.settle
  dsimp only
  rw [whorl_quiet hg q, goes, if_neg (by simp [hg])]

theorem strandRetire_live (d : Drained s s.focus) (hm : isMill s.focus = false) (hg : s.group (s.strand s.focus).mcx = some g) (q : Quiet g)
    (he : g.ended = none) (hc : g.cancelled = none) (hs : ∀ p ∈ g.skeins, s.focus ∉ p.2.members)
    (ho : ∀ p ∈ g.scopes, ∀ y, p.2 = some y → y.creator ≠ some s.focus) {x : Activation} (hx : g.act (s.strand s.focus).act = some x) (hl : 2 ≤ x.live) :
    exec .strandRetire s = .next (((s.setStrand s.focus (s.strand s.focus).retired).updGroup (s.strand s.focus).mcx (orphaned s.focus)).updGroup
      (s.strand s.focus).mcx fun g => g.setAct (s.strand s.focus).act (some (leftAct x s.focus))) := by
  have left : (s.setStrand s.focus (s.strand s.focus).retired).group (s.strand s.focus).mcx = some g := hg
  have kept : ((s.setStrand s.focus (s.strand s.focus).retired).updGroup (s.strand s.focus).mcx (orphaned s.focus)).group (s.strand s.focus).mcx = some g := by
    rw [updGroup_group, if_pos rfl, left, Option.map_some, orphaned_none ho]
  rw [strandRetire_tenant d hm, skeinLeaveAll_none left hs, taskGone_live kept hx hl]
  refine congrArg Host.Outcome.next (settle_quiet (g := g.setAct (s.strand s.focus).act (some (leftAct x s.focus))) ?_ q he hc)
  rw [updGroup_group, if_pos rfl, kept]
  rfl

end

end Sys2Proof.Proofs
end

section
/-! PROOFS. The events of tasks together: placement, stealing, retirement and kills (R22 to R24, R29, R30, R42, R46, R51 to R53). -/

namespace Sys2Proof.Proofs

open Sys2Proof Sys2Proof.Machine Sys2Proof.Laws

theorem taskPlace_starts {s : State} {g : Group} {t : Task} {r : List Task} {sid : Nat} (b : Bound s s.ev.n) (hg : s.group s.ev.n = some g) (q : Quiet g)
    (hr : g.ready = t :: r) (hf : FirstFree s (s.taskSlots s.ev.n g) t.bank sid) :
    ∃ u h, exec .taskPlace s = .next u ∧ Starts s u s.ev.n g sid t ∧ u.group s.ev.n = some h ∧ h.ready = r ∧ h.scopes = g.scopes := by
  obtain ⟨ready, scopes⟩ := placedGroup_fields t r sid g
  refine ⟨_, placedGroup t r sid g, taskPlace_first b hg q hr hf, startTask_starts s _ _ g sid t, ?_, ready, scopes⟩
  rw [startTask_group, if_pos rfl, hg]
  rfl

theorem rangeSteal_starts {s : State} {g : Group} {x : Activation} {sid v lo hi : Nat} (b : Bound s s.ev.n) (hg : s.group s.ev.n = some g)
    (hx : g.act s.ev.m = some x) (hk : nodeKind (x.words.headD 0).toNat = 6) (hl : x.live < x.width) (hr : g.ready = []) (hc : g.cancelled = none)
    (hf : FirstFree s (s.taskSlots s.ev.n g) (nodeTask x.node s.ev.m 0 g.root x.words (rangeArgs x.words)).bank sid) (hv : x.victim none = some (v, lo, hi)) :
    ∃ u h y, exec .rangeSteal s = .next u ∧ Starts s u s.ev.n g sid (nodeTask x.node s.ev.m 0 g.root x.words (rangeArgs x.words)) ∧ u.group s.ev.n = some h
      ∧ h.act s.ev.m = some y ∧ y = splitAct x sid v lo hi := by
  refine ⟨_, g.setAct s.ev.m (some (splitAct x sid v lo hi)), _, rangeSteal_places b hg hx hk hl hr hc hf hv, startTask_starts s _ _ g sid _, ?_,
    mget_mset_self _ _ _ _, rfl⟩
  rw [startTask_group, if_pos rfl, hg]
  rfl

theorem strandRetire_leaves {s : State} {g : Group} {x : Activation} (d : Drained s s.focus) (hm : isMill s.focus = false)
    (hg : s.group (s.strand s.focus).mcx = some g) (q : Quiet g) (he : g.ended = none) (hc : g.cancelled = none) (hs : ∀ p ∈ g.skeins, s.focus ∉ p.2.members)
    (ho : ∀ p ∈ g.scopes, ∀ y, p.2 = some y → y.creator ≠ some s.focus) (hx : g.act (s.strand s.focus).act = some x) (hl : 2 ≤ x.live) :
    ∃ w h, exec .strandRetire s = .next w ∧ w.strand s.focus = (s.strand s.focus).retired ∧ (∀ j, j ≠ s.focus → w.strand j = s.strand j)
      ∧ w.group (s.strand s.focus).mcx = some h
      ∧ h = { g.setAct (s.strand s.focus).act (some { x with live := x.live - 1, ranges := mset none x.ranges s.focus none }) with scopes := h.scopes }
      ∧ h.scopes = g.scopes ∧ w = { s with strands := w.strands, groups := w.groups } := by
  have left : (s.setStrand s.focus (s.strand s.focus).retired).group (s.strand s.focus).mcx = some g := hg
  refine ⟨_, g.setAct (s.strand s.focus).act (some (leftAct x s.focus)), strandRetire_live d hm hg q he hc hs ho hx hl, ?_, fun j hj => ?_, ?_, rfl, rfl, rfl⟩
  · rw [State.strand, updGroup_strands, updGroup_strands, ← State.strand, setStrand_strand, if_pos rfl]
  · rw [State.strand, updGroup_strands, updGroup_strands, ← State.strand, setStrand_strand, if_neg hj]
  · rw [updGroup_group, if_pos rfl, updGroup_group, if_pos rfl, left, Option.map_some, orphaned_none ho]
    rfl

theorem killStrand_leaves {s : State} {sid : Nat} (seen : List Nat) (hf : (s.strand sid).st ≠ .free)
    (h : ∀ j ∈ s.copyList, j.sid = sid → s.endsInImage j = false) :
    let t := (s.killStrand sid seen).1.strand sid
    t.st = .halted ∧ t.killed = true ∧ t.stores = [] ∧ t.waits = (s.strand sid).waits.filter Wait.isRel ∧ t.core.loops = [] ∧ t.core.rets = []
      ∧ t.core.shadows = [] ∧ ∀ a, mget 0 (s.killStrand sid seen).1.hbm a = mget 0 s.hbm a := by
  have killed := killStrand_killed s sid seen hf
  obtain ⟨cfg, _, _, _, marked⟩ := killStrand_own s sid seen hf
  exact ⟨killed.st, killed.killed, killed.stores, by rw [marked]; rfl, killed.loops, killed.rets, killed.shadows, fun a => by rw [killStrand_hbm s sid seen hf h]⟩

/-- Settles O42: each event of a bound group by what its whorl finds, and the kill of a strand by its kill point. -/
theorem taskEvents : Obligations.TaskEvents := by
  refine ⟨fun s g t r sid b hg q => ⟨fun hr => taskPlace_idle b hg q hr, fun hr hf => taskPlace_starts b hg q hr hf⟩, fun s m g b sid h => freeSlot_some h,
    fun s g x sid v lo hi pre post b hg hx hk hl hr hc hf hranges hpre hpost hgrain => ?_, fun x thief v lo hi hv => ?_, fun s => ⟨?_, ?_, ?_, ?_, rfl, rfl, rfl⟩,
    fun s g c left seen rest b hg hk hl => ⟨killArrival_arrives b.1 hg hk hl, fun sid hhit => ?_, fun sid hmiss => ?_⟩, fun s sid seen hf h => killStrand_leaves seen hf h⟩
  · obtain ⟨above, below⟩ := cutOf_inside hgrain
    exact ⟨above, below, rangeSteal_starts b hg hx hk hl hr hc hf (victim_largest hranges hpre hpost hgrain)⟩
  · obtain ⟨steal, hgrain⟩ := steal_victim hv
    exact ⟨steal, hgrain, cutOf_inside hgrain⟩
  · exact fun h => strandRetire_stays (not_drained h)
  · exact fun d hm => strandRetire_mill d hm
  · exact fun d hm => strandRetire_tenant d hm
  · exact fun g x d hm hg q he hc hs ho hx hl => strandRetire_leaves d hm hg q he hc hs ho hx hl
  · have killed := (killSpindle_kills (Bound.notSaved b) seen).2 sid (mem_subtreeStrands.mpr hhit)
    refine ⟨killed.st, killed.killed, killed.stores, killed.loops, killed.rets, killed.shadows, fun none => ?_⟩
    refine List.eq_nil_iff_forall_not_mem.mpr fun w hw => ?_
    obtain ⟨mem, rel⟩ := killed.waits w hw
    simp [none w mem] at rel
  · obtain ⟨_, _, _, marked⟩ := (killSpindle_kills (Bound.notSaved b) seen).1 sid fun mem => hmiss (mem_subtreeStrands.mp mem)
    rw [marked]
    exact ⟨rfl, rfl⟩

end Sys2Proof.Proofs
end

section
/-! PROOFS. Decoding of what is encoded (R59, R67 to R71, R91 to R96, R253), and the words that the spec writes out. -/

namespace Sys2Proof.Proofs

open Sys2Proof

/-! ## Fields -/

theorem ofNat_eq_iff {n x : Nat} (v : BitVec n) : BitVec.ofNat n x = v ↔ x % 2 ^ n = v.toNat := by
  rw [← BitVec.toNat_inj, BitVec.toNat_ofNat]

theorem bitOf_eq_iff {x i : Nat} (b : Bool) : bitOf x i = b ↔ x / 2 ^ i % 2 = b.toNat := by
  unfold bitOf
  cases b <;> simp

theorem sFields_encS (c : Nat) (f : SF) : sFields (encS c f) = f := by
  obtain ⟨xd, xa, xb, imm⟩ := f
  have := xd.isLt; have := xa.isLt; have := xb.isLt; have := imm.isLt
  simp only [sFields, encS, SF.mk.injEq, ofNat_eq_iff]
  omega

theorem encS_lt {c : Nat} (hc : c < 2 ^ 8) (f : SF) : encS c f < 2 ^ 40 ∧ bitsOf (encS c f) 39 32 = c := by
  have := f.xd.isLt; have := f.xa.isLt; have := f.xb.isLt; have := f.imm.isLt
  unfold encS bitsOf
  omega

theorem vFields_encV (c : Nat) (f : VF) : vFields (encV c f) = f := by
  obtain ⟨ty, vd, va, vb, vc, g, bpsel, zero, nan, rnd⟩ := f
  have := ty.isLt; have := vd.isLt; have := va.isLt; have := vb.isLt; have := vc.isLt; have := g.isLt; have := bpsel.isLt
  have := zero.toNat_le; have := nan.toNat_le; have := rnd.isLt
  simp only [vFields, encV, VF.mk.injEq, ofNat_eq_iff, bitOf_eq_iff]
  omega

theorem encV_lt {c : Nat} (hc : c < 2 ^ 6) (f : VF) : encV c f < 2 ^ 56 ∧ bitsOf (encV c f) 55 50 = c ∧ bitsOf (encV c f) 49 46 = f.ty.toNat := by
  have := f.ty.isLt; have := f.vd.isLt; have := f.va.isLt; have := f.vb.isLt; have := f.vc.isLt; have := f.g.isLt; have := f.bpsel.isLt
  have := f.zero.toNat_le; have := f.nan.toNat_le; have := f.rnd.isLt
  unfold encV bitsOf
  omega

theorem lFields_encL (c : Nat) (f : LF) : lFields (encL c f) = f := by
  obtain ⟨reg, xbase, off, g, bpd, opx, scope⟩ := f
  have := reg.isLt; have := xbase.isLt; have := off.isLt; have := g.isLt; have := scope.isLt
  have := bpd.toNat_le; have := opx.toNat_le
  simp only [lFields, encL, LF.mk.injEq, ofNat_eq_iff, bitOf_eq_iff]
  omega

theorem encL_lt {c : Nat} (hc : c < 2 ^ 8) (f : LF) : encL c f < 2 ^ 48 ∧ bitsOf (encL c f) 47 40 = c := by
  have := f.reg.isLt; have := f.xbase.isLt; have := f.off.isLt; have := f.g.isLt; have := f.scope.isLt
  have := f.bpd.toNat_le; have := f.opx.toNat_le
  unfold encL bitsOf
  omega

theorem bFields_encB (c : Nat) (f : BF) : bFields (encB c f) = f := by
  obtain ⟨disp, pred, asm⟩ := f
  have := disp.isLt; have := pred.isLt; have := asm.toNat_le
  simp only [bFields, encB, BF.mk.injEq, ofNat_eq_iff, bitOf_eq_iff]
  omega

theorem encB_lt {c : Nat} (hc : c < 2 ^ 6) (f : BF) : encB c f < 2 ^ 24 ∧ bitsOf (encB c f) 23 18 = c := by
  have := f.disp.isLt; have := f.pred.isLt; have := f.asm.toNat_le
  unfold encB bitsOf
  omega

theorem mFields_encM (c : Nat) (f : MF) : mFields (encM c f) = f := by
  obtain ⟨rout, bpi, flags, imm⟩ := f
  have := rout.isLt; have := bpi.toNat_le; have := flags.isLt; have := imm.isLt
  simp only [mFields, encM, MF.mk.injEq, ofNat_eq_iff, bitOf_eq_iff]
  omega

theorem encM_lt {c : Nat} (hc : c < 2 ^ 4) (f : MF) : encM c f < 2 ^ 40 ∧ bitsOf (encM c f) 39 36 = c := by
  have := f.rout.isLt; have := f.bpi.toNat_le; have := f.flags.isLt; have := f.imm.isLt
  unfold encM bitsOf
  omega

/-! ## Codes and maps -/

theorem sTable_code {i : Instr} {c : Nat} {f : SF} (h : i.code = .s c f) : c < 2 ^ 8 ∧ ∃ k, lookupOp sTable c = some k ∧ k f = i := by
  cases i <;> cases h <;> exact ⟨by decide, _, rfl, rfl⟩

theorem bTable_code {i : Instr} {c : Nat} {f : BF} (h : i.code = .b c f) : c < 2 ^ 6 ∧ ∃ k, lookupOp bTable c = some k ∧ k f = i := by
  cases i <;> cases h <;> exact ⟨by decide, _, rfl, rfl⟩

/-- Rows that share a code of the L map are told apart by OPX, which a well-formed instruction has as its row has it (R230, R234, R270, R298). -/
theorem lTable_code {i : Instr} {c : Nat} {f : LF} (h : i.code = .l c f) (w : i.wf = true) : c < 2 ^ 8 ∧ ∃ k, lookupOp lTable c = some k ∧ k f = i := by
  cases i with
  | copygo | spawn | rmark | rchk | mcxst | wipe =>
    cases h
    have opx : f.opx = false := by simp [Instr.wf] at w; simp [w]
    exact ⟨by decide, _, rfl, if_neg (Bool.eq_false_iff.mp opx)⟩
  | copygoNobar | spawnSc | rmarkPop | rchkV | mcxstEvict | wipeSram =>
    cases h
    have opx : f.opx = true := by simp [Instr.wf] at w; simp [w]
    exact ⟨by decide, _, rfl, if_pos opx⟩
  | _ => cases h <;> exact ⟨by decide, _, rfl, rfl⟩

theorem vTable_code {i : Instr} {c : Nat} {f : VF} (h : i.code = .v c f) (w : i.wf = true) : c < 2 ^ 6 ∧ ∃ k, lookupOp vTable c = some k ∧ k f = i := by
  cases i with
  | vquant =>
    cases h
    have scales : f.vc.getLsbD 4 = false := by simp [Instr.wf] at w; simp [w]
    exact ⟨by decide, _, rfl, if_neg (Bool.eq_false_iff.mp scales)⟩
  | vquantScales =>
    cases h
    have scales : f.vc.getLsbD 4 = true := by simp [Instr.wf] at w; simp [w]
    exact ⟨by decide, _, rfl, if_pos scales⟩
  | _ => cases h <;> exact ⟨by decide, _, rfl, rfl⟩

/-- A V operation that is well formed has one of the types of R191. -/
theorem typed_of_wf {i : Instr} {c : Nat} {f : VF} (h : i.code = .v c f) (w : i.wf = true) : f.ty.toNat < 12 := by
  by_contra hty
  have untyped : ∀ t : BitVec 4, t.toNat < 12 → f.ty ≠ t := fun t ht e => hty (e ▸ ht)
  have noF : f.tyF = false := by simp [VF.tyF]; omega
  have noS : f.tyS = false := by simp [VF.tyS, untyped]
  have noU : f.tyU = false := by simp [VF.tyU, untyped]
  have noB : f.tyB = false := by simp [VF.tyB, untyped]
  cases i <;> cases h <;> simp [Instr.wf, VF.tyAny, VF.tyFI, VF.tyI, noF, noS, noU, noB, untyped] at w

/-! ## Micro-ops -/

theorem encU_lt {c : Nat} (hc : c < 2 ^ 6) (f : UF) : encU c f < 2 ^ 64 ∧ bitsOf (encU c f) 63 58 = c := by
  have := f.sel.isLt; have := f.acc.isLt; have := f.ta.isLt; have := f.tb.isLt; have := f.arg.isLt; have := f.argb.isLt; have := f.pitch.isLt; have := f.off.isLt
  have := f.rows.isLt; have := f.cols.isLt; have := f.en.toNat_le; have := f.enb.toNat_le; have := f.mode.isLt; have := f.imm.isLt; have := f.last.isLt
  have := f.tlive.isLt; have := f.slive.isLt; have := f.amask.isLt; have := f.smask.isLt; have := f.bit.isLt
  unfold encU bitsOf
  split <;> omega

/-- The entry of the micro-op map that an instruction is decoded by. -/
theorem uTable_code {i : Instr} {c : Nat} {f : UF} (h : i.code = .u c f) (w : i.wf = true) : c < 2 ^ 6 ∧ ∃ k, lookupOp uTable c = some k ∧ k f = i := by
  cases i with
  | addr | addrAdd | addrLo | addrHi =>
    cases h
    simp only [Instr.wf, Bool.and_eq_true, beq_iff_eq] at w
    exact ⟨by decide, _, rfl, by simp [w.2]⟩
  | _ => cases h <;> exact ⟨by decide, _, rfl, rfl⟩

/-- A well-formed micro-op holds zero in the fields that its entry does not name. -/
theorem uFields_encU {i : Instr} {c : Nat} {f : UF} (h : i.code = .u c f) (w : i.wf = true) : uFields (encU c f) = f := by
  have hc := (encU_lt (uTable_code h w).1 f).2
  unfold uFields
  rw [hc]
  obtain ⟨sel, acc, ta, tb, arg, argb, pitch, off, rows, cols, en, enb, mode, imm, last, tlive, slive, amask, smask, bit⟩ := f
  have := sel.isLt; have := acc.isLt; have := ta.isLt; have := tb.isLt; have := arg.isLt; have := argb.isLt; have := pitch.isLt; have := off.isLt
  have := rows.isLt; have := cols.isLt; have := en.toNat_le; have := enb.toNat_le; have := mode.isLt; have := imm.isLt; have := last.isLt
  have := tlive.isLt; have := slive.isLt; have := amask.isLt; have := smask.isLt; have := bit.isLt
  cases i <;> cases h <;> simp only [Instr.wf, Bool.and_eq_true, beq_iff_eq, UF.mk.injEq] at w <;>
    simp only [UF.mk.injEq, w, encU, ofNat_eq_iff, bitOf_eq_iff, true_and, and_true] <;> omega

/-! ## Slots -/

theorem decodeS_of_code {w c : Nat} {k : SF → Instr} (op : bitsOf w 39 32 = c) (hk : lookupOp sTable c = some k) : decodeS w = .ok (k (sFields w)) := by
  rw [decodeS, op, hk]

theorem decodeV_of_code {w c : Nat} {k : VF → Instr} (op : bitsOf w 55 50 = c) (hk : lookupOp vTable c = some k) (ty : bitsOf w 49 46 < 12) :
    decodeV w = .ok (k (vFields w)) := by
  rw [decodeV, op, hk]
  dsimp only
  rw [if_neg (by omega), if_neg (by omega)]

theorem decodeL_of_code {w c : Nat} {k : LF → Instr} (op : bitsOf w 47 40 = c) (hk : lookupOp lTable c = some k) : decodeL w = .ok (k (lFields w)) := by
  rw [decodeL, op, hk]

theorem decodeB_of_code {w c : Nat} {k : BF → Instr} (op : bitsOf w 23 18 = c) (hk : lookupOp bTable c = some k) : decodeB w = .ok (k (bFields w)) := by
  rw [decodeB, op, hk]

theorem decodeU_of_code {w c : Nat} {k : UF → Instr} (op : bitsOf w 63 58 = c) (hk : lookupOp uTable c = some k) (back : encU c (uFields w) = w % 2 ^ 64)
    (wf : (k (uFields w)).wf = true) : decodeU w = some (k (uFields w)) := by
  rw [decodeU, op, hk]
  exact if_pos ⟨back, wf⟩

theorem decodeS_encode {i : Instr} {c : Nat} {f : SF} (h : i.code = .s c f) : decodeS (encS c f) = .ok i := by
  obtain ⟨hc, k, hk, rfl⟩ := sTable_code h
  rw [decodeS_of_code (encS_lt hc f).2 hk, sFields_encS]

theorem decodeV_encode {i : Instr} {c : Nat} {f : VF} (h : i.code = .v c f) (w : i.wf = true) : decodeV (encV c f) = .ok i := by
  have hty := typed_of_wf h w
  obtain ⟨hc, k, hk, rfl⟩ := vTable_code h w
  obtain ⟨-, op, ty⟩ := encV_lt hc f
  rw [decodeV_of_code op hk (ty ▸ hty), vFields_encV]

theorem decodeL_encode {i : Instr} {c : Nat} {f : LF} (h : i.code = .l c f) (w : i.wf = true) : decodeL (encL c f) = .ok i := by
  obtain ⟨hc, k, hk, rfl⟩ := lTable_code h w
  rw [decodeL_of_code (encL_lt hc f).2 hk, lFields_encL]

theorem decodeB_encode {i : Instr} {c : Nat} {f : BF} (h : i.code = .b c f) : decodeB (encB c f) = .ok i := by
  obtain ⟨hc, k, hk, rfl⟩ := bTable_code h
  rw [decodeB_of_code (encB_lt hc f).2 hk, bFields_encB]

/-- The M slot has no map: its four operations are told apart by their codes and by MRPT (R96, R244). -/
theorem decodeM_encode {i : Instr} {c : Nat} {mrpt : Bool} {f : MF} (h : i.code = .m c mrpt f) : encM c f < 2 ^ 40 ∧ decodeM mrpt (encM c f) = .ok i := by
  cases i <;> cases h <;> refine ⟨(encM_lt (by decide) f).1, ?_⟩ <;> simp [decodeM, (encM_lt _ f).2, mFields_encM]

theorem decodeU_encode {i : Instr} {c : Nat} {f : UF} (h : i.code = .u c f) (w : i.wf = true) : decodeU (encU c f) = some i := by
  have fields := uFields_encU h w
  obtain ⟨hc, k, hk, rfl⟩ := uTable_code h w
  obtain ⟨lt, op⟩ := encU_lt hc f
  rw [decodeU_of_code op hk (by rw [fields, Nat.mod_eq_of_lt lt]) (by rw [fields, w]), fields]

/-! ## The literal form (R59) -/

/-- Words of 16 bits, the highest first, put below the upper part of the number that they are cut from. -/
theorem foldl_wordsOf (w m n : Nat) :
    ((List.range n).map fun j => w / 2 ^ (16 * (m + (n - 1 - j))) % 2 ^ 16).foldl (fun a x => a * 2 ^ 16 + x % 2 ^ 16) (w / 2 ^ (16 * (m + n))) = w / 2 ^ (16 * m) := by
  induction n generalizing m with
  | zero => rfl
  | succ n ih =>
    have init : (List.range n).map (fun j => w / 2 ^ (16 * (m + (n + 1 - 1 - j))) % 2 ^ 16) = (List.range n).map fun j => w / 2 ^ (16 * (m + 1 + (n - 1 - j))) % 2 ^ 16 :=
      List.map_congr_left fun j hj => by
        have lt := List.mem_range.mp hj
        have place : m + (n + 1 - 1 - j) = m + 1 + (n - 1 - j) := by omega
        rw [place]
    have start : m + (n + 1) = m + 1 + n := by omega
    have low : m + (n + 1 - 1 - n) = m := by omega
    have cut : w / 2 ^ (16 * (m + 1)) = w / 2 ^ (16 * m) / 2 ^ 16 := by rw [Nat.div_div_eq_div_mul, ← Nat.pow_add, Nat.mul_succ]
    rw [List.range_succ, List.map_append, List.foldl_append, init, start, ih (m + 1), List.map_singleton, List.foldl_cons, List.foldl_nil, low, cut]
    omega

theorem literalBundle_literalWords {w : Nat} (h : w < 2 ^ 384) : literalBundle ((literalWords w).drop 1) = w := by
  have words : (literalWords w).drop 1 = (List.range 24).map fun j => w / 2 ^ (16 * (0 + (24 - 1 - j))) % 2 ^ 16 :=
    List.map_congr_left fun j hj => by
      have lt := List.mem_range.mp hj
      have place : 368 - 16 * j = 16 * (0 + (24 - 1 - j)) := by omega
      rw [place]
  have width : 16 * (0 + 24) = 384 := rfl
  have top : w / 2 ^ (16 * (0 + 24)) = 0 := Nat.div_eq_of_lt (by rwa [width])
  have read := foldl_wordsOf w 0 24
  rw [top] at read
  rw [literalBundle, words, read, Nat.mul_zero, Nat.pow_zero, Nat.div_one]

/-- Settles O52: each slot's decoder reads the fields, and its map the operation, that the encoder wrote. -/
theorem encodeDecode : Obligations.EncodeDecode := by
  refine ⟨fun i w => ?_, fun w h => ⟨rfl, rfl, literalBundle_literalWords h⟩⟩
  unfold encode
  cases h : i.code with
  | s c f => exact ⟨rfl, (encS_lt (sTable_code h).1 f).1, decodeS_encode h⟩
  | v c f => exact ⟨rfl, (encV_lt (vTable_code h w).1 f).1, decodeV_encode h w⟩
  | l c f => exact ⟨rfl, (encL_lt (lTable_code h w).1 f).1, decodeL_encode h w⟩
  | b c f => exact ⟨rfl, (encB_lt (bTable_code h).1 f).1, decodeB_encode h⟩
  | m c mrpt f => exact ⟨rfl, decodeM_encode h⟩
  | u c f => exact ⟨rfl, (encU_lt (uTable_code h w).1 f).1, decodeU_encode h w⟩
  | event => rfl

/-- Settles O53. -/
theorem decodeWords : Obligations.DecodeWords := by
  refine ⟨rfl, rfl, rfl, rfl, rfl, rfl, rfl, rfl, rfl, rfl, rfl, rfl, rfl, rfl, rfl, ?_, rfl, rfl, rfl, rfl, ?_⟩
  · decide
  · decide +kernel

end Sys2Proof.Proofs
end

section
/-! PROOFS. The slots of a bundle: an MRPT bundle needs MCALL (R66), and a bundle of one operation means what the operation means alone (R58, R62, R73). -/

namespace Sys2Proof.Proofs

open Sys2Proof Sys2Proof.Machine Sys2Proof.Laws

/-! ## What a slot holds (R62 to R64) -/

/-- The header of a bundle word (R62). -/
def hdrOf (w : Nat) : BitVec 16 := BitVec.ofNat 16 (w / 2 ^ 368)

/-- What the decoder finds in the slot of `n` bits from bit `lo`, whose valid bit is `vb`. -/
def viewOf (w lo n vb : Nat) (dec : Nat → Except SlotRefusal Instr) : SlotView :=
  if hdrBit (hdrOf w) vb then (match dec (w / 2 ^ lo % 2 ^ n) with | .ok i => .op i | .error r => .refused r)
  else if w / 2 ^ lo % 2 ^ n = 0 then .empty else .dirty

/-- The slots in the order of CAUSE.SLOT (R83). -/
def allSlots : List Slot := [.s0, .s1, .v0, .v1, .m, .l0, .l1, .b]

/-- What the decoder finds in a slot of a bundle word. -/
def slotView (w : Nat) : Slot → SlotView
  | .s0 => viewOf w 328 40 381 decodeS
  | .s1 => viewOf w 288 40 380 decodeS
  | .v0 => viewOf w 232 56 379 decodeV
  | .v1 => viewOf w 176 56 378 decodeV
  | .m => viewOf w 136 40 377 (decodeM (hdrBit (hdrOf w) 373))
  | .l0 => viewOf w 88 48 376 decodeL
  | .l1 => viewOf w 40 48 375 decodeL
  | .b => viewOf w 16 24 374 decodeB

theorem decodeSlots_eq (w : Nat) : decodeSlots w = allSlots.map fun sl => (sl, slotView w sl) := rfl

theorem mem_decodeSlots (w : Nat) (sl : Slot) : (sl, slotView w sl) ∈ decodeSlots w := by
  have all : sl ∈ allSlots := by cases sl <;> simp [allSlots]
  rw [decodeSlots_eq]
  exact List.mem_map_of_mem all

theorem mem_decodeSlots_iff {w : Nat} {sl : Slot} {v : SlotView} : (sl, v) ∈ decodeSlots w ↔ v = slotView w sl := by
  refine ⟨fun h => ?_, fun h => h ▸ mem_decodeSlots w sl⟩
  rw [decodeSlots_eq] at h
  obtain ⟨sl', -, e⟩ := List.mem_map.mp h
  cases e
  rfl

theorem viewOf_op {w lo n vb : Nat} {dec : Nat → Except SlotRefusal Instr} {i : Instr} (h : viewOf w lo n vb dec = .op i) :
    hdrBit (hdrOf w) vb = true ∧ dec (w / 2 ^ lo % 2 ^ n) = .ok i := by
  unfold viewOf at h
  split at h
  next valid =>
    split at h <;> cases h
    next dec => exact ⟨valid, dec⟩
  next => split at h <;> cases h

theorem viewOf_empty {w lo n vb : Nat} {dec : Nat → Except SlotRefusal Instr} (h : viewOf w lo n vb dec = .empty) : hdrBit (hdrOf w) vb = false := by
  unfold viewOf at h
  split at h
  next => split at h <;> cases h
  next invalid => exact Bool.eq_false_iff.mpr invalid

theorem decodeM_ok {mrpt : Bool} {x : Nat} {i : Instr} (h : decodeM mrpt x = .ok i) :
    i = .mNop (mFields x) ∨ i = (if mrpt then .mcallRpt (mFields x) else .mcall (mFields x)) ∨ i = .mwait (mFields x) := by
  unfold decodeM at h
  split at h <;> cases h <;> simp

/-! ## A malformed bundle (R64, R66) -/

theorem sortNats_ne_nil {l : List Nat} {k : Nat} (h : k ∈ l) : sortNats l ≠ [] := by
  intro e
  have mem : k ∈ sortNats l := (List.mem_insertionSort _).mpr (List.mem_dedup.mpr h)
  simp [e] at mem

theorem malformed_of_slot {hdr bp : BitVec 16} {vs : List (Nat × SlotView)} {k : Nat} {v : SlotView} (hm : (k, v) ∈ vs)
    (hb : (slotBad hdr bp v || mrptBad hdr k v) = true) : ∃ j, malformed hdr bp vs = some j := by
  have bad : k ∈ vs.filterMap (fun p => if slotBad hdr bp p.2 || mrptBad hdr p.1 p.2 then some p.1 else none) ++ clashing (vs.map fun p => (p.1, viewDests p.2)) :=
    List.mem_append_left _ (List.mem_filterMap.mpr ⟨(k, v), hm, if_pos hb⟩)
  unfold malformed
  dsimp only
  split
  next j _ _ => exact ⟨j, rfl⟩
  next e => exact absurd e (sortNats_ne_nil bad)

theorem malformed_of_frame {hdr bp : BitVec 16} (vs : List (Nat × SlotView)) (hf : frameBad hdr bp = true) : ∃ j, malformed hdr bp vs = some j := by
  unfold malformed
  dsimp only
  split
  next j _ _ => exact ⟨j, rfl⟩
  next => exact ⟨8, if_pos hf⟩

theorem hdrMrpt_hdrOf {w : Nat} (h : w / 2 ^ 373 % 2 = 1) : hdrMrpt (hdrOf w) = true := by
  simp only [hdrMrpt, hdrOf, BitVec.getLsbD_ofNat, Nat.testBit_eq_decide_div_mod_eq, Nat.div_div_eq_div_mul, ← Nat.pow_add, Nat.reduceAdd, h]
  rfl

/-- Without a valid MCALL the M slot of an MRPT bundle offends by itself, or the header does. -/
theorem malformed_of_mrpt {w : Nat} (h : hdrMrpt (hdrOf w) = true) (hm : ∀ f, (Slot.m, SlotView.op (.mcallRpt f)) ∉ decodeSlots w) :
    ∃ k, malformed (hdrOf w) (BitVec.ofNat 16 w) (viewsOf w) = some k := by
  have mrpt : hdrBit (hdrOf w) 373 = true := h
  have slot : (Slot.m, viewOf w 136 40 377 (decodeM true)) ∈ decodeSlots w := mrpt ▸ mem_decodeSlots w .m
  have view : (4, viewOf w 136 40 377 (decodeM true)) ∈ viewsOf w := List.mem_map.mpr ⟨_, slot, rfl⟩
  cases valid : (hdrOf w).getLsbD 9 with
  | false => exact malformed_of_frame _ (by rw [frameBad, h, valid]; simp)
  | true =>
    have held : viewOf w 136 40 377 (decodeM true) = match decodeM true (w / 2 ^ 136 % 2 ^ 40) with | .ok i => .op i | .error r => .refused r := if_pos valid
    refine malformed_of_slot view ?_
    cases dec : decodeM true (w / 2 ^ 136 % 2 ^ 40) with
    | error r =>
      rw [held, dec]
      simp [mrptBad, h]
    | ok i =>
      rw [dec] at held
      rw [held] at slot ⊢
      obtain rfl | rfl | rfl := decodeM_ok dec
      · simp [slotBad, h, Instr.code]
      · exact absurd slot (hm _)
      · simp [slotBad, h, Instr.code]

/-- Settles O60: the bundle is malformed at its M slot or its header, and a malformed bundle traps when it is issued. -/
theorem mrptNeedsMcall : Obligations.MrptNeedsMcall := by
  intro w hdr slots views hw hm
  obtain ⟨k, hk⟩ := malformed_of_mrpt (hdrMrpt_hdrOf hw) hm
  exact ⟨⟨k, hk⟩, fun s s' len may _ fetched => ⟨k, bundleIssue_malformed may fetched hk⟩⟩

/-! ## Slots and the operations they hold (R62, R63) -/

/-- The code of an instruction that stands in a slot: the slot's own kind, and MRPT as the header has it. -/
def FitsSlot (mrpt : Bool) : Slot → SlotCode → Prop
  | .s0, .s _ _ | .s1, .s _ _ | .v0, .v _ _ | .v1, .v _ _ | .l0, .l _ _ | .l1, .l _ _ | .b, .b _ _ => True
  | .m, .m c rpt _ => c = 1 → rpt = mrpt
  | _, _ => False

theorem mem_of_lookupOp {α : Type} {l : List (Nat × α)} {c : Nat} {k : α} (h : lookupOp l c = some k) : (c, k) ∈ l := by
  induction l with
  | nil => cases h
  | cons p l ih =>
    unfold lookupOp at h
    split at h
    next e =>
      cases h
      exact e ▸ List.mem_cons_self
    next => exact List.mem_cons_of_mem _ (ih h)

theorem code_of_mem_sTable : ∀ p ∈ sTable, ∀ f, (p.2 f).code = .s p.1 f := by
  simp only [sTable, sTable0, sTable1, sTable2, sTable3, List.cons_append, List.nil_append, List.forall_mem_cons, List.not_mem_nil, IsEmpty.forall_iff, implies_true,
    and_true]
  and_intros <;> intro f <;> rfl

theorem code_of_mem_vTable : ∀ p ∈ vTable, ∀ f, (p.2 f).code = .v p.1 f := by
  simp only [vTable, vTable0, vTable1, vTable2, vTable3, List.cons_append, List.nil_append, List.forall_mem_cons, List.not_mem_nil, IsEmpty.forall_iff, implies_true,
    and_true, apply_ite Instr.code]
  and_intros <;> intro f <;> try split
  all_goals rfl

theorem code_of_mem_lTable : ∀ p ∈ lTable, ∀ f, (p.2 f).code = .l p.1 f := by
  simp only [lTable, lTable0, lTable1, lTable2, lTable3, lTable4, lTable5, List.cons_append, List.nil_append, List.forall_mem_cons, List.not_mem_nil,
    IsEmpty.forall_iff, implies_true, and_true]
  and_intros <;> intro f <;> try split
  all_goals rfl

theorem code_of_mem_bTable : ∀ p ∈ bTable, ∀ f, (p.2 f).code = .b p.1 f := by
  simp only [bTable, bTable0, List.forall_mem_cons, List.not_mem_nil, IsEmpty.forall_iff, implies_true, and_true]
  and_intros <;> intro f <;> rfl

theorem code_of_decodeS {x : Nat} {i : Instr} (h : decodeS x = .ok i) : ∃ c f, i.code = .s c f := by
  unfold decodeS at h
  split at h
  next k hk =>
    cases h
    exact ⟨_, _, code_of_mem_sTable _ (mem_of_lookupOp hk) _⟩
  next => split at h <;> cases h

theorem code_of_decodeV {x : Nat} {i : Instr} (h : decodeV x = .ok i) : ∃ c f, i.code = .v c f := by
  unfold decodeV at h
  split at h
  next k hk =>
    split at h
    · cases h
    · split at h
      · cases h
      · cases h
        exact ⟨_, _, code_of_mem_vTable _ (mem_of_lookupOp hk) _⟩
  next => split at h <;> cases h

theorem code_of_decodeL {x : Nat} {i : Instr} (h : decodeL x = .ok i) : ∃ c f, i.code = .l c f := by
  unfold decodeL at h
  split at h
  next k hk =>
    cases h
    exact ⟨_, _, code_of_mem_lTable _ (mem_of_lookupOp hk) _⟩
  next =>
    split at h
    · cases h
    · split at h <;> cases h

theorem code_of_decodeB {x : Nat} {i : Instr} (h : decodeB x = .ok i) : ∃ c f, i.code = .b c f := by
  unfold decodeB at h
  split at h
  next k hk =>
    cases h
    exact ⟨_, _, code_of_mem_bTable _ (mem_of_lookupOp hk) _⟩
  next =>
    split at h
    · cases h
    · split at h <;> cases h

theorem fitsSlot_of_view {w : Nat} {sl : Slot} {i : Instr} (h : slotView w sl = .op i) : FitsSlot (hdrMrpt (hdrOf w)) sl i.code := by
  cases sl with
  | s0 | s1 =>
    obtain ⟨c, f, e⟩ := code_of_decodeS (viewOf_op h).2
    simp [e, FitsSlot]
  | v0 | v1 =>
    obtain ⟨c, f, e⟩ := code_of_decodeV (viewOf_op h).2
    simp [e, FitsSlot]
  | l0 | l1 =>
    obtain ⟨c, f, e⟩ := code_of_decodeL (viewOf_op h).2
    simp [e, FitsSlot]
  | b =>
    obtain ⟨c, f, e⟩ := code_of_decodeB (viewOf_op h).2
    simp [e, FitsSlot]
  | m =>
    have mrpt : hdrBit (hdrOf w) 373 = hdrMrpt (hdrOf w) := rfl
    obtain rfl | rfl | rfl := decodeM_ok (viewOf_op h).2
    · simp [Instr.code, FitsSlot]
    · rw [mrpt]
      cases hdrMrpt (hdrOf w) <;> simp [Instr.code, FitsSlot]
    · simp [Instr.code, FitsSlot]

/-- What a slot may hold is executed alone in its bundle. -/
theorem exec_of_fits {mrpt : Bool} {sl : Slot} {i : Instr} (s : State) (h : FitsSlot mrpt sl i.code) : exec i s = s.issueAlone i (fxOf i) := by
  cases hc : i.code with
  | s | v | l | b | m => cases i <;> cases hc <;> rfl
  | u | event =>
    rw [hc] at h
    cases sl <;> cases h

/-! ## A bundle of one operation (R62, R63) -/

/-- The slot an operation stands in alone is the one that it stands in. -/
theorem aloneSlot_of_fits {mrpt : Bool} {sl : Slot} {i : Instr} (h : FitsSlot mrpt sl i.code) :
    aloneSlot i (sl == .s1 || sl == .v1 || sl == .l1) = (sl.num, slotValidBit sl) := by
  unfold aloneSlot
  cases hc : i.code <;> rw [hc] at h <;> cases sl <;> simp_all [FitsSlot, Slot.num, slotValidBit]

/-- The bit of a header that says that a slot is valid (R63). -/
def validAt : Slot → Nat
  | .s0 => 13 | .s1 => 12 | .v0 => 11 | .v1 => 10 | .m => 9 | .l0 => 8 | .l1 => 7 | .b => 6

theorem valid_of_op {w : Nat} {sl : Slot} {i : Instr} (h : slotView w sl = .op i) : (hdrOf w).getLsbD (validAt sl) = true := by
  cases sl <;> exact (viewOf_op h).1

theorem invalid_of_empty {w : Nat} {sl : Slot} (h : slotView w sl = .empty) : (hdrOf w).getLsbD (validAt sl) = false := by
  cases sl <;> exact (viewOf_empty h :)

theorem validAt_inj {sl sl' : Slot} : validAt sl' = validAt sl ↔ sl' = sl := by
  cases sl <;> cases sl' <;> decide

theorem slotValidBit_getLsbD (sl : Slot) : ∀ k < 16, (slotValidBit sl).getLsbD k = decide (k = validAt sl) := by
  cases sl <;> decide

/-- The bits of a header that are no valid bits: END, CKPT, MRPT, BL and the reserved ones (R63). -/
theorem frameBits_getLsbD : ∀ k < 16, (0xC03F : BitVec 16).getLsbD k = true ∨ (0xC03F : BitVec 16).getLsbD k = false ∧ ∃ sl ∈ allSlots, k = validAt sl := by
  decide

/-- A header whose one valid slot is `sl` is its own frame bits with that valid bit. -/
theorem header_of_valid {h : BitVec 16} {sl : Slot} (hv : ∀ sl', h.getLsbD (validAt sl') = decide (sl' = sl)) : (h &&& 0xC03F) ||| slotValidBit sl = h := by
  refine BitVec.eq_of_getLsbD_eq fun k hk => ?_
  rw [BitVec.getLsbD_or, BitVec.getLsbD_and, slotValidBit_getLsbD sl k hk]
  obtain frame | ⟨frame, sl', -, rfl⟩ := frameBits_getLsbD k hk
  · by_cases e : k = validAt sl
    · rw [frame, e, hv]
      simp
    · rw [frame]
      simp [e]
  · rw [frame, hv]
    simp [validAt_inj]

/-- The MRPT bit of a header that MCALL's form gives is the header's own (R244). -/
theorem mrpt_of_fits {h : BitVec 16} {rpt : Bool} {sl : Slot} {f : MF} (fits : FitsSlot (hdrMrpt h) sl (.m 1 rpt f)) :
    (if rpt = true then h ||| 0x0020 else h &&& 0xFFDF) = h := by
  have mrpt : rpt = h.getLsbD 5 := by
    cases sl with
    | m => exact fits rfl
    | _ => cases fits
  subst mrpt
  refine BitVec.eq_of_getLsbD_eq fun k hk => ?_
  cases h5 : h.getLsbD 5 <;> interval_cases k <;> simp_all

/-! ## Slots that hold nothing -/

/-- The slots that hold something. -/
def held (vs : List (Nat × SlotView)) : List (Nat × SlotView) := vs.filter fun p => p.2 != .empty

theorem filterMap_held {α : Type} {g : Nat × SlotView → Option α} (hg : ∀ k, g (k, .empty) = none) (vs : List (Nat × SlotView)) :
    vs.filterMap g = (held vs).filterMap g := by
  rw [held, List.filterMap_filter]
  refine List.filterMap_congr fun p _ => ?_
  obtain ⟨k, v⟩ := p
  by_cases e : v = .empty <;> simp [e, hg]

/-- An empty slot has no destination to share (R64). -/
theorem clashing_held (vs : List (Nat × SlotView)) : clashing (vs.map fun p => (p.1, viewDests p.2)) = clashing ((held vs).map fun p => (p.1, viewDests p.2)) := by
  induction vs with
  | nil => rfl
  | cons p vs ih =>
    have shares : ∀ ds : List Dest, ((held vs).map fun p => (p.1, viewDests p.2)).any (fun q => q.2.any fun d => ds.contains d)
        = (vs.map fun p => (p.1, viewDests p.2)).any fun q => q.2.any fun d => ds.contains d := by
      intro ds
      rw [held, List.any_map, List.any_map, List.any_filter]
      refine congrArg vs.any (funext fun q => ?_)
      by_cases e : q.2 = .empty <;> simp [e, viewDests]
    by_cases e : p.2 = .empty
    · have drop : held (p :: vs) = held vs := List.filter_cons_of_neg (by simp [e])
      have none : viewDests p.2 = [] := by rw [e]; rfl
      rw [drop, List.map_cons, clashing, none, ih]
      simp
    · have keep : held (p :: vs) = p :: held vs := List.filter_cons_of_pos (by simp [e])
      rw [keep, List.map_cons, List.map_cons, clashing, clashing, shares, ih]

theorem malformed_held {hdr bp : BitVec 16} (vs : List (Nat × SlotView)) : malformed hdr bp vs = malformed hdr bp (held vs) := by
  unfold malformed
  rw [clashing_held, filterMap_held fun k => by simp [slotBad, mrptBad]]

theorem slotOps_held (vs : List (Nat × SlotView)) : slotOps fxOf vs = slotOps fxOf (held vs) := filterMap_held (fun _ => rfl) vs

/-! ## The slot that an operation has to itself -/

section
variable {w : Nat} {sl : Slot} {i : Instr} (h : ((decodeSlots w).filter fun p => p.2 != .empty) = [(sl, .op i)])
include h

theorem solo_view : slotView w sl = .op i := by
  have mem : (sl, SlotView.op i) ∈ (decodeSlots w).filter fun p => p.2 != .empty := by simp [h]
  exact (mem_decodeSlots_iff.mp (List.mem_filter.mp mem).1).symm

theorem solo_others {sl' : Slot} (hne : sl' ≠ sl) : slotView w sl' = .empty := by
  by_contra held
  have mem : (sl', slotView w sl') ∈ (decodeSlots w).filter fun p => p.2 != .empty := List.mem_filter.mpr ⟨mem_decodeSlots w sl', by simp [held]⟩
  rw [h] at mem
  exact hne (by simpa using congrArg Prod.fst (List.mem_singleton.mp mem))

theorem solo_valid (sl' : Slot) : (hdrOf w).getLsbD (validAt sl') = decide (sl' = sl) := by
  by_cases e : sl' = sl
  · rw [decide_eq_true e, e, valid_of_op (solo_view h)]
  · rw [decide_eq_false e, invalid_of_empty (solo_others h e)]

theorem aloneHdr_of_solo {fr : Frame} (hf : fr = { hdr := hdrOf w, bp := BitVec.ofNat 16 w, second := sl == .s1 || sl == .v1 || sl == .l1 }) :
    aloneHdr i fr = hdrOf w := by
  have fits := fitsSlot_of_view (solo_view h)
  unfold aloneHdr
  rw [hf, aloneSlot_of_fits fits, header_of_valid (solo_valid h)]
  dsimp only
  split
  next rpt f hc =>
    rw [hc] at fits
    exact mrpt_of_fits fits
  next => rfl

theorem solo_views : held (viewsOf w) = [(sl.num, .op i)] := by
  rw [held, viewsOf, List.filter_map]
  exact congrArg _ h

/-- The operation alone in its bundle is presented as the bundle is. -/
theorem solo_malformed {hdr bp : BitVec 16} : malformed hdr bp (viewsOf w) = malformed hdr bp [(sl.num, .op i)] := by
  rw [malformed_held, solo_views h]

theorem solo_slotOps : slotOps fxOf (viewsOf w) = [{ slot := sl.num, i := i, fx := fxOf i }] := by
  rw [slotOps_held, solo_views h]
  rfl

end

theorem soloView_some {w : Nat} {i : Instr} {fr : Frame} (h : soloView w = some (i, fr)) : ∃ sl, ((decodeSlots w).filter fun p => p.2 != .empty) = [(sl, .op i)]
    ∧ fr = { hdr := hdrOf w, bp := BitVec.ofNat 16 w, second := sl == .s1 || sl == .v1 || sl == .l1 } := by
  unfold soloView at h
  split at h
  next sl j e =>
    cases h
    exact ⟨sl, e, rfl⟩
  next => cases h

theorem soloOp_some {s s' : State} {sid len w : Nat} {i : Instr} {fr : Frame} (h : s.soloOp sid = some (i, fr))
    (hf : s.fetchBundle sid (s.core sid).pc.toNat = .ok (len, w) s') : s.canIssue sid = true ∧ soloView w = some (i, fr) := by
  have may : s.canIssue sid = true := by
    by_contra stuck
    simp [State.soloOp, stuck] at h
  exact ⟨may, (soloOp_fetched may hf).symm.trans h⟩

/-- A bundle has the length that its first code word says (R59, R175). -/
theorem fetchBundle_length {s s1 s2 : State} {sid pc len w w0 : Nat} (hf : s.fetchBundle sid pc = .ok (len, w) s1) (hc : s.codeWord sid pc = .ok w0 s2) :
    len = bundleLength w0 := by
  unfold State.fetchBundle at hf
  rw [hc] at hf
  dsimp only at hf
  unfold bundleLength
  split at hf
  next => cases hf
  next =>
    split at hf
    next e =>
      split at hf <;> cases hf
      rw [if_pos e]
    next e =>
      rw [if_neg e]
      split at hf
      next =>
        cases hf
        rfl
      next => split at hf <;> cases hf

/-- Settles O56: the bundle and the operation alone present the same header, port, length and operation, and the same verdict on their form. -/
theorem soloBundlesAgree : Obligations.SoloBundlesAgree := by
  intro s s' i len w w0 hsolo hf hc
  obtain ⟨may, view⟩ := soloOp_some hsolo hf
  obtain ⟨sl, one, frame⟩ := soloView_some view
  have fits := fitsSlot_of_view (solo_view one)
  have hdr := aloneHdr_of_solo one frame
  have slot : aloneSlot i s.frame.second = (sl.num, slotValidBit sl) := by
    rw [frame]
    exact aloneSlot_of_fits fits
  have bp : s.frame.bp = BitVec.ofNat 16 w := by rw [frame]
  rw [bundleIssue_presents may hf, exec_of_fits s fits, solo_malformed one, presOf, solo_slotOps one, fetchBundle_length hf hc]
  simp only [State.issueAlone, may, hc, hdr, slot, bp]
  rfl

end Sys2Proof.Proofs
end

section
/-! PROOFS. Control registers (R81 to R90, R119, R169, R287 to R292): the numbers that CRR and CRW name, what they read and what they write. -/

namespace Sys2Proof.Proofs

open Sys2Proof Sys2Proof.Machine Sys2Proof.Laws

/-! ## The check of a number (R81, R87, R287) -/

theorem tenantReg_none (e : Env) {n : Nat} (h : 0x023 ≤ n) : e.tenantReg n = none := by
  unfold Env.tenantReg
  split <;> try omega
  rw [if_neg (by omega), if_neg (by omega)]

/-- The privileged numbers that name no register (R287 to R292). -/
def Unassigned (n : Nat) : Prop :=
  n ∈ [0x807, 0x80C] ∨ (0x80D ≤ n ∧ n ≤ 0x81F) ∨ (0x838 ≤ n ∧ n ≤ 0x83F) ∨ (0x864 ≤ n ∧ n ≤ 0x86F) ∨ 0x880 ≤ n

theorem privReg_none (e : Env) {n : Nat} (h : Unassigned n) : e.privReg n = none := by
  simp only [Unassigned, List.mem_cons, List.not_mem_nil, or_false] at h
  unfold Env.privReg
  split <;> try omega
  rw [if_neg (by omega), if_neg (by omega), if_neg (by omega), if_neg (by omega), if_neg (by omega)]

section
variable {e : Env} {n : Nat} (k : Verdict)

theorem ctrlChecked_tenant (h : n < 0x010 ∨ 0x01F < n ∧ n < 0x800) (hr : (e.tenantReg n).isSome = true) : e.ctrlChecked n k = k := by
  unfold Env.ctrlChecked
  rw [if_neg (by omega), if_neg (by omega), if_neg (by simp [Option.isSome_iff_ne_none.mp hr])]

theorem ctrlChecked_unassigned (h : 0x023 ≤ n ∧ n ≤ 0x7FF) : e.ctrlChecked n k = e.trap cIllegal := by
  unfold Env.ctrlChecked
  rw [if_neg (by omega), if_neg (by omega), if_pos (by simp [tenantReg_none e h.1])]

theorem ctrlChecked_tile (h : 0x010 ≤ n ∧ n ≤ 0x01F) : e.ctrlChecked n k = e.tileBound (n - 0x010) k := by
  unfold Env.ctrlChecked
  rw [if_neg (by omega), if_pos h]

theorem ctrlChecked_priv (h : 0x800 ≤ n) (hm : e.mill = false) : e.ctrlChecked n k = e.trap cPriv := by
  unfold Env.ctrlChecked
  rw [if_pos h, if_pos (by simp [hm])]

theorem ctrlChecked_mill (h : 0x800 ≤ n) (hm : e.mill = true) (hr : (e.privReg n).isSome = true) : e.ctrlChecked n k = k := by
  unfold Env.ctrlChecked
  rw [if_pos h, if_neg (by simp [hm]), if_neg (by simp [Option.isSome_iff_ne_none.mp hr])]

theorem ctrlChecked_millUnassigned (h : Unassigned n) (hm : e.mill = true) : e.ctrlChecked n k = e.trap cIllegal := by
  have hlo : 0x800 ≤ n := by
    simp only [Unassigned, List.mem_cons, List.not_mem_nil, or_false] at h
    omega
  unfold Env.ctrlChecked
  rw [if_pos hlo, if_neg (by simp [hm]), if_pos (by simp [privReg_none e h])]

theorem tileBound_in (h : n < e.t.ntile) : e.tileBound n k = k := if_neg (by omega)

theorem tileBound_out (h : e.t.ntile ≤ n) : e.tileBound n k = e.trap cRegBank n := if_pos h

end

/-! ## What CRR reads (R169) -/

/-- The number that CRR or CRW names, as the checks take it. -/
theorem imm_number {f : SF} {n : Nat} (h : (f.imm.setWidth 12).toNat = n) : f.imm.toNat % 4096 = n := (setWidth_toNat 12 f.imm).symm.trans h

section
variable {f : SF} {n : Nat} (hn : (f.imm.setWidth 12).toNat = n)
include hn

theorem fxCrr_tenant {e : Env} {v : Nat} (h : n < 0x010 ∨ 0x01F < n ∧ n < 0x800) (hr : e.tenantReg n = some v) : fxCrr f e = sX f v := by
  unfold fxCrr
  dsimp only
  rw [imm_number hn, if_neg (by omega), ctrlChecked_tenant _ h (by rw [hr]; rfl), hr]
  rfl

theorem fxCrr_tile {e : Env} (h : 0x010 ≤ n ∧ n ≤ 0x01F) (ht : n - 0x010 < e.t.ntile) : fxCrr f e = sX f (mget 0 e.c.tshape (n - 0x010)).toNat := by
  have reg : e.tenantReg n = some (mget 0 e.c.tshape (n - 0x010)).toNat := by
    unfold Env.tenantReg
    split <;> try omega
    rw [if_neg (by omega), if_pos h]
  unfold fxCrr
  dsimp only
  rw [imm_number hn, if_neg (by omega), ctrlChecked_tile _ h, tileBound_in _ ht, reg]
  rfl

theorem fxCrr_mill {e : Env} {v : Nat} (h : 0x800 ≤ n) (hm : e.mill = true) (hr : e.privReg n = some v) : fxCrr f e = sX f v := by
  unfold fxCrr
  dsimp only
  rw [imm_number hn, if_pos h, ctrlChecked_mill _ h hm (by rw [hr]; rfl), hr]
  rfl

end

theorem ofNat_mod_two64 (x : Nat) : BitVec.ofNat 64 (x % two64) = BitVec.ofNat 64 x :=
  BitVec.eq_of_toNat_eq (by simp [two64])

/-- STATUS in 64 bits: its sticky bits, and bit 16 in MILL mode (R82). -/
theorem ofNat_status (st : BitVec 8) (mill : Bool) :
    BitVec.ofNat 64 (st.toNat + if mill = true then 2 ^ 16 else 0) = st.setWidth 64 ||| if mill = true then 0x10000 else 0 := by
  have lt := st.isLt
  have join : 2 ^ 16 * 1 + st.toNat = 2 ^ 16 * 1 ||| st.toNat := Nat.two_pow_add_eq_or_of_lt (by omega) 1
  refine BitVec.eq_of_toNat_eq ?_
  cases mill
  · simp
  · have top : (0x10000 : Word).toNat = 2 ^ 16 * 1 := rfl
    rw [if_pos rfl, if_pos rfl, BitVec.toNat_ofNat, BitVec.toNat_or, BitVec.toNat_setWidth, Nat.mod_eq_of_lt (by omega), Nat.mod_eq_of_lt (by omega), top, Nat.or_comm,
      ← join, Nat.mul_one, Nat.add_comm]

section
variable {s s' : State} {len : Nat} {f : SF} {n : Nat} {V : Word} (hn : (f.imm.setWidth 12).toNat = n)
include hn

/-- A tenant number whose value is `g` of what the bundle sees (R81). -/
theorem crr_tenant (g : Env → Nat) (h : n < 0x010 ∨ 0x01F < n ∧ n < 0x800) (hr : ∀ e : Env, e.tenantReg n = some (g e))
    (hv : Ready s (.crr f) s' len → BitVec.ofNat 64 (g (s.aloneEnv s' s' (.crr f) len)) = V) : GivesX s (.crr f) s' len f.xd.toNat V := fun q =>
  gives_x rfl rfl (fun _ => fxCrr_tenant hn h (hr _)) ((ofNat_mod_two64 _).trans (hv q)) q

/-- A tenant number whose value stands in the core. -/
theorem crr_core (g : Core → Nat) (h : n < 0x010 ∨ 0x01F < n ∧ n < 0x800) (hr : ∀ e : Env, e.tenantReg n = some (g e.c)) (hv : BitVec.ofNat 64 (g s.me) = V) :
    GivesX s (.crr f) s' len f.xd.toNat V :=
  crr_tenant hn (fun e => g e.c) h hr fun q => by rw [ready_c q, hv]

theorem crr_tile (h : 0x010 ≤ n ∧ n ≤ 0x01F) (ht : n - 0x010 < (s.strand s.focus).ntile) :
    GivesX s (.crr f) s' len f.xd.toNat ((mget 0 s.me.tshape (n - 0x010)).setWidth 64) := fun q =>
  gives_x rfl rfl (fun _ => fxCrr_tile hn h (by rwa [ready_t q])) ((ofNat_mod_two64 _).trans (by rw [ready_c q, BitVec.ofNat_toNat])) q

/-- A privileged number whose value is `g` of what the bundle sees (R288 to R292). -/
theorem crr_mill (g : Env → Nat) (hm : isMill s.focus = true) (h : 0x800 ≤ n) (hr : ∀ e : Env, e.privReg n = some (g e))
    (hv : Ready s (.crr f) s' len → BitVec.ofNat 64 (g (s.aloneEnv s' s' (.crr f) len)) = V) : GivesX s (.crr f) s' len f.xd.toNat V := fun q =>
  gives_x rfl rfl (fun _ => fxCrr_mill hn h hm (hr _)) ((ofNat_mod_two64 _).trans (hv q)) q

/-- A privileged number whose value stands in the core. -/
theorem crr_millCore (g : Core → Nat) (hm : isMill s.focus = true) (h : 0x800 ≤ n) (hr : ∀ e : Env, e.privReg n = some (g e.c)) (hv : BitVec.ofNat 64 (g s.me) = V) :
    GivesX s (.crr f) s' len f.xd.toNat V :=
  crr_mill hn (fun e => g e.c) hm h hr fun q => by rw [ready_c q, hv]

end

/-- The word of the loop stack: its depth and the count of its innermost loop. -/
theorem loopState_eq (c : Core) : c.loopState = c.loops.length + 2 ^ 32 * (c.loops.map LoopEnt.count).headD 0 := by
  unfold Core.loopState
  cases c.loops <;> simp [Nat.mul_comm]

theorem mstrideReg (e : Env) {n : Nat} (h : 0x008 ≤ n ∧ n ≤ 0x00F) : e.tenantReg n = some (mget 0 e.c.mstride (n - 0x008)).toNat := by
  unfold Env.tenantReg
  split <;> try omega
  rw [if_pos h]

theorem mscratchReg (e : Env) {n : Nat} (h : 0x808 ≤ n ∧ n ≤ 0x80B) : e.privReg n = some (mget 0 e.c.mscratch (n - 0x808)).toNat := by
  unfold Env.privReg
  split <;> try omega
  rw [if_pos h]

/-- The two words of loop entry `k` (R292). -/
theorem loopReg (e : Env) {k : Nat} (hk : k < 4) : e.privReg (0x820 + 2 * k) = some ((e.c.loopEnt k).start + (e.c.loopEnt k).last * 2 ^ 32)
    ∧ e.privReg (0x821 + 2 * k) = some (e.c.loopEnt k).count := by
  interval_cases k <;> exact ⟨rfl, rfl⟩

theorem retReg (e : Env) {k : Nat} (hk : k < 16) : e.privReg (0x828 + k) = some ((e.c.retEnt k).addr + (e.c.retEnt k).depth * 2 ^ 32) := by
  interval_cases k <;> rfl

theorem shadowTagReg (e : Env) {n : Nat} (h : 0x840 ≤ n ∧ n ≤ 0x863) : e.privReg n = some (e.c.bshTag (n - 0x840)) := by
  unfold Env.privReg
  split <;> try omega
  rw [if_neg (by omega), if_neg (by omega), if_neg (by omega), if_pos h]

theorem shadowValReg (e : Env) {n : Nat} (h : 0x870 ≤ n ∧ n ≤ 0x87F) : e.privReg n = some (e.c.bshX (n - 0x870 + 16)) := by
  unfold Env.privReg
  split <;> try omega
  rw [if_neg (by omega), if_neg (by omega), if_neg (by omega), if_neg (by omega), if_pos h]

/-! ## BOOSTSTATE (R88): a bit for each key of a map whose value has a property -/

section
variable {α : Type} [DecidableEq α] {d : α} {lo : Nat} {m : AMap α}

theorem key_ge_of_mwfFrom (w : mwfFrom d lo m = true) {p : Nat × α} (h : p ∈ m) : lo ≤ p.1 := by
  induction m generalizing lo with
  | nil => simp at h
  | cons q m ih =>
    simp only [mwfFrom, Bool.and_eq_true, decide_eq_true_eq] at w
    obtain ⟨⟨above, -⟩, rest⟩ := w
    obtain rfl | h := List.mem_cons.mp h
    · exact above
    · have := ih rest h
      omega

theorem mget_of_mem (w : mwfFrom d lo m = true) {k : Nat} {v : α} (h : (k, v) ∈ m) : mget d m k = v := by
  induction m generalizing lo with
  | nil => simp at h
  | cons q m ih =>
    simp only [mwfFrom, Bool.and_eq_true, decide_eq_true_eq] at w
    obtain ⟨-, rest⟩ := w
    obtain rfl | h := List.mem_cons.mp h
    · simp [mget]
    · have above := key_ge_of_mwfFrom rest h
      dsimp only at above
      rw [mget, if_neg (by omega), if_neg (by omega), ih rest h]

/-- A bit for each key whose value has the property. -/
def keyBits (P : α → Bool) (m : AMap α) : Nat := (m.map fun p => if P p.2 then 2 ^ p.1 else 0).sum

variable {P : α → Bool}

theorem dvd_keyBits (w : mwfFrom d lo m = true) : 2 ^ lo ∣ keyBits P m := by
  refine List.dvd_sum fun x hx => ?_
  obtain ⟨p, hp, rfl⟩ := List.mem_map.mp hx
  split
  · exact Nat.pow_dvd_pow 2 (key_ge_of_mwfFrom w hp)
  · exact Nat.dvd_zero _

theorem testBit_keyBits (w : mwfFrom d lo m = true) (hd : P d = false) (k : Nat) : (keyBits P m).testBit k = P (mget d m k) := by
  induction m generalizing lo with
  | nil => simp [keyBits, mget, hd]
  | cons q m ih =>
    obtain ⟨j, v⟩ := q
    simp only [mwfFrom, Bool.and_eq_true, decide_eq_true_eq] at w
    obtain ⟨-, rest⟩ := w
    obtain ⟨r, hr⟩ := dvd_keyBits (P := P) rest
    have ih := ih rest
    have low : (if P v then 2 ^ j else 0) < 2 ^ (j + 1) := by
      have : 2 ^ j < 2 ^ (j + 1) := Nat.pow_lt_pow_right (by omega) (by omega)
      split <;> omega
    have cut : keyBits P ((j, v) :: m) = 2 ^ (j + 1) * r + if P v then 2 ^ j else 0 := by
      rw [← hr, Nat.add_comm]
      rfl
    rw [cut, Nat.testBit_two_pow_mul_add _ low, mget]
    rw [hr, Nat.testBit_two_pow_mul] at ih
    obtain lt | rfl | gt := Nat.lt_trichotomy k j
    · rw [if_pos (show k < j + 1 by omega), if_neg (show ¬ k = j by omega), if_pos lt, hd]
      cases P v <;> simp [Nat.ne_of_gt lt]
    · rw [if_pos (show k < k + 1 by omega), if_pos rfl]
      cases P v <;> simp
    · rw [if_neg (show ¬ k < j + 1 by omega), if_neg (show ¬ k = j by omega), if_neg (show ¬ k < j by omega), ← ih,
        decide_eq_true (show k ≥ j + 1 by omega), Bool.true_and]

theorem mget_of_keys_lt {hi k : Nat} (h : ∀ p ∈ m, p.1 < hi) (hk : hi ≤ k) : mget d m k = d := by
  by_contra hv
  have := h _ (mem_of_mget rfl hv)
  dsimp only at this
  omega

theorem keyBits_lt {hi : Nat} (w : mwfFrom d lo m = true) (hd : P d = false) (h : ∀ p ∈ m, p.1 < hi) : keyBits P m < 2 ^ hi :=
  Nat.lt_pow_two_of_testBit _ fun k hk => by rw [testBit_keyBits w hd, mget_of_keys_lt h hk, hd]

/-- What some value of a map has, some value read at a key has. -/
theorem any_range_eq_any {hi : Nat} (w : mwfFrom d lo m = true) (hd : P d = false) (h : ∀ p ∈ m, p.1 < hi) :
    (List.range hi).any (fun k => P (mget d m k)) = m.any fun p => P p.2 := by
  rw [Bool.eq_iff_iff, List.any_eq_true, List.any_eq_true]
  constructor
  · rintro ⟨k, -, hk⟩
    exact ⟨(k, mget d m k), mem_of_mget rfl fun e => by simp [e, hd] at hk, hk⟩
  · rintro ⟨⟨k, v⟩, hm, hv⟩
    exact ⟨k, List.mem_range.mpr (h _ hm), by rwa [mget_of_mem w hm]⟩

end

/-- Is a shadow entry live and poisoned? -/
def poisonedEntry (x : Shadow) : Bool := x.live && x.poison.isSome

/-- Is a shadow entry live at a level? -/
def liveAt (level : Nat) (x : Shadow) : Bool := x.live && x.level == level

/-- Bits 0 and 1 say whether the levels have entries, bits 2 up which entries are poisoned. -/
theorem boostState_eq (c : Core) : c.boostState =
    2 ^ 2 * keyBits poisonedEntry c.shadows + ((c.shadows.any fun p => liveAt 1 p.2).toNat + 2 * (c.shadows.any fun p => liveAt 2 p.2).toNat) := by
  have poison : (c.shadows.map fun p => if p.2.live && p.2.poison.isSome then 2 ^ (2 + p.1) else 0).sum = 2 ^ 2 * keyBits poisonedEntry c.shadows := by
    rw [keyBits, ← List.sum_map_mul_left]
    refine congrArg List.sum (List.map_congr_left fun p _ => ?_)
    rw [mul_ite, ← Nat.pow_add]
    rfl
  unfold Core.boostState
  dsimp only
  rw [poison, Nat.add_comm, Nat.mul_comm 2 (Bool.toNat _)]
  rfl

theorem boostState_bits {c : Core} (w : mwf {} c.shadows = true) (h : ∀ p ∈ c.shadows, p.1 < 36) :
    (∀ j, j < 2 → c.boostState.testBit j = (List.range 36).any fun k => (c.shadow k).live && (c.shadow k).level == j + 1)
    ∧ (∀ k, k < 36 → c.boostState.testBit (2 + k) = ((c.shadow k).live && (c.shadow k).poison.isSome)) ∧ c.boostState < 2 ^ 38 := by
  have levels (j : Nat) : (List.range 36).any (fun k => liveAt (j + 1) (c.shadow k)) = c.shadows.any fun p => liveAt (j + 1) p.2 := any_range_eq_any w rfl h
  have low : (c.shadows.any fun p => liveAt 1 p.2).toNat + 2 * (c.shadows.any fun p => liveAt 2 p.2).toNat < 2 ^ 2 := by
    have := Bool.toNat_le (c.shadows.any fun p => liveAt 1 p.2)
    have := Bool.toNat_le (c.shadows.any fun p => liveAt 2 p.2)
    omega
  rw [boostState_eq]
  refine ⟨fun j hj => ?_, fun k _ => ?_, ?_⟩
  · rw [Nat.testBit_two_pow_mul_add _ low, if_pos hj]
    refine Eq.trans ?_ (levels j).symm
    interval_cases j <;> cases c.shadows.any (fun p => liveAt 1 p.2) <;> cases c.shadows.any (fun p => liveAt 2 p.2) <;> rfl
  · rw [Nat.testBit_two_pow_mul_add _ low, if_neg (by omega), Nat.add_sub_cancel_left, testBit_keyBits w rfl]
    rfl
  · have := keyBits_lt (P := poisonedEntry) w rfl h
    omega

/-! ## What CRR of each number gives -/

section
variable {s s' : State} {i : Instr} {len : Nat} {f : SF}

theorem alone_t (a : Alone s i s' len) : (s.aloneEnv s' s' i len).t = s.strand s.focus := by
  obtain ⟨_, _, _, _, _, _, _, rfl⟩ := alone_frame a
  rfl

/-- The registers that an instruction alone reads, whatever is pending in its strand. -/
theorem alone_rx (a : Alone s i s' len) (r : Nat) : (s.aloneEnv s' s' i len).rx r = (s.me.rx r).toNat := by
  refine (rd_plain a.level .x r).trans ?_
  obtain ⟨_, _, _, _, _, _, _, rfl⟩ := alone_frame a
  rfl

theorem alone_shadow (a : Alone s i s' len) (k : Nat) : (s.aloneEnv s' s' i len).c.shadow k = {} := by
  have none : (s.aloneEnv s' s' i len).c.shadows = [] := a.shadows
  rw [Core.shadow, none]
  rfl

/-- A strand without shadows has the BOOSTSTATE 0 (R88). -/
theorem boostState_empty {c : Core} (h : c.shadows = []) : c.boostState = 0 := by
  rw [Core.boostState, h]
  rfl

theorem scopeWord_eq (q : Ready s i s' len) (hm : isMill s.focus = false) :
    (s.aloneEnv s' s' i len).scopeWord = (s.strand s.focus).scope + 2 ^ 12 * (s.strand s.focus).depth := by
  have tenant : (s.aloneEnv s' s' i len).mill = false := hm
  rw [Env.scopeWord, tenant, if_neg (by decide), ready_t q, Nat.mul_comm]

theorem scopeWord_mill (hm : isMill s.focus = true) : (s.aloneEnv s' s' i len).scopeWord = 0 := if_pos hm

theorem reelCfgWord_eq (q : Ready s i s' len) : (s.aloneEnv s' s' i len).reelCfgWord =
    s.me.reelPolicy.toNat + 2 ^ 3 * (s'.reelCfg s.focus).ringlog + 2 ^ 8 * (s'.reelCfg s.focus).spillmax + 2 ^ 16 * s.me.reel.shut.toNat
      + 2 ^ 17 * (s'.reelCfg s.focus).enabled.toNat := by
  simp only [Env.reelCfgWord, ready_c q, Nat.mul_comm]
  rfl

/-- Without shadows their registers read zero (R292). -/
theorem bshTag_empty (a : Alone s i s' len) (k : Nat) : (s.aloneEnv s' s' i len).c.bshTag k = 0 := by
  rw [Core.bshTag, alone_shadow a]
  rfl

theorem bshX_empty (a : Alone s i s' len) (k : Nat) : (s.aloneEnv s' s' i len).c.bshX k = 0 := by
  rw [Core.bshX, alone_shadow a]
  rfl

/-- The checks of a number, for an instruction that asks them first: a tile outside the share, an unassigned number, a privileged one (R81, R87, R287). -/
theorem number_traps (hx : exec i s = s.issueAlone i (fxOf i)) (a : Alone s i s' len) {n : Nat}
    (hi : ∃ k, fxOf i (s.aloneEnv s' s' i len) = (s.aloneEnv s' s' i len).ctrlChecked n k) :
    (0x010 ≤ n ∧ n ≤ 0x01F ∧ (s.strand s.focus).ntile ≤ n - 0x010 → Traps s i s' cRegBank (n - 0x010))
    ∧ (0x023 ≤ n ∧ n ≤ 0x7FF → Traps s i s' cIllegal)
    ∧ (0x800 ≤ n → isMill s.focus = false → Traps s i s' cPriv)
    ∧ (isMill s.focus = true → Unassigned n → Traps s i s' cIllegal) := by
  obtain ⟨k, hi⟩ := hi
  refine ⟨fun ⟨lo, hi', out⟩ => traps hx a (hi.trans ?_), fun h => traps hx a (hi.trans (ctrlChecked_unassigned k h)),
    fun h hm => traps hx a (hi.trans (ctrlChecked_priv k h hm)), fun hm h => traps hx a (hi.trans (ctrlChecked_millUnassigned k h hm))⟩
  rw [ctrlChecked_tile k ⟨lo, hi'⟩, tileBound_out k (by rwa [alone_t a])]

theorem crr_checks : ∃ k, fxOf (.crr f) (s.aloneEnv s' s' (.crr f) len) = (s.aloneEnv s' s' (.crr f) len).ctrlChecked (f.imm.setWidth 12).toNat k :=
  ⟨_, by rw [setWidth_toNat]; rfl⟩

theorem crw_checks : ∃ k, fxOf (.crw f) (s.aloneEnv s' s' (.crw f) len) = (s.aloneEnv s' s' (.crw f) len).ctrlChecked (f.imm.setWidth 12).toNat k :=
  ⟨_, by rw [setWidth_toNat]; rfl⟩

end

section
variable {s s' : State} {len : Nat} {f : SF} {n : Nat} (hn : (f.imm.setWidth 12).toNat = n)
include hn

/-- STATUS (R82). -/
theorem crr_status (h : n = 0x000) :
    GivesX s (.crr f) s' len f.xd.toNat (s.me.status.setWidth 64 ||| (if isMill s.focus then 0x10000 else 0)) := by
  subst h
  exact crr_tenant hn (fun e => e.c.statusWord e.mill) (by omega) (fun _ => rfl) fun q => by rw [ready_c q]; exact ofNat_status _ _

/-- The tenant numbers whose value stands in one field of the core. -/
theorem crr_fields :
    (n = 0x001 → GivesX s (.crr f) s' len f.xd.toNat s.me.cause)
    ∧ (n = 0x002 → GivesX s (.crr f) s' len f.xd.toNat s.me.epc)
    ∧ (n = 0x003 → GivesX s (.crr f) s' len f.xd.toNat (s.me.fmt.setWidth 64))
    ∧ (n = 0x004 → GivesX s (.crr f) s' len f.xd.toNat (s.me.mpc.setWidth 64))
    ∧ (n = 0x005 → GivesX s (.crr f) s' len f.xd.toNat (s.me.mrc.setWidth 64))
    ∧ (n = 0x006 → GivesX s (.crr f) s' len f.xd.toNat (BitVec.ofNat 64 (s.me.loops.length + 2 ^ 32 * ((s.me.loops.map LoopEnt.count).headD 0))))
    ∧ (0x008 ≤ n ∧ n ≤ 0x00F → GivesX s (.crr f) s' len f.xd.toNat ((mget 0 s.me.mstride (n - 0x008)).setWidth 64))
    ∧ (n = 0x022 → GivesX s (.crr f) s' len f.xd.toNat (s.me.shadown.setWidth 64)) := by
  refine ⟨?_, ?_, ?_, ?_, ?_, ?_, fun h => ?_, ?_⟩ <;> try rintro rfl
  · exact crr_core hn (fun c => c.cause.toNat) (by omega) (fun _ => rfl) (BitVec.ofNat_toNat ..)
  · exact crr_core hn (fun c => c.epc.toNat) (by omega) (fun _ => rfl) (BitVec.ofNat_toNat ..)
  · exact crr_core hn (fun c => c.fmt.toNat) (by omega) (fun _ => rfl) (BitVec.ofNat_toNat ..)
  · exact crr_core hn (fun c => c.mpc.toNat) (by omega) (fun _ => rfl) (BitVec.ofNat_toNat ..)
  · exact crr_core hn (fun c => c.mrc.toNat) (by omega) (fun _ => rfl) (BitVec.ofNat_toNat ..)
  · exact crr_core hn Core.loopState (by omega) (fun _ => rfl) (by rw [loopState_eq])
  · exact crr_core hn (fun c => (mget 0 c.mstride (n - 0x008)).toNat) (by omega) (fun e => mstrideReg e h) (BitVec.ofNat_toNat ..)
  · exact crr_core hn (fun c => c.shadown.toNat) (by omega) (fun _ => rfl) (BitVec.ofNat_toNat ..)

/-- The tenant numbers that tell of the strand, its reel and its shadows (R88 to R90). -/
theorem crr_strand :
    (n = 0x021 → isMill s.focus = false → GivesX s (.crr f) s' len f.xd.toNat (BitVec.ofNat 64 ((s.strand s.focus).scope + 2 ^ 12 * (s.strand s.focus).depth)))
    ∧ (n = 0x021 → isMill s.focus = true → GivesX s (.crr f) s' len f.xd.toNat 0)
    ∧ (n = 0x007 → GivesX s (.crr f) s' len f.xd.toNat 0)
    ∧ (n = 0x020 → GivesX s (.crr f) s' len f.xd.toNat (BitVec.ofNat 64
        (s.me.reelPolicy.toNat + 2 ^ 3 * (s'.reelCfg s.focus).ringlog + 2 ^ 8 * (s'.reelCfg s.focus).spillmax + 2 ^ 16 * s.me.reel.shut.toNat
          + 2 ^ 17 * (s'.reelCfg s.focus).enabled.toNat))) := by
  refine ⟨?_, ?_, ?_, ?_⟩ <;> rintro rfl
  · exact fun hm => crr_tenant hn Env.scopeWord (by omega) (fun _ => rfl) fun q => by rw [scopeWord_eq q hm]
  · exact fun hm => crr_tenant hn Env.scopeWord (by omega) (fun _ => rfl) fun _ => congrArg (BitVec.ofNat 64) (scopeWord_mill hm)
  · exact crr_tenant hn (fun e => e.c.boostState) (by omega) (fun _ => rfl) fun q =>
      congrArg (BitVec.ofNat 64) (boostState_empty (c := (s.aloneEnv s' s' _ len).c) q.alone.shadows)
  · exact crr_tenant hn Env.reelCfgWord (by omega) (fun _ => rfl) fun q => by rw [reelCfgWord_eq q]

/-- The privileged numbers whose value stands in the core (R288, R289, R292). -/
theorem crr_millFields (hm : isMill s.focus = true) :
    (n = 0x800 → GivesX s (.crr f) s' len f.xd.toNat (s.me.mtvec.setWidth 64))
    ∧ (n = 0x801 → GivesX s (.crr f) s' len f.xd.toNat (BitVec.ofNat 64 (s.me.intrap.toNat + 2 * s.me.mldepth + 16 * s.me.mrdepth)))
    ∧ (n = 0x802 → GivesX s (.crr f) s' len f.xd.toNat (s.me.mtval.setWidth 64))
    ∧ (n = 0x804 → GivesX s (.crr f) s' len f.xd.toNat (s.me.evmask.setWidth 64))
    ∧ (0x808 ≤ n ∧ n ≤ 0x80B → GivesX s (.crr f) s' len f.xd.toNat (mget 0 s.me.mscratch (n - 0x808))) := by
  refine ⟨?_, ?_, ?_, ?_, fun h => ?_⟩ <;> try rintro rfl
  · exact crr_millCore hn (fun c => c.mtvec.toNat) hm (by omega) (fun _ => rfl) (BitVec.ofNat_toNat ..)
  · exact crr_millCore hn (fun c => c.intrap.toNat + c.mldepth * 2 + c.mrdepth * 2 ^ 4) hm (by omega) (fun _ => rfl)
      (by rw [Nat.mul_comm _ 2, Nat.mul_comm _ (2 ^ 4)]; rfl)
  · exact crr_millCore hn (fun c => c.mtval.toNat) hm (by omega) (fun _ => rfl) (BitVec.ofNat_toNat ..)
  · exact crr_millCore hn (fun c => c.evmask.toNat) hm (by omega) (fun _ => rfl) (BitVec.ofNat_toNat ..)
  · exact crr_millCore hn (fun c => (mget 0 c.mscratch (n - 0x808)).toNat) hm (by omega) (fun e => mscratchReg e h) (BitVec.ofNat_toNat ..)

/-- The events, the free slots and the identity of a mill strand (R290, R291). -/
theorem crr_millDie (hm : isMill s.focus = true) :
    (n = 0x803 → GivesX s (.crr f) s' len f.xd.toNat
      (((s'.die (dieOf s.focus)).evpend &&& 0x1EFF ||| if (s'.die (dieOf s.focus)).faults.any (fun e => e.posted.isSome && !e.popped) then 0x100 else 0).setWidth 64))
    ∧ (n = 0x805 → GivesX s (.crr f) s' len f.xd.toNat (BitVec.ofNat 64
        (((List.range 4).map fun k => if (s'.strand (384 * dieOf s.focus + k)).st = .free then 2 ^ k else 0).sum)))
    ∧ (n = 0x806 → GivesX s (.crr f) s' len f.xd.toNat (BitVec.ofNat 64 (dieOf s.focus + 2 ^ 2 * slotOf s.focus))) := by
  refine ⟨?_, ?_, ?_⟩ <;> rintro rfl
  · exact crr_mill hn (fun e => (e.s.evPend (dieOf e.sid)).toNat) hm (by omega) (fun _ => rfl) fun _ => BitVec.ofNat_toNat ..
  · refine crr_mill hn (fun e => e.s.freeMask (dieOf e.sid)) hm (by omega) (fun _ => rfl) fun _ => ?_
    simp only [State.freeMask, beq_iff_eq]
    rfl
  · exact crr_mill hn (fun e => dieOf e.sid + slotOf e.sid * 4) hm (by omega) (fun _ => rfl) fun _ => by rw [Nat.mul_comm]; rfl

/-- The stack and shadow registers of a mill strand (R292). -/
theorem crr_millStacks (hm : isMill s.focus = true) :
    (∀ k, k < 4 →
      (n = 0x820 + 2 * k → GivesX s (.crr f) s' len f.xd.toNat (BitVec.ofNat 64 ((s.me.loopEnt k).start + 2 ^ 32 * (s.me.loopEnt k).last)))
      ∧ (n = 0x821 + 2 * k → GivesX s (.crr f) s' len f.xd.toNat (BitVec.ofNat 64 (s.me.loopEnt k).count)))
    ∧ (∀ k, k < 16 → n = 0x828 + k → GivesX s (.crr f) s' len f.xd.toNat (BitVec.ofNat 64 ((s.me.retEnt k).addr + 2 ^ 32 * (s.me.retEnt k).depth)))
    ∧ ((0x840 ≤ n ∧ n ≤ 0x863) ∨ (0x870 ≤ n ∧ n ≤ 0x87F) → GivesX s (.crr f) s' len f.xd.toNat 0) := by
  refine ⟨fun k hk => ⟨?_, ?_⟩, fun k hk => ?_, ?_⟩
  · rintro rfl
    exact crr_millCore hn (fun c => (c.loopEnt k).start + (c.loopEnt k).last * 2 ^ 32) hm (by omega) (fun e => (loopReg e hk).1) (by rw [Nat.mul_comm])
  · rintro rfl
    exact crr_millCore hn (fun c => (c.loopEnt k).count) hm (by omega) (fun e => (loopReg e hk).2) rfl
  · rintro rfl
    exact crr_millCore hn (fun c => (c.retEnt k).addr + (c.retEnt k).depth * 2 ^ 32) hm (by omega) (fun e => retReg e hk) (by rw [Nat.mul_comm])
  · rintro (h | h)
    · exact crr_mill hn (fun e => e.c.bshTag (n - 0x840)) hm (by omega) (fun e => shadowTagReg e h) fun q =>
        congrArg (BitVec.ofNat 64) (bshTag_empty q.alone _)
    · exact crr_mill hn (fun e => e.c.bshX (n - 0x870 + 16)) hm (by omega) (fun e => shadowValReg e h) fun q =>
        congrArg (BitVec.ofNat 64) (bshX_empty q.alone _)

end

/-! ## The shadow registers of any set of shadows (R88, R292) -/

section
variable {f : SF} {e : Env} {n : Nat} (hn : (f.imm.setWidth 12).toNat = n)
include hn

theorem fxCrr_boostState (h : n = 0x007) : fxCrr f e = sX f e.c.boostState := by
  subst h
  exact fxCrr_tenant hn (by omega) rfl

theorem fxCrr_shadowTag (hm : e.mill = true) {k : Nat} (hk : k < 36) (h : n = 0x840 + k) : fxCrr f e = sX f (e.c.bshTag k) := by
  subst h
  exact fxCrr_mill hn (by omega) hm (by rw [shadowTagReg e (by omega), Nat.add_sub_cancel_left])

theorem fxCrr_shadowVal (hm : e.mill = true) {k : Nat} (hk : k < 16) (h : n = 0x870 + k) : fxCrr f e = sX f (e.c.bshX (16 + k)) := by
  subst h
  exact fxCrr_mill hn (by omega) hm (by rw [shadowValReg e (by omega), Nat.add_sub_cancel_left, Nat.add_comm])

end

theorem bshTag_eq (c : Core) (k : Nat) : c.bshTag k = if (c.shadow k).live then (c.shadow k).reg + 2 ^ 9 + 2 ^ 10 * (c.shadow k).level
    + (match (c.shadow k).poison with | some p => 2 ^ 12 + 2 ^ 13 * p.1 | none => 0) else 0 := by
  unfold Core.bshTag
  dsimp only
  cases (c.shadow k).live
  · rfl
  · rw [Nat.mul_comm (2 ^ 10)]
    cases (c.shadow k).poison with
    | none => rfl
    | some p => dsimp only; rw [Nat.mul_comm (2 ^ 13)]; rfl

/-! ## What CRW writes (R169) -/

/-- The numbers whose register a write leaves: read-only to CRW, or written by the hardware alone (R81, R288 to R292). -/
def WrittenByNone (n : Nat) : Prop :=
  n ∈ [0x001, 0x002, 0x004, 0x006, 0x007, 0x021]
    ∨ (n = 0x801 ∨ n = 0x802 ∨ n = 0x806 ∨ (0x820 ≤ n ∧ n ≤ 0x837) ∨ (0x840 ≤ n ∧ n ≤ 0x863) ∨ (0x870 ≤ n ∧ n ≤ 0x87F))

theorem ctrlWrite_none (e : Env) {n : Nat} (v : Nat) (h : WrittenByNone n) : e.ctrlWrite n v = nothing := by
  simp only [WrittenByNone, List.mem_cons, List.not_mem_nil, or_false] at h
  unfold Env.ctrlWrite
  dsimp only
  split <;> try omega
  rw [if_neg (by omega), if_neg (by omega), if_neg (by omega)]

theorem ctrlWrite_mstride (e : Env) {n : Nat} (v : Nat) (h : 0x008 ≤ n ∧ n ≤ 0x00F) :
    e.ctrlWrite n v = .ok { core := fun c => { c with mstride := mset 0 c.mstride (n - 0x008) (BitVec.ofNat 32 v) } } := by
  unfold Env.ctrlWrite
  dsimp only
  split <;> try omega
  rw [if_pos h]

theorem ctrlWrite_tshape (e : Env) {n : Nat} (v : Nat) (h : 0x010 ≤ n ∧ n ≤ 0x01F) : e.ctrlWrite n v = e.writeTshape (n - 0x010) (v % 2 ^ 21) := by
  unfold Env.ctrlWrite
  dsimp only
  split <;> try omega
  rw [if_neg (by omega), if_pos h]

theorem ctrlWrite_mscratch (e : Env) {n : Nat} (v : Nat) (h : 0x808 ≤ n ∧ n ≤ 0x80B) :
    e.ctrlWrite n v = .ok { core := fun c => { c with mscratch := mset 0 c.mscratch (n - 0x808) (BitVec.ofNat 64 v) } } := by
  unfold Env.ctrlWrite
  dsimp only
  split <;> try omega
  rw [if_neg (by omega), if_neg (by omega), if_pos h]

theorem privReg_isSome (e : Env) {n : Nat} (lo : 0x800 ≤ n) (h : ¬ Unassigned n) : (e.privReg n).isSome = true := by
  simp only [Unassigned, List.mem_cons, List.not_mem_nil, or_false] at h
  by_contra h0
  rw [Option.not_isSome_iff_eq_none] at h0
  unfold Env.privReg at h0
  split at h0 <;> try cases h0
  split_ifs at h0
  simp only [imp_false] at *
  omega

theorem tenantReg_isSome (e : Env) {n : Nat} (h : n ≤ 0x022) : (e.tenantReg n).isSome = true := by
  by_contra h0
  rw [Option.not_isSome_iff_eq_none] at h0
  unfold Env.tenantReg at h0
  split at h0 <;> try cases h0
  split_ifs at h0
  simp only [imp_false] at *
  omega

/-- The powers of two from 16 to 65,536, and 0 (R90). -/
theorem shadownOk_iff (n : Nat) : shadownOk n = true ↔ n ∈ 0 :: (List.range 13).map (fun k => 2 ^ (k + 4)) := by
  have powers : (List.range 13).map (fun k => 2 ^ (k + 4)) = [16, 32, 64, 128, 256, 512, 1024, 2048, 4096, 8192, 16384, 32768, 65536] := by decide
  rw [powers, List.mem_cons, shadownOk, Bool.or_eq_true, beq_iff_eq, List.contains_iff_mem]

section
variable {s s' : State} {len : Nat} {f : SF} {n : Nat}

/-- The number passes its check in the environment of an instruction alone. -/
def Passes (s : State) (n : Nat) : Prop := ∀ (e : Env) (k : Verdict), e.sid = s.focus → e.t.ntile = (s.strand s.focus).ntile → e.ctrlChecked n k = k

theorem passes_tenant (h : n < 0x010 ∨ 0x01F < n ∧ n ≤ 0x022) : Passes s n := fun e k _ _ =>
  ctrlChecked_tenant k (by omega) (tenantReg_isSome e (by omega))

theorem passes_tile (h : 0x010 ≤ n ∧ n ≤ 0x01F) (ht : n - 0x010 < (s.strand s.focus).ntile) : Passes s n := fun _ k _ hn =>
  (ctrlChecked_tile k h).trans (tileBound_in k (by rwa [hn]))

theorem passes_mill (hm : isMill s.focus = true) (lo : 0x800 ≤ n) (h : ¬ Unassigned n) : Passes s n := fun e k hs _ =>
  ctrlChecked_mill k lo (by rw [Env.mill, hs, hm]) (privReg_isSome e lo h)

section
variable (hn : (f.imm.setWidth 12).toNat = n)
include hn

/-- CRW of a number that passes writes the value of its register. -/
theorem fxCrw_passes (p : Passes s n) (a : Alone s (.crw f) s' len) :
    fxOf (.crw f) (s.aloneEnv s' s' (.crw f) len) = (s.aloneEnv s' s' (.crw f) len).ctrlWrite n (s.me.rx f.xa.toNat).toNat := by
  show Env.ctrlChecked _ (f.imm.toNat % 4096) _ = _
  rw [imm_number hn, p _ _ rfl (congrArg Strand.ntile (alone_t a)), Env.xa, alone_rx a]

/-- A write that changes the core. -/
theorem crw_core (p : Passes s n) (g : Core → Core) {c : Core}
    (hw : ∀ e : Env, e.t.ntile = (s.strand s.focus).ntile → e.ctrlWrite n (s.me.rx f.xa.toNat).toNat = .ok { core := g })
    (hc : g s.me = c) (hf : c.flight = s.me.flight) (hl : c.loops = s.me.loops) (hpc : c.pc = s.me.pc) : SGives s (.crw f) s' len c :=
  gives_core rfl rfl (fun q => (fxCrw_passes hn p q.alone).trans (hw _ (congrArg Strand.ntile (ready_t q)))) hc hf hl hpc

/-- A write that is refused. -/
theorem crw_traps (p : Passes s n) {cause : Nat} (a : Alone s (.crw f) s' len)
    (hr : ∀ e : Env, e.t.ntile = (s.strand s.focus).ntile → e.ctrlWrite n (s.me.rx f.xa.toNat).toNat = e.trap cause) : Traps s (.crw f) s' cause :=
  traps rfl a ((fxCrw_passes hn p a).trans (hr _ (congrArg Strand.ntile (alone_t a))))

/-- A write that acts on the state of the die. -/
theorem crw_acts (p : Passes s n) (q : Ready s (.crw f) s' len) (act : State → State)
    (hw : ∀ e : Env, e.sid = s.focus → e.ctrlWrite n (s.me.rx f.xa.toNat).toNat = .ok { post := act }) : Acts s (.crw f) s' len { post := act } :=
  acts_of_ok q rfl rfl ((fxCrw_passes hn p q.alone).trans (hw _ rfl)) rfl (Nat.zero_le _) rfl rfl fun _ => .of_eq rfl

theorem crw_none (p : Passes s n) (h : WrittenByNone n) : SGives s (.crw f) s' len s.me :=
  crw_core hn p id (fun e _ => ctrlWrite_none e _ h) rfl rfl rfl rfl

/-- FMT is written five bundles later (R118); no write is pending. -/
theorem crw_fmt (h : n = 0x003) : SGives s (.crw f) s' len { s.me with fmtPend := [((s.me.rx f.xa.toNat).setWidth 17, 5)] } := by
  subst h
  intro q
  have none : s.me.fmtPend = [] := q.settled.fmt
  exact crw_core hn (passes_tenant (by omega)) (fun c => { c with fmtPend := c.fmtPend ++ [(BitVec.ofNat 17 (s.me.rx f.xa.toNat).toNat, 5)] })
    (fun _ _ => rfl) (by rw [none, BitVec.ofNat_toNat]; rfl) rfl rfl rfl q

/-- The tenant numbers whose write is one field of the core (R82, R86, R169). -/
theorem crw_fields :
    (n = 0x000 → SGives s (.crw f) s' len { s.me with status := s.me.status &&& ~~~((s.me.rx f.xa.toNat).setWidth 8) })
    ∧ (n = 0x005 → SGives s (.crw f) s' len { s.me with mrc := (s.me.rx f.xa.toNat).setWidth 32 })
    ∧ (0x008 ≤ n ∧ n ≤ 0x00F → SGives s (.crw f) s' len { s.me with mstride := mset 0 s.me.mstride (n - 0x008) ((s.me.rx f.xa.toNat).setWidth 32) }) := by
  refine ⟨?_, ?_, fun h => ?_⟩ <;> try rintro rfl
  · exact crw_core hn (passes_tenant (by omega)) _ (fun _ _ => rfl) (by rw [BitVec.ofNat_toNat]) rfl rfl rfl
  · exact crw_core hn (passes_tenant (by omega)) _ (fun _ _ => rfl) (by rw [BitVec.ofNat_toNat]) rfl rfl rfl
  · exact crw_core hn (passes_tenant (by omega)) _ (fun e _ => ctrlWrite_mstride e _ h) (by rw [BitVec.ofNat_toNat]) rfl rfl rfl

/-- A tile shape that its check passes is written, and one that is too large traps (R87). -/
theorem crw_tile (h : 0x010 ≤ n ∧ n ≤ 0x01F ∧ n - 0x010 < (s.strand s.focus).ntile) :
    (tshapeOk ((s.me.rx f.xa.toNat).setWidth 21).toNat = true →
      SGives s (.crw f) s' len { s.me with tshape := mset 0 s.me.tshape (n - 0x010) ((s.me.rx f.xa.toNat).setWidth 21) })
    ∧ (tshapeOk ((s.me.rx f.xa.toNat).setWidth 21).toNat = false → Alone s (.crw f) s' len → Traps s (.crw f) s' cIllegal) := by
  obtain ⟨lo, hi, share⟩ := h
  have write (e : Env) (ht : e.t.ntile = (s.strand s.focus).ntile) : e.ctrlWrite n (s.me.rx f.xa.toNat).toNat =
      if !tshapeOk ((s.me.rx f.xa.toNat).setWidth 21).toNat then e.trap cIllegal
      else .ok { core := fun c => { c with tshape := mset 0 c.tshape (n - 0x010) ((s.me.rx f.xa.toNat).setWidth 21) } } := by
    rw [ctrlWrite_tshape e _ ⟨lo, hi⟩, Env.writeTshape, tileBound_in _ (by rwa [ht]), ← setWidth_toNat, BitVec.ofNat_toNat, BitVec.setWidth_eq]
  constructor
  · intro ok
    exact crw_core hn (passes_tile ⟨lo, hi⟩ share) _ (fun e ht => (write e ht).trans (if_neg (by rw [ok]; decide))) rfl rfl rfl rfl
  · intro bad a
    exact crw_traps hn (passes_tile ⟨lo, hi⟩ share) a fun e ht => (write e ht).trans (if_pos (by rw [bad]; rfl))

/-- The reel's policy takes the values 0 to 2 (R89). -/
theorem crw_policy (h : n = 0x020) :
    ((s.me.rx f.xa.toNat).setWidth 2 ≠ 3 → SGives s (.crw f) s' len { s.me with reelPolicy := (s.me.rx f.xa.toNat).setWidth 2 })
    ∧ ((s.me.rx f.xa.toNat).setWidth 2 = 3 → Alone s (.crw f) s' len → Traps s (.crw f) s' cIllegal) := by
  subst h
  have three : (s.me.rx f.xa.toNat).setWidth 2 = 3 ↔ (s.me.rx f.xa.toNat).toNat % 4 = 3 := by
    rw [← BitVec.toNat_inj, setWidth_toNat]
    rfl
  constructor
  · intro ok
    exact crw_core hn (passes_tenant (by omega)) _ (fun _ _ => if_neg (mt three.mpr ok)) (by rw [BitVec.ofNat_toNat]) rfl rfl rfl
  · intro bad a
    exact crw_traps hn (passes_tenant (by omega)) a fun _ _ => if_pos (three.mp bad)

/-- SHADOWN takes 0 and the powers of two from 16 to 65,536, and starts its count again (R90, R119). -/
theorem crw_shadown (h : n = 0x022) :
    (((s.me.rx f.xa.toNat).setWidth 17).toNat ∈ 0 :: (List.range 13).map (fun k => 2 ^ (k + 4)) →
      SGives s (.crw f) s' len { s.me with shadown := (s.me.rx f.xa.toNat).setWidth 17, shcount := 0 })
    ∧ (((s.me.rx f.xa.toNat).setWidth 17).toNat ∉ 0 :: (List.range 13).map (fun k => 2 ^ (k + 4)) → Alone s (.crw f) s' len → Traps s (.crw f) s' cIllegal) := by
  subst h
  rw [← shadownOk_iff, setWidth_toNat]
  constructor
  · intro ok
    exact crw_core hn (passes_tenant (by omega)) _ (fun _ _ => if_neg (by rw [ok]; decide)) (by rw [BitVec.ofNat_toNat]) rfl rfl rfl
  · intro bad a
    exact crw_traps hn (passes_tenant (by omega)) a fun _ _ => if_pos (by rw [Bool.eq_false_of_not_eq_true bad]; rfl)

/-- The privileged numbers whose write is one field of the core (R288 to R291). -/
theorem crw_millFields (hm : isMill s.focus = true) :
    (n = 0x800 → SGives s (.crw f) s' len { s.me with mtvec := (s.me.rx f.xa.toNat).setWidth 32 })
    ∧ (n = 0x804 → SGives s (.crw f) s' len { s.me with evmask := (s.me.rx f.xa.toNat).setWidth 13 })
    ∧ (0x808 ≤ n ∧ n ≤ 0x80B → SGives s (.crw f) s' len { s.me with mscratch := mset 0 s.me.mscratch (n - 0x808) (s.me.rx f.xa.toNat) }) := by
  refine ⟨?_, ?_, fun h => ?_⟩ <;> try rintro rfl
  · exact crw_core hn (passes_mill hm (by omega) (by simp [Unassigned])) _ (fun _ _ => rfl) (by rw [BitVec.ofNat_toNat]) rfl rfl rfl
  · exact crw_core hn (passes_mill hm (by omega) (by simp [Unassigned])) _ (fun _ _ => rfl) (by rw [BitVec.ofNat_toNat]) rfl rfl rfl
  · refine crw_core hn (passes_mill hm (by omega) ?_) _ (fun e _ => ctrlWrite_mscratch e _ h) (by rw [BitVec.ofNat_toNat, BitVec.setWidth_eq]) rfl rfl rfl
    simp only [Unassigned, List.mem_cons, List.not_mem_nil, or_false]
    omega

/-- A write of EVPEND clears the events that it names, and one of MSPAWN starts a slot of the die (R290, R291). -/
theorem crw_millDie (hm : isMill s.focus = true) (q : Ready s (.crw f) s' len) :
    (n = 0x803 → Acts s (.crw f) s' len
      { post := fun t => t.updDie (dieOf s.focus) fun x => { x with evpend := x.evpend &&& ~~~((s.me.rx f.xa.toNat).setWidth 13 &&& 0x1EFF) } })
    ∧ (n = 0x805 → Acts s (.crw f) s' len
      { post := fun t => t.mspawn (dieOf s.focus) ((s.me.rx f.xa.toNat).toNat % 2 ^ 2) ((s.me.rx f.xa.toNat).toNat / 2 ^ 32) }) := by
  constructor <;> rintro rfl
  · refine crw_acts hn (passes_mill hm (by omega) (by simp [Unassigned])) q _ fun e he => ?_
    rw [← BitVec.ofNat_toNat, ← he]
    rfl
  · refine crw_acts hn (passes_mill hm (by omega) (by simp [Unassigned])) q _ fun e he => ?_
    rw [← he]
    rfl

end
end

/-! ## MSPAWN (R291) -/

theorem mspawn_held {t : State} {d k entry : Nat} (hk : k < 4) (h : (t.strand (384 * d + k)).st ≠ .free) : t.mspawn d k entry = t := by
  unfold State.mspawn
  rw [Nat.mod_eq_of_lt hk]
  exact if_pos h

theorem mspawn_free {t : State} {d k entry : Nat} (hk : k < 4) (h : (t.strand (384 * d + k)).st = .free) :
    t.mspawn d k entry = t.setStrand (384 * d + k) { Strand.mill k with
      st := .ready, core := millCore (384 * d + k) entry (t.core (384 * d + k)).v, ckpt := millCore (384 * d + k) entry (t.core (384 * d + k)).v } := by
  unfold State.mspawn
  rw [Nat.mod_eq_of_lt hk]
  exact if_neg (not_not.mpr h)

/-- What MSPAWN leaves in the strand that it starts. -/
theorem mspawn_spec (t : State) (d k entry : Nat) (hk : k < 4) :
    let sid := 384 * d + k
    ((t.strand sid).st ≠ .free → t.mspawn d k entry = t)
    ∧ ((t.strand sid).st = .free → let u := t.mspawn d k entry
        (u.strand sid).st = .ready ∧ (u.core sid).pc = BitVec.ofNat 32 entry ∧ (u.core sid).rx 7 = BitVec.ofNat 64 (whoOf sid)
        ∧ (u.core sid).status = 0 ∧ (u.core sid).loops = [] ∧ (u.core sid).rets = [] ∧ ∀ j, j ≠ sid → u.strand j = t.strand j) := by
  intro sid
  refine ⟨mspawn_held hk, fun h => ?_⟩
  intro u
  have started : u.strand sid = _ := (congrArg (State.strand · sid) (mspawn_free (entry := entry) hk h)).trans ((setStrand_strand ..).trans (if_pos rfl))
  have core : u.core sid = millCore sid entry (t.core sid).v := congrArg Strand.core started
  rw [started, core]
  refine ⟨rfl, rfl, ?_, rfl, rfl, rfl, fun j hj => ?_⟩
  · show mget 0 (mset 0 [] 7 _) 7 = _
    exact mget_mset_self ..
  · exact (congrArg (State.strand · j) (mspawn_free hk h)).trans ((setStrand_strand ..).trans (if_neg hj))

/-- Settles O6: each number by the lemma of its group; the checks come first for both instructions (`number_traps`), and what a ready strand reads or writes is
what its core, its strand or its die holds. -/
theorem controlRegisters : Obligations.ControlRegisters := by
  refine ⟨fun s s' len f => ?_, fun f e => ?_, fun _ w h => boostState_bits w h, fun s s' len f => ?_, fun t d k entry _ hk => mspawn_spec t d k entry hk⟩
  · intro n d c
    obtain ⟨cause, epc, fmt, mpc, mrc, loops, mstride, shadown⟩ := crr_fields (s := s) (s' := s') (len := len) (f := f) (n := n) rfl
    obtain ⟨scope, scopeMill, boost, reel⟩ := crr_strand (s := s) (s' := s') (len := len) (f := f) (n := n) rfl
    have checks (a : Alone s (.crr f) s' len) := number_traps rfl a crr_checks
    refine ⟨crr_status rfl, cause, epc, fmt, mpc, mrc, loops, scope, scopeMill, boost, reel, mstride, fun ⟨lo, hi, share⟩ => crr_tile rfl ⟨lo, hi⟩ share,
      fun h a => (checks a).1 h, shadown, fun h a => (checks a).2.1 h, fun h hm a => (checks a).2.2.1 h hm, fun hm => ?_⟩
    obtain ⟨mtvec, status, mtval, evmask, mscratch⟩ := crr_millFields (s' := s') (len := len) (f := f) (n := n) rfl hm
    obtain ⟨events, slots, identity⟩ := crr_millDie (s' := s') (len := len) (f := f) (n := n) rfl hm
    obtain ⟨loop, ret, shadow⟩ := crr_millStacks (s' := s') (len := len) (f := f) (n := n) rfl hm
    exact ⟨mtvec, fun h _ _ => status h, mtval, events, evmask, slots, identity, mscratch, loop, ret, shadow, fun h a => (checks a).2.2.2 hm h⟩
  · refine ⟨fxCrr_boostState rfl, fun hm => ⟨fun k hk h => ?_, fun k hk h => fxCrr_shadowVal rfl hm hk h⟩⟩
    exact (fxCrr_shadowTag rfl hm hk h).trans (congrArg (sX f) (bshTag_eq _ _))
  · intro n A c
    obtain ⟨status, mrc, mstride⟩ := crw_fields (s := s) (s' := s') (len := len) (f := f) (n := n) rfl
    have checks (a : Alone s (.crw f) s' len) := number_traps rfl a crw_checks
    refine ⟨status, fun h => crw_none rfl ?_ (.inl h), crw_fmt rfl, mrc, mstride, crw_tile rfl, fun h a => (checks a).1 h, crw_policy rfl, crw_shadown rfl,
      fun h a => (checks a).2.1 h, fun h hm a => (checks a).2.2.1 h hm, fun hm => ?_⟩
    · simp only [List.mem_cons, List.not_mem_nil, or_false] at h
      exact passes_tenant (by omega)
    obtain ⟨mtvec, evmask, mscratch⟩ := crw_millFields (s' := s') (len := len) (f := f) (n := n) rfl hm
    refine ⟨mtvec, fun h => crw_none rfl (passes_mill hm (by omega) ?_) (.inr h), fun h q => (crw_millDie rfl hm q).1 h, evmask, fun h q => (crw_millDie rfl hm q).2 h,
      mscratch, fun h a => (checks a).2.2.2 hm h⟩
    simp only [Unassigned, List.mem_cons, List.not_mem_nil, or_false]
    omega

end Sys2Proof.Proofs
end


section
/-! PROOFS. The register bank and the broadcast port of the V operations (R72, R79, R193). -/

namespace Sys2Proof.Proofs

open Sys2Proof Sys2Proof.Machine Sys2Proof.Laws

/-! ## A trap of the operation or of its port (R72, R79) -/

section
variable {s s' : State} {i : Instr} {len : Nat}

/-- An instruction alone is presented, whatever tile its port names (R25, R64, R247). -/
theorem issueAlone_of_presents (p : Presents s i s' len) : s.issueAlone i (fxOf i) = .next (s'.presentOk s.focus (s.alonePres i len)) := by
  obtain ⟨w, hw, hlen⟩ := p.fetch
  have live : (s.alonePres i len).live = s.alonePres i len := by
    unfold Pres.live State.alonePres
    obtain h | h := p.acts <;> simp [h]
  unfold State.issueAlone
  simp only [p.may, Bool.not_true, Bool.false_eq_true, if_false, hw, p.formed, State.present, p.quiet, hlen]
  exact congrArg (fun b => Host.Outcome.next (s'.presentOk s.focus b)) live

theorem presentOk_traps {b : Pres} {t : Trap}
    (h : firstTrap (s'.portTrap s.focus b) (State.evalSlots (s'.core s.focus).fmtStep s.focus b s' b.ops).2 = some t) :
    s'.presentOk s.focus b = s'.trapCycle s.focus t := by
  unfold State.presentOk
  simp only [h]

/-- The port of an instruction alone that is not boosted names a tile outside the share. -/
theorem portTrap_alone (hl : hdrBl (aloneHdr i s.frame) = 0) (hm : bpMode s.frame.bp = 3) (ht : (s'.strand s.focus).ntile ≤ bpSrc s.frame.bp % 16) :
    s'.portTrap s.focus (s.alonePres i len) =
      some { cause := cRegBank, slot := if (bpUse i).isSome then (aloneSlot i s.frame.second).1 else 8, info := bpSrc s.frame.bp % 16 } := by
  unfold State.portTrap State.alonePres
  cases h : (bpUse i).isSome <;> simp [h, hl, hm, ht]

/-- The port's trap is taken where the operation itself has none. -/
theorem port_traps (p : Presents s i s' len) (hx : exec i s = s.issueAlone i (fxOf i)) {fx : Fx} (hf : fxOf i (s.aloneEnv s' s' i len) = .ok fx) {t : Trap}
    (ht : s'.portTrap s.focus (s.alonePres i len) = some t) : exec i s = .next (s'.trapCycle s.focus t) := by
  have op := evalSlots_ok s' (s'.core s.focus).fmtStep s.focus (s.alonePres i len) { slot := (aloneSlot i s.frame.second).1, i := i, fx := fxOf i } fx
    p.level p.shadows hf
  rw [hx, issueAlone_of_presents p]
  refine congrArg Host.Outcome.next (presentOk_traps ?_)
  rw [ht]
  exact congrArg (fun r : State × List (SlotOp × Verdict) => firstTrap (some t) r.2) op

/-- The operation's own trap is taken where the port's is at the same slot. -/
theorem own_traps (p : Presents s i s' len) (hx : exec i s = s.issueAlone i (fxOf i)) {t u : Trap} (hf : fxOf i (s.aloneEnv s' s' i len) = .trap t)
    (ht : s'.portTrap s.focus (s.alonePres i len) = some u) (hs : u.slot = t.slot) : exec i s = .next (s'.trapCycle s.focus t) := by
  have op := evalSlots_trap s' (s'.core s.focus).fmtStep s.focus (s.alonePres i len) { slot := (aloneSlot i s.frame.second).1, i := i, fx := fxOf i } t
    p.level hf
  rw [hx, issueAlone_of_presents p]
  refine congrArg Host.Outcome.next (presentOk_traps ?_)
  rw [ht]
  refine (congrArg (fun r : State × List (SlotOp × Verdict) => firstTrap (some u) r.2) op).trans ?_
  exact if_neg (by omega)

end

/-! ## The check of the registers and of the port's tile (R79, R193) -/

section
variable {e : Env} {f : VF} {rs : List Nat} {k : Verdict}

theorem vBound_out {r : Nat} {out : List Nat} (h : (rs.filter fun r => e.t.bank ≤ r) = r :: out) : e.vBound rs k = e.trap cRegBank r := by
  have first : (rs.find? fun r => e.t.bank ≤ r) = some r := by rw [← List.head?_filter, h]; rfl
  rw [Env.vBound, first]

theorem vBound_in (h : (rs.filter fun r => e.t.bank ≤ r) = []) : e.vBound rs k = k := by
  have none : (rs.find? fun r => e.t.bank ≤ r) = none := by rw [← List.head?_filter, h]; rfl
  rw [Env.vBound, none]

theorem vChecked_unported (h : (rs.filter fun r => e.t.bank ≤ r) = []) (hp : f.bpsel = 0) : e.vChecked f rs k = k :=
  (vBound_in h).trans (if_pos hp)

theorem vChecked_port (h : (rs.filter fun r => e.t.bank ≤ r) = []) (hp : f.bpsel ≠ 0) (hm : bpMode e.bp = 3) (ht : e.t.ntile ≤ bpSrc e.bp % 16) :
    e.vChecked f rs k = e.trap cRegBank (bpSrc e.bp % 16) :=
  (vBound_in h).trans ((if_neg hp).trans ((if_pos hm).trans (if_pos ht)))

end

/-- A V operation that reads the operand fields `sels` and checks its registers before all else; it names the port where BPSEL is not zero. -/
structure VRow (i : Instr) (f : VF) (sels : List Nat) : Prop where
  alone : ∀ s, exec i s = s.issueAlone i (fxOf i)
  port : bpUse i = if f.bpsel = 0 then none else some (.lane (vCls f) f.width)
  checked : ∀ e, ∃ fx, fxOf i e = e.vChecked f (f.vd.toNat :: vRegs f sels) (.ok fx)

theorem vRow_of_mem {f : VF} {i : Instr} {sels : List Nat} (h : (i, sels) ∈ [(Instr.vmov f, [1]), (Instr.vadd f, [1, 2]), (Instr.vmul f, [1, 2]),
    (Instr.vfma f, [1, 2, 3]), (Instr.vand f, [1, 2]), (Instr.vrcp f, [1])]) : VRow i f sels := by
  simp only [List.mem_cons, Prod.mk.injEq, List.not_mem_nil, or_false] at h
  obtain ⟨rfl, rfl⟩ | ⟨rfl, rfl⟩ | ⟨rfl, rfl⟩ | ⟨rfl, rfl⟩ | ⟨rfl, rfl⟩ | ⟨rfl, rfl⟩ := h <;> exact ⟨fun _ => rfl, rfl, fun _ => ⟨_, rfl⟩⟩

section
variable {s s' : State} {i : Instr} {len : Nat} {f : VF} {sels : List Nat} (row : VRow i f sels)
include row

theorem VRow.traps_bank (a : Alone s i s' len) {r : Nat} {rs : List Nat}
    (h : ((f.vd.toNat :: vRegs f sels).filter fun r => (s.aloneEnv s' s' i len).t.bank ≤ r) = r :: rs) : Traps s i s' cRegBank r := by
  obtain ⟨fx, hfx⟩ := row.checked (s.aloneEnv s' s' i len)
  exact traps (row.alone s) a (hfx.trans (vBound_out h))

variable (p : Presents s i s' len) (h : ((f.vd.toNat :: vRegs f sels).filter fun r => (s.aloneEnv s' s' i len).t.bank ≤ r) = [])
  (hm : bpMode s.frame.bp = 3) (ht : (s'.strand s.focus).ntile ≤ bpSrc s.frame.bp % 16)
include p h hm ht

/-- The operation that names the port traps at its own slot. -/
theorem VRow.traps_port (hp : f.bpsel ≠ 0) : Traps s i s' cRegBank (bpSrc s.frame.bp % 16) := by
  obtain ⟨fx, hfx⟩ := row.checked (s.aloneEnv s' s' i len)
  refine own_traps p (row.alone s) (hfx.trans (vChecked_port h hp hm ht)) (portTrap_alone p.level hm ht) ?_
  rw [row.port, if_neg hp]
  rfl

/-- A port that the operation does not name traps at slot 8. -/
theorem VRow.traps_unnamed (hp : f.bpsel = 0) :
    exec i s = .next (s'.trapCycle s.focus { cause := cRegBank, slot := 8, info := bpSrc s.frame.bp % 16 }) := by
  obtain ⟨fx, hfx⟩ := row.checked (s.aloneEnv s' s' i len)
  refine port_traps p (row.alone s) (hfx.trans (vChecked_unported h hp)) ((portTrap_alone p.level hm ht).trans ?_)
  rw [row.port, if_pos hp]
  rfl

end

/-! ## The lanes of an operand (R72, R193) -/

section
variable (e : Env) (f : VF)

theorem opnd_reg (j : Nat) (h : f.bpsel ≠ 1) : e.a f j = laneOf f.width (e.rv f.va.toNat) j := by
  have field : ¬ f.bpsel.toNat = 1 := fun one => h (BitVec.eq_of_toNat_eq one)
  unfold Env.a Env.opnd
  rw [if_neg field]

theorem opnd_port (j : Nat) (h : f.bpsel = 1) : e.a f j = e.bpLane (vCls f) (vFmt f) f.width := by
  unfold Env.a Env.opnd
  rw [h]
  rfl

theorem bpLane_imm {c : LaneCls} {ff : FFmt} {w : Nat} (h : bpMode e.bp = 2) (hc : c ≠ .flt) : e.bpLane c ff w = toBits w (bpImm e.bp) := by
  unfold Env.bpLane
  simp only [h, hc, if_false]

theorem bpLane_shape {c : LaneCls} {ff : FFmt} {w : Nat} (h : bpMode e.bp = 3) : e.bpLane c ff w = (mget 0 e.c.tshape (bpSrc e.bp % 16)).toNat % 2 ^ w := by
  unfold Env.bpLane
  simp only [h]

theorem bpLane_raw {c : LaneCls} {ff : FFmt} {w : Nat} (h : bpMode e.bp = 1) (hl : bpLf e.bp = 0) : e.bpLane c ff w = e.rx (bpSrc e.bp) % 2 ^ w := by
  unfold Env.bpLane
  simp only [h, hl]

theorem bpLane_float {c : LaneCls} {ff : FFmt} {w : Nat} (h : bpMode e.bp = 1) (hl : bpLf e.bp = 1) : e.bpLane c ff w = bpFloat ff (e.rx (bpSrc e.bp)) := by
  unfold Env.bpLane
  simp only [h, hl]

theorem clampInt_eq {x lo hi : Int} (h : lo ≤ hi) : clampInt x lo hi = max lo (min x hi) := by
  unfold clampInt
  split <;> [skip; split] <;> omega

theorem bpLane_sint {ff : FFmt} {w : Nat} (h : bpMode e.bp = 1) (hl : bpLf e.bp = 2) :
    e.bpLane .sint ff w = toBits w (max (-2 ^ (w - 1)) (min (sext 64 (e.rx (bpSrc e.bp))) (2 ^ (w - 1) - 1))) := by
  have pos : (0 : Int) < 2 ^ (w - 1) := by positivity
  unfold Env.bpLane
  simp only [h, hl, if_true]
  rw [clampInt_eq (by omega)]

theorem bpLane_uint {ff : FFmt} {w : Nat} (h : bpMode e.bp = 1) (hl : bpLf e.bp = 2) :
    e.bpLane .uint ff w = toBits w (max 0 (min (sext 64 (e.rx (bpSrc e.bp))) (2 ^ w - 1))) := by
  have pos : (0 : Int) < 2 ^ w := by positivity
  unfold Env.bpLane
  simp only [h, hl, reduceCtorEq, if_false]
  rw [clampInt_eq (by omega)]

end

/-- Settles O20: the check of the registers comes first and that of the port's tile second, and the port's own trap stands at the slot that names it. -/
theorem vectorBankAndPort : Obligations.VectorBankAndPort := by
  refine ⟨fun s s' len f i sels hi => ?_, fun e f j => ?_⟩
  · have row := vRow_of_mem hi
    exact ⟨fun a r rs h => row.traps_bank a h, fun p h hm ht => ⟨row.traps_port p h hm ht, row.traps_unnamed p h hm ht⟩⟩
  · intro w x
    refine ⟨opnd_reg e f j, fun hp hm hl => ?_, fun hp hm hl _ n a d hx => ?_, fun hp hm hl hc => ?_, fun hp hm hl hc => ?_, fun hp hm hc => ?_, fun hp hm => ?_⟩ <;>
      rw [opnd_port e f j hp]
    · exact bpLane_raw e hm hl
    · rw [bpLane_float e hm hl, bpFloat, hx]
    · rw [hc, bpLane_sint e hm hl]
    · rw [hc, bpLane_uint e hm hl]
    · exact bpLane_imm e hm hc
    · exact bpLane_shape e hm

end Sys2Proof.Proofs
end

section
/-! PROOFS. The M slot: MCALL and its sequences, MWAIT and NOP (R77, R240, R243 to R245). -/

namespace Sys2Proof.Proofs

open Sys2Proof Sys2Proof.Machine Sys2Proof.Laws

/-! ## MPC (R77) -/

section
variable {s s' : State} {i : Instr} {len : Nat}

/-- The core after the issue of a bundle that only advances MPC. -/
theorem issue_mpc (c : Core) (b : Pres) (n : Nat) (hf : c.flight = []) (hm : c.fmtPend = []) (he : hdrEnd b.hdr = false)
    (hloop : ∀ l ∈ c.loops.head?, l.last ≠ c.pc.toNat) :
    (c.issue b [{ mpc := n }] false).tick = { c with mpc := c.mpc + BitVec.ofNat 32 n, pc := BitVec.ofNat 32 ((c.pc.toNat + b.len) % 2 ^ 32) } := by
  have issued := issue_plain c b { mpc := n } hm he rfl
  dsimp only [id] at issued
  rw [issued hloop, hf]
  exact tick_none _ rfl

/-- An instruction alone that only advances MPC. -/
theorem gives_mpc {n : Nat} (hx : exec i s = s.issueAlone i (fxOf i)) (hck : ckptOp i = false)
    (h : Ready s i s' len → fxOf i (s.aloneEnv s' s' i len) = .ok { mpc := n }) :
    SGives s i s' len { s.me with mpc := s.me.mpc + BitVec.ofNat 32 n } := by
  intro q
  obtain ⟨t, ht, core, same⟩ := alone_plain q.alone q.settled hck hx (h q) ⟨rfl, fun x => Calm.refl x, rfl, rfl, rfl⟩ (by simp)
  exact ⟨t, ht, core.trans (issue_mpc _ _ n q.settled.flight q.settled.fmt q.settled.noEnd q.settled.loops), same⟩

/-! ## A checkpoint alone (R215, R243, R337) -/

theorem base_ckpt (hck : ckptOp i = true) : s.base i s' = committedAt s' s.focus := if_pos hck

theorem committedAt_core (s : State) (sid j : Nat) : (committedAt s sid).core j = s.core j := by
  rw [committedAt, State.core, State.updStrand, setStrand_strand]
  split
  · next h => subst h; rfl
  · rfl

/-- A checkpoint that presents the same effect before and after the commit of its empty region takes it. -/
theorem acts_of_ckpt (q : Ready s i s' len) (hx : exec i s = s.issueAlone i (fxOf i)) (hck : ckptOp i = true) {fx0 fx : Fx}
    (h0 : fxOf i (s.aloneEnv s' s' i len) = .ok fx0) (h : fxOf i (s.aloneEnv s' (committedAt s' s.focus) i len) = .ok fx) (hst : fx.stores = [])
    (hn : fx.writes.length ≤ 64) : Acts s i s' len fx := by
  have stores : (s'.strand s.focus).stores = [] := by rw [ready_strand q, q.settled.stores]
  unfold Acts
  rw [hx, base_ckpt hck, hck]
  refine issueAlone_ckpt q.alone ⟨?_, ?_, ?_, ?_, ?_, ?_⟩ h0 h
  · have level : hdrBl (aloneHdr i s.frame) = 0 := q.alone.level
    simp [Pres.ckpt, State.alonePres, hck, level]
  · exact commitRegion_empty stores (by rw [ready_strand q, q.settled.copies])
  · rw [stores]
    rfl
  · rw [committedAt_core]
    exact q.alone.shadows
  · rw [hst]
    exact ⟨_, rfl⟩
  · have flights : (flightsOf fx.writes).length ≤ fx.writes.length := List.length_filterMap_le _ _
    rw [committedAt_core, ready_core q, q.settled.flight, List.length_nil]
    omega

end

/-! ## What an MCALL asks of the state, before and after the commit -/

/-- `t` answers an MCALL of the strand as `s` does: routines, shares, windows, the queue, the repeat sequence and the next number of a call. -/
structure SameCalls (s t : State) (sid : Nat) : Prop where
  routine : ∀ rout, t.routine sid rout = s.routine sid rout
  ntile : (t.strand sid).ntile = (s.strand sid).ntile
  nacc : (t.strand sid).nacc = (s.strand sid).nacc
  window : ∀ m7, t.window sid m7 = s.window sid m7
  spindle : ∀ g, t.spindle g = s.spindle g
  cluster : ∀ k, t.cluster k = s.cluster k
  next : t.nextId = s.nextId

theorem SameCalls.of_units {s t : State} {sid : Nat} (hm : t.mcxOf sid = s.mcxOf sid) (ht : (t.strand sid).ntile = (s.strand sid).ntile)
    (ha : (t.strand sid).nacc = (s.strand sid).nacc) (hw : ∀ m k, t.hw m k = s.hw m k) (hs : ∀ g, t.spindle g = s.spindle g)
    (hc : ∀ k, t.cluster k = s.cluster k) (hn : t.nextId = s.nextId) : SameCalls s t sid where
  routine rout := by rw [State.routine, State.imageOf, hm, hw, hs]; rfl
  ntile := ht
  nacc := ha
  window m7 := by rw [State.window, State.ownsBank, hm, hc]; rfl
  spindle := hs
  cluster := hc
  next := hn

theorem committedAt_calls (s : State) (sid : Nat) : SameCalls s (committedAt s sid) sid := by
  have strand : (committedAt s sid).strand sid = { s.strand sid with nBund := 0, undo := [], stores := [], heldCopies := [], reelAt := none } :=
    (setStrand_strand ..).trans (if_pos rfl)
  refine .of_units ?_ (by rw [strand]) (by rw [strand]) (fun _ _ => rfl) (fun _ => rfl) (fun _ => rfl) rfl
  rw [State.mcxOf, strand]
  rfl

section
variable {s t : State} {sid : Nat} (h : SameCalls s t sid)
include h

theorem SameCalls.repeatOf : t.repeatOf sid = s.repeatOf sid := by rw [State.repeatOf, h.spindle]; rfl

theorem SameCalls.winBusy (cl : Nat) (w : Option (Nat × Nat)) : t.winBusy cl w = s.winBusy cl w := by rw [State.winBusy, h.cluster]; rfl

theorem SameCalls.outstanding : t.outstanding sid = s.outstanding sid := by
  rw [State.outstanding, h.repeatOf, h.spindle]
  rfl

theorem SameCalls.mwaitMet (n tm am : Nat) : t.mwaitMet sid n tm am = s.mwaitMet sid n tm am := by
  rw [State.mwaitMet, h.outstanding]
  simp only [h.routine]
  rfl

end

/-- What MCALL answers in a state that answers as the environment's does. -/
theorem mcall_upon (e : Env) {t : State} (h : SameCalls e.s t e.sid) (f : MF) (n : Nat) : ({ e with s := t, now := t } : Env).mcall f n = e.mcall f n := by
  have ntile : ({ e with s := t, now := t } : Env).t.ntile = e.t.ntile := h.ntile
  have nacc : ({ e with s := t, now := t } : Env).t.nacc = e.t.nacc := h.nacc
  have bound (k : Verdict) : ({ e with s := t, now := t } : Env).bpBound k = e.bpBound k := by
    unfold Env.bpBound Env.tileBound
    rw [ntile]
    rfl
  unfold Env.mcall
  simp only [h.routine, h.window, h.spindle, h.repeatOf, h.winBusy, h.next, ntile, nacc, bound]
  rfl

theorem mwait_upon (e : Env) {t : State} (h : SameCalls e.s t e.sid) (f : MF) : fxMwait f { e with s := t, now := t } = fxMwait f e := by
  have ntile : ({ e with s := t, now := t } : Env).t.ntile = e.t.ntile := h.ntile
  have nacc : ({ e with s := t, now := t } : Env).t.nacc = e.t.nacc := h.nacc
  unfold fxMwait
  simp only [h.mwaitMet, ntile, nacc]
  rfl

/-! ## MCALL (R240, R243, R244) -/

/-- What an MCALL of `n` calls waits for. -/
def mcallWaits (s : State) (sid : Nat) (w : Option (Nat × Nat)) : List Wait :=
  (if 8 ≤ (s.spindle (gnumOf sid)).queue.length then [.queue] else []) ++ (if (s.repeatOf sid).isSome then [.rpt] else [])
    ++ (s.winBusy (clusterOf sid) w).map fun k => .granule (clusterOf sid) k

/-- The immediate of an MCALL: its own, or the port's value (R72, R243). -/
def mcallImm (e : Env) (f : MF) : Nat := (if f.bpi then e.bpWord else f.imm.toNat) % 2 ^ 20

/-- The registers of a routine that lie outside the share: tiles, then accumulators. -/
def outsideShare (t : Strand) (us : Uops) (imm : Nat) : List Nat :=
  (fpTiles us imm).filter (fun k => t.ntile ≤ k) ++ (fpAccs us imm).filter fun a => t.nacc ≤ a

/-- What an MCALL of `n` calls presents. -/
def mcallFx (sid : Nat) (c : Core) (next : Nat) (f : MF) (imm n : Nat) (w : Option (Nat × Nat)) : Fx :=
  { mpc := n
    post := fun t =>
      let k : Call := { id := t.nextId, sid := sid, rout := f.rout.toNat, imm := BitVec.ofNat 20 imm, flags := f.flags, fmt := c.fmt, tshape := c.tshape
                        m := c.m, mpc := c.mpc, pc := c.pc, win := w }
      let t := ({ t with nextId := t.nextId + 1 }).enqueue k
      if 1 < n then t.updSpindle (gnumOf sid) fun x =>
        { x with rpts := mset none x.rpts (slotOf sid) (some { k := 1, n := n, call := { k with id := next }, strides := c.mstride }) } else t }

/-- A tile of the port that lies in the share passes its check (R72). -/
theorem bpBound_in (e : Env) {P : Prop} [Decidable P] (h : P → bpMode e.bp = 3 → bpSrc e.bp % 16 < e.t.ntile) (k : Verdict) : (if P then e.bpBound k else k) = k := by
  split
  · next hP =>
    unfold Env.bpBound
    split
    · next hm => exact tileBound_in k (h hP hm)
    · rfl
  · rfl

section
variable (e : Env) (f : MF) {n : Nat}

theorem mcall_zero : e.mcall f 0 = .ok { mpc := 1 } := rfl

variable (hn : n ≠ 0)
include hn

theorem mcall_unknown (hr : e.s.routine e.sid f.rout.toNat = none) : e.mcall f n = e.trap cIllegal := by
  unfold Env.mcall
  rw [if_neg hn, hr]

variable {us : Uops} (hr : e.s.routine e.sid f.rout.toNat = some us) (hp : f.bpi = true → bpMode e.bp = 3 → bpSrc e.bp % 16 < e.t.ntile)
include hr hp

theorem mcall_share {r : Nat} {rs : List Nat} (h : outsideShare e.t us (mcallImm e f) = r :: rs) : e.mcall f n = e.trap cRegBank r := by
  unfold outsideShare mcallImm at h
  unfold Env.mcall
  rw [if_neg hn, hr]
  simp only [h]
  exact bpBound_in e hp _

variable (hs : outsideShare e.t us (mcallImm e f) = [])
include hs

theorem mcall_window {k : Nat} (hw : e.s.window e.sid (mget 0 e.c.m 7).toNat = .error k) : e.mcall f n = e.trap k := by
  unfold outsideShare mcallImm at hs
  unfold Env.mcall
  rw [if_neg hn, hr]
  simp only [hs, hw]
  exact bpBound_in e hp _

variable {w : Option (Nat × Nat)} (hw : e.s.window e.sid (mget 0 e.c.m 7).toNat = .ok w)
include hw

theorem mcall_waits (h : mcallWaits e.s e.sid w ≠ []) : e.mcall f n = .block (mcallWaits e.s e.sid w) id := by
  have some : (!(mcallWaits e.s e.sid w).isEmpty) = true := by simpa using h
  unfold mcallWaits at some
  unfold outsideShare mcallImm at hs
  unfold Env.mcall
  rw [if_neg hn, hr]
  simp only [hs, hw]
  refine (bpBound_in e hp _).trans ?_
  exact if_pos some

theorem mcall_ok (h : mcallWaits e.s e.sid w = []) : e.mcall f n = .ok (mcallFx e.sid e.c e.s.nextId f (mcallImm e f) n w) := by
  have none : ¬ (!(mcallWaits e.s e.sid w).isEmpty) = true := by simp [h]
  unfold mcallWaits at none
  unfold outsideShare at hs
  unfold mcallImm at hs ⊢
  unfold Env.mcall
  rw [if_neg hn, hr]
  simp only [hs, hw]
  refine (bpBound_in e hp _).trans ?_
  exact if_neg none

end

theorem filter_out_nil {l : List Nat} {n : Nat} (h : ∀ k ∈ l, k < n) : (l.filter fun k => n ≤ k) = [] := by
  rw [List.filter_eq_nil_iff]
  intro k hk
  have := h k hk
  simp only [decide_eq_true_eq]
  omega

/-- An MCALL of `n` calls, alone in its bundle or with MRPT. -/
structure CallRow (s : State) (i : Instr) (f : MF) (n : Nat) : Prop where
  alone : exec i s = s.issueAlone i (fxOf i)
  point : ckptOp i = true
  asks : ∃ m : Core → Nat, m s.me = n ∧ ∀ e, fxOf i e = e.mcall f (m e.c)

theorem callRow_of_mem {s : State} {f : MF} {i : Instr} {n : Nat} (h : (i, n) ∈ [(Instr.mcall f, 1), (Instr.mcallRpt f, s.me.mrc.toNat)]) : CallRow s i f n := by
  simp only [List.mem_cons, Prod.mk.injEq, List.not_mem_nil, or_false] at h
  obtain ⟨rfl, rfl⟩ | ⟨rfl, rfl⟩ := h
  · exact ⟨rfl, rfl, fun _ => 1, rfl, fun _ => rfl⟩
  · exact ⟨rfl, rfl, fun c => c.mrc.toNat, rfl, fun _ => rfl⟩

section
variable {s s' : State} {i : Instr} {len : Nat} {f : MF} {n : Nat} (row : CallRow s i f n) (q : Ready s i s' len)

include q in
theorem ready_nextId : s'.nextId = s.nextId := by
  obtain ⟨_, _, _, _, _, _, _, rfl⟩ := alone_frame q.alone
  rfl

include q in
theorem ready_cluster (k : Nat) : s'.cluster k = s.cluster k := by
  obtain ⟨_, _, _, _, _, _, _, rfl⟩ := alone_frame q.alone
  rfl

include q in
theorem ready_mcallWaits (w : Option (Nat × Nat)) : mcallWaits s' s.focus w = mcallWaits s s.focus w := by
  have waits : SameCalls s s' s.focus := .of_units (ready_mcx q) (by rw [ready_strand q]) (by rw [ready_strand q]) (ready_hw q) (ready_spindle q) (ready_cluster q)
    (ready_nextId q)
  rw [mcallWaits, waits.spindle, waits.repeatOf, waits.winBusy]
  rfl

include q in
theorem acting_ntile : (s.acting i s' len).t.ntile = (s.strand s.focus).ntile := by
  rw [← ready_strand q]
  show ((s.base i s').strand s.focus).ntile = _
  unfold State.base
  split
  · exact (committedAt_calls s' s.focus).ntile
  · rfl

include row q

theorem CallRow.first : fxOf i (s.aloneEnv s' s' i len) = (s.aloneEnv s' s' i len).mcall f n := by
  obtain ⟨m, hm, hf⟩ := row.asks
  rw [hf, ready_c q, hm]

/-- The commit of the region before the bundle leaves the answer. -/
theorem CallRow.second : fxOf i (s.aloneEnv s' (committedAt s' s.focus) i len) = (s.aloneEnv s' s' i len).mcall f n := by
  obtain ⟨m, hm, hf⟩ := row.asks
  have core : (s.aloneEnv s' (committedAt s' s.focus) i len).c = s.me := ready_c q
  rw [hf, core, hm]
  exact mcall_upon (s.aloneEnv s' s' i len) (committedAt_calls s' s.focus) f n

theorem CallRow.traps {cause info : Nat} (h : (s.aloneEnv s' s' i len).mcall f n = (s.aloneEnv s' s' i len).trap cause info) : Traps s i s' cause info :=
  Laws.traps row.alone q.alone ((row.first q).trans h)

theorem CallRow.blocks {ws : List Wait} (h : (s.aloneEnv s' s' i len).mcall f n = .block ws id) : Blocks s i s' ws :=
  blocks_of_block q row.alone ((row.first q).trans h) ((row.second q).trans h) fun _ => rfl

theorem CallRow.acts {fx : Fx} (h : (s.aloneEnv s' s' i len).mcall f n = .ok fx) (hst : fx.stores = []) (hw : fx.writes = []) : Acts s i s' len fx :=
  acts_of_ckpt q row.alone row.point ((row.first q).trans h) ((row.second q).trans h) hst (by rw [hw]; exact Nat.zero_le _)

end

/-! ## MWAIT (R245) -/

section
variable {s s' : State} {len : Nat} {f : MF}

theorem mwait_outside {e : Env} {r : Nat} {rs : List Nat} (h : ((maskBits 16 (f.imm.toNat % 2 ^ 16)).filter (fun t => e.t.ntile ≤ t)
    ++ (maskBits 4 (f.imm.toNat / 2 ^ 16)).filter fun a => e.t.nacc ≤ a) = r :: rs) : fxMwait f e = e.trap cRegBank r := by
  unfold fxMwait
  simp only [h]

theorem mwait_inside {e : Env} (ht : ∀ t ∈ maskBits 16 (f.imm.toNat % 2 ^ 16), t < e.t.ntile) (ha : ∀ a ∈ maskBits 4 (f.imm.toNat / 2 ^ 16), a < e.t.nacc) :
    fxMwait f e = if e.s.mwaitMet e.sid (f.flags.setWidth 3).toNat (f.imm.toNat % 2 ^ 16) (f.imm.toNat / 2 ^ 16) then .ok { mpc := 1 }
      else .block [.mwait (f.flags.setWidth 3).toNat (f.imm.toNat % 2 ^ 16) (f.imm.toNat / 2 ^ 16)] id := by
  rw [setWidth_toNat]
  unfold fxMwait
  simp only [filter_out_nil ht, filter_out_nil ha, List.append_nil]
  rfl

theorem mwait_now (q : Ready s (.mwait f) s' len) (ht : ∀ t ∈ maskBits 16 (f.imm.toNat % 2 ^ 16), t < (s.strand s.focus).ntile)
    (ha : ∀ a ∈ maskBits 4 (f.imm.toNat / 2 ^ 16), a < (s.strand s.focus).nacc) : fxOf (.mwait f) (s.aloneEnv s' s' (.mwait f) len) =
      if s'.mwaitMet s.focus (f.flags.setWidth 3).toNat (f.imm.toNat % 2 ^ 16) (f.imm.toNat / 2 ^ 16) then .ok { mpc := 1 }
      else .block [.mwait (f.flags.setWidth 3).toNat (f.imm.toNat % 2 ^ 16) (f.imm.toNat / 2 ^ 16)] id :=
  mwait_inside (by rwa [ready_t q]) (by rwa [ready_t q])

end

/-- Settles O35: the verdict of an MCALL is the same before and after the commit of its region (`mcall_upon`), and each case is a case of the verdict. -/
theorem matrixSlot : Obligations.MatrixSlot := by
  intro s s' len f g c up
  refine ⟨gives_mpc rfl rfl fun _ => rfl, fun i n hi q => ?_, ?_⟩
  · have row := callRow_of_mem hi
    intro e imm
    refine ⟨?_, fun hn hr => row.traps q (mcall_unknown _ f hn hr), fun hn hp us hr => ?_⟩
    · rintro rfl
      exact row.acts q (mcall_zero _ f) rfl rfl
    have port : f.bpi = true → bpMode e.bp = 3 → bpSrc e.bp % 16 < (s.aloneEnv s' s' i len).t.ntile := by
      rwa [ready_t q, ← acting_ntile q]
    refine ⟨fun r rs h => row.traps q (mcall_share _ f hn hr port (by rw [ready_t q]; exact h)), fun tiles accs => ?_⟩
    have share : outsideShare (s.aloneEnv s' s' i len).t us (mcallImm (s.aloneEnv s' s' i len) f) = [] := by
      rw [ready_t q, outsideShare]
      exact List.append_eq_nil_iff.mpr ⟨filter_out_nil tiles, filter_out_nil accs⟩
    have reads : (s.aloneEnv s' s' i len).c = s.me := ready_c q
    refine ⟨fun k hw => row.traps q (mcall_window _ f hn hr port share (by rw [reads]; exact hw)), fun w hw => ?_⟩
    have window : s'.window s.focus (mget 0 (s.aloneEnv s' s' i len).c.m 7).toNat = .ok w := by rw [reads]; exact hw
    have same := ready_mcallWaits q w
    constructor
    · intro h
      have blocked := row.blocks q (mcall_waits _ f hn hr port share window fun none => h (same.symm.trans none))
      have waits : mcallWaits (s.aloneEnv s' s' i len).s (s.aloneEnv s' s' i len).sid w = mcallWaits s s.focus w := same
      rw [waits] at blocked
      exact blocked
    · intro h
      have queued := row.acts q (mcall_ok _ f hn hr port share window (same.trans h)) rfl rfl
      rw [reads] at queued
      have next : (s.aloneEnv s' s' i len).s.nextId = s.nextId := ready_nextId q
      rw [next] at queued
      exact queued
  · intro n tm am
    refine ⟨fun r rs h a => traps rfl a (mwait_outside (by rw [alone_t a]; exact h)), fun ht ha => ⟨fun met => ?_, fun unmet q => ?_⟩⟩
    · exact gives_mpc rfl rfl fun q => (mwait_now q ht ha).trans (if_pos met)
    · have now := (mwait_now q ht ha).trans (if_neg (by rw [unmet]; decide))
      exact blocks_of_block q rfl now ((mwait_upon (s.aloneEnv s' s' (.mwait f) len) (committedAt_calls s' s.focus) f).trans now) fun _ => rfl

end Sys2Proof.Proofs
end

section
/-! PROOFS. A region that holds a physical store and a store under a key index to one sector (R286, R337, R388, R389). -/

namespace Sys2Proof.Proofs

open Sys2Proof Sys2Proof.Machine Sys2Proof.Laws

/-- A withheld store that is placed, and meets no fault as it reaches memory, stays as it is (R337 step 1). -/
theorem resolveStore_placed {s : State} {sid : Nat} {done : List PStore} {p : PStore} (hp : p.pend = none) (hf : s.storeFault (s.mcxOf sid) done p p.loc = none) :
    s.resolveStore sid done p = .ok (p, s) := by
  simp only [State.resolveStore, hp, hf]

/-- A store to physical memory (R286). -/
def physStore : PStore := { loc := .phys 0x20000, bytes := [1] }

/-- A store under key index 1 to the byte that follows, in the same sector. -/
def keyedStore : PStore := { loc := .hbm 0x20001 1, bytes := [2] }

/-- A key slot of tenant 1. -/
def tenantKey : KeySlot := { model := false, tenant := 1, kxts := [], kmac := [], kgcm := [] }

/-- Strand 4 withholds both stores; key index 1 is its tenant's, and memory has never been written. -/
def mixedRegion : State :=
  { strands := [(4, { st := .running, stores := [physStore, keyedStore] })]
    keng := { slots := [(0, some tenantKey), (1, some tenantKey)] } }

/-- Both stores are placed, and none meets a fault before the commit. -/
theorem mixedRegion_resolves : mixedRegion.resolveStores 4 (mixedRegion.strand 4).stores = .ok ([physStore, keyedStore], mixedRegion) := by
  have phys : mixedRegion.resolveStore 4 [] physStore = .ok (physStore, mixedRegion) := resolveStore_placed rfl rfl
  have keyed : mixedRegion.resolveStore 4 [physStore] keyedStore = .ok (keyedStore, mixedRegion) := resolveStore_placed rfl (by decide +kernel)
  have stores : (mixedRegion.strand 4).stores = [physStore, keyedStore] := rfl
  simp only [stores, State.resolveStores, State.resolveFrom, phys, keyed, List.nil_append]

/-- Before the commit the sector is not live, and no cache holds its line. -/
theorem mixedRegion_sector : mixedRegion.otherTag 0x400 1 = false ∧ (mixedRegion.sect 0x400).live = false := by decide +kernel

/-- The physical store leaves the sector under key index 0 (R388), so that the store under key index 1 fails its MAC (R389): the commit leaves a trap pending in
the strand (R439). -/
theorem mixedRegion_traps : (mixedRegion.commitStores 4 [physStore, keyedStore]).strand 4 ≠ { mixedRegion.strand 4 with
    nBund := 0, reelAt := none, undo := [], stores := [], heldCopies := [] } := by
  have pending : ((mixedRegion.commitStores 4 [physStore, keyedStore]).strand 4).engTrap = some cMemUe := by decide +kernel
  intro h
  rw [h] at pending
  cases pending

/-- Refutes O26: its last part allows stores of both kinds in one region, and asks of their sectors only how they stand before the commit. In `mixedRegion` the
first store seals the sector that the second is to write under another key index; the second fails, and the strand is not left as the statement says. -/
theorem not_storesSeenAndCommitted : ¬ Obligations.StoresSeenAndCommitted := by
  rintro ⟨-, -, -, -, commits⟩
  have places : ∀ q ∈ [physStore, keyedStore], (∃ cl a, q.loc = .spad cl a) ∨ (∃ a, q.loc = .phys a) ∨ ∃ a, q.loc = .hbm a 1 := by
    intro q hq
    obtain rfl | rfl := by simpa using hq
    · exact .inr (.inl ⟨_, rfl⟩)
    · exact .inr (.inr ⟨_, rfl⟩)
  obtain ⟨t, committed, strand, -⟩ := commits mixedRegion mixedRegion 4 1 [physStore, keyedStore] mixedRegion_resolves places (by
    rintro n ⟨q, hq, a, ha, hn⟩
    obtain rfl | rfl := by simpa using hq
    · cases ha
    · cases ha
      obtain rfl : n = 0x400 := by simpa [sectorsOf, keyedStore] using hn
      obtain ⟨tag, live⟩ := mixedRegion_sector
      exact ⟨tag, .inl fun h => by rw [live] at h; cases h⟩)
  have eq : t = mixedRegion.commitStores 4 [physStore, keyedStore] := by
    unfold State.commitRegion at committed
    rw [mixedRegion_resolves] at committed
    exact (Except.ok.inj committed).symm
  rw [eq] at strand
  exact mixedRegion_traps strand

end Sys2Proof.Proofs
end

section
/-! PROOFS. A tenant's first SPSTEP, whose read of the placement word is charged (R258, R373). -/

namespace Sys2Proof.Proofs

open Sys2Proof Sys2Proof.Machine Sys2Proof.Laws

/-- An SPSTEP of tiles 0 and 1 into accumulator 0. -/
def firstStep : UF := { tb := 1 }

/-- A running INT8 call of strand 4: tile 0 has one row of eight elements, and tile 1 one row of the one value that it stores of them. -/
def firstCall : Call :=
  { id := 1, sid := 4, rout := 5, imm := 0, flags := 0, fmt := 0x88, tshape := [(0, 0x3808), (1, 8)], m := [], mpc := 0, pc := 0, win := none
    started := true }

/-- Context 0 has one metadata word, at address 0 of HBM, in a page that bypasses the caches: a placement word with N = 1, whose masks lie at offset 0 of the
scratchpad. -/
def placedWord : State :=
  { focus := 4
    strands := [(4, { st := .running, ntile := 4, nacc := 1 })]
    spindles := [(1, { queue := [firstCall] })]
    clusters := [(0, { banks := [(0, { mode := .scratch, owner := .ctx 0 })] })]
    ctxs := [(0, some { die := 0, host := List.replicate 9 0 ++ [1] })]
    tlb := [{ mcx := 0, base := 0, size := 65536, leaf := 0xAB }]
    hbm := [(2, 0x80)] }

/-- The call once the placement word is read. -/
def firstCallPlaced : Call := { firstCall with placement := some 0x800000, maskCur := 0 }

theorem placedWord_running : Running placedWord firstCall := ⟨by decide +kernel, rfl, rfl⟩

theorem placedWord_place : placedWord.ctxPlace 0 0 .fetch = .ok ({ loc := .hbm 0 0, ea := 0 }, placedWord) := by rfl

theorem placedWord_read : placedWord.readPlace { loc := .hbm 0 0, ea := 0 } 4 = .ok [0, 0, 0x80, 0] := by rfl

theorem firstCall_shapes : firstCall.stepShapes firstStep = .ok (⟨8, 1, 8⟩, ⟨8, 1, 1⟩) := by rfl

/-- The transfers that wait at the channels after a micro-op that is done. -/
def doneChans : UopOut → Option (AMap Chan)
  | .done t _ => some t.chans
  | _ => none

theorem doneChans_some {o : UopOut} {x : AMap Chan} (h : doneChans o = some x) : ∃ t d, o = .done t d ∧ t.chans = x := by
  cases o with
  | done t d => exact ⟨t, d, rfl, Option.some.inj h⟩
  | _ => cases h

/-- The transfers that wait at the channels after an answer. -/
def nextChans : Result → Option (AMap Chan)
  | .next t => some t.chans
  | _ => none

/-- The step itself sends nothing to a channel. -/
theorem placedWord_step : doneChans (uopStep true firstStep placedWord firstCallPlaced) = some [] := by decide +kernel

/-- The instruction sends channel 0 the read of the placement word. -/
theorem placedWord_exec : nextChans (exec (.spstep firstStep) placedWord) = some [(0, { waiting := [⟨some 0, 1⟩] })] := by decide +kernel

/-- Refutes O39: a tenant's first SPSTEP also charges the read of its placement word (R258, R373), which the statement leaves out of the answer. In `placedWord`
the read waits at channel 0; in the state that the statement gives, no transfer waits. -/
theorem not_matrixSteps : ¬ Obligations.MatrixSteps := by
  rintro ⟨micro, -⟩
  obtain ⟨-, first, -⟩ := micro placedWord firstCall firstStep placedWord_running
  obtain ⟨-, reads⟩ := first rfl _ firstCall_shapes
  obtain ⟨-, stepped⟩ := reads rfl (by decide +kernel) _ _ _ placedWord_place placedWord_read
  obtain ⟨t, d, done, quiet⟩ := doneChans_some placedWord_step
  have answer := congrArg nextChans (stepped t d done)
  rw [placedWord_exec] at answer
  have charged : some [(0, { waiting := [⟨some 0, 1⟩] })] = some t.chans := answer
  rw [quiet] at charged
  cases charged

end Sys2Proof.Proofs
end

section
/-! PROOFS. The steps of a copy engine: starts, pins, sectors, errors and bobbin slots (R126, R129, R135, R138, R139, R286, R439). -/

namespace Sys2Proof.Proofs

open Sys2Proof Sys2Proof.Machine Sys2Proof.Laws

/-! ## The end of a copy (R126, R139) -/

theorem fill_copies {s t : State} (h : FillSame s t) : t.copies = s.copies := by
  obtain ⟨_, _, _, _, _, _, _, rfl⟩ := h
  rfl

theorem appendRedirect_copies (s : State) (m cl : Nat) (r : Redirect) : (s.appendRedirect m cl r).copies = s.copies := by
  unfold State.appendRedirect
  dsimp only
  split
  · rfl
  · split
    next h =>
      rw [fill_copies (chargeSectors_fill _ _ _ _ _ _)]
      obtain ⟨_, _, rfl⟩ := (hbmWrite_ok h).rest
      rfl
    · rfl

/-- A copy that has ended lives no more. -/
theorem endCopy_gone (s : State) (j : CopyJob) (e : EndKind) : (s.endCopy j e).copyJob j.id = none := by
  unfold State.endCopy
  dsimp only
  split
  · rw [State.copyJob, appendRedirect_copies]
    exact mget_mset_self _ _ _ _
  · exact mget_mset_self _ _ _ _

/-- A copy whose granules wait for no withheld store ends at once. -/
theorem failCopy_gone {s : State} {j : CopyJob} (h : s.storeAhead j = false) (c : Nat) : (s.failCopy j c).copyJob j.id = none := by
  unfold State.failCopy
  dsimp only
  rw [if_neg (by simp [h])]
  exact endCopy_gone _ _ _

theorem failCopy_holds {s : State} {j : CopyJob} (h : s.storeAhead j = true) (c : Nat) :
    s.failCopy j c = s.updCopy j.id fun i => { i with fail := some (j.fail.getD c) } := if_pos h

/-! ## A copy that may write (R139, R439) -/

section
variable {s : State} {j : CopyJob}

theorem ready_unfailed (hr : j.ready = true) : j.fail = none := by
  simp only [CopyJob.ready, Bool.and_eq_true, Option.isNone_iff_eq_none] at hr
  obtain ⟨⟨⟨-, unfailed⟩, -⟩, -⟩ := hr
  exact unfailed

theorem copyFinds_nothing {v : Word} (hv : v = 0) : s.copyFinds j v.toNat = none := by
  subst hv
  rfl

theorem copyFinds_sector {v pa : Nat} (hm : j.mill = false) (hv : v = 8 * pa + 2) :
    s.copyFinds j v = some ((s.uncorrectable j.die (some j.mcx) j.who cMemUe .ue (.hbm pa 0) 0).failCopy j cMemUe) := by
  have kind : v % 8 = 2 := by omega
  have place : v / 8 = pa := by omega
  simp only [State.copyFinds, kind, place, hm, foundLoc]
  rfl

end

section
variable {s : State} {j : CopyJob} (hj : s.evCopy = some j)
include hj

/-! ## COPY_START (R135, R286) -/

/-- A copy of the same channel that was issued before this one has not started. -/
def behind (s : State) (j : CopyJob) : Bool := (s.channelCopies j.sid j.ch).any fun i => i.id < j.id && i.phase != .started

/-- A transform that no engine performs: of a mill strand, or from a source that is not global. -/
def badTransform (j : CopyJob) : Prop := rXform j.srec ≠ 0 ∧ (j.mill = true ∨ dSpace j.src ≠ 0)

theorem copyStart_stays (h : j.phase ≠ .waiting ∨ behind s j = true) : exec .copyStart s = .next s := by
  show execCopyStart s = _
  unfold execCopyStart
  simp only [hj]
  exact if_pos (by simpa [behind] using h)

/-- What a copy whose turn has come does. -/
theorem copyStart_turn (hp : j.phase = .waiting) (hb : behind s j = false) : exec .copyStart s =
    match j.fail with
    | some c => .next (s.failCopy j c)
    | none => if j.reachesCtrl then .next (s.failCopy j cProt)
      else if rXform j.srec ≠ 0 && (j.mill || dSpace j.src ≠ 0) then .next (s.failCopy j cProt)
      else .next (s.updCopy j.id fun j => { j with phase := .started }) := by
  show execCopyStart s = _
  unfold execCopyStart
  simp only [hj]
  refine (if_neg (by simpa [behind, hp] using hb)).trans ?_
  cases j.fail <;> rfl

theorem copyStart_fails (hp : j.phase = .waiting) (hb : behind s j = false) {c : Nat} (hf : j.fail = some c) :
    exec .copyStart s = .next (s.failCopy j c) := by
  rw [copyStart_turn hj hp hb, hf]

theorem copyStart_refused (hp : j.phase = .waiting) (hb : behind s j = false) (hf : j.fail = none) (h : j.reachesCtrl = true ∨ badTransform j) :
    exec .copyStart s = .next (s.failCopy j cProt) := by
  rw [copyStart_turn hj hp hb, hf]
  obtain h | h := h
  · exact if_pos h
  · have refused : (decide (rXform j.srec ≠ 0) && (j.mill || decide (dSpace j.src ≠ 0))) = true := by simpa [badTransform] using h
    dsimp only
    rw [if_pos refused, ite_self]

theorem copyStart_starts (hp : j.phase = .waiting) (hb : behind s j = false) (hf : j.fail = none) (hc : j.reachesCtrl = false) (h : ¬ badTransform j) :
    exec .copyStart s = .next (s.updCopy j.id fun j => { j with phase := .started }) := by
  rw [copyStart_turn hj hp hb, hf]
  have allowed : ¬ (decide (rXform j.srec ≠ 0) && (j.mill || decide (dSpace j.src ≠ 0))) = true := by simpa [badTransform] using h
  dsimp only
  rw [if_neg (by simp [hc]), if_neg allowed]

/-! ## TRANSFORM_PIN (R138) -/

/-- What a transforming copy that has not pinned its streams does. -/
theorem transformPin_pins (hp : j.phase = .started) (hx : rXform j.srec ≠ 0) (hn : j.pinned = false) (hs : j.susp = none) (hf : j.fail = none) :
    exec .transformPin s = match s.pinStreams j with
      | .wait t => .next t
      | .err c t => .next (t.failCopy ((t.copyJob j.id).getD j) c)
      | .ok x t => .next (t.updCopy j.id fun j => { j with pinned := true, dense := some x }) := by
  show execTransformPin s = _
  unfold execTransformPin
  simp only [hj]
  exact if_neg (by simp [hp, hx, hn, hs, hf])

theorem transformPin_outcomes (hp : j.phase = .started) (hx : rXform j.srec ≠ 0) (hn : j.pinned = false) (hs : j.susp = none) (hf : j.fail = none) :
    (∀ x t, s.pinStreams j = .ok x t → exec .transformPin s = .next (t.updCopy j.id fun j => { j with pinned := true, dense := some x }))
      ∧ (∀ c t, s.pinStreams j = .err c t → exec .transformPin s = .next (t.failCopy ((t.copyJob j.id).getD j) c))
      ∧ ∀ t, s.pinStreams j = .wait t → exec .transformPin s = .next t := by
  rw [transformPin_pins hj hp hx hn hs hf]
  refine ⟨fun x t h => ?_, fun c t h => ?_, fun t h => ?_⟩
  all_goals rw [h]

/-! ## COPY_SECTOR_WRITE and COPY_ERROR (R135, R139, R439) -/

theorem copySectorWrite_fails {c : Nat} (hf : j.fail = some c) : exec .copySectorWrite s = .next (s.failCopy j c) := by
  show execCopySectorWrite s = _
  simp only [execCopySectorWrite, hj, hf]

section
variable (hr : j.ready = true)
include hr

/-- What a copy that may write does with the sector that the event picks. -/
theorem copySectorWrite_ready : exec .copySectorWrite s = match s.copySector j (j.pick s.ev.m) s.ev.flag with
    | .wait t => .next t
    | .err c t => .next (t.failCopy ((t.copyJob j.id).getD j) c)
    | .ok _ t => .next ((((t.countEv (if j.mill then 32 else s.partOf j.mcx) 9 1).progress (if j.mill then 32 else s.partOf j.mcx)).updCopy j.id fun i =>
        { i with todo := i.todo.filter (· != j.pick s.ev.m) }).copyProgress j.id) := by
  show execCopySectorWrite s = _
  unfold execCopySectorWrite
  simp only [hj, ready_unfailed hr]
  exact if_neg (by simp [hr])

/-- What a copy whose next access is examined for errors does. -/
theorem copyError_ready : exec .copyError s = match s.copyFinds j s.ev.v.toNat with
    | some t => .next t
    | none => match s.copySector j (j.pick s.ev.m) s.ev.flag with
      | .err c t => .next (t.failCopy ((t.copyJob j.id).getD j) c)
      | _ => .next s := by
  show execCopyError s = _
  unfold execCopyError
  simp only [hj]
  exact if_neg (by simp [hr])

/-- A sector that is written meets no error (R135, R139). -/
theorem sector_written {t : State} (ht : s.copySector j (j.pick s.ev.m) s.ev.flag = .ok () t) :
    (s.ev.v = 0 → exec .copyError s = .next s)
      ∧ exec .copySectorWrite s = .next ((((t.countEv (if j.mill then 32 else s.partOf j.mcx) 9 1).progress (if j.mill then 32 else s.partOf j.mcx)).updCopy j.id fun i =>
        { i with todo := i.todo.filter (· != j.pick s.ev.m) }).copyProgress j.id) := by
  refine ⟨fun hv => ?_, ?_⟩
  · rw [copyError_ready hj hr, copyFinds_nothing hv, ht]
  · rw [copySectorWrite_ready hj hr, ht]

/-- An access that meets an error ends the copy (R139). -/
theorem sector_failed {c : Nat} {t : State} (ht : s.copySector j (j.pick s.ev.m) s.ev.flag = .err c t) :
    (s.ev.v = 0 → exec .copyError s = .next (t.failCopy ((t.copyJob j.id).getD j) c))
      ∧ exec .copySectorWrite s = .next (t.failCopy ((t.copyJob j.id).getD j) c) := by
  refine ⟨fun hv => ?_, ?_⟩
  · rw [copyError_ready hj hr, copyFinds_nothing hv, ht]
  · rw [copySectorWrite_ready hj hr, ht]

/-- An uncorrectable error found in a sector of HBM ends a tenant's copy (R439). -/
theorem copyError_found {pa : Nat} (hm : j.mill = false) (hv : s.ev.v.toNat = 8 * pa + 2) :
    exec .copyError s = .next ((s.uncorrectable j.die (some j.mcx) j.who cMemUe .ue (.hbm pa 0) 0).failCopy j cMemUe) := by
  rw [copyError_ready hj hr, copyFinds_sector hm hv]

/-! ## BOBBIN_SLOT_START (R129, R130) -/

theorem bobbinSlotStart_fills (hd : dSpace j.dst = 2) {b : Bobbin} (hb : (s.copyClu j).bobbin (dBase j.dst) = some b) (he : b.tag b.head = .empty)
    (hc : j.chunks * b.slotBytes < j.dstBytes) : exec .bobbinSlotStart s =
      .next ((s.updCopyClu j fun c => c.setBobbin (dBase j.dst)
        (some { b.setTag b.head .filling with head := (b.head + 1) % b.nslots, filled := mset 0 b.filled b.head 0, filler := mset 0 b.filler b.head j.id })).updCopy j.id
          fun j => { j with slots := mset 0 j.slots j.chunks (b.head + 1), chunks := j.chunks + 1 }) := by
  show execBobbinSlotStart s = _
  unfold execBobbinSlotStart
  simp only [hj]
  rw [if_neg (by simp [hr, hd])]
  simp only [hb]
  rw [if_neg (by simp [he, hc])]

end

end

end Sys2Proof.Proofs
end

section
/-! PROOFS. The bytes that a copy writes: the bits of a sector, and a sector put into the scratchpad (R126, R135, R136, R440). -/

namespace Sys2Proof.Proofs

open Sys2Proof Sys2Proof.Machine Sys2Proof.Laws

/-! ## The bits of a sector (R135) -/

section
variable {j : CopyJob} {k : Nat}

/-- An element put into the bits of a sector and their mask. -/
def putElem (j : CopyJob) (k : Nat) (x : Nat × Nat) (p : Nat × Int) : Nat × Nat :=
  let w := rWidth j.drec
  let b := p.2 - 1024 * (k : Int)
  let v := j.value p.1
  if 0 ≤ b then (setField x.1 b.toNat w v, setField x.2 b.toNat w (2 ^ w - 1))
  else (setField x.1 0 (w - (-b).toNat) (v / 2 ^ (-b).toNat), setField x.2 0 (w - (-b).toNat) (2 ^ w - 1))

theorem sectorBits_eq (late : Bool) : j.sectorBits k late =
    (if late then (sectorElems j.dst j.drec k).reverse else sectorElems j.dst j.drec k).foldl (putElem j k) (0, 0) := rfl

/-- Elements of a byte each, at bytes of the sector. -/
def ByteElems (k : Nat) (es : List (Nat × Int)) : Prop := ∀ p ∈ es, ∃ i : Nat, i < 128 ∧ p.2 = 1024 * k + 8 * (i : Int)

variable (hw : rWidth j.drec = 8)
include hw

/-- An element of a byte fills its byte of the bits and of the mask, and no other. -/
theorem putElem_lanes (x : Nat × Nat) {p : Nat × Int} {i : Nat} (hp : p.2 = 1024 * k + 8 * (i : Int)) (n : Nat) :
    laneOf 8 (putElem j k x p).1 n = (if n = i then j.value p.1 % 2 ^ 8 else laneOf 8 x.1 n)
      ∧ laneOf 8 (putElem j k x p).2 n = if n = i then 255 else laneOf 8 x.2 n := by
  have inside : p.2 - 1024 * (k : Int) = ((8 * i : Nat) : Int) := by omega
  have placed : putElem j k x p = (setField x.1 (8 * i) 8 (j.value p.1), setField x.2 (8 * i) 8 255) := by
    unfold putElem
    dsimp only
    rw [hw, inside, if_pos (Int.natCast_nonneg _), Int.toNat_natCast]
    rfl
  rw [placed]
  exact ⟨laneOf_setField 8 x.1 i n _, laneOf_setField 8 x.2 i n 255⟩

theorem putElems_untouched {es : List (Nat × Int)} (bytes : ByteElems k es) {i : Nat} (hi : ∀ p ∈ es, p.2 ≠ 1024 * k + 8 * (i : Int)) (x : Nat × Nat) :
    laneOf 8 (es.foldl (putElem j k) x).1 i = laneOf 8 x.1 i ∧ laneOf 8 (es.foldl (putElem j k) x).2 i = laneOf 8 x.2 i := by
  induction es generalizing x with
  | nil => exact ⟨rfl, rfl⟩
  | cons p es ih =>
    obtain ⟨n, -, hn⟩ := bytes p List.mem_cons_self
    have ne : i ≠ n := by
      rintro rfl
      exact hi p List.mem_cons_self hn
    have rest := ih (fun q hq => bytes q (List.mem_cons_of_mem p hq)) (fun q hq => hi q (List.mem_cons_of_mem p hq)) (putElem j k x p)
    have lanes := putElem_lanes hw x hn i
    rw [if_neg ne, if_neg ne] at lanes
    exact ⟨rest.1.trans lanes.1, rest.2.trans lanes.2⟩

theorem putElems_touched {es : List (Nat × Int)} (bytes : ByteElems k es) (once : (es.map Prod.snd).Nodup) {p : Nat × Int} (hp : p ∈ es) {i : Nat}
    (hi : p.2 = 1024 * k + 8 * (i : Int)) (x : Nat × Nat) :
    laneOf 8 (es.foldl (putElem j k) x).1 i = j.value p.1 % 2 ^ 8 ∧ laneOf 8 (es.foldl (putElem j k) x).2 i = 255 := by
  induction es generalizing x with
  | nil => cases hp
  | cons q es ih =>
    obtain ⟨first, others⟩ := List.nodup_cons.mp once
    have rest : ByteElems k es := fun r hr => bytes r (List.mem_cons_of_mem q hr)
    obtain rfl | hq := List.mem_cons.mp hp
    · have later : ∀ r ∈ es, r.2 ≠ 1024 * k + 8 * (i : Int) := fun r hr h => first (List.mem_map.mpr ⟨r, hr, h.trans hi.symm⟩)
      have same := putElems_untouched hw rest later (putElem j k x p)
      have lanes := putElem_lanes hw x hi i
      rw [if_pos rfl, if_pos rfl] at lanes
      exact ⟨same.1.trans lanes.1, same.2.trans lanes.2⟩
    · exact ih rest others hq _

omit hw in
/-- A byte that masked bits write over others: none without a bit of the mask. -/
theorem bitsOver_byte (old : List Byte) (x m : Nat) {i : Nat} (hi : i < 128) : (bitsOver old x m).getD i none =
    if laneOf 8 m i = 0 then none
    else some (BitVec.ofNat 8 ((laneOf 8 x i &&& laneOf 8 m i) ||| ((old.getD i 0).toNat &&& (255 - laneOf 8 m i)))) := by
  simp [bitsOver, laneOf, hi]

/-- R135, R136: with elements of a byte each, at distinct bytes, the sector's byte at an element is the element's value, and no other byte is written. -/
theorem sectorBits_bytes (old : List Byte) (late : Bool) (bytes : ByteElems k (sectorElems j.dst j.drec k))
    (once : ((sectorElems j.dst j.drec k).map Prod.snd).Nodup) {i : Nat} (hi : i < 128) :
    let new := bitsOver old (j.sectorBits k late).1 (j.sectorBits k late).2
    (∀ p ∈ sectorElems j.dst j.drec k, p.2 = 1024 * k + 8 * (i : Int) → new.getD i none = some (BitVec.ofNat 8 (j.value p.1)))
      ∧ ((∀ p ∈ sectorElems j.dst j.drec k, p.2 ≠ 1024 * k + 8 * (i : Int)) → new.getD i none = none) := by
  dsimp only
  rw [sectorBits_eq, bitsOver_byte _ _ _ hi]
  generalize hes : (if late then (sectorElems j.dst j.drec k).reverse else sectorElems j.dst j.drec k) = es
  have perm : es.Perm (sectorElems j.dst j.drec k) := by
    subst hes
    cases late
    · exact .refl _
    · exact List.reverse_perm _
  have bytes' : ByteElems k es := fun p hp => bytes p (perm.mem_iff.mp hp)
  have once' : (es.map Prod.snd).Nodup := (perm.map _).nodup_iff.mpr once
  constructor
  · intro p hp h
    obtain ⟨value, mask⟩ := putElems_touched hw bytes' once' (perm.mem_iff.mpr hp) h (0, 0)
    rw [value, mask, if_neg (by decide)]
    have low : j.value p.1 % 2 ^ 8 &&& 255 = j.value p.1 % 2 ^ 8 := by
      rw [show 255 = 2 ^ 8 - 1 from rfl, Nat.and_two_pow_sub_one_eq_mod, Nat.mod_mod]
    rw [low, Nat.sub_self, Nat.and_zero, Nat.or_zero]
    exact congrArg some (BitVec.eq_of_toNat_eq (by simp))
  · intro h
    obtain ⟨-, mask⟩ := putElems_untouched hw bytes' (fun p hp => h p (perm.mem_iff.mp hp)) (0, 0)
    rw [mask]
    exact if_pos (by simp [laneOf])

end

/-! ## A sector put into the scratchpad (R126, R440) -/

theorem mget_putMasked (m : AMap Byte) (a : Nat) (bs : List (Option Byte)) (k : Nat) :
    mget 0 (putMasked m a bs) k = if a ≤ k ∧ k < a + bs.length then (bs.getD (k - a) none).getD (mget 0 m k) else mget 0 m k := by
  induction bs generalizing m a with
  | nil => rw [putMasked, if_neg (by simp)]
  | cons b bs ih =>
    have step (m' : AMap Byte) (hm : ∀ n, n ≠ a → mget 0 m' n = mget 0 m n) (ha : mget 0 m' a = b.getD (mget 0 m a)) :
        mget 0 (putMasked m' (a + 1) bs) k =
          if a ≤ k ∧ k < a + (b :: bs).length then ((b :: bs).getD (k - a) none).getD (mget 0 m k) else mget 0 m k := by
      rw [ih, List.length_cons]
      by_cases hk : k = a
      · subst hk
        rw [if_neg (by omega), if_pos (by omega), Nat.sub_self, ha, List.getD_cons_zero]
      · rw [hm k hk]
        by_cases inside : a + 1 ≤ k ∧ k < a + 1 + bs.length
        · rw [if_pos inside, if_pos (by omega), show k - a = k - (a + 1) + 1 by omega, List.getD_cons_succ]
        · rw [if_neg inside, if_neg (by omega)]
    cases b with
    | none => exact step m (fun _ _ => rfl) rfl
    | some v => exact step _ (fun n hn => mget_mset_other 0 m a n v hn) (mget_mset_self 0 m a v)

section
variable {s : State} {j : CopyJob} (hj : j.redirected = false)
include hj

theorem copyTags_clusters (off n : Nat) : (s.copyTags j off n).clusters = s.clusters := by
  unfold State.copyTags
  rw [if_neg (by simp [hj])]
  rfl

theorem putImage_plain (off : Nat) : s.putImage j off = s := by
  have none_found : (s.images.find? fun i => j.redirected && i.mcx == j.mcx && i.cl == j.cl && i.cluster.isSome) = none := by simp [hj]
  simp only [State.putImage, none_found]

theorem updCopyClu_plain (f : Cluster → Cluster) : s.updCopyClu j f = s.updCluster j.cl f := if_neg (by simp [hj])

theorem copyClu_plain : s.copyClu j = s.cluster j.cl := if_neg (by simp [hj])

/-- R126, R440: a sector that no withheld store awaits, and that is not poisoned, is put into the scratchpad: the bytes that the copy writes, and no other. -/
theorem putSpad_writes {off : Nat} {bs : List (Option Byte)} (hs : s.storesPending j.cl off 128 = false) (hl : bs.length = 128)
    (hp : mget false (s.cluster j.cl).poison (off / 128) = false) :
    ∃ t, s.putSpad j off bs = .ok () t ∧ (∀ k, k ≠ j.cl → t.cluster k = s.cluster k)
      ∧ ∀ a, mget 0 (t.cluster j.cl).bytes a = if off ≤ a ∧ a < off + 128 then (bs.getD (a - off) none).getD (mget 0 (s.cluster j.cl).bytes a)
          else mget 0 (s.cluster j.cl).bytes a := by
  generalize hu : (byteRuns 0 bs).foldl (fun s p => s.copyTags j (off + p.1) p.2.length) s = u
  have clusters : u.clusters = s.clusters := by
    subst hu
    exact foldl_keeps (v := State.clusters) (fun s p => copyTags_clusters hj _ _) _ s
  have same (k : Nat) : u.cluster k = s.cluster k := by rw [State.cluster, clusters, State.cluster]
  refine ⟨u.updCluster j.cl fun c =>
    { c with bytes := putMasked c.bytes off bs, poison := if bs.any Option.isNone then c.poison else mset false c.poison (off / 128) false }, ?_, ?_, ?_⟩
  · unfold State.putSpad
    dsimp only
    rw [if_neg (by simp [hs]), copyClu_plain hj, if_neg (by simp [hp]), hu, updCopyClu_plain hj, putImage_plain hj]
  · intro k hk
    rw [updCluster_eq, setCluster_cluster, if_neg hk, same]
  · intro a
    rw [updCluster_eq, setCluster_cluster, if_pos rfl, same, mget_putMasked, hl]

end

end Sys2Proof.Proofs
end

section
/-! PROOFS. Barriers that copies subtract from, the codec's tokens, and banks that change their mode (R124, R125, R131, R132, R137, R139, R238). -/

namespace Sys2Proof.Proofs

open Sys2Proof Sys2Proof.Machine Sys2Proof.Laws

/-! ## The words and the mark of a barrier (R131) -/

theorem length_leBytes (n x : Nat) : (leBytes n x).length = n := by
  induction n generalizing x with
  | zero => rfl
  | succ n ih => rw [leBytes, List.length_cons, ih]

section
variable (c : Cluster) (off : Nat)

/-- A word of a barrier after one of them is set. -/
@[simp] theorem barW_setBarW (i k v : Nat) : (c.setBarW off i v).barW off k = if k = i then v % 2 ^ 32 else c.barW off k := by
  have length : (leBytes 4 v).length = 4 := length_leBytes 4 v
  split
  next h =>
    subst h
    have same := getBytes_putBytes c.bytes (off + 4 * k) (leBytes 4 v)
    rw [length] at same
    exact (congrArg leNat same).trans (leNat_leBytes 4 v)
  next h =>
    exact congrArg leNat (getBytes_congr fun n hn => mget_putBytes_other _ _ _ _ (by rw [length]; omega))

@[simp] theorem mark_setBarW (i v : Nat) : (c.setBarW off i v).mark off = c.mark off := rfl
@[simp] theorem barW_setMark (k : Nat) (m : BarMark) : (c.setMark off m).barW off k = c.barW off k := rfl
@[simp] theorem mark_setMark (m : BarMark) : (c.setMark off m).mark off = m := mget_mset_self _ _ _ _

theorem barW_lt (k : Nat) : c.barW off k < 2 ^ 32 := by
  unfold Cluster.barW
  generalize hb : getBytes c.bytes (off + 4 * k) 4 = bs
  have length : bs.length = 4 := by rw [← hb, length_getBytes]
  obtain ⟨a, b, d, e, rfl⟩ := List.length_eq_four.mp length
  simp only [leNat]
  have := a.isLt; have := b.isLt; have := d.isLt; have := e.isLt
  omega

/-! ## The flip (R132) -/

/-- Is anything expected of the next phase of a barrier? -/
def rearmed (c : Cluster) (off : Nat) : Bool := c.barW off 1 % 2 ^ 28 != 0 || c.barW off 2 / 2 ^ 16 != 0

/-- The first word of a barrier whose phase has ended, from the marks of the phase. -/
def flippedWord (c : Cluster) (off : Nat) : Nat :=
  c.barW off 1 % 2 ^ 28 + (!c.barPhase off).toNat * 2 ^ 28 + (c.mark off).err.toNat * 2 ^ 29 + (c.mark off).abandon.toNat * 2 ^ 30 + (rearmed c off).toNat * 2 ^ 31

theorem flippedWord_lt : flippedWord c off < 2 ^ 32 := by
  have expect : c.barW off 1 % 2 ^ 28 < 2 ^ 28 := Nat.mod_lt _ (by decide)
  have phase := Bool.toNat_le (!c.barPhase off)
  have err := Bool.toNat_le (c.mark off).err
  have abandon := Bool.toNat_le (c.mark off).abandon
  have armed := Bool.toNat_le (rearmed c off)
  unfold flippedWord
  omega

/-- The words and the mark that a flip sets. -/
theorem flip_eq : c.flip off = (((c.setBarW off 0 (flippedWord c off)).setBarW off 2 (c.barW off 2 / 2 ^ 16 + c.barW off 2 / 2 ^ 16 * 2 ^ 16)).setBarW off 3
    (c.barW off 3 % 2 ^ 12 + (c.mark off).ecause * 2 ^ 12 + 2 ^ 20)).setMark off { armed := rearmed c off } := by
  have scope (v : Nat) : ((c.setBarW off 0 (flippedWord c off)).setBarW off 2 v).barScope off = c.barW off 3 % 2 ^ 12 := by
    rw [Cluster.barScope, barW_setBarW, if_neg (by decide), barW_setBarW, if_neg (by decide)]
  rw [← scope]
  rfl

theorem flip_word : (c.flip off).barW off 0 = flippedWord c off := by
  rw [flip_eq, barW_setMark, barW_setBarW, if_neg (by decide), barW_setBarW, if_neg (by decide), barW_setBarW, if_pos rfl, Nat.mod_eq_of_lt (flippedWord_lt c off)]

theorem flip_armed : ((c.flip off).mark off).armed = rearmed c off := by
  rw [flip_eq, mark_setMark]

/-- A flip of a phase without an error cause sets bit 20 of the last word. -/
theorem flip_flipped (h : (c.mark off).ecause = 0) : (c.flip off).barFlipped off = true := by
  have scope : c.barW off 3 % 2 ^ 12 < 2 ^ 12 := Nat.mod_lt _ (by decide)
  rw [Cluster.barFlipped, flip_eq, barW_setMark, barW_setBarW, if_pos rfl, h, bitOf_eq_iff true, Bool.toNat_true]
  omega

theorem flippedWord_err (h : (c.mark off).err = true) : bitOf (flippedWord c off) 29 = true := by
  have expect : c.barW off 1 % 2 ^ 28 < 2 ^ 28 := Nat.mod_lt _ (by decide)
  have phase := Bool.toNat_le (!c.barPhase off)
  rw [bitOf_eq_iff true, flippedWord, h, Bool.toNat_true]
  omega

/-! ## A copy's subtraction (R132, R139) -/

/-- The barrier after a subtraction within what is pending, before the flip. -/
def subtracted (c : Cluster) (off n : Nat) (cause : Option Nat) : Cluster :=
  match cause with
  | some k => (c.setBarW off 0 (c.barW off 0 - n)).markErr off k
  | none => c.setBarW off 0 (c.barW off 0 - n)

variable {c off} {n : Nat} (ha : (c.mark off).armed = true) (hn : n ≤ c.barPending off)

include ha hn in
theorem barSub_within (cause : Option Nat) : c.barSub off n cause = (subtracted c off n cause).flipIfDone off := by
  have pending : c.barPending off ≤ c.barW off 0 := Nat.mod_le _ _
  have left : c.barW off 0 - c.barPending off + (c.barPending off - n) = c.barW off 0 - n := by omega
  unfold Cluster.barSub subtracted
  cases cause
  all_goals
    dsimp only
    rw [if_neg (by simp [ha]), left, if_neg (by omega)]

theorem subtracted_word (cause : Option Nat) : (subtracted c off n cause).barW off 0 = c.barW off 0 - n := by
  have lt := barW_lt c off 0
  have word : (c.setBarW off 0 (c.barW off 0 - n)).barW off 0 = c.barW off 0 - n := by
    rw [barW_setBarW, if_pos rfl, Nat.mod_eq_of_lt (by omega)]
  cases cause with
  | none => exact word
  | some k => exact word

theorem subtracted_others (cause : Option Nat) {k : Nat} (hk : k ≠ 0) : (subtracted c off n cause).barW off k = c.barW off k := by
  have word : (c.setBarW off 0 (c.barW off 0 - n)).barW off k = c.barW off k := by rw [barW_setBarW, if_neg hk]
  cases cause with
  | none => exact word
  | some _ => exact word

include hn in
theorem subtracted_pending (cause : Option Nat) : (subtracted c off n cause).barPending off = c.barPending off - n := by
  unfold Cluster.barPending at hn ⊢
  rw [subtracted_word]
  omega

include hn in
theorem subtracted_phase (cause : Option Nat) : (subtracted c off n cause).barPhase off = c.barPhase off := by
  unfold Cluster.barPending at hn
  have quot : (c.barW off 0 - n) / 2 ^ 28 = c.barW off 0 / 2 ^ 28 := by omega
  rw [Cluster.barPhase, subtracted_word, Cluster.barPhase, bitOf, bitOf, quot]

theorem subtracted_armed (cause : Option Nat) : ((subtracted c off n cause).mark off).armed = (c.mark off).armed := by
  cases cause with
  | none => rfl
  | some k => simp only [subtracted, Cluster.markErr, mark_setMark, mark_setBarW]

theorem flipIfDone_owed {c : Cluster} {off : Nat} (h : c.barPending off ≠ 0 ∨ c.barW off 2 % 2 ^ 16 ≠ 0) : c.flipIfDone off = c := by
  unfold Cluster.flipIfDone
  refine if_neg fun done => ?_
  simp only [Bool.and_eq_true, beq_iff_eq] at done
  exact h.elim (fun h => h done.1.2) fun h => h done.2

theorem flipIfDone_done {c : Cluster} {off : Nat} (ha : (c.mark off).armed = true) (hp : c.barPending off = 0) (hv : c.barW off 2 % 2 ^ 16 = 0) :
    c.flipIfDone off = c.flip off := by
  unfold Cluster.flipIfDone
  rw [ha, hp, hv]
  rfl

include ha hn

/-- R132: while bytes or arrivals are owed, a subtraction counts down and the phase goes on. -/
theorem barSub_owed (h : c.barPending off ≠ n ∨ c.barW off 2 % 2 ^ 16 ≠ 0) :
    (c.barSub off n none).barW off 0 = c.barW off 0 - n ∧ ((c.barSub off n none).mark off).armed = true := by
  have owed : (subtracted c off n none).barPending off ≠ 0 ∨ (subtracted c off n none).barW off 2 % 2 ^ 16 ≠ 0 := by
    rw [subtracted_pending hn, subtracted_others none (by decide)]
    omega
  rw [barSub_within ha hn, flipIfDone_owed owed]
  exact ⟨subtracted_word none, (subtracted_armed none).trans ha⟩

/-- R132: the subtraction after which nothing is owed flips the barrier. -/
theorem barSub_done (cause : Option Nat) (hp : c.barPending off = n) (hv : c.barW off 2 % 2 ^ 16 = 0) :
    c.barSub off n cause = (subtracted c off n cause).flip off := by
  rw [barSub_within ha hn]
  refine flipIfDone_done ((subtracted_armed cause).trans ha) ?_ ?_
  · rw [subtracted_pending hn, hp, Nat.sub_self]
  · rw [subtracted_others cause (by decide), hv]

/-- R132: a flip of a phase without marks starts the next phase, of the other parity, armed when something is expected of it. -/
theorem barSub_flips (hp : c.barPending off = n) (hv : c.barW off 2 % 2 ^ 16 = 0) (he : (c.mark off).err = false) (hb : (c.mark off).abandon = false)
    (hc : (c.mark off).ecause = 0) :
    (c.barSub off n none).barW off 0 = c.barW off 1 % 2 ^ 28 + (!c.barPhase off).toNat * 2 ^ 28 + (rearmed c off).toNat * 2 ^ 31
      ∧ (c.barSub off n none).barFlipped off = true ∧ ((c.barSub off n none).mark off).armed = rearmed c off := by
  have mark : (subtracted c off n none).mark off = c.mark off := rfl
  have next : rearmed (subtracted c off n none) off = rearmed c off := by
    rw [rearmed, subtracted_others none (by decide), subtracted_others none (by decide), rearmed]
  have word : flippedWord (subtracted c off n none) off = c.barW off 1 % 2 ^ 28 + (!c.barPhase off).toNat * 2 ^ 28 + (rearmed c off).toNat * 2 ^ 31 := by
    rw [flippedWord, subtracted_phase hn, subtracted_others none (by decide), next, mark, he, hb, Bool.toNat_false]
    omega
  rw [barSub_done ha hn none hp hv, flip_word, flip_armed, next]
  exact ⟨word, flip_flipped _ _ hc, rfl⟩

/-- R139: the subtraction of a copy that has met an error marks the phase that it ends. -/
theorem barSub_errs (k : Nat) (hp : c.barPending off = n) (hv : c.barW off 2 % 2 ^ 16 = 0) : bitOf ((c.barSub off n (some k)).barW off 0) 29 = true := by
  rw [barSub_done ha hn _ hp hv, flip_word]
  exact flippedWord_err _ _ (by simp only [subtracted, Cluster.markErr, mark_setMark])

end

/-! ## The tokens of the codec (R137) -/

section
variable (r : List Byte) {t : Byte} (last : Byte) (fuel : Nat)

theorem codecDecode_literal (h : t.toNat < 0x80) : codecDecode (fuel + 1) last (t :: r) = if r.length < t.toNat + 1 then none
    else (codecDecode fuel ((r.take (t.toNat + 1)).getLastD last) (r.drop (t.toNat + 1))).map fun o => r.take (t.toNat + 1) ++ o := by
  simp only [codecDecode, if_pos h]

theorem codecDecode_zeros (h : 0x80 ≤ t.toNat) (hl : t.toNat < 0xC0) :
    codecDecode (fuel + 1) last (t :: r) = (codecDecode fuel 0 r).map fun o => List.replicate (8 * (t.toNat - 0x7F)) 0 ++ o := by
  simp only [codecDecode, if_neg (Nat.not_lt.mpr h), if_pos hl]

theorem codecDecode_repeat (h : 0xC0 ≤ t.toNat) :
    codecDecode (fuel + 1) last (t :: r) = (codecDecode fuel last r).map fun o => List.replicate (t.toNat - 0xBD) last ++ o := by
  simp only [codecDecode, if_neg (Nat.not_lt.mpr h), if_neg (show ¬ t.toNat < 0x80 by omega)]

end

/-! ## Transitions of banks (R124, R125, R238) -/

section
variable {s : State} {sid b m : Nat} {rest : List (Nat × Nat × Nat)} (hb : s.ev.m = b) (ht : (s.cluster s.ev.n).trans = (sid, b, m) :: rest)
include hb ht

/-- The transition at the head of a cluster's queue, when its bank is the event's. -/
theorem bankTransition_first : exec .bankTransition s =
    if s.bankStores s.ev.n b then .next s
    else if s.transOk s.ev.n b (modeOf (m % 4)) then
      .next (((s.updCluster s.ev.n fun c => { c with trans := rest }).enterMode s.ev.n b (modeOf (m % 4))).transDone sid s.ev.n b (m % 4))
    else if (s.strand sid).waits.contains (.bankmode s.ev.n b (m % 4)) then
      .next ((s.updCluster s.ev.n fun c => { c with trans := rest }).trapBlocked sid { cause := cOwner, slot := m / 4, addr := b })
    else .next (s.updCluster s.ev.n fun c => { c with trans := rest }) := by
  have found : ((sid, b, m) :: rest).find? (fun t => t.2.1 == b) = some (sid, b, m) := by simp
  have erased : (s.updCluster s.ev.n fun c => { c with trans := c.trans.erase (sid, b, m) }) = s.updCluster s.ev.n fun c => { c with trans := rest } := by
    rw [updCluster_eq, updCluster_eq, ht, List.erase_cons_head]
  show execBankTransition s = _
  unfold execBankTransition
  dsimp only
  rw [hb, ht, found]
  dsimp only
  rw [erased]

theorem bankTransition_waits (h : s.bankStores s.ev.n b = true) : exec .bankTransition s = .next s := by
  rw [bankTransition_first hb ht, if_pos h]

theorem bankTransition_enters (h : s.bankStores s.ev.n b = false) (hk : s.transOk s.ev.n b (modeOf (m % 4)) = true) : exec .bankTransition s =
    .next (((s.updCluster s.ev.n fun c => { c with trans := rest }).enterMode s.ev.n b (modeOf (m % 4))).transDone sid s.ev.n b (m % 4)) := by
  rw [bankTransition_first hb ht, if_neg (by simp [h]), if_pos hk]

theorem bankTransition_traps (h : s.bankStores s.ev.n b = false) (hk : s.transOk s.ev.n b (modeOf (m % 4)) = false)
    (hw : (s.strand sid).waits.contains (.bankmode s.ev.n b (m % 4)) = true) : exec .bankTransition s =
    .next ((s.updCluster s.ev.n fun c => { c with trans := rest }).trapBlocked sid { cause := cOwner, slot := m / 4, addr := b }) := by
  rw [bankTransition_first hb ht, if_neg (by simp [h]), if_neg (by simp [hk]), if_pos hw]

end

theorem mget_of_lt_mwfFrom {α : Type} [DecidableEq α] (d : α) (m : AMap α) {lo k : Nat} (h : k < lo) (w : mwfFrom d lo m = true) : mget d m k = d := by
  cases m with
  | nil => rfl
  | cons p m =>
    simp only [mwfFrom, Bool.and_eq_true, decide_eq_true_eq] at w
    obtain ⟨⟨above, -⟩, -⟩ := w
    simp [mget, show k ≠ p.1 by omega, show k < p.1 by omega]

/-- Outside a range taken out of it, a canonical map reads as before. -/
theorem mget_dropRange_outside {α : Type} [DecidableEq α] (d : α) (m : AMap α) {lo n k : Nat} (h : k < lo ∨ lo + n ≤ k) {from_ : Nat} (w : mwfFrom d from_ m = true) :
    mget d (dropRange m lo n) k = mget d m k := by
  induction m generalizing from_ with
  | nil => rfl
  | cons p m ih =>
    obtain ⟨a, v⟩ := p
    have all := w
    simp only [mwfFrom, Bool.and_eq_true, decide_eq_true_eq] at w
    obtain ⟨⟨above, nonzero⟩, tail⟩ := w
    have rest := ih tail
    have kept : mwfFrom d (a + 1) (dropRange m lo n) = true := mwfFrom_filter d _ m (a + 1) tail
    have cut : dropRange ((a, v) :: m) lo n = if (a < lo || lo + n ≤ a) then (a, v) :: dropRange m lo n else dropRange m lo n := by
      unfold dropRange
      rw [List.filter_cons]
    rw [cut]
    split
    next => simp only [mget, rest]
    next gone =>
      have ne : k ≠ a := by
        rintro rfl
        simp only [Bool.or_eq_true, decide_eq_true_eq] at gone
        exact gone h
      rw [mget, if_neg ne]
      split
      next below => exact mget_of_lt_mwfFrom d _ (by omega) kept
      next => exact rest

/-- R124, R125: a bank that enters another mode is in it, and its bytes alone read as zero. -/
theorem enterMode_bank {c : Cluster} {b : Nat} {m : BankMode} (hm : (c.bank b).mode ≠ m) (w : mwf 0 c.bytes = true) :
    ((c.enterMode b m).bank b).mode = m ∧ ∀ a, mget 0 (c.enterMode b m).bytes a = if a / 2 ^ 18 = b then 0 else mget 0 c.bytes a := by
  have entered : (c.enterMode b m).banks = mset {} c.banks b { c.bank b with mode := m } ∧ (c.enterMode b m).bytes = dropRange c.bytes (b * 2 ^ 18) (2 ^ 18) := by
    unfold Cluster.enterMode
    rw [if_neg hm]
    dsimp only
    split <;> exact ⟨rfl, rfl⟩
  obtain ⟨banks, bytes⟩ := entered
  refine ⟨?_, fun a => ?_⟩
  · rw [Cluster.bank, banks, mget_mset_self]
  · rw [bytes]
    split
    next h => exact mget_dropRange _ _ _ _ _ (by omega)
    next h => exact mget_dropRange_outside _ _ (by omega) w

end Sys2Proof.Proofs
end

section
/-! PROOFS. Calls that start, repeat sequences, the shadow comparison, and the frames of the reel (R119, R120, R240, R244, R265, R273, R279). -/

namespace Sys2Proof.Proofs

open Sys2Proof Sys2Proof.Machine Sys2Proof.Laws

/-! ## CALL_START (R119, R240) -/

section
variable {s : State} {c : Call} {r : List Call} (hq : (s.spindle s.ev.n).queue = c :: r)
include hq

theorem callStart_stays (h : c.started = true ∨ s.callStops c.sid = true) : exec .callStart s = .next s := by
  show execCallStart s = _
  unfold execCallStart
  simp only [hq]
  exact if_pos (by simpa using h)

variable (hs : c.started = false) (hc : s.callStops c.sid = false) (hf : s.ev.flag = false)
include hs hc hf

theorem callStart_first : exec .callStart s = .next (s.startCall s.ev.n c) := by
  show execCallStart s = _
  unfold execCallStart
  simp only [hq]
  rw [if_neg (by simp [hs, hc]), if_neg (by simp [hf])]

theorem callStart_plain (hw : writesAcc c.flags.toNat false ((s.routine c.sid c.rout).getD []) = false) :
    exec .callStart s = .next (s.setCall s.ev.n { c with started := true }) := by
  rw [callStart_first hq hs hc hf]
  unfold State.startCall
  dsimp only
  rw [if_pos (by simp [hw])]

/-- A call that writes an accumulator counts, and every SHADOWN-th is selected (R119). -/
theorem callStart_counted (hw : writesAcc c.flags.toNat false ((s.routine c.sid c.rout).getD []) = true) :
    let n := (s.core c.sid).shcount + 1
    let every := (s.core c.sid).shadown.toNat
    (every = 0 ∨ n.toNat % every ≠ 0 → exec .callStart s = .next ((s.updStrand c.sid Strand.countShadow).setCall s.ev.n { c with started := true }))
      ∧ (every ≠ 0 → n.toNat % every = 0 → ∃ d : Call, exec .callStart s = .next ((s.updStrand c.sid Strand.countShadow).setCall s.ev.n d)
          ∧ d = { c with started := true, shadowed := some n.toNat, skipped := (s.spindle s.ev.n).shadowBusy.isSome, startAcc := d.startAcc, shAcc := d.shAcc }) := by
  intro n every
  have zero : ((s.strand c.sid).core.shadown != 0) = decide (every ≠ 0) := by
    rw [bne, decide_not]
    exact congrArg not (Bool.eq_iff_iff.mpr (by rw [beq_iff_eq, decide_eq_true_iff]; exact (BitVec.toNat_inj (y := 0)).symm))
  have selected : ((s.strand c.sid).core.shadown != 0 && ((s.strand c.sid).core.shcount + 1).toNat % (s.strand c.sid).core.shadown.toNat == 0)
      = decide (every ≠ 0 ∧ n.toNat % every = 0) := by
    rw [zero, Bool.decide_and]
    rfl
  rw [callStart_first hq hs hc hf]
  unfold State.startCall
  dsimp only
  rw [if_neg (by simp [hw]), selected]
  constructor
  · intro h
    rw [if_pos (by simpa [imp_iff_not_or] using h)]
  · intro he h
    rw [if_neg (by simp [he, h])]
    exact ⟨_, rfl, rfl⟩

end

/-! ## REPEAT_ENQUEUE (R240, R244) -/

theorem repeatStep_none {s : State} {sid : Nat} (h : s.repeatOf sid = none) (free : Bool) : s.repeatStep sid free = none := by
  simp only [State.repeatStep, h]

theorem mem_strandsOf {g sid : Nat} : sid ∈ strandsOf g ↔ sid / 4 = g := by
  simp only [strandsOf, List.mem_cons, List.not_mem_nil, or_false]
  omega

theorem repeatEnqueue_none {s : State} (h : ∀ sid, sid / 4 = s.ev.n → s.repeatOf sid = none) : exec .repeatEnqueue s = .next s := by
  have nothing : ((strandsOf s.ev.n).findSome? fun sid =>
      if s.callStops sid then none else s.repeatStep sid (decide ((s.spindle s.ev.n).queue.length < 8))) = none := by
    refine List.findSome?_eq_none_iff.mpr fun sid hsid => ?_
    rw [repeatStep_none (h sid (mem_strandsOf.mp hsid)), ite_self]
  show execRepeatEnqueue s = _
  simp only [execRepeatEnqueue, nothing]

/-- A search whose every other element gives nothing. -/
theorem findSome_only {α β : Type} {f : α → Option β} {l : List α} {a : α} (ha : a ∈ l) (h : ∀ b ∈ l, b ≠ a → f b = none) : l.findSome? f = f a := by
  induction l with
  | nil => cases ha
  | cons b l ih =>
    rw [List.findSome?_cons]
    by_cases hb : b = a
    · subst hb
      cases hf : f b with
      | some _ => rfl
      | none =>
        refine List.findSome?_eq_none_iff.mpr fun x hx => ?_
        by_cases hx' : x = b
        · rw [hx', hf]
        · exact h x (List.mem_cons_of_mem b hx) hx'
    · rw [h b List.mem_cons_self hb]
      exact ih ((List.mem_cons.mp ha).resolve_left fun e => hb e.symm) fun x hx => h x (List.mem_cons_of_mem b hx)

section
variable {s : State} {r : Repeat} {k : Nat}

/-- The one repeat sequence of a spindle takes its turn. -/
theorem repeatEnqueue_only (hk : k < 4) (others : ∀ i, i < 4 → i ≠ k → s.repeatOf (4 * s.ev.n + i) = none) (hc : s.callStops (4 * s.ev.n + k) = false) :
    exec .repeatEnqueue s = .next ((s.repeatStep (4 * s.ev.n + k) (decide ((s.spindle s.ev.n).queue.length < 8))).getD s) := by
  have turn : ((strandsOf s.ev.n).findSome? fun sid =>
      if s.callStops sid then none else s.repeatStep sid (decide ((s.spindle s.ev.n).queue.length < 8)))
        = s.repeatStep (4 * s.ev.n + k) (decide ((s.spindle s.ev.n).queue.length < 8)) := by
    refine (findSome_only (a := 4 * s.ev.n + k) (mem_strandsOf.mpr (by omega)) fun sid hsid ne => ?_).trans (if_neg (by simp [hc]))
    have spindle := mem_strandsOf.mp hsid
    have slot := others (sid - 4 * s.ev.n) (by omega) (by omega)
    rw [show 4 * s.ev.n + (sid - 4 * s.ev.n) = sid by omega] at slot
    rw [repeatStep_none slot, ite_self]
  show execRepeatEnqueue s = _
  unfold execRepeatEnqueue
  dsimp only
  rw [turn]
  cases s.repeatStep (4 * s.ev.n + k) (decide ((s.spindle s.ev.n).queue.length < 8)) <;> rfl

theorem repeatStep_refused {sid : Nat} (hr : s.repeatOf sid = some r) {c : Nat} (hw : s.window sid (mget 0 r.args 7).toNat = .error c) (free : Bool) :
    s.repeatStep sid free = some (s.callFault sid c) := by
  simp only [State.repeatStep, hr, hw]

theorem repeatStep_waits {sid : Nat} (hr : s.repeatOf sid = some r) {w : Option (Nat × Nat)} (hw : s.window sid (mget 0 r.args 7).toNat = .ok w) {free : Bool}
    (h : free = false ∨ s.winBusy (clusterOf sid) w ≠ []) : s.repeatStep sid free = none := by
  simp only [State.repeatStep, hr, hw]
  exact if_pos (by simpa using h)

theorem repeatStep_enqueues {sid : Nat} (hr : s.repeatOf sid = some r) {w : Option (Nat × Nat)} (hw : s.window sid (mget 0 r.args 7).toNat = .ok w)
    (h : s.winBusy (clusterOf sid) w = []) : s.repeatStep sid true =
      some ((({ s with nextId := s.nextId + 1 }).enqueue { r.call with id := s.nextId, m := r.args, mpc := r.call.mpc + BitVec.ofNat 32 r.k, win := w }).updSpindle
        (gnumOf sid) fun x => { x with rpts := mset none x.rpts (slotOf sid) (if r.k + 1 < r.n then some { r with k := r.k + 1 } else none) }) := by
  simp only [State.repeatStep, hr, hw]
  exact if_neg (by simp [h])

/-- R244: the turn of a spindle's one repeat sequence: it ends on a refused window, waits for an entry and for its window, or makes its next call. -/
theorem repeatEnqueue_turn (hk : k < 4) (others : ∀ i, i < 4 → i ≠ k → s.repeatOf (4 * s.ev.n + i) = none) (hc : s.callStops (4 * s.ev.n + k) = false)
    (hr : s.repeatOf (4 * s.ev.n + k) = some r) :
    (∀ c, s.window (4 * s.ev.n + k) (mget 0 r.args 7).toNat = .error c → exec .repeatEnqueue s = .next (s.callFault (4 * s.ev.n + k) c))
      ∧ ∀ w, s.window (4 * s.ev.n + k) (mget 0 r.args 7).toNat = .ok w →
        (8 ≤ (s.spindle s.ev.n).queue.length ∨ s.winBusy (clusterOf (4 * s.ev.n + k)) w ≠ [] → exec .repeatEnqueue s = .next s)
        ∧ ((s.spindle s.ev.n).queue.length < 8 → s.winBusy (clusterOf (4 * s.ev.n + k)) w = [] → exec .repeatEnqueue s = .next
          ((({ s with nextId := s.nextId + 1 }).enqueue { r.call with id := s.nextId, m := r.args, mpc := r.call.mpc + BitVec.ofNat 32 r.k, win := w }).updSpindle
            (gnumOf (4 * s.ev.n + k)) fun x =>
              { x with rpts := mset none x.rpts (slotOf (4 * s.ev.n + k)) (if r.k + 1 < r.n then some { r with k := r.k + 1 } else none) })) := by
  rw [repeatEnqueue_only hk others hc]
  refine ⟨fun c hw => ?_, fun w hw => ⟨fun h => ?_, fun hl h => ?_⟩⟩
  · rw [repeatStep_refused hr hw, Option.getD_some]
  · rw [repeatStep_waits hr hw (by simpa using h), Option.getD_none]
  · rw [decide_eq_true hl, repeatStep_enqueues hr hw h, Option.getD_some]

end

theorem sext_eq_toInt {w : Nat} (x : BitVec w) : sext w x.toNat = x.toInt := by
  rw [sext, BitVec.toInt_eq_toNat_cond, Nat.mod_eq_of_lt x.isLt]
  push_cast
  split <;> split <;> omega

/-- Setting each key below a bound to a value of its own. -/
theorem mget_foldl_mset {α : Type} [DecidableEq α] (d : α) (f : Nat → α) (n : Nat) (m : AMap α) (i : Nat) :
    mget d ((List.range n).foldl (fun m k => mset d m k (f k)) m) i = if i < n then f i else mget d m i := by
  induction n with
  | zero => rfl
  | succ n ih =>
    rw [List.range_succ, List.foldl_append, List.foldl_cons, List.foldl_nil, mget_mset, ih]
    by_cases h : i = n
    · subst h
      rw [if_pos rfl, if_pos (Nat.lt_succ_self i)]
    · rw [if_neg h]
      by_cases hi : i < n
      · rw [if_pos hi, if_pos (by omega)]
      · rw [if_neg hi, if_neg (by omega)]

/-- R244: each argument of repeat k has moved on by k strides. -/
theorem repeat_args (r : Repeat) {i : Nat} (hi : i < 8) :
    mget 0 r.args i = mget 0 r.call.m i + BitVec.ofInt 64 ((r.k : Int) * (mget 0 r.strides i).toInt) := by
  rw [Repeat.args, mget_foldl_mset, if_pos hi, sext_eq_toInt]

/-! ## SHADOW_COMPARE (R120) -/

theorem shadowCompare_idle {s : State} (h : (s.spindle s.ev.n).shadowBusy = none) : exec .shadowCompare s = .next s := by
  show execShadowCompare s = _
  simp only [execShadowCompare, h]

theorem shadowCompare_writes {s : State} {j : ShadowJob} (h : (s.spindle s.ev.n).shadowBusy = some j) :
    exec .shadowCompare s = .next ((s.shadowEntry j).updSpindle s.ev.n fun x => { x with shadowBusy := none }) := by
  show execShadowCompare s = _
  simp only [execShadowCompare, h]

/-! ## FRAME_WRITE and FRAME_DECODE (R265, R273, R279) -/

section
variable {s : State}

theorem frameWrite_stays (h : s.me.reel.waiting = [] ∨ s.me.reel.susp.isSome = true ∨ s.me.reel.err.isSome = true) : exec .frameWrite s = .next s := by
  show execFrameWrite s = _
  unfold execFrameWrite
  dsimp only
  split
  next => rfl
  next w rest hw =>
    have stopped := h.resolve_left fun none => by
      rw [State.me, State.core] at none
      rw [hw] at none
      cases none
    exact if_pos (by simpa [State.me, State.core] using .inl stopped)

/-- A place in this module's memory is written as the channel's area (R265, R426). -/
theorem reelWrite_here {sid ea : Nat} {bs : List Byte} {pl : Place} {s1 s2 : State} (hp : s.place sid ea .write = .ok (pl, s1))
    (hl : (∃ pa k, pl.loc = .hbm pa k) ∨ ∃ pa, pl.loc = .phys pa) (hw : s1.writeLoc pl.loc bs = .ok s2) :
    s.reelWrite sid ea bs = .ok ((s2.charge sid pl 512 .write).lea (s2.mcxOf sid) 7 512) := by
  obtain ⟨pa, k, h⟩ | ⟨pa, h⟩ := hl
  all_goals
    rw [h] at hw
    simp only [State.reelWrite, hp, h, hw]

theorem frameWrite_writes {n : Nat} {bs : List Byte} {rest : List (Nat × List Byte)} {pl : Place} {s1 s2 : State} (hw : s.me.reel.waiting = (n, bs) :: rest)
    (hs : s.me.reel.susp = none) (he : s.me.reel.err = none) (hm : (s.strand s.focus).reelMay (n, bs) = true) (hn : n < 2 ^ 40) (hb : bs ≠ [])
    (hp : s.place s.focus ((s.reelCfg s.focus).slotAddr n) .write = .ok (pl, s1)) (hl : (∃ pa k, pl.loc = .hbm pa k) ∨ ∃ pa, pl.loc = .phys pa)
    (ho : s1.writeLoc pl.loc bs = .ok s2) :
    exec .frameWrite s = .next (((((s2.charge s.focus pl 512 .write).lea (s2.mcxOf s.focus) 7 512).updReel s.focus fun r =>
      { r with waiting := r.waiting.erase (n, bs) })).updStrand s.focus fun t => { t with reelIn := [] }) := by
  have waiting : (s.strand s.focus).core.reel.waiting = (n, bs) :: rest := hw
  have susp : (s.strand s.focus).core.reel.susp = none := hs
  have err : (s.strand s.focus).core.reel.err = none := he
  have full : (!bs.isEmpty) = true := by simpa using hb
  have wrote (r : Reel) : r.wrote (s.reelCfg s.focus) (n, bs) = { r with waiting := r.waiting.erase (n, bs) } := by
    simp only [Reel.wrote, full, Bool.true_or, if_true]
  show execFrameWrite s = _
  unfold execFrameWrite
  dsimp only
  simp only [waiting]
  rw [if_neg (by simp [susp, err, hm]), if_neg (by omega), if_neg (by omega), if_pos full]
  simp only [State.reelPut, reelWrite_here hp hl ho, wrote]

theorem frameDecode_reads {n : Nat} {bs : List Byte} {refill : Bool} (hn : (s.strand s.focus).wantsFrame = some n) (hs : s.me.reel.susp = none)
    (he : s.me.reel.err = none) (hf : s.ev.flag = false) (hr : s.reelFrame s.focus s.me.reel (s.reelCfg s.focus) n = (.ok bs, refill)) :
    exec .frameDecode s = .next ((s.chargeFrames s.focus s.me.reel (s.reelCfg s.focus) n n).updStrand s.focus fun t =>
      { t with core := { t.core with reel := t.core.reel.decoded (s.reelCfg s.focus) n bs refill }
               reelAt := if refill && !s.me.reel.shut then some (t.reelAt.getD s.me.reel) else t.reelAt
               reelIn := [] }) := by
  have susp : (s.strand s.focus).core.reel.susp = none := hs
  have err : (s.strand s.focus).core.reel.err = none := he
  have read : s.reelFrame s.focus (s.strand s.focus).core.reel (s.reelCfg s.focus) n = (.ok bs, refill) := hr
  show execFrameDecode s = _
  unfold execFrameDecode
  dsimp only
  simp only [hn]
  rw [if_neg (by simp [susp, err]), if_neg (by simp [hf]), read]
  rfl

end

end Sys2Proof.Proofs
end

section
/-! PROOFS. The events of engines together: copies, barriers, bobbins, banks, calls and reel frames. -/

namespace Sys2Proof.Proofs

open Sys2Proof Sys2Proof.Machine Sys2Proof.Laws

/-- Settles O43: each event's answer is the branch of its definition that the hypotheses select; the bytes that a sector's bits, a scratchpad write and an entry into
a bank mode leave are read byte by byte, and the words of a barrier word by word. -/
theorem engineEvents : Obligations.EngineEvents := by
  refine ⟨fun s j hj => ⟨copyStart_stays hj, fun c hp hb hf => copyStart_fails hj hp hb hf,
      fun hp hb hf => ⟨copyStart_refused hj hp hb hf, copyStart_starts hj hp hb hf⟩, fun c => copySectorWrite_fails hj, transformPin_outcomes hj,
      fun hr => ⟨fun t => sector_written hj hr, fun pa => copyError_found hj hr, fun c t => sector_failed hj hr⟩,
      fun c => ⟨fun h => failCopy_gone h c, fun h => failCopy_holds h c⟩, fun hr hd b => bobbinSlotStart_fills hj hr hd⟩,
    fun j k old late hw bytes once i hi => sectorBits_bytes hw old late bytes once hi,
    fun s j off bs hj hs hl hp => putSpad_writes hj hs hl hp,
    fun c off n ha hn => ⟨barSub_owed ha hn, barSub_flips ha hn, fun cause => barSub_errs ha hn cause⟩,
    fun r t last fuel => ⟨codecDecode_literal r last fuel, codecDecode_zeros r last fuel, codecDecode_repeat r last fuel⟩,
    fun s sid b m rest hb ht => ⟨bankTransition_waits hb ht, fun h => ⟨bankTransition_enters hb ht h, bankTransition_traps hb ht h⟩⟩,
    fun c b m => enterMode_bank,
    fun s c r hq => ⟨callStart_stays hq, fun hs hc hf => ⟨callStart_plain hq hs hc hf, callStart_counted hq hs hc hf⟩⟩,
    fun s => repeatEnqueue_none,
    fun s r k => ⟨repeatEnqueue_turn, fun i => repeat_args r⟩,
    fun s => ⟨shadowCompare_idle, fun j => shadowCompare_writes⟩,
    fun s => ⟨frameWrite_stays, fun n bs rest pl s1 s2 => frameWrite_writes, fun n bs refill => frameDecode_reads⟩⟩

end Sys2Proof.Proofs
end

section
/-! PROOFS. What a strand finds of the scratchpad when an instruction of it is presented (R123, R126, R131, R213, R337). -/

namespace Sys2Proof.Proofs

open Sys2Proof Sys2Proof.Machine Sys2Proof.Laws

/-! ## The checks of the scratchpad (R123, R126, R131, R440) -/

/-- `t` answers the checks of the scratchpad for a strand as `s` does. -/
structure SameSpad (s t : State) (sid : Nat) : Prop where
  clusters : t.clusters = s.clusters
  mcx : t.mcxOf sid = s.mcxOf sid

section
variable {s t u : State} {sid : Nat}

theorem SameSpad.trans (h : SameSpad s t sid) (k : SameSpad t u sid) : SameSpad s u sid := ⟨k.clusters.trans h.clusters, k.mcx.trans h.mcx⟩

theorem committedAt_spad (s : State) (sid : Nat) : SameSpad s (committedAt s sid) sid := ⟨rfl, committedAt_mcx s sid⟩

variable (h : SameSpad s t sid)
include h

theorem SameSpad.cluster (k : Nat) : t.cluster k = s.cluster k := by rw [State.cluster, h.clusters, State.cluster]

theorem SameSpad.ownsBank (b : Nat) : t.ownsBank sid b = s.ownsBank sid b := by simp only [State.ownsBank, h.cluster, h.mcx]

theorem SameSpad.spadCheck (off n align : Nat) : t.spadCheck sid off n align = s.spadCheck sid off n align := by
  simp only [State.spadCheck, h.cluster, h.ownsBank]

theorem SameSpad.engineOwned (cl off n : Nat) : t.engineOwned cl off n = s.engineOwned cl off n := by simp only [State.engineOwned, h.cluster]

theorem SameSpad.spadPoisoned (cl off n : Nat) : t.spadPoisoned cl off n = s.spadPoisoned cl off n := by simp only [State.spadPoisoned, h.cluster]

theorem SameSpad.barCheck (off : Nat) : t.barCheck sid off = s.barCheck sid off := by simp only [State.barCheck, h.cluster, h.ownsBank]

end

/-- A write within a sector that is not poisoned covers no poisoned sector (R440). -/
theorem spadPartPoison_within {s : State} {cl off n : Nat} (h0 : 0 < n) (hin : off % 128 + n ≤ 128) (hp : s.spadPoisoned cl off n = false) :
    s.spadPartPoison cl off (List.replicate n 0) = false := by
  have touched : off / 128 ∈ sectorsOf off n := (mem_sectorsOf _ _ _).mpr ⟨h0, Nat.le_refl _, by omega⟩
  have clean : mget false (s.cluster cl).poison (off / 128) = false := by simpa using List.any_eq_false.mp hp _ touched
  rw [State.spadPartPoison, cutAt_within off _ (by simpa using h0) (by simpa using hin)]
  simp [clean]

/-! ## A row whose instruction is no checkpoint -/

/-- The instruction is executed alone in its bundle, is no checkpoint, and presents `v`. -/
structure PlainRow (i : Instr) (v : Env → Verdict) : Prop where
  alone : ∀ s, exec i s = s.issueAlone i (fxOf i)
  plain : ckptOp i = false
  means : fxOf i = v

section
variable {s s' s1 : State} {i : Instr} {len : Nat} {f : LF} {v : Env → Verdict}

theorem PlainRow.shows (row : PlainRow i v) (e : Env) : fxOf i e = v e := by rw [row.means]

theorem ready_sameSpad (q : Ready s i s' len) : SameSpad s s' s.focus where
  clusters := by
    obtain ⟨_, _, _, _, _, _, _, rfl⟩ := alone_frame q.alone
    rfl
  mcx := ready_mcx q

theorem ready_committed (q : Ready s i s' len) : SameSpad s (committedAt s' s.focus) s.focus := (ready_sameSpad q).trans (committedAt_spad _ _)

/-- An operation whose guard bit is 0 presents no effect (R213). -/
theorem guarded_off (q : Ready s i s' len) (hg : s.guardOn f = false) (k : Verdict) : (s.aloneEnv s' s1 i len).guarded f k = nothing := by
  rw [Env.guarded, ready_guardBit q, hg]
  rfl

theorem guarded_on (q : Ready s i s' len) (hg : s.guardOn f = true) (k : Verdict) : (s.aloneEnv s' s1 i len).guarded f k = k := by
  rw [Env.guarded, ready_guardBit q, hg]
  rfl

/-- An instruction that presents no effect leaves its strand at the bundle that follows. -/
theorem PlainRow.gives_nothing (row : PlainRow i v) (h : Ready s i s' len → v (s.aloneEnv s' s' i len) = nothing) : SGives s i s' len s.me :=
  gives_core (g := id) (row.alone s) row.plain (fun q => (row.shows _).trans (h q)) rfl rfl rfl rfl

/-- An access has no granule to wait for just when no engine owns one that it touches (R25, R126). -/
theorem engWaits_isEmpty (hs : SameSpad s s1 s.focus) (off n : Nat) :
    ((s.aloneEnv s' s1 i len).engWaits off n).isEmpty = !s.engineOwned (clusterOf s.focus) off n := by
  rw [Bool.eq_iff_iff, List.isEmpty_iff, Env.engWaits, List.filterMap_eq_nil_iff, Bool.not_eq_true', ← hs.engineOwned, State.engineOwned, List.any_eq_false]
  refine forall₂_congr fun g _ => ?_
  show (if (((s1.cluster (clusterOf s.focus)).gran g).eng).isSome then some (Wait.granule (clusterOf s.focus) g) else none) = none ↔ _
  simp

end

end Sys2Proof.Proofs
end

section
/-! PROOFS. Scalar loads and stores of the scratchpad (R123, R126, R214, R216, R221). -/

namespace Sys2Proof.Proofs

open Sys2Proof Sys2Proof.Machine Sys2Proof.Laws

/-! ## Loads (R123, R126, R216) -/

section
variable {s s' s1 : State} {i : Instr} {len off n align : Nat} {k : List Byte → Verdict}

theorem spadLoad_traps (hs : SameSpad s s1 s.focus) {c : Nat} (h : s.spadCheck s.focus off n align = some c) :
    (s.aloneEnv s' s1 i len).spadLoad off n align k = (s.aloneEnv s' s1 i len).trap c 0 off := by
  have check : (s.aloneEnv s' s1 i len).s.spadCheck (s.aloneEnv s' s1 i len).sid off n align = some c := (hs.spadCheck ..).trans h
  rw [Env.spadLoad, check]

section
variable (hs : SameSpad s s1 s.focus) (h : s.spadCheck s.focus off n align = none)
include hs h

theorem spadLoad_blocks (ho : s.engineOwned (clusterOf s.focus) off n = true) :
    (s.aloneEnv s' s1 i len).spadLoad off n align k = .block ((s.aloneEnv s' s1 i len).engWaits off n) id := by
  have check : (s.aloneEnv s' s1 i len).s.spadCheck (s.aloneEnv s' s1 i len).sid off n align = none := (hs.spadCheck ..).trans h
  rw [Env.spadLoad, check]
  exact if_pos (by simp [engWaits_isEmpty hs, ho])

/-- The bytes of a load whose strand withholds no store are those of the scratchpad. -/
theorem spadLoad_reads (ho : s.engineOwned (clusterOf s.focus) off n = false) (hp : s.spadPoisoned (clusterOf s.focus) off n = false)
    (hst : (s1.strand s.focus).stores = []) :
    (s.aloneEnv s' s1 i len).spadLoad off n align k = k (getBytes (s.cluster (clusterOf s.focus)).bytes off n) := by
  have check : (s.aloneEnv s' s1 i len).s.spadCheck (s.aloneEnv s' s1 i len).sid off n align = none := (hs.spadCheck ..).trans h
  have clean : (s.aloneEnv s' s1 i len).s.spadPoisoned (s.aloneEnv s' s1 i len).cl off n = false := (hs.spadPoisoned ..).trans hp
  rw [Env.spadLoad, check]
  dsimp only
  rw [if_neg (by simp [engWaits_isEmpty hs, ho]), clean, if_neg (by simp), Env.spadBytes]
  show k (overlay (s1.strand s.focus).stores _ _ (getBytes (s1.cluster (clusterOf s.focus)).bytes off n)) = _
  rw [hst, hs.cluster]
  rfl

end

end

theorem ready_stores {s s' : State} {i : Instr} {len : Nat} (q : Ready s i s' len) : (s'.strand s.focus).stores = [] := by
  rw [ready_strand q, q.settled.stores]

theorem loadRow_of_mem {f : LF} {i : Instr} {n : Nat} {signed : Bool}
    (h : (i, n, signed) ∈ [(Instr.ldsS8 f, 1, true), (Instr.ldsN8 f, 1, false), (Instr.ldsS16 f, 2, true), (Instr.ldsN16 f, 2, false), (Instr.ldsS32 f, 4, true),
      (Instr.ldsN32 f, 4, false), (Instr.ldsB64 f, 8, false)]) : PlainRow i fun e => e.lds f n signed := by
  simp only [List.mem_cons, List.not_mem_nil, or_false, Prod.mk.injEq] at h
  obtain ⟨rfl, rfl, rfl⟩ | ⟨rfl, rfl, rfl⟩ | ⟨rfl, rfl, rfl⟩ | ⟨rfl, rfl, rfl⟩ | ⟨rfl, rfl, rfl⟩ | ⟨rfl, rfl, rfl⟩ | ⟨rfl, rfl, rfl⟩ := h <;>
    exact ⟨fun _ => rfl, rfl, rfl⟩

section
variable {s s' : State} {i : Instr} {len n : Nat} {f : LF} {signed : Bool} (row : PlainRow i fun e => e.lds f n signed) (q : Ready s i s' len)
  (hg : s.guardOn f = true)
include row q hg

/-- What a scratchpad load presents, before and after the commit of its region. -/
theorem load_shows (s1 : State) : fxOf i (s.aloneEnv s' s1 i len) = (s.aloneEnv s' s1 i len).spadLoad (s.eaOf f) n n fun bs =>
    okW [wr .x (f.reg.toNat % 64) (if signed then signExt64 n (leNat bs) else leNat bs) 6] := by
  rw [row.shows, Env.lds, guarded_on q hg, ready_ea q]

theorem load_traps {c : Nat} (h : s.spadCheck s.focus (s.eaOf f) n n = some c) : Traps s i s' c 0 (s.eaOf f) :=
  traps (row.alone s) q.alone ((load_shows row q hg s').trans (spadLoad_traps (ready_sameSpad q) h))

variable (h : s.spadCheck s.focus (s.eaOf f) n n = none)
include h

theorem load_blocks (ho : s.engineOwned (clusterOf s.focus) (s.eaOf f) n = true) : ∃ ws, Blocks s i s' ws :=
  ⟨_, blocks_of_block q (row.alone s) ((load_shows row q hg s').trans (spadLoad_blocks (ready_sameSpad q) h ho))
    ((load_shows row q hg (committedAt s' s.focus)).trans (spadLoad_blocks (ready_committed q) h ho)) fun _ => rfl⟩

theorem load_flies (ho : s.engineOwned (clusterOf s.focus) (s.eaOf f) n = false) (hp : s.spadPoisoned (clusterOf s.focus) (s.eaOf f) n = false) :
    let x := leNat (getBytes (s.cluster (clusterOf s.focus)).bytes (s.eaOf f) n)
    Flies s i len .x (f.reg.setWidth 6).toNat (if signed then toBits 64 (sext (8 * n) x) else x) 6 0 := by
  rw [setWidth_toNat]
  exact flies (row.alone s) row.plain q ((load_shows row q hg s').trans (spadLoad_reads (ready_sameSpad q) h ho hp (ready_stores q))) (fun x => Calm.refl x) rfl rfl
    (show 1 < 6 by decide)

end

/-- Settles O21: a load presents the first failing check, a block, or its result, and without its guard bit nothing. -/
theorem scratchpadLoads : Obligations.ScratchpadLoads := by
  intro s s' len f i n signed hi
  have row := loadRow_of_mem hi
  have nop : PlainRow (.lNop f) fun _ => nothing := ⟨fun _ => rfl, rfl, rfl⟩
  exact ⟨nop.gives_nothing fun _ => rfl, fun hg => row.gives_nothing fun q => guarded_off q hg _, fun hg q =>
    ⟨fun c => load_traps row q hg, fun h => ⟨load_blocks row q hg h, load_flies row q hg h⟩⟩⟩

end Sys2Proof.Proofs
end

section
/-! PROOFS. Stores that a strand withholds (R73, R221, R337, R339), and the scalar stores of the scratchpad (R123, R126, R216, R221). -/

namespace Sys2Proof.Proofs

open Sys2Proof Sys2Proof.Machine Sys2Proof.Laws

/-! ## An effect in a region with room (R337, R339) -/

section
variable {s s' : State} {i : Instr} {len : Nat}

/-- The strand in focus as its bundle's early effects find it. -/
theorem ready_presented (q : Ready s i s' len) : (s'.updCore s.focus fun _ => s'.core s.focus).strand s.focus = s.strand s.focus := by
  rw [updCore_eq, setStrand_strand, if_pos rfl, ← ready_strand q]
  rfl

/-- An instruction alone that is no checkpoint takes the effect that it presents, when its region has room for it after the early effects (R25, R339). -/
theorem acts_of_room (q : Ready s i s' len) (hx : exec i s = s.issueAlone i (fxOf i)) (hck : ckptOp i = false) {fx : Fx}
    (h : fxOf i (s.aloneEnv s' s' i len) = .ok fx) (hw : fx.waits = []) (hn : fx.writes.length ≤ 64)
    (room : ((fx.early (s'.updCore s.focus fun _ => s'.core s.focus)).strand s.focus).forced (s'.core s.focus).fmtStep [fx] = false) : Acts s i s' len fx := by
  unfold Acts
  rw [hx, base_plain hck, hck]
  refine issueAlone_ok q.alone ⟨?_, hw, room, ?_⟩ h
  · simp [Pres.ckpt, State.alonePres, q.settled.noCkpt, q.settled.noEnd, hck]
  · have flights : (flightsOf fx.writes).length ≤ fx.writes.length := List.length_filterMap_le _ _
    rw [ready_core q, q.settled.flight, List.length_nil]
    omega

/-- A settled region is not forced to commit by stores to no more than 256 sectors. -/
theorem not_forced_stores {ps : List PStore} {c : Core} (q : Settled s i) (hc : c.reel = (s.core s.focus).reel) (hps : (ps.flatMap PStore.sectors).length ≤ 256) :
    (s.strand s.focus).forced c [{ stores := ps }] = false := by
  have frames : (s.strand s.focus).newFrames c = 0 := (newFrames_reel _ hc).trans q.frames
  have undo : (s.strand s.focus).undo.dedup.length < 64 := Nat.lt_of_le_of_lt (dedup_length_le _) q.undo
  have sectors : (ps.flatMap PStore.sectors).dedup.length ≤ 256 := Nat.le_trans (List.dedup_sublist _).length_le hps
  have bundles := q.bundles
  simp only [Strand.forced, vWrites, q.stores, frames, List.append_nil, List.nil_append, List.flatMap_cons, List.flatMap_nil, List.filterMap_nil,
    Bool.or_eq_false_iff, decide_eq_false_iff_not]
  omega

/-! ## The effect of stores alone (R73, R221) -/

theorem mset_of_above {α : Type} [DecidableEq α] (d : α) {m : AMap α} {k : Nat} (h : mabove k m = true) (v : α) :
    mset d m k v = if v = d then m else (k, v) :: m := by
  cases m with
  | nil => rfl
  | cons p m =>
    have below : k < p.1 := by simpa [mabove] using h
    rw [mset, if_neg (Nat.ne_of_lt below), if_pos below]

/-- The later of two writes of one key stands. -/
theorem mset_mset {α : Type} [DecidableEq α] (d : α) (m : AMap α) (k : Nat) (v w : α) : mset d (mset d m k v) k w = mset d m k w := by
  induction m with
  | nil => by_cases hv : v = d <;> simp [mset, hv, mabove]
  | cons p m ih =>
    obtain ⟨k', v'⟩ := p
    rcases Nat.lt_trichotomy k k' with below | rfl | above
    · by_cases hv : v = d <;> by_cases hw : w = d <;> simp [mset, hv, hw, below, Nat.ne_of_lt below, mabove]
    · by_cases gone : v = d ∧ mabove k m = true
      · simp [mset, gone.1, gone.2, mset_of_above d gone.2]
      · simp only [mset, if_true, if_neg gone]
    · simp [mset, Nat.ne_of_gt above, Nat.not_lt_of_gt above, ih]

theorem setStrand_setStrand (s : State) (sid : Nat) (t u : Strand) : (s.setStrand sid t).setStrand sid u = s.setStrand sid u := by
  simp only [State.setStrand, mset_mset]

/-- `s` with further stores withheld by a strand. -/
def withholding (s : State) (sid : Nat) (ps : List PStore) : State := s.updStrand sid fun t => { t with stores := t.stores ++ ps }

theorem withholding_rest (s : State) (sid : Nat) (ps : List PStore) : RestSame s (withholding s sid ps) := ⟨_, _, _, _, _, _, _, _, _, rfl⟩

theorem withholding_core (s : State) (sid : Nat) (ps : List PStore) (j : Nat) : (withholding s sid ps).core j = s.core j := by
  rw [withholding, updStrand_eq, setStrand_core]
  split
  next h => rw [h]; rfl
  next => rfl

theorem withholding_stores (s : State) (sid : Nat) (ps : List PStore) : ((withholding s sid ps).strand sid).stores = (s.strand sid).stores ++ ps := by
  rw [withholding, updStrand_eq, setStrand_strand, if_pos rfl]

/-- A bundle of stores does what a bundle without effect does in a strand that withholds them before. -/
theorem effected_stores (s s1 : State) (len : Nat) (ps : List PStore) (hend : hdrEnd (aloneHdr i s.frame) = false) :
    s.effected s1 i len { stores := ps } false = s.effected (withholding s1 s.focus ps) i len {} false := by
  have issued : struck s s1 i len { stores := ps } = struck s (withholding s1 s.focus ps) i len {} := by
    simp only [struck, withholding, id, updCore_eq, updStrand_eq, setStrand_setStrand, setStrand_strand, setStrand_core, if_true, Strand.issue,
      List.flatMap_cons, List.flatMap_nil, List.append_nil]
    rfl
  rw [effected_eq _ _ _ _ _ rfl rfl hend, effected_eq _ _ _ _ _ rfl rfl hend, issued]

theorem rest_memory {s t : State} (h : RestSame s t) : t.hbm = s.hbm ∧ t.sects = s.sects ∧ t.clusters = s.clusters := by
  obtain ⟨_, _, _, _, _, _, _, _, _, rfl⟩ := h
  exact ⟨rfl, rfl, rfl⟩

theorem ready_rest (q : Ready s i s' len) : RestSame s s' ∧ DiesSame s s' := by
  obtain ⟨_, _, _, _, _, _, _, rfl⟩ := alone_frame q.alone
  exact ⟨⟨_, _, _, _, _, _, _, _, _, rfl⟩, dies_of_eq rfl⟩

/-- An instruction alone that presents stores to no more than 256 sectors withholds them. -/
theorem PlainRow.withholds {v : Env → Verdict} (row : PlainRow i v) (q : Ready s i s' len) {ps : List PStore}
    (h : v (s.aloneEnv s' s' i len) = .ok { stores := ps }) (hps : (ps.flatMap PStore.sectors).length ≤ 256) : Withholds s i len ps := by
  have room : ((s'.updCore s.focus fun _ => s'.core s.focus).strand s.focus).forced (s'.core s.focus).fmtStep [{ stores := ps }] = false := by
    rw [ready_presented q]
    exact not_forced_stores q.settled (by rw [ready_core q]; rfl) hps
  have acts := acts_of_room q (row.alone s) row.plain ((row.shows _).trans h) rfl (by simp) room
  rw [Acts, base_plain row.plain, row.plain, effected_stores _ _ _ _ q.settled.noEnd] at acts
  have rest := rest_trans (ready_rest q).1 (withholding_rest s' s.focus ps)
  have core (j : Nat) : (withholding s' s.focus ps).core j = s.core j := by rw [withholding_core, State.core, ready_strand q, State.core]
  obtain ⟨own, others, same, dies, stores⟩ := effected_plain (s := s) (i := i) (len := len) (fx := {}) ⟨rfl, fun x => Calm.refl x, rfl, rfl, rfl⟩ q.settled.noEnd
    ((rest_landing rest _).trans (canIssue_landing q.alone.may q.settled.step)) (by rw [rest_spindle rest]; exact q.settled.step)
    (by rw [rest_spindle rest]; exact canIssue_awake q.alone.may)
  have all := rest_trans rest same
  obtain ⟨hbm, sects, clusters⟩ := rest_memory all
  refine ⟨_, acts, ?_, ?_, fun a => by rw [hbm], sects, fun k a => by rw [State.cluster, clusters, State.cluster], fun j hj hf => ?_, all,
    dies_trans (ready_rest q).2 dies⟩
  · rw [own, core]
    exact issue_none _ _ q.settled.flight q.settled.fmt q.settled.noEnd q.settled.loops
  · rw [stores, withholding_stores, ready_stores q, List.nil_append]
  · rw [others j hj (by rw [core]; exact hf), core]

end

/-! ## Scalar stores (R123, R126, R216, R221) -/

theorem storeRow_of_mem {f : LF} {i : Instr} {n : Nat} (h : (i, n) ∈ [(Instr.stsB8 f, 1), (Instr.stsB16 f, 2), (Instr.stsB32 f, 4), (Instr.stsB64 f, 8)]) :
    PlainRow i (fun e => e.sts f n) ∧ n ≤ 8 := by
  simp only [List.mem_cons, List.not_mem_nil, or_false, Prod.mk.injEq] at h
  obtain ⟨rfl, rfl⟩ | ⟨rfl, rfl⟩ | ⟨rfl, rfl⟩ | ⟨rfl, rfl⟩ := h <;> exact ⟨⟨fun _ => rfl, rfl, rfl⟩, by decide⟩

/-- The data operand of a store whose port names no tile outside the share (R72, R212). -/
theorem withData_ok {e : Env} {f : LF} (h : e.portOk f) (k : Nat → Verdict) : e.withData f k = k (e.dataOf f) := by
  unfold Env.withData Env.dataOf
  split
  next port =>
    unfold Env.bpBound Env.tileBound
    split
    next tile => rw [if_neg (Nat.not_le_of_lt (h port tile))]
    next => rfl
  next => rfl

theorem length_sectorsOf_le (a n : Nat) : (sectorsOf a n).length ≤ n / 128 + 2 := by
  unfold sectorsOf
  split
  · simp
  · rw [List.length_map, List.length_range]
    omega

section
variable {s s' : State} {i : Instr} {len n : Nat} {f : LF} (q : Ready s i s' len)
  (hg : s.guardOn f = true) (hp : (s.aloneEnv s' s' i len).portOk f)
include q hg hp

theorem sts_traps {c : Nat} (h : s.spadStoreCheck s.focus (s.eaOf f) n n = some c) :
    (s.aloneEnv s' s' i len).sts f n = (s.aloneEnv s' s' i len).trap c 0 (s.eaOf f) := by
  have check : (s.aloneEnv s' s' i len).s.spadStoreCheck (s.aloneEnv s' s' i len).sid (s.eaOf f) n n = some c := (ready_storeCheck q _ _ _).trans h
  rw [Env.sts, guarded_on q hg, withData_ok hp, ready_ea q, check]

theorem sts_withholds (h : s.spadStoreCheck s.focus (s.eaOf f) n n = none) :
    let e := s.aloneEnv s' s' i len
    e.sts f n = .ok { stores := [{ loc := .spad (clusterOf s.focus) (s.eaOf f), bytes := leBytes n (e.dataOf f), slot := e.slot }] } := by
  have check : (s.aloneEnv s' s' i len).s.spadStoreCheck (s.aloneEnv s' s' i len).sid (s.eaOf f) n n = none := (ready_storeCheck q _ _ _).trans h
  dsimp only
  rw [Env.sts, guarded_on q hg, withData_ok hp, ready_ea q, check]
  rfl

end

/-- Settles O22: a store presents the first failing check, or is withheld, and without its guard bit nothing. -/
theorem scratchpadStores : Obligations.ScratchpadStores := by
  intro s s' len f i n hi
  obtain ⟨row, small⟩ := storeRow_of_mem hi
  have env : s.acting i s' len = s.aloneEnv s' s' i len := by rw [State.acting, base_plain row.plain]
  simp only [env]
  refine ⟨fun hg => row.gives_nothing fun q => guarded_off q hg _, fun hg hp q =>
    ⟨fun c h => traps (row.alone s) q.alone ((row.shows _).trans (sts_traps q hg hp h)), fun h => row.withholds q (sts_withholds q hg hp h) ?_⟩⟩
  have sectors := length_sectorsOf_le (s.eaOf f) n
  simp only [List.flatMap_cons, List.flatMap_nil, List.append_nil, PStore.sectors, List.length_map, length_leBytes]
  omega

end Sys2Proof.Proofs
end

section
/-! PROOFS. The barrier instructions (R131, R132, R227, R228). -/

namespace Sys2Proof.Proofs

open Sys2Proof Sys2Proof.Machine Sys2Proof.Laws

/-! ## The place of a barrier (R227) -/

theorem barCheck_aligned {s : State} {sid off : Nat} (h : s.barCheck sid off = none) : off % 16 = 0 := by
  unfold State.barCheck at h
  split at h
  · cases h
  · omega

section
variable {s s' s1 : State} {i : Instr} {len off : Nat} {k : Verdict} (hs : SameSpad s s1 s.focus)
include hs

theorem acting_barCheck : (s.aloneEnv s' s1 i len).s.barCheck (s.aloneEnv s' s1 i len).sid off = s.barCheck s.focus off := hs.barCheck off

theorem acting_cluster : (s.aloneEnv s' s1 i len).s.cluster (s.aloneEnv s' s1 i len).cl = s.cluster (clusterOf s.focus) := hs.cluster _

theorem acting_engineOwned (n : Nat) : (s.aloneEnv s' s1 i len).s.engineOwned (s.aloneEnv s' s1 i len).cl off n = s.engineOwned (clusterOf s.focus) off n :=
  hs.engineOwned _ off n

/-- A barrier that is not poisoned may be written. -/
theorem spadPut_barrier (ha : off % 16 = 0) (hp : s.spadPoisoned (clusterOf s.focus) off 16 = false) : (s.aloneEnv s' s1 i len).spadPut off 16 k = k :=
  if_neg (Bool.eq_false_iff.mp (spadPartPoison_within (by decide) (by omega) ((hs.spadPoisoned _ _ _).trans hp)))

end

/-! ## BARINIT (R131, R227) -/

/-- The write of a barrier by the strand in focus. -/
def barinitFx (s : State) (a x : Nat) : Fx :=
  { early := fun t => t.barInit s.focus a x (if isMill s.focus then 0 else (s.strand s.focus).scope) }

/-- BARINIT leaves the region of a strand that withholds no store for it to write over. -/
theorem barInit_region {t : State} {sid : Nat} (h : (t.strand sid).stores = []) (off x scope : Nat) :
    SameRegion (t.strand sid) ((t.barInit sid off x scope).strand sid) := by
  rw [State.barInit, updCluster_eq, setCluster_strand, updStrand_eq, setStrand_strand, if_pos rfl]
  exact ⟨rfl, by simp [h], rfl, rfl, rfl, rfl⟩

section
variable {s s' : State} {len : Nat} {f : LF} (q : Ready s (.barinit f) s' len) (hg : s.guardOn f = true)
include q hg

theorem barinit_checked {k : Nat} (h : s.barCheck s.focus (s.eaOf f) = some k) : Traps s (.barinit f) s' k 0 (s.eaOf f) := by
  refine traps rfl q.alone ((guarded_on q hg _).trans ?_)
  simp only [ready_ea q, acting_barCheck (ready_sameSpad q), h]

variable (h : s.barCheck s.focus (s.eaOf f) = none)
include h

/-- What BARINIT presents at a place of a barrier. -/
theorem barinit_shows : fxOf (.barinit f) (s.aloneEnv s' s' (.barinit f) len) =
    let e := s.aloneEnv s' s' (.barinit f) len
    let a := s.eaOf f
    let cl := clusterOf s.focus
    let x := (s.me.rx (f.reg.setWidth 6).toNat).toNat
    if x / 2 ^ 28 % 2 ^ 4 ≠ 0 || x / 2 ^ 48 % 2 ^ 16 ≠ 0 then e.trap cIllegal
    else if ((s.cluster cl).mark a).armed || s.engineOwned cl a 16 then e.trap cOwner 0 a
    else e.spadPut a 16 (.ok (barinitFx s a x)) := by
  refine (guarded_on q hg _).trans ?_
  simp only [ready_ea q, acting_barCheck (ready_sameSpad q), h, ready_rx q, acting_cluster (ready_sameSpad q), acting_engineOwned (ready_sameSpad q), ready_t q,
    setWidth_toNat]
  rfl

theorem barinit_illegal (hx : (s.me.rx (f.reg.setWidth 6).toNat).toNat / 2 ^ 28 % 2 ^ 4 ≠ 0 ∨ (s.me.rx (f.reg.setWidth 6).toNat).toNat / 2 ^ 48 ≠ 0) :
    Traps s (.barinit f) s' cIllegal := by
  have lt := (s.me.rx (f.reg.setWidth 6).toNat).isLt
  refine traps rfl q.alone ((barinit_shows q hg h).trans (if_pos ?_))
  rw [Bool.or_eq_true, decide_eq_true_eq, decide_eq_true_eq]
  omega

section
variable (hi : (s.me.rx (f.reg.setWidth 6).toNat).toNat / 2 ^ 28 % 2 ^ 4 = 0) (hh : (s.me.rx (f.reg.setWidth 6).toNat).toNat / 2 ^ 48 = 0)
include hi hh

theorem barinit_owner (ho : ((s.cluster (clusterOf s.focus)).mark (s.eaOf f)).armed = true ∨ s.engineOwned (clusterOf s.focus) (s.eaOf f) 16 = true) :
    Traps s (.barinit f) s' cOwner 0 (s.eaOf f) := by
  refine traps rfl q.alone ((barinit_shows q hg h).trans ?_)
  dsimp only
  rw [if_neg (by rw [hi, hh]; decide), if_pos (by simpa using ho)]

/-- BARINIT of a barrier that is neither armed nor an engine's. -/
theorem barinit_acts (hm : ((s.cluster (clusterOf s.focus)).mark (s.eaOf f)).armed = false) (ho : s.engineOwned (clusterOf s.focus) (s.eaOf f) 16 = false)
    (hp : s.spadPoisoned (clusterOf s.focus) (s.eaOf f) 16 = false) :
    Acts s (.barinit f) s' len (barinitFx s (s.eaOf f) (s.me.rx (f.reg.setWidth 6).toNat).toNat) := by
  refine acts_of_room q rfl rfl ((barinit_shows q hg h).trans ?_) rfl (Nat.zero_le _) ?_
  · dsimp only
    rw [if_neg (by rw [hi, hh]; decide), if_neg (by simp [hm, ho]), spadPut_barrier (ready_sameSpad q) (barCheck_aligned h) hp]
  · exact ((barInit_region (by rw [ready_presented q, q.settled.stores]) _ _ _).forced_eq _ _).trans (by
      rw [ready_presented q]
      exact not_forced_of_settled q.settled (by rw [ready_core q]; rfl) rfl rfl)

end

end

/-- The words and the mark that BARINIT sets (R131, R227). -/
theorem barInit_words (c : Cluster) (off : Nat) {expect arv scope : Nat} (he : expect < 2 ^ 28) (ha : arv < 2 ^ 16) (hs : scope < 2 ^ 32) :
    let c' := c.barInit off (expect + arv * 2 ^ 32) scope
    c'.barW off 1 = expect ∧ c'.barW off 2 = arv + arv * 2 ^ 16 ∧ c'.barW off 3 = scope
      ∧ c'.barW off 0 = expect + (if expect = 0 ∧ arv = 0 then 0 else 2 ^ 31) ∧ ((c'.mark off).armed = true ↔ expect ≠ 0 ∨ arv ≠ 0) := by
  have bytes : (expect + arv * 2 ^ 32) % 2 ^ 28 = expect := by omega
  have arrivals : (expect + arv * 2 ^ 32) / 2 ^ 32 % 2 ^ 16 = arv := by omega
  have armed : (expect != 0 || arv != 0) = !decide (expect = 0 ∧ arv = 0) := by
    by_cases h0 : expect = 0 <;> by_cases h1 : arv = 0 <;> simp [h0, h1]
  simp only [Cluster.barInit, bytes, arrivals, armed]
  refine ⟨?_, ?_, ?_, ?_, ?_⟩
  · rw [barW_setMark, barW_setBarW, if_neg (by decide), barW_setBarW, if_neg (by decide), barW_setBarW, if_pos rfl, Nat.mod_eq_of_lt (by omega)]
  · rw [barW_setMark, barW_setBarW, if_neg (by decide), barW_setBarW, if_pos rfl, Nat.mod_eq_of_lt (by omega)]
  · rw [barW_setMark, barW_setBarW, if_pos rfl, Nat.mod_eq_of_lt hs]
  · rw [barW_setMark, barW_setBarW, if_neg (by decide), barW_setBarW, if_neg (by decide), barW_setBarW, if_neg (by decide), barW_setBarW, if_pos rfl]
    by_cases idle : expect = 0 ∧ arv = 0
    · simp [idle]
    · rw [decide_eq_false idle, if_neg idle, Bool.not_false, Bool.toNat_true, Nat.one_mul, Nat.mod_eq_of_lt (by omega)]
  · rw [mark_setMark, Bool.not_eq_true', decide_eq_false_iff_not, not_and_or]

/-! ## BARARV (R132, R228) -/

/-- An arrival of the strand in focus. -/
def arrivalFx (s : State) (a : Nat) : Fx :=
  { firm := true
    post := fun t => if t.remotePending s.focus then t.updStrand s.focus fun t => { t with arvPend := t.arvPend ++ [(clusterOf s.focus, a)] }
      else t.updCluster (clusterOf s.focus) fun c => c.barArrive a }

section
variable {s s' : State} {len : Nat} {f : LF}

/-- What BARARV presents at a place of a barrier, before and after the commit of its region. -/
theorem bararv_shows (q : Ready s (.bararv f) s' len) (hg : s.guardOn f = true) (h : s.barCheck s.focus (s.eaOf f) = none) {s1 : State}
    (hs : SameSpad s s1 s.focus) : fxOf (.bararv f) (s.aloneEnv s' s1 (.bararv f) len) =
    let e := s.aloneEnv s' s1 (.bararv f) len
    if !((s.cluster (clusterOf s.focus)).mark (s.eaOf f)).armed then e.trap cOwner 0 (s.eaOf f)
    else if !(e.engWaits (s.eaOf f) 16).isEmpty then .block (e.engWaits (s.eaOf f) 16) id
    else e.spadPut (s.eaOf f) 16 (.ok (arrivalFx s (s.eaOf f))) := by
  refine (guarded_on q hg _).trans ?_
  simp only [ready_ea q, acting_barCheck hs, h, acting_cluster hs]
  rfl

theorem bararv_arrives (q : Ready s (.bararv f) s' len) (hg : s.guardOn f = true) (h : s.barCheck s.focus (s.eaOf f) = none) {s1 : State}
    (hs : SameSpad s s1 s.focus) (hm : ((s.cluster (clusterOf s.focus)).mark (s.eaOf f)).armed = true)
    (ho : s.engineOwned (clusterOf s.focus) (s.eaOf f) 16 = false) (hp : s.spadPoisoned (clusterOf s.focus) (s.eaOf f) 16 = false) :
    fxOf (.bararv f) (s.aloneEnv s' s1 (.bararv f) len) = .ok (arrivalFx s (s.eaOf f)) := by
  rw [bararv_shows q hg h hs]
  dsimp only
  rw [if_neg (by simp [hm]), if_neg (by simp [engWaits_isEmpty hs, ho]), spadPut_barrier hs (barCheck_aligned h) hp]

/-! ## BARWAIT (R131, R228) -/

section
variable (q : Ready s (.barwait f) s' len) (hg : s.guardOn f = true) (h : s.barCheck s.focus (s.eaOf f) = none)
include q hg h

/-- BARWAIT while the barrier is armed in the phase that it names, before and after the commit of its region. -/
theorem barwait_waits {s1 : State} (hs : SameSpad s s1 s.focus) (hm : ((s.cluster (clusterOf s.focus)).mark (s.eaOf f)).armed = true)
    (hph : (s.cluster (clusterOf s.focus)).barPhase (s.eaOf f) = f.opx) :
    fxOf (.barwait f) (s.aloneEnv s' s1 (.barwait f) len) = .block [.barrier (clusterOf s.focus) (s.eaOf f) f.opx] id := by
  refine (guarded_on q hg _).trans ?_
  simp only [ready_ea q, acting_barCheck hs, h, acting_cluster hs, hm, hph, Bool.true_and, beq_self_eq_true, if_true]
  rfl

theorem barwait_ends (hm : ((s.cluster (clusterOf s.focus)).mark (s.eaOf f)).armed = false ∨ (s.cluster (clusterOf s.focus)).barPhase (s.eaOf f) ≠ f.opx)
    (hp : s.spadPoisoned (clusterOf s.focus) (s.eaOf f) 16 = false) :
    fxOf (.barwait f) (s.aloneEnv s' s' (.barwait f) len) = okW [wr .x (f.reg.setWidth 6).toNat
      ((s.cluster (clusterOf s.focus)).barW (s.eaOf f) 0 + (s.cluster (clusterOf s.focus)).barW (s.eaOf f) 3 * 2 ^ 32) 1] := by
  have hs := ready_sameSpad q
  have done : (((s.cluster (clusterOf s.focus)).mark (s.eaOf f)).armed && (s.cluster (clusterOf s.focus)).barPhase (s.eaOf f) == f.opx) = false := by
    rcases hm with hm | hm <;> simp [hm]
  have clean : (s.aloneEnv s' s' (.barwait f) len).s.spadPoisoned (s.aloneEnv s' s' (.barwait f) len).cl (s.eaOf f) 16 = false := (hs.spadPoisoned _ _ _).trans hp
  have word (off : Nat) : (s.aloneEnv s' s' (.barwait f) len).spadBytes off 4 = getBytes (s.cluster (clusterOf s.focus)).bytes off 4 := by
    rw [Env.spadBytes, acting_cluster hs, ready_t q, q.settled.stores]
    rfl
  refine (guarded_on q hg _).trans ?_
  simp only [ready_ea q, acting_barCheck hs, h, acting_cluster hs, done, clean, Bool.false_eq_true, if_false, word, setWidth_toNat]
  rfl

end
end

/-- Settles O29: each instruction presents its trap, its block or its act, and the words that BARINIT sets are read one by one. -/
theorem barriers : Obligations.Barriers := by
  intro s s' len f hg
  refine ⟨fun q => ⟨fun k => barinit_checked q hg, fun h hi hh hm ho hp => barinit_acts q hg h hi hh hm ho hp, fun h => barinit_illegal q hg h,
      fun h hi hh ho => barinit_owner q hg h hi hh ho⟩,
    fun q h => ⟨fun hm => ?_, fun hm ho hp => ?_⟩, fun q h => ⟨fun hm hph => ?_, fun hm hp => ?_⟩,
    fun c expect arv scope _ he ha hs _ => barInit_words c _ he ha hs⟩
  · exact traps rfl q.alone ((bararv_shows q hg h (ready_sameSpad q)).trans (if_pos (by simp [hm])))
  · exact acts_of_ckpt q rfl rfl (bararv_arrives q hg h (ready_sameSpad q) hm ho hp) (bararv_arrives q hg h (ready_committed q) hm ho hp) rfl (Nat.zero_le _)
  · exact blocks_of_block q rfl (barwait_waits q hg h (ready_sameSpad q) hm hph) (barwait_waits q hg h (ready_committed q) hm hph) fun _ => rfl
  · intro q'
    have given := gives_one rfl rfl (fun q => barwait_ends q hg h hm hp) rfl rfl (Nat.le_refl _) q'
    simp only [wr, stick_zero, Core.write] at given
    exact given

end Sys2Proof.Proofs
end

section
/-! PROOFS. A BOBREL in a cluster whose map of bobbins lists one bank twice (R129, R232). -/

namespace Sys2Proof.Proofs

open Sys2Proof Sys2Proof.Machine Sys2Proof.Laws

/-- The bobbin that the map lists second: five slots of 64 KiB from bank 0, the last of which lies in bank 1 and is DRAINING. -/
def listedSecond : Bobbin := { slotsm1 := 4, slotlog := 6, banksm1 := 1, tags := List.replicate 4 .empty ++ [.draining] }

/-- The mill's strand 0, with the offset of that slot in x1 and a code word at its PC. The map of bobbins of its cluster is not canonical: before the second bobbin
it lists, under the same key, one of a single EMPTY slot in bank 0. -/
def listedTwice : State :=
  { strands := [(0, { st := .running, core := { x := [(1, 2 ^ 18)] } })]
    spindles := [(0, { running := some 0 })]
    rom := [(0, 0), (1, 0)]
    clusters := [(0, { banks := [(0, { mode := .fifo, owner := .mill }), (1, { mode := .fifo, owner := .mill })]
                       bobbins := [(0, some { tags := [.empty] }), (0, some listedSecond)] })] }

/-- BOBREL of the slot at x1. -/
def releaseX1 : LF := { reg := 0, xbase := 1, off := 0, g := 0, bpd := false, opx := false, scope := 0 }

theorem listedTwice_ready : Ready listedTwice (.bobrel releaseX1) listedTwice 1 where
  alone :=
    { may := by decide +kernel
      fetch := ⟨0, by rfl, rfl⟩
      formed := by decide +kernel
      quiet := rfl
      level := by decide +kernel
      shadows := rfl
      acts := .inl (by decide +kernel)
      port := fun h => absurd h (by decide +kernel) }
  settled :=
    { flight := rfl
      fmt := rfl
      loops := fun _ h => by cases h
      step := rfl
      undo := by decide +kernel
      stores := rfl
      bundles := by decide +kernel
      frames := by decide +kernel
      noEnd := by decide +kernel
      noCkpt := by decide +kernel
      copies := rfl }

/-- The slot at x1 is the DRAINING slot of the bobbin listed second, since the one listed first ends before its bank. -/
theorem listedTwice_slot : (listedTwice.cluster 0).slotAt (2 ^ 18) = some (0, listedSecond, 4) := by decide +kernel

/-- Does an answer leave the strand in focus in its trap handler? -/
def inHandler : Result → Bool
  | .next t => (t.core t.focus).intrap
  | _ => false

/-- BOBREL reads the tag of the slot in the bobbin that the map gives for bank 0, which is the one listed first, and traps. -/
theorem listedTwice_traps : inHandler (exec (.bobrel releaseX1) listedTwice) = true := by decide +kernel

/-- Refutes O30: its clause of BOBREL finds the slot's bobbin by a search for the bank and supposes that the map gives the same bobbin for the first bank, which
holds of a canonical map of bobbins; the statement does not ask for one. In `listedTwice` the slot that the search finds is DRAINING, and BOBREL traps all the
same. -/
theorem not_bobbinsAndBankModes : ¬ Obligations.BobbinsAndBankModes := by
  intro h
  have guard : listedTwice.guardOn releaseX1 = true := by decide +kernel
  have place : listedTwice.eaOf releaseX1 = 2 ^ 18 := by decide +kernel
  obtain ⟨-, release⟩ := h listedTwice listedTwice 1 releaseX1 guard
  simp only [place] at release
  obtain ⟨released, -⟩ := release 0 listedSecond 4 (by decide) (by decide +kernel) listedTwice_slot (by decide) listedTwice_ready
  have answer := congrArg inHandler (released (by decide))
  rw [listedTwice_traps] at answer
  revert answer
  decide +kernel

end Sys2Proof.Proofs
end

section
/-! PROOFS. ACQ, REL and FENCE (R147, R149, R150, R224 to R226, R286). -/

namespace Sys2Proof.Proofs

open Sys2Proof Sys2Proof.Machine Sys2Proof.Laws

/-! ## Places and words, before and after the commit of a region (R212, R337) -/

/-- The commit of a region moves the place of no access. -/
theorem committedAt_sameplace (u : State) (sid ea : Nat) (c : AccClass) :
    ((committedAt u sid).place sid ea c).map Prod.fst = (u.place sid ea c).map Prod.fst := by
  have same : (committedAt u sid).translate (u.mcxOf sid) ea c = u.translate (u.mcxOf sid) ea c := rfl
  unfold State.place State.ctxPlace
  rw [committedAt_mcx, same]
  split
  · cases millPlace ea <;> rfl
  · cases u.translate (u.mcxOf sid) ea c <;> rfl

theorem place_of_committed {u v : State} {sid ea : Nat} {c : AccClass} {pl : Place} (h : (committedAt u sid).place sid ea c = .ok (pl, v)) :
    ∃ v', u.place sid ea c = .ok (pl, v') := by
  have same := committedAt_sameplace u sid ea c
  rw [h] at same
  cases hp : u.place sid ea c with
  | error e => simp [hp, Except.map] at same
  | ok p =>
    rw [hp] at same
    cases same
    exact ⟨p.2, rfl⟩

/-- An access whose page is at home in this module goes to its place (R369). -/
theorem gplace_home {e : Env} {ea access : Nat} {c : AccClass} {pl : Place} {u : State} (hp : e.s.place e.sid ea c = .ok (pl, u))
    (hl : ∃ pa key, pl.loc = .hbm pa key) (k : Place → Verdict) : e.gplace ea c access k = k pl := by
  obtain ⟨pa, key, hl⟩ := hl
  rw [Env.gplace, hp]
  dsimp only
  rw [hl]

theorem spadStoreCheck_aligned {s : State} {sid off n align : Nat} (h : s.spadStoreCheck sid off n align = none) : off % align = 0 := by
  unfold State.spadStoreCheck State.spadCheck at h
  by_contra odd
  simp [if_pos odd] at h

/-- The port names no tile outside the share before the commit, if it names none after. -/
theorem portOk_of_committed {s s' : State} {i : Instr} {len : Nat} {f : LF} (h : (s.aloneEnv s' (committedAt s' s.focus) i len).portOk f) :
    (s.aloneEnv s' s' i len).portOk f := by
  have share : (s.aloneEnv s' (committedAt s' s.focus) i len).t.ntile = (s.aloneEnv s' s' i len).t.ntile := by
    show ((committedAt s' s.focus).strand s.focus).ntile = _
    rw [committedAt_strand]
    rfl
  intro port tile
  rw [← share]
  exact h port tile

/-! ## The sync table (R145, R146, R224, R286) -/

/-- The sync table, as it reads in `s1`, lists the object that EA names, and its record begins with `d0` (R145, R146). -/
structure Listed (s s1 : State) (f : LF) (d0 : Nat) : Prop where
  within : s.eaOf f < s1.syncCount (s.mcxOf s.focus)
  record : s1.syncD0 (s.mcxOf s.focus) (s.eaOf f) = d0

section
variable {s s' s1 : State} {i : Instr} {len d0 : Nat} {f : LF}

/-- A mill strand has no sync table (R286). -/
theorem tenantOnly_mill (hm : isMill s.focus = true) (k : Verdict) :
    (s.aloneEnv s' s1 i len).tenantOnly k = (s.aloneEnv s' s1 i len).trap cIllegal := if_pos hm

theorem tenantOnly_guarded (q : Ready s i s' len) (hm : isMill s.focus = false) (hg : s.guardOn f = true) (k : Verdict) :
    (s.aloneEnv s' s1 i len).tenantOnly ((s.aloneEnv s' s1 i len).guarded f k) = k :=
  (if_neg (Bool.eq_false_iff.mp hm)).trans (guarded_on q hg k)

theorem syncObj_unlisted (q : Ready s i s' len) (h : s'.syncCount (s.mcxOf s.focus) ≤ s.eaOf f) (k : Bool → Nat → Verdict) :
    (s.aloneEnv s' s' i len).syncObj f k = (s.aloneEnv s' s' i len).trap cIllegal := by
  rw [Env.syncObj, ready_ea q, ready_emcx q]
  exact if_pos h

theorem Listed.shows (h : Listed s s1 f d0) (q : Ready s i s' len) (hs : SameSpad s s1 s.focus) (k : Bool → Nat → Verdict) :
    (s.aloneEnv s' s1 i len).syncObj f k = k (bitOf d0 48) (d0 % 2 ^ 48) := by
  have mcx : (s.aloneEnv s' s1 i len).mcx = s.mcxOf s.focus := hs.mcx
  rw [Env.syncObj, ready_ea q, mcx, ← h.record]
  exact if_neg (Nat.not_le_of_lt h.within)

/-- The table and the record are the same before the commit. -/
theorem Listed.of_committed (h : Listed s (committedAt s' s.focus) f d0) : Listed s s' f d0 := ⟨h.within, h.record⟩

/-- A word of the scratchpad in no poisoned sector may be written (R440). -/
theorem spadPut_word {off : Nat} (ha : off % 8 = 0) (hp : s1.spadPoisoned (clusterOf s.focus) off 8 = false) (k : Verdict) :
    (s.aloneEnv s' s1 i len).spadPut off 8 k = k :=
  if_neg (Bool.eq_false_iff.mp (spadPartPoison_within (by decide) (by omega) hp))

end

/-! ## ACQ (R147, R149, R224) -/

/-- An acquire of the word at `l`, with the scope that the strand has in `s1`. -/
def acquireFx (s s1 : State) (f : LF) (l : Loc) (ea : Nat) (touch : State → State) : Fx :=
  let r := (f.reg.setWidth 6).toNat
  { waits := [.acq l ea (s.me.rx r).toNat r (s1.scopeAt s.focus f.scope.toNat)], resp := [wr .x r 0 1], early := touch }

section
variable {s s' s1 : State} {len d0 : Nat} {f : LF} (q : Ready s (.acq f) s' len) (hm : isMill s.focus = false) (hg : s.guardOn f = true)
include q hm hg

theorem acq_unlisted (h : s'.syncCount (s.mcxOf s.focus) ≤ s.eaOf f) : Traps s (.acq f) s' cIllegal :=
  traps rfl q.alone ((tenantOnly_guarded q hm hg _).trans (syncObj_unlisted q h _))

variable (hs : SameSpad s s1 s.focus) (h : Listed s s1 f d0)
include hs h

/-- What ACQ of a word of the scratchpad presents, before and after the commit of its region. -/
theorem acq_spad (hb : bitOf d0 48 = true) (hc : s1.spadCheck s.focus (d0 % 2 ^ 48) 8 8 = none)
    (ho : s1.engineOwned (clusterOf s.focus) (d0 % 2 ^ 48) 8 = false) (hp : s1.spadPoisoned (clusterOf s.focus) (d0 % 2 ^ 48) 8 = false) :
    fxOf (.acq f) (s.aloneEnv s' s1 (.acq f) len) = .ok (acquireFx s s1 f (.spad (clusterOf s.focus) (d0 % 2 ^ 48)) (d0 % 2 ^ 48) id) := by
  have check : (s.aloneEnv s' s1 (.acq f) len).s.spadCheck (s.aloneEnv s' s1 (.acq f) len).sid (d0 % 2 ^ 48) 8 8 = none := hc
  have clean : (s.aloneEnv s' s1 (.acq f) len).s.spadPoisoned (s.aloneEnv s' s1 (.acq f) len).cl (d0 % 2 ^ 48) 8 = false := hp
  have free : s.engineOwned (clusterOf s.focus) (d0 % 2 ^ 48) 8 = false := (hs.engineOwned _ _ _).symm.trans ho
  refine (tenantOnly_guarded q hm hg _).trans ((h.shows q hs _).trans ?_)
  rw [hb, if_pos rfl, check]
  dsimp only
  rw [if_neg (by rw [engWaits_isEmpty hs, free]; decide), clean, if_neg Bool.false_ne_true, acquireFx, setWidth_toNat, ← ready_rx (s1 := s1) q]
  rfl

/-- What ACQ of a word of this module's memory presents, before and after the commit of its region. -/
theorem acq_global (hb : bitOf d0 48 = false) {pl : Place} {u : State} {bs : List Byte} (hp : s1.place s.focus (d0 % 2 ^ 48) .read = .ok (pl, u))
    (hl : ∃ pa key, pl.loc = .hbm pa key) (hr : s1.readPlace pl 8 = .ok bs) :
    fxOf (.acq f) (s.aloneEnv s' s1 (.acq f) len) = .ok (acquireFx s s1 f pl.loc (d0 % 2 ^ 48) fun t => t.touch s.focus (d0 % 2 ^ 48) .read) := by
  have place : (s.aloneEnv s' s1 (.acq f) len).s.place (s.aloneEnv s' s1 (.acq f) len).sid (d0 % 2 ^ 48) .read = .ok (pl, u) := hp
  have read : (s.aloneEnv s' s1 (.acq f) len).s.readPlace pl 8 = .ok bs := hr
  refine (tenantOnly_guarded q hm hg _).trans ((h.shows q hs _).trans ?_)
  rw [hb, if_neg Bool.false_ne_true, gplace_home place hl, read]
  obtain ⟨pa, key, hl⟩ := hl
  dsimp only
  rw [hl, acquireFx, setWidth_toNat, ← ready_rx (s1 := s1) q]
  rfl

end

/-! ## REL (R147, R149, R225) -/

/-- A release of the value `v` to the word at `l`, with the scope that the strand has in `s1`. -/
def releaseFx (s s1 : State) (f : LF) (l : Loc) (ea v : Nat) (touch : State → State) : Fx :=
  { waits := [.resp], firm := true, early := fun t => (touch t).release s.focus (s1.scopeAt s.focus f.scope.toNat) l ea v }

section
variable {s s' s1 : State} {len d0 : Nat} {f : LF} (q : Ready s (.rel f) s' len) (hm : isMill s.focus = false) (hg : s.guardOn f = true)
  (hs : SameSpad s s1 s.focus) (h : Listed s s1 f d0) (hd : (s.aloneEnv s' s1 (.rel f) len).portOk f) (hw : s1.remotePending s.focus = false)
include q hm hg hs h hd hw

/-- What REL to a word of the scratchpad presents, before and after the commit of its region. -/
theorem rel_spad (hb : bitOf d0 48 = true) (hc : s1.spadStoreCheck s.focus (d0 % 2 ^ 48) 8 8 = none)
    (hp : s1.spadPoisoned (clusterOf s.focus) (d0 % 2 ^ 48) 8 = false) :
    let e := s.aloneEnv s' s1 (.rel f) len
    fxOf (.rel f) e = .ok (releaseFx s s1 f (.spad (clusterOf s.focus) (d0 % 2 ^ 48)) (d0 % 2 ^ 48) (e.dataOf f) id) := by
  have check : (s.aloneEnv s' s1 (.rel f) len).s.spadStoreCheck (s.aloneEnv s' s1 (.rel f) len).sid (d0 % 2 ^ 48) 8 8 = none := hc
  have quiet : (s.aloneEnv s' s1 (.rel f) len).now.remotePending (s.aloneEnv s' s1 (.rel f) len).sid = false := hw
  refine (tenantOnly_guarded q hm hg _).trans ((h.shows q hs _).trans ((withData_ok hd _).trans ?_))
  rw [hb, if_pos rfl, check]
  dsimp only
  rw [spadPut_word (spadStoreCheck_aligned hc) hp]
  exact if_neg (Bool.eq_false_iff.mp quiet)

/-- What REL to a word of this module's memory presents, before and after the commit of its region. -/
theorem rel_global (hb : bitOf d0 48 = false) {pl : Place} {u : State} {bs : List Byte} (hp : s1.place s.focus (d0 % 2 ^ 48) .write = .ok (pl, u))
    (hl : ∃ pa key, pl.loc = .hbm pa key) (hr : s1.readPlace pl 8 = .ok bs) :
    let e := s.aloneEnv s' s1 (.rel f) len
    fxOf (.rel f) e = .ok (releaseFx s s1 f pl.loc (d0 % 2 ^ 48) (e.dataOf f) fun t => t.touch s.focus (d0 % 2 ^ 48) .write) := by
  have place : (s.aloneEnv s' s1 (.rel f) len).s.place (s.aloneEnv s' s1 (.rel f) len).sid (d0 % 2 ^ 48) .write = .ok (pl, u) := hp
  have read : (s.aloneEnv s' s1 (.rel f) len).s.readPlace pl 8 = .ok bs := hr
  have quiet : (s.aloneEnv s' s1 (.rel f) len).now.remotePending (s.aloneEnv s' s1 (.rel f) len).sid = false := hw
  refine (tenantOnly_guarded q hm hg _).trans ((h.shows q hs _).trans ((withData_ok hd _).trans ?_))
  rw [hb, if_neg Bool.false_ne_true, gplace_home place hl, read]
  obtain ⟨pa, key, hl⟩ := hl
  dsimp only
  rw [hl]
  exact if_neg (Bool.eq_false_iff.mp quiet)

end

/-- A release whose word may be written sets its tag and is charged (R149, R373). -/
theorem release_writes {t t' : State} {sid ea v : Nat} {l : Loc}
    (hf : t.storeFault (t.mcxOf sid) [] { loc := l, bytes := leBytes 8 v, ea := ea } l = none) (hw : t.writeLoc l (leBytes 8 v) = .ok t') (sc : ScopeAt) :
    t.release sid sc l ea v = (t'.setTag sid sc l v).charge sid { loc := l, ea := ea, cache := t.cacheOf sid ea } 8 .write := by
  rw [State.release, hf]
  dsimp only
  rw [hw]

/-! ## Each instruction takes the effect that it presents -/

section
variable {s s' : State} {len d0 : Nat} {f : LF}

theorem acq_acts_spad (q : Ready s (.acq f) s' len) (hm : isMill s.focus = false) (hg : s.guardOn f = true) (h : Listed s (committedAt s' s.focus) f d0)
    (hb : bitOf d0 48 = true) (hc : (committedAt s' s.focus).spadCheck s.focus (d0 % 2 ^ 48) 8 8 = none)
    (ho : (committedAt s' s.focus).engineOwned (clusterOf s.focus) (d0 % 2 ^ 48) 8 = false)
    (hp : (committedAt s' s.focus).spadPoisoned (clusterOf s.focus) (d0 % 2 ^ 48) 8 = false) :
    Acts s (.acq f) s' len (acquireFx s (committedAt s' s.focus) f (.spad (clusterOf s.focus) (d0 % 2 ^ 48)) (d0 % 2 ^ 48) id) :=
  acts_of_ckpt q rfl rfl (acq_spad q hm hg (ready_sameSpad q) h.of_committed hb (((committedAt_spad s' _).spadCheck _ _ _).symm.trans hc) ho hp)
    (acq_spad q hm hg (ready_committed q) h hb hc ho hp) rfl (Nat.zero_le _)

theorem acq_acts_global (q : Ready s (.acq f) s' len) (hm : isMill s.focus = false) (hg : s.guardOn f = true) (h : Listed s (committedAt s' s.focus) f d0)
    (hb : bitOf d0 48 = false) {pl : Place} {u : State} {bs : List Byte} (hp : (committedAt s' s.focus).place s.focus (d0 % 2 ^ 48) .read = .ok (pl, u))
    (hl : ∃ pa key, pl.loc = .hbm pa key) (hr : (committedAt s' s.focus).readPlace pl 8 = .ok bs) :
    Acts s (.acq f) s' len (acquireFx s (committedAt s' s.focus) f pl.loc (d0 % 2 ^ 48) fun t => t.touch s.focus (d0 % 2 ^ 48) .read) := by
  obtain ⟨u', hp'⟩ := place_of_committed hp
  exact acts_of_ckpt q rfl rfl (acq_global q hm hg (ready_sameSpad q) h.of_committed hb hp' hl hr) (acq_global q hm hg (ready_committed q) h hb hp hl hr) rfl
    (Nat.zero_le _)

section
variable (q : Ready s (.rel f) s' len) (hm : isMill s.focus = false) (hg : s.guardOn f = true) (h : Listed s (committedAt s' s.focus) f d0)
  (hd : (s.aloneEnv s' (committedAt s' s.focus) (.rel f) len).portOk f) (hw : (committedAt s' s.focus).remotePending s.focus = false)
include q hm hg h hd hw

theorem rel_acts_spad (hb : bitOf d0 48 = true) (hc : (committedAt s' s.focus).spadStoreCheck s.focus (d0 % 2 ^ 48) 8 8 = none)
    (hp : (committedAt s' s.focus).spadPoisoned (clusterOf s.focus) (d0 % 2 ^ 48) 8 = false) :
    Acts s (.rel f) s' len (releaseFx s (committedAt s' s.focus) f (.spad (clusterOf s.focus) (d0 % 2 ^ 48)) (d0 % 2 ^ 48)
      ((s.aloneEnv s' (committedAt s' s.focus) (.rel f) len).dataOf f) id) := by
  have quiet : s'.remotePending s.focus = false := (asksSame_ready q).pending.trans ((asksSame_ready q).committed.pending.symm.trans hw)
  exact acts_of_ckpt q rfl rfl
    (rel_spad q hm hg (ready_sameSpad q) h.of_committed (portOk_of_committed hd) quiet hb ((committedAt_storeCheck s' _ _ _ _).symm.trans hc) hp)
    (rel_spad q hm hg (ready_committed q) h hd hw hb hc hp) rfl (Nat.zero_le _)

theorem rel_acts_global (hb : bitOf d0 48 = false) {pl : Place} {u : State} {bs : List Byte}
    (hp : (committedAt s' s.focus).place s.focus (d0 % 2 ^ 48) .write = .ok (pl, u)) (hl : ∃ pa key, pl.loc = .hbm pa key)
    (hr : (committedAt s' s.focus).readPlace pl 8 = .ok bs) :
    Acts s (.rel f) s' len (releaseFx s (committedAt s' s.focus) f pl.loc (d0 % 2 ^ 48) ((s.aloneEnv s' (committedAt s' s.focus) (.rel f) len).dataOf f)
      fun t => t.touch s.focus (d0 % 2 ^ 48) .write) := by
  have quiet : s'.remotePending s.focus = false := (asksSame_ready q).pending.trans ((asksSame_ready q).committed.pending.symm.trans hw)
  obtain ⟨u', hp'⟩ := place_of_committed hp
  exact acts_of_ckpt q rfl rfl (rel_global q hm hg (ready_sameSpad q) h.of_committed (portOk_of_committed hd) quiet hb hp' hl hr)
    (rel_global q hm hg (ready_committed q) h hd hw hb hp hl hr) rfl (Nat.zero_le _)

end

/-! ## FENCE (R150, R226) -/

section
variable (q : Ready s (.fence f) s' len)
include q

theorem fence_passes (h : s.guardOn f = false ∨ f.scope = 0) : Acts s (.fence f) s' len {} := by
  have shows (s1 : State) : fxOf (.fence f) (s.aloneEnv s' s1 (.fence f) len) = nothing := by
    cases hg : s.guardOn f with
    | false => exact guarded_off q hg _
    | true => exact (guarded_on q hg _).trans (if_pos (h.resolve_left (by simp [hg])))
  exact acts_of_ckpt q rfl rfl (shows s') (shows _) rfl (Nat.zero_le _)

theorem fence_waits (hg : s.guardOn f = true) (hsc : f.scope ≠ 0) : Acts s (.fence f) s' len { waits := [.fence] } := by
  have shows (s1 : State) : fxOf (.fence f) (s.aloneEnv s' s1 (.fence f) len) = .ok { waits := [.fence] } := (guarded_on q hg _).trans (if_neg hsc)
  exact acts_of_ckpt q rfl rfl (shows s') (shows _) rfl (Nat.zero_le _)

end

end

/-- Settles O28: a mill strand traps before its guard is read; a tenant's ACQ and REL present their wait or write for the word of the object that the sync table
lists, the same before and after the commit of their region; FENCE presents its wait, or nothing. -/
theorem acquireReleaseFence : Obligations.AcquireReleaseFence := by
  intro s s' len f
  simp only [State.acting, base_ckpt (show ckptOp (.acq f) = true from rfl), base_ckpt (show ckptOp (.rel f) = true from rfl)]
  refine ⟨fun hm => ⟨fun a => traps rfl a (tenantOnly_mill hm _), fun a => traps rfl a (tenantOnly_mill hm _)⟩, fun hm hg => ⟨fun q => ⟨?_, ?_, ?_⟩, ?_, ?_⟩,
    fun q => ⟨fence_passes q, fence_waits q⟩⟩
  · exact acq_unlisted q hm hg
  · exact fun hn hb hc ho hp => acq_acts_spad q hm hg ⟨hn, rfl⟩ hb hc ho hp
  · exact fun pl u bs hn hb hp hl hr => acq_acts_global q hm hg ⟨hn, rfl⟩ hb hp hl hr
  · exact fun q hd hn hw => ⟨fun hb hc hp => rel_acts_spad q hm hg ⟨hn, rfl⟩ hd hw hb hc hp,
      fun pl u bs hb hp hl hr => rel_acts_global q hm hg ⟨hn, rfl⟩ hd hw hb hp hl hr⟩
  · exact fun t t' sid ea v sc l hf hw => release_writes hf hw sc

end Sys2Proof.Proofs
end
